-- ==== Sys2Proof/Word.lean ====
section
/-!
DEFINITION. The word types of the A960 and their plainest arithmetic.

Registers, record fields and addresses are bit vectors of the width the manual gives them (R3, R4); a memory
cell's key, a count of clk and an index are `Nat`.
-/

namespace Sys2Proof

/-- One byte of memory. -/
abbrev Byte := BitVec 8
/-- A 16-bit field. -/
abbrev W16 := BitVec 16
/-- A 32-bit field: FP32 codes, tags, counts of the statistics record. -/
abbrev W32 := BitVec 32
/-- A control-window register (R163, R370, R835) or an 8-byte field. -/
abbrev W64 := BitVec 64
/-- A firing record, a region entry, a scale slot entry, a route slot entry (R54, R296, R209, R759). -/
abbrev W128 := BitVec 128
/-- A tensor descriptor, a collective entry, an ATTEND item (R243, R772, R601). -/
abbrev W512 := BitVec 512

/-- `⌈a / b⌉`, with 0 for a zero divisor. -/
def ceilDiv (a b : Nat) : Nat := (a + b - 1) / b

/-- The bits `[hi:lo]` of a word, as a number (R3: bit 0 is the least significant). -/
def bits {w : Nat} (x : BitVec w) (hi lo : Nat) : Nat := (x.toNat >>> lo) % 2 ^ (hi + 1 - lo)

/-- Bit `i` of a word. -/
def bit {w : Nat} (x : BitVec w) (i : Nat) : Bool := x.getLsbD i

/-- The signed reading of the bits `[hi:lo]` of a word, two's complement. -/
def sbits {w : Nat} (x : BitVec w) (hi lo : Nat) : Int :=
  let v := bits x hi lo
  if v < 2 ^ (hi - lo) then (v : Int) else (v : Int) - (2 ^ (hi + 1 - lo) : Nat)

/-- The 64-bit register whose field at `lo` holds `v`. -/
def fld (v lo : Nat) : Nat := v <<< lo

/-- A Bool as the bit it is in a register. -/
def b2n (b : Bool) : Nat := if b then 1 else 0

end Sys2Proof
end

