-- ==== Sys2Proof/Config.lean ====
section
/-!
DEFINITION. What one implementation of the A960 fixes and the values that its manual leaves open.

Every constant below without a body is a FREE VALUE: nothing in Lean can evaluate it or prove a value of it, so a
statement about it holds whatever the hardware does. Each is applied to plain data: the operands it depends on, or
a counter that State holds.
-/

namespace Sys2Proof.Config

/-- R314, R342, R367, R903, R911: what a byte whose contents the manual calls undefined reads as. The first argument
numbers the event that left it undefined, the second is its address. -/
opaque freeByte : Nat → Nat → BitVec 8

/-- R599: the sum a tally cell holds after an attention section closes, until a TALLY CLEAR. The first argument is
the section close's number, the second the cell's index (core, array, row and column).
DESIGN CHOICE (log 96). -/
opaque freeTally : Nat → Nat → BitVec 160

/-- R599: the window top of such a cell. DESIGN CHOICE (log 96). -/
opaque freeTallyTop : Nat → Nat → BitVec 10

/-- R1030, R1058: the random values that the nonces take, by the number of draws so far.
DESIGN CHOICE (log 12, 139). -/
opaque freeNonce : Nat → BitVec 64

/-- R866 DEV_INFO, R1083: the serial number of the module. DESIGN CHOICE (log 139). -/
opaque moduleSerial : BitVec 64

/-- R1007: the P-384 public key (x, y) of Urormon firmware key KEY_INDEX, whose digest is fused at manufacture.
DESIGN CHOICE (log 139). -/
opaque firmwareKey : Nat → Nat × Nat

/-- R1034: the P-384 public key (x, y) of the Urormon debug key whose digest is fused.
DESIGN CHOICE (log 139). -/
opaque debugKey : Nat × Nat

/-- R1024 index 1: the SHA-384 digest of the boot ROM. DESIGN CHOICE (log 139). -/
opaque bootRomDigest : List (BitVec 8)

/-- The device secret in fuses, which only the boot ROM reads. DESIGN CHOICE (log 139). -/
opaque deviceSecret : Nat

/-- R1016: the private DevID key, derived from the device secret and nothing else: the same at every boot.
DESIGN CHOICE (log 139). -/
opaque devidKey : Nat → Nat

/-- R1016, R1018: the certificates that are kept in module flash, in the order of the chain: the Urormon root's, the Urormon
device certificate authority's, and the DevID certificate. DESIGN CHOICE (log 139). -/
opaque flashCerts : List (List (BitVec 8))

/-- R1017: the private aliasKey, derived from the DevID secret, the digest of the first-stage part, MIN_SVN and the debug
state; the manual does not give the derivation. DESIGN CHOICE (log 139). -/
opaque aliasKey : Nat → List (BitVec 8) → Nat → Nat → Nat

/-- R1017: the certificate that a key (the first argument) issues for the public half of another (the second); an X.509
certificate, whose bytes the manual does not give. DESIGN CHOICE (log 139). -/
opaque issueCert : Nat → Nat → List (BitVec 8)

/-- R1018: the bytes (r, s) of a signature that a private key makes of a message, whose random value is that of a draw.
DESIGN CHOICE (log 139). -/
opaque ecdsaSign : Nat → List (BitVec 8) → Nat → List (BitVec 8)

/-- R1020: the fields of SPDM's CAPABILITIES that the manual does not give: 0 the exponent of the responder's longest time, 1 the
longest transfer, 2 the longest message. DESIGN CHOICE (log 139). -/
opaque spdmSizes : Nat → Nat

/-- R1019: the 32 random bytes that a CHALLENGE_AUTH or MEASUREMENTS response carries, by the number of the request.
DESIGN CHOICE (log 139). -/
opaque spdmNonce : Nat → List (BitVec 8)

/-- R545: the packer compares magnitudes; the manual gives a NaN code no magnitude. The argument is the code; the
magnitude is one more, times 2^-1024. DEDUCED (log 81). -/
opaque nanMagnitude : Nat → Nat

/-- R333, R923: the 64-byte lines of one row of a channel, less one; the manual counts rows, copies them 64 bytes at a
time, and does not give their size. DESIGN CHOICE (log 103). -/
opaque hbmRowLines : Fin 65536

/-- The bytes of one row of a channel. -/
def hbmRowBytes : Nat := 64 * (hbmRowLines.val + 1)

/-- R948: PROGRESS of a running activity, in 1/1,024; the manual does not say how far one is at a given moment. The
arguments are the activity code and the herd tick. DESIGN CHOICE (log 125). -/
opaque freeProgress : Nat → Nat → BitVec 10

/-- R93, R866: the section index that PLAN_LOAD reports when a check of the header fails, which belongs to no section. The
argument is the reason code. DESIGN CHOICE (log 66). -/
opaque freeSection : Nat → BitVec 16

/-- R864, R859: the status of a result slot whose step or plan load is given up by an event to which the manual gives no
status. The argument numbers the event: 0 PLAN_UNLOAD with a step accepted and not begun, 1 an accepted step at the end
of the herd, 2 a plan load that a departure from the herd overtakes. DESIGN CHOICE (log 25). -/
opaque freeStatus : Nat → BitVec 8

/-- R912: how many herd ticks beyond H ahead the bellwether places a rerun. The argument is the herd tick of its decision.
DESIGN CHOICE (log 38). -/
opaque freeLead : Nat → Nat

/-- R990, R955: the KIND of the event-log entry that a thermal warning writes, for which the table of kinds has none. The
argument is 0 for a die or stack, 1 for the coolant inlet. DESIGN CHOICE (log 132). -/
opaque freeKind : Nat → BitVec 16

/-- R92: which of several failing checks a refused plan is reported under, as an index into the list of the failing checks
(reason code, section index); the manual orders only 0x0001 before the digest.
DESIGN CHOICE (log 66). -/
opaque freePick : List (Nat × Nat) → Nat

/-- R265: whether a line that two unordered writes share a byte of is left with the bytes of the first of them in the order of their
cores and firings. The first argument is each write's core, firing and herd time of issue, the second is the line.
DESIGN CHOICE (log 75). -/
opaque freeWinner : List Nat → Nat → Bool

/-- R791: the address of the module's own uplink. DESIGN CHOICE (log 120). -/
opaque uplinkMac : Nat → BitVec 48

/-- R791: the address of a peer's uplink, with the VLAN identifier above it, in frames that no cross-herd route slot names:
acknowledgements, and those of a herd stage. The arguments are the uplink, the peer's herd and its member.
DESIGN CHOICE (log 120). -/
opaque peerLink : Nat → Nat → Nat → BitVec 60

/-- R352: the clk for which a step waits, before its tick 0, until the companion has given up the lines that it caches in
step-owned regions; the manual does not say how long that takes. The arguments are the number of lines and the herd tick.
DESIGN CHOICE (log 170). -/
opaque freeRecall : Nat → Nat → Nat

/-- R111, R113: the clk by which the bellwether's PPS edges move the boundaries of a step's start, as another member of the herd
meets them through the beat, which does not carry that number. The argument is the herd tick.
DESIGN CHOICE (log 164). -/
opaque freeShift : Nat → Int

end Sys2Proof.Config
end

