-- ==== Sys2Proof/Machine/Num.lean ====
section
/-!
DEFINITION. Numbers: the element formats (R169 to R176), the one rounding rule (R197 to R205), conversion between
formats, and FP32 arithmetic as VEC and ATTEND do it (R36, R182, R201, R204, R623, R624).

A value is held exactly, as a sign, a magnitude and a power of two; rounding happens once, at the end.
-/

namespace Sys2Proof.Machine

/-- A value that a floating-point format can hold, or an exact intermediate. `fin neg m e` is (−1)^neg × m × 2^e. -/
inductive FVal where
  | nan
  | inf (neg : Bool)
  | fin (neg : Bool) (m : Nat) (e : Int)
  deriving DecidableEq, Repr

/-- The element formats (R169). -/
inductive Fmt where
  | int4 | uint4 | fp4 | fp6e3 | fp6e2 | e4m3 | e5m2 | int8 | uint8 | bf16 | fp16 | fp32 | int16 | cbf16
  deriving DecidableEq, Repr

/-- The five-bit format codes (R169); codes 0x0E to 0x1F are reserved (R170). -/
def Fmt.ofCode : Nat → Option Fmt
  | 0 => some .int4 | 1 => some .uint4 | 2 => some .fp4 | 3 => some .fp6e3 | 4 => some .fp6e2
  | 5 => some .e4m3 | 6 => some .e5m2 | 7 => some .int8 | 8 => some .uint8 | 9 => some .bf16
  | 10 => some .fp16 | 11 => some .fp32 | 12 => some .int16 | 13 => some .cbf16
  | _ => none

/-- Bits of storage of one element (R169). -/
def Fmt.bits : Fmt → Nat
  | .int4 | .uint4 | .fp4 => 4
  | .fp6e3 | .fp6e2 | .e4m3 | .e5m2 | .int8 | .uint8 => 8
  | .bf16 | .fp16 | .int16 => 16
  | .fp32 | .cbf16 => 32

/-- Whether the format takes a group scale (R169, R186). -/
def Fmt.scalable (f : Fmt) : Bool := f.bits ≤ 8

/-- Whether the format has a zero point, and so must be scaled (R169, R186). -/
def Fmt.zp : Fmt → Bool
  | .uint4 | .uint8 => true
  | _ => false

/-- Exponent bits, fraction bits, bias, and whether an all-ones exponent is infinity or NaN (R169, R174, R175). -/
def Fmt.float : Fmt → Option (Nat × Nat × Int × Bool)
  | .fp4 => some (2, 1, 1, false)
  | .fp6e3 => some (3, 2, 3, false)
  | .fp6e2 => some (2, 3, 1, false)
  | .e4m3 => some (4, 3, 7, false)
  | .e5m2 => some (5, 2, 15, true)
  | .bf16 | .cbf16 => some (8, 7, 127, true)
  | .fp16 => some (5, 10, 15, true)
  | .fp32 => some (8, 23, 127, true)
  | _ => none

/-- Least and largest code of an integer format (R169, R199). -/
def Fmt.range : Fmt → Int × Int
  | .int4 => (-8, 7)
  | .uint4 => (0, 15)
  | .int8 => (-128, 127)
  | .uint8 => (0, 255)
  | .int16 => (-32768, 32767)
  | _ => (0, 0)

/-- The value of an integer. -/
def FVal.ofInt (v : Int) : FVal := .fin (v < 0) v.natAbs 0

/-- Positive zero. -/
def FVal.zero : FVal := .fin false 0 0

/-- One. -/
def FVal.one : FVal := .fin false 1 0

/-- The value times 2^k. -/
def FVal.shift (k : Int) : FVal → FVal
  | .fin s m e => .fin s m (e + k)
  | v => v

/-- Whether the value is neither infinite nor NaN. -/
def FVal.finite : FVal → Bool
  | .fin _ _ _ => true
  | _ => false

/-- A floating-point code of `eb` exponent and `mb` fraction bits (R173 to R175).
DEDUCED (log 76). -/
def decodeFloat (eb mb : Nat) (bias : Int) (special : Bool) (c : Nat) : FVal :=
  let s := c / 2 ^ (eb + mb) % 2 = 1
  let e := c / 2 ^ mb % 2 ^ eb
  let m := c % 2 ^ mb
  if special ∧ e = 2 ^ eb - 1 then (if m = 0 then .inf s else .nan)
  else if e = 0 then .fin s m (1 - bias - mb)
  else .fin s (2 ^ mb + m) (e - bias - mb)

/-- The value of an element code. A CBF16 code gives its real part. DEDUCED (log 76). -/
def Fmt.decode (f : Fmt) (c : Nat) : FVal :=
  match f.float with
  | some (eb, mb, bias, special) => decodeFloat eb mb bias special (c % 2 ^ (1 + eb + mb))
  | none =>
    let c := c % 2 ^ f.bits
    if f.zp then .ofInt c
    else .ofInt (if c < 2 ^ (f.bits - 1) then (c : Int) else (c : Int) - (2 ^ f.bits : Nat))

/-! ### Rounding -/

/-- The bits of an element byte that are the element's: an FP6 element lies in bits [5:0], bits [7:6] are ignored and written
as zero (R172). -/
def Fmt.own (f : Fmt) (c : Nat) : Nat := if f = .fp6e3 ∨ f = .fp6e2 then c % 64 else c

/-- The zero point in its byte: a UINT4 one lies in bits [3:0], bits [7:4] are ignored and written as zero (R194). -/
def Fmt.ownZp (f : Fmt) (z : Nat) : Nat := if f = .uint4 then z % 16 else z

/-- ⌊log2 (num / den)⌋ of a positive fraction. -/
def flog (num den : Nat) : Int :=
  let l := (Nat.log2 num : Int) - Nat.log2 den
  if 0 ≤ l then (if den <<< l.toNat ≤ num then l else l - 1)
  else (if den ≤ num <<< (-l).toNat then l else l - 1)

/-- ⌊x + 1/2⌋ for x = num / den × 2^s: to nearest, a tie away from zero (R197). -/
def nearest (num den : Nat) (s : Int) : Nat :=
  let n := if 0 ≤ s then num <<< s.toNat else num
  let d := if 0 ≤ s then den else den <<< (-s).toNat
  (2 * n + d) / (2 * d)

/-- num / den × 2^e rounded once to `p` bits, with smallest step 2^emin and no largest value (R197, R199): the
significand and the exponent of its last bit. -/
def rnd (p : Nat) (emin : Int) (num den : Nat) (e : Int) : Nat × Int :=
  if num = 0 then (0, emin) else
  let q := max emin (flog num den + e - (p - 1 : Nat))
  (nearest num den (e - q), q)

/-- The code of ⌈num / den × 2^e⌋ in a floating-point format, without its sign and without an upper bound. -/
def floatCode (mb : Nat) (bias : Int) (num den : Nat) (e : Int) : Nat :=
  let emin := 1 - bias - mb
  let r := rnd (mb + 1) emin num den e
  (r.2 - emin).toNat * 2 ^ mb + r.1

/-- A converted element: its code, saturations and non-finite inputs counted. -/
structure Conv where
  code : Nat
  sat : Nat := 0
  nonfinite : Nat := 0
  deriving DecidableEq, Repr

/-- An integer as the code of an integer format, limited to its range (R199). -/
def limitInt (f : Fmt) (v : Int) : Conv :=
  let r := f.range
  let w : Int := max r.1 (min r.2 v)
  { code := (w % (2 ^ f.bits : Nat)).toNat, sat := b2n (w ≠ v) }

/-- A finite value as the nearest integer (R197). -/
def toInt (s : Bool) (m : Nat) (e : Int) : Int :=
  let n : Int := nearest m 1 e
  if s then -n else n

/-- Conversion into an element format without a scale (R197 to R205). A NaN becomes the positive quiet NaN whose fraction has
only its highest bit set, in every format that has one. DESIGN CHOICE (log 159). -/
def Fmt.conv (f : Fmt) (v : FVal) : Conv :=
  match f.float, v with
  | some (eb, mb, bias, special), .fin s m e =>
    let c := floatCode mb bias m 1 e
    let top := if special then (2 ^ eb - 1) * 2 ^ mb - 1 else 2 ^ (eb + mb) - 1
    if c = 0 then { code := 0 }
    else { code := b2n s * 2 ^ (eb + mb) + min c top, sat := b2n (top < c) }
  | some (eb, mb, _, special), .inf s =>
    if special then { code := b2n s * 2 ^ (eb + mb) + (2 ^ eb - 1) * 2 ^ mb }
    else { code := b2n s * 2 ^ (eb + mb) + (2 ^ (eb + mb) - 1), sat := 1 }
  | some (eb, mb, _, special), .nan =>
    if special then { code := (2 ^ eb - 1) * 2 ^ mb + 2 ^ (mb - 1) } else { code := 0, nonfinite := 1 }
  | none, .fin s m e => limitInt f (toInt s m e)
  | none, .inf s => { limitInt f (if s then f.range.1 else f.range.2) with sat := 1 }
  | none, .nan => { code := 0, nonfinite := 1 }

/-- The limit of a format: its largest finite magnitude, 7 and 127 for INT4 and INT8 (R228). -/
def Fmt.limit (f : Fmt) : FVal :=
  match f.float with
  | some (eb, mb, bias, special) =>
    decodeFloat eb mb bias special (if special then (2 ^ eb - 1) * 2 ^ mb - 1 else 2 ^ (eb + mb) - 1)
  | none => .ofInt f.range.2

/-! ### Scaled elements -/

/-- The value of a scaled element with scale byte `e` and zero point `z` (R183, R195). -/
def scaledValue (f : Fmt) (c e z : Nat) : FVal :=
  if f.zp then (FVal.ofInt ((c : Int) - z)).shift ((e : Int) - 127)
  else (f.decode c).shift ((e : Int) - 127)

/-- The code of a value in a scale channel with exponent `e` and zero point `z` (R206), also where all the channel's values are zero
(R235). DESIGN CHOICE (log 173). -/
def quantise (f : Fmt) (e z : Nat) (y : FVal) : Conv :=
  if f.zp then
    match y with
    | .nan => { code := z, nonfinite := 1 }
    | .inf s => { code := if s then 0 else f.range.2.toNat, sat := 1, nonfinite := 1 }
    | .fin s m x => limitInt f (toInt s m (x + 127 - e) + z)
  else f.conv (y.shift (127 - (e : Int)))

/-! ### Exact dyadic numbers -/

/-- An exact dyadic number: `n × 2^e`. -/
structure Dyad where
  n : Int
  e : Int
  deriving DecidableEq, Repr

/-- A finite value as a dyadic number; 0 for the others. -/
def FVal.dyad : FVal → Dyad
  | .fin s m e => ⟨if s then -(m : Int) else m, e⟩
  | _ => ⟨0, 0⟩

/-- A dyadic number as an integer multiple of 2^q, for q no larger than its exponent. -/
def Dyad.at (x : Dyad) (q : Int) : Int := x.n * (2 ^ (x.e - q).toNat : Nat)

/-- Exact sum. -/
def Dyad.add (x y : Dyad) : Dyad := let q := min x.e y.e; ⟨x.at q + y.at q, q⟩

/-- Exact difference. -/
def Dyad.sub (x y : Dyad) : Dyad := let q := min x.e y.e; ⟨x.at q - y.at q, q⟩

/-- Exact product. -/
def Dyad.mul (x y : Dyad) : Dyad := ⟨x.n * y.n, x.e + y.e⟩

/-- The value of a dyadic number; zero is positive. -/
def Dyad.val (x : Dyad) : FVal := .fin (x.n < 0) x.n.natAbs x.e

/-- A dyadic number rounded to an integer multiple of 2^q (R197). -/
def Dyad.roundAt (x : Dyad) (q : Int) : Int := toInt (x.n < 0) x.n.natAbs (x.e - q)

/-- Order of finite values and infinities; false when one is NaN. +0 and −0 are equal. -/
def flt : FVal → FVal → Bool
  | .nan, _ => false
  | _, .nan => false
  | .inf a, .inf b => a && !b
  | .inf a, .fin _ _ _ => a
  | .fin _ _ _, .inf b => !b
  | x, y => let q := min x.dyad.e y.dyad.e; decide (x.dyad.at q < y.dyad.at q)

/-- `x ≤ y`, false when one is NaN. -/
def fle (x y : FVal) : Bool :=
  match x, y with
  | .nan, _ => false
  | _, .nan => false
  | _, _ => !flt y x

/-! ### FP32 arithmetic -/

/-- num / den × 2^e rounded once to FP32; an overflow gives infinity (R201), a zero keeps the sign (R204). -/
def fp32Q (s : Bool) (num den : Nat) (e : Int) : FVal :=
  let r := rnd 24 (-149) num den e
  if 0x7F7FFFFF < (r.2 + 149).toNat * 2 ^ 23 + r.1 then .inf s else .fin s r.1 r.2

/-- An exact dyadic result rounded once to FP32, an exact zero taking the sign `z`. -/
def fp32Round (x : Dyad) (z : Bool) : FVal :=
  if x.n = 0 then .fin z 0 0 else fp32Q (x.n < 0) x.n.natAbs 1 x.e

/-- The sign of a value; false for NaN. DEDUCED (log 76). -/
def FVal.neg? : FVal → Bool
  | .nan => false
  | .inf s => s
  | .fin s _ _ => s

/-- Whether a value is a zero. -/
def FVal.isZero : FVal → Bool
  | .fin _ m _ => m = 0
  | _ => false

/-- Whether a value is NaN. -/
def FVal.isNan : FVal → Bool
  | .nan => true
  | _ => false

/-- NEG of R36. -/
def fneg : FVal → FVal
  | .nan => .nan
  | .inf s => .inf (!s)
  | .fin s m e => .fin (!s) m e

/-- ABS of R36. -/
def fabs : FVal → FVal
  | .nan => .nan
  | .inf _ => .inf false
  | .fin _ m e => .fin false m e

/-- Addition, one rounding; an exact zero sum is −0 only when both operands are (R204). -/
def fadd : FVal → FVal → FVal
  | .nan, _ => .nan
  | _, .nan => .nan
  | .inf a, .inf b => if a = b then .inf a else .nan
  | .inf a, .fin _ _ _ => .inf a
  | .fin _ _ _, .inf b => .inf b
  | x, y => fp32Round (x.dyad.add y.dyad) (x.isZero && y.isZero && x.neg? && y.neg?)

/-- Subtraction, one rounding. -/
def fsub (x y : FVal) : FVal := fadd x (fneg y)

/-- Multiplication, one rounding. -/
def fmul : FVal → FVal → FVal
  | .nan, _ => .nan
  | _, .nan => .nan
  | x, y =>
    let s := x.neg? != y.neg?
    if x.finite && y.finite then fp32Round (x.dyad.mul y.dyad) s
    else if x.isZero || y.isZero then .nan else .inf s

/-- x × y + z with one rounding. -/
def ffma : FVal → FVal → FVal → FVal
  | .nan, _, _ => .nan
  | _, .nan, _ => .nan
  | _, _, .nan => .nan
  | x, y, z =>
    let s := x.neg? != y.neg?
    if x.finite && y.finite then
      if z.finite then
        let p := x.dyad.mul y.dyad
        fp32Round (p.add z.dyad) (decide (p.n = 0) && z.isZero && s && z.neg?)
      else z
    else if x.isZero || y.isZero then .nan
    else match z with
      | .inf t => if s = t then .inf s else .nan
      | _ => .inf s

/-- An infinity held at the largest finite FP32 magnitude, with its sign (R199, R200). -/
def FVal.held : FVal → FVal
  | .inf s => let m := Fmt.limit .fp32; if s then fneg m else m
  | x => x

/-- A sum of finite values that saturates (R199, R200); with an infinite operand it is that of `fadd`. -/
def saddF (x y : FVal) : FVal := if x.finite && y.finite then (fadd x y).held else fadd x y

/-- A product that saturates (R199, R200). -/
def smulF (x y : FVal) : FVal := (fmul x y).held

/-- Division, one rounding. -/
def fdiv : FVal → FVal → FVal
  | .nan, _ => .nan
  | _, .nan => .nan
  | .inf _, .inf _ => .nan
  | .inf a, .fin b _ _ => .inf (a != b)
  | .fin a _ _, .inf b => .fin (a != b) 0 0
  | .fin a m e, .fin b n f =>
    if n = 0 then (if m = 0 then .nan else .inf (a != b))
    else if m = 0 then .fin (a != b) 0 0
    else fp32Q (a != b) m n (e - f)

/-- ⌊√n⌋, by the bits of the root from the highest of `k` down. -/
def isqrtGo (n : Nat) : Nat → Nat → Nat
  | 0, r => r
  | k + 1, r => let t := r + 2 ^ k; isqrtGo n k (if t * t ≤ n then t else r)

/-- ⌊√n⌋. -/
def isqrt (n : Nat) : Nat := isqrtGo n (Nat.log2 n / 2 + 1) 0

/-- ⌊√(num / den) × 2^t⌋ with a last bit that is 1 where the root is not exact: enough to round once. -/
def rootBits (num den t : Nat) : Nat :=
  let n := num <<< (2 * t)
  let r := isqrt (n / den)
  2 * r + b2n (r * r * den ≠ n)

/-- Square root, one rounding. -/
def fsqrt : FVal → FVal
  | .nan => .nan
  | .inf s => if s then .nan else .inf false
  | .fin s m e =>
    if m = 0 then .fin s 0 0 else if s then .nan else
    -- an even exponent: m × 2^e = (m × 2^(e mod 2)) × 2^(2 × ⌊e / 2⌋)
    fp32Q false (rootBits (m <<< (e % 2).toNat) 1 64) 1 (e / 2 - 65)

/-- 1 / √x with one rounding (R36). -/
def frsqrt : FVal → FVal
  | .nan => .nan
  | .inf s => if s then .nan else .fin false 0 0
  | .fin s m e =>
    if m = 0 then .inf s else if s then .nan else
    fp32Q false (rootBits 1 (m <<< (e % 2).toNat) 128) 1 (-(e / 2) - 129)

/-- MAX of R36: +0 is larger than −0, a NaN operand gives NaN. -/
def fmax (x y : FVal) : FVal :=
  if x.isNan || y.isNan then .nan
  else if x.isZero && y.isZero then (if x.neg? then y else x)
  else if flt x y then y else x

/-- MIN of R36. -/
def fmin (x y : FVal) : FVal :=
  if x.isNan || y.isNan then .nan
  else if x.isZero && y.isZero then (if x.neg? then x else y)
  else if flt y x then y else x

/-- FLOOR of R36: the largest integer not above x. -/
def ffloor : FVal → FVal
  | .fin s m e =>
    if 0 ≤ e ∨ m = 0 then .fin s m e
    else
      let d := 2 ^ (-e).toNat
      if s then fp32Round ⟨-(((m + d - 1) / d : Nat) : Int), 0⟩ true
      else fp32Round ⟨((m / d : Nat) : Int), 0⟩ false
  | v => v

/-- Bits of fraction of the fixed-point numbers below. -/
def fxBits : Nat := 256

/-- ln 2 in units of 2^−fxBits: Σ 1 / (k × 2^k). -/
def ln2Fx : Nat := (List.range 264).foldl (fun s k => s + 2 ^ fxBits / ((k + 1) * 2 ^ (k + 1))) 0

/-- Σ y^k / k! for k from `k` on, in units of 2^−fxBits, `t` being the term before.
DEDUCED (log 77). -/
def expFx (y : Nat) : Nat → Nat → Nat → Nat
  | 0, _, _ => 0
  | n + 1, k, t => let u := t * y / 2 ^ fxBits / k; u + expFx y n (k + 1) u

/-- exp2(x), rounded once to FP32 (R623). The exact value is irrational unless x is an integer; 200 bits of it are
formed, so the rounding is that of the exact value. DEDUCED (log 77). -/
def fexp2 : FVal → FVal
  | .nan => .nan
  | .inf s => if s then .fin false 0 0 else .inf false
  | .fin s m e =>
    if m = 0 then .one
    else if fle (.fin false 256 0) (.fin false m e) then (if s then .fin false 0 0 else .inf false)
    else
      let x : Int := (if s then -1 else 1) * ((if 0 ≤ e + fxBits then m <<< (e + fxBits).toNat else 0 : Nat) : Int)
      let k := x / (2 ^ fxBits : Nat)
      let f := (x % (2 ^ fxBits : Nat)).toNat
      if f = 0 then fp32Q false 1 1 k
      else
        let y := f * ln2Fx / 2 ^ fxBits
        fp32Q false (2 * (2 ^ fxBits + expFx y 64 1 (2 ^ fxBits)) + 1) 1 (k - fxBits - 1)

/-- The bits of log2(z) for z in [1, 2), z in units of 2^−fxBits, by repeated squaring.
DEDUCED (log 77). -/
def logFx : Nat → Nat → Nat → Nat
  | 0, _, acc => acc
  | n + 1, z, acc =>
    let w := z * z / 2 ^ fxBits
    if 2 ^ (fxBits + 1) ≤ w then logFx n (w / 2) (2 * acc + 1) else logFx n w (2 * acc)

/-- log2(x), rounded once to FP32 (R623). The exact value is irrational unless x is a power of two; 160 bits of it
are formed. DEDUCED (log 77). -/
def flog2 : FVal → FVal
  | .nan => .nan
  | .inf s => if s then .nan else .inf false
  | .fin s m e =>
    if m = 0 then .inf true else if s then .nan else
    let l := Nat.log2 m
    let k := e + l
    if m = 2 ^ l then fp32Round ⟨k, 0⟩ false
    else
      let z := if l ≤ fxBits then m <<< (fxBits - l) else m >>> (l - fxBits)
      let f := logFx 160 z 0
      fp32Round ⟨2 * (k * (2 ^ 160 : Nat) + f) + 1, -161⟩ false

/-- The FP32 code of a value that is an FP32 number. -/
def FVal.code32 (v : FVal) : W32 :=
  match v with
  | .fin s m e => BitVec.ofNat 32 (b2n s * 2 ^ 31 + floatCode 23 127 m 1 e)
  | .inf s => BitVec.ofNat 32 (b2n s * 2 ^ 31 + 0x7F800000)
  | .nan => 0x7FC00000

/-- The value of an FP32 code. -/
def fp32 (c : W32) : FVal := Fmt.fp32.decode c.toNat

end Sys2Proof.Machine
end

