-- ==== Sys2Proof/Syntax.lean ====
section
/-!
DEFINITION. The commands of the A960 block: one constructor of `Instr` for each row of the table of operations and
events, with the row's operands.

An operand is one of three things: a parameter the sender chooses (a ring, a slot, an address, a value), the name of
the part the event happens to (a core and a firing index, a port, a channel), or what the environment shows the
device at that event (a clk, an error in memory, a temperature, a received block).
-/

namespace Sys2Proof

/-- What the decoder makes of an error of 6 or more bytes (R326): it detects it, it does not see it, or it miscorrects it. -/
inductive Miss where
  | detected | unseen | miscorrected
  deriving DecidableEq, Repr

/-- An error that an HBM line's cells show from this access on (R325, R326). -/
structure LineErr where
  /-- number of the 64-byte line: physical address / 64 -/
  line : Nat
  /-- how many of the 72 bytes of the codeword are wrong -/
  bytes : Nat
  miss : Miss := .detected
  deriving DecidableEq, Repr

/-- Bits of a 64-bit local store word that flip, by word number: the word's in [63:0], its parity bits over even and over odd
bits in [64] and [65] (R368). -/
structure WordErr where
  word : Nat
  flips : BitVec 66
  deriving DecidableEq, Repr

/-- What the environment shows a firing or an access: the moment it happens and the errors it meets.
DESIGN CHOICE (log 5). -/
structure Env where
  /-- offset of the event in the present tick, in clk -/
  clk : Nat := 0
  /-- HBM lines that show an error from now on -/
  lines : List LineErr := []
  /-- corrections that the stacks report from now on (R308) -/
  odc : Nat := 0
  /-- 64-bit local store words of the core whose bits flip (R368, R369) -/
  words : List WordErr := []
  /-- tally rows of the core (64 × array + row) whose residue is wrong from now on (R498) -/
  residues : List Nat := []
  /-- an uncorrectable SECDED word met in a core table (R899) -/
  table : Bool := false
  /-- corrected SECDED words met in the core's tables and in control memory (R898) -/
  tableCe : Nat := 0
  /-- clk that the event shows lost: on the link of a SEND to retransmission (R129); of another firing at issue, in the wait of
  its requests for a channel or a bank (R149, R318, R361) -/
  wait : Nat := 0
  /-- clk for which the flits of a SEND that issues wait: for a credit of another module's RECV ring (R79), or at an output,
  behind scheduled flits of other inputs (R767) -/
  held : Nat := 0
  /-- dead clk of the injection arbiter of the core before this grant (R770) -/
  dead : Nat := 0
  deriving DecidableEq, Repr

/-- The parameters of HERD_FORM (R866), which a join carries on to the other members (R889). -/
structure HerdParams where
  xM1 : Nat
  yM1 : Nat
  zM1 : Nat
  herd : Nat
  member : Nat
  bellwether : Nat
  clockSel : Nat
  stretchMax : Nat
  slackClk : Nat
  tickClk : Nat
  memX : Nat
  uplConfig : Nat
  deriving DecidableEq, Repr

/-- The kinds of a stop report (R909). -/
inductive ReportKind where
  | none
  | detection
  /-- an abandonment with its status code (R895) -/
  | abandonment (status : Nat)
  | hold
  deriving DecidableEq, Repr

/-- A stop report as the bellwether receives it (R909), with the herd time of its event. -/
structure StopReport where
  member : Nat
  kind : ReportKind
  /-- herd time of the event, in clk -/
  time : Nat
  /-- the WHICH and ADDR fields that go with an abandonment (R879, R918) -/
  which : Nat := 0
  addr : Nat := 0
  deriving DecidableEq, Repr

/-- A self-check mismatch: core, array, and a row or a column among the 66 of each (R440, R441). -/
structure Mismatch where
  core : Nat
  array : Nat
  column : Bool
  line : Nat
  deriving DecidableEq, Repr

/-- A flit as it arrives: its header (R746) and its 248 payload bytes. -/
structure Flit where
  hdr : W64
  payload : List Byte
  deriving DecidableEq, Repr

/-- A received uplink frame (R791), and whether its MACsec integrity check is valid under the installed key.
DESIGN CHOICE (log 120). -/
structure Frame where
  sci : Nat
  an : Nat
  pn : Nat
  etherType : Nat
  srcHerd : Nat
  dstHerd : Nat
  srcMember : Nat
  dstMember : Nat
  seq : Nat
  ack : Nat
  flits : List Flit
  icvOk : Bool
  deriving DecidableEq, Repr

/-- The sensors read once per tick (R988, R1001): °C, and the input's voltage, current and power (R999, R998).
DESIGN CHOICE (log 5, 137). -/
structure Sensors where
  compute : List Nat
  eastIo : Nat
  westIo : Nat
  inlet : Nat
  stackTemps : List Nat
  voltMv : Nat
  current : Nat
  watts : Nat
  deriving DecidableEq, Repr

/-- What a start-up run meets (R976 to R980, R1008 to R1010): flash slots and parts that fail verification, channels
that do not train, parts that fail step 7, the repair record, the link, the strap and the times it took. -/
structure BootObs where
  /-- (slot, part) pairs that fail verification: part 0 header, 1 first stage, 2 control-processor part, 3 Sheepdog -/
  badParts : List (Nat × Nat) := []
  /-- the repair record fails on both copies (R953) -/
  badRecord : Bool := false
  /-- global channel numbers left untrained (R977) -/
  untrained : List Nat := []
  /-- physical cores that fail step 7 (R980) -/
  badCores : List Nat := []
  /-- (logical core, bank) pairs that fail step 7 -/
  badBanks : List (Nat × Nat) := []
  linkUp : Bool := true
  slotId : Nat := 0
  fwMs : Nat := 0
  hbmMs : Nat := 0
  fabricMs : Nat := 0
  standbyMs : Nat := 0
  deriving DecidableEq, Repr

/-- The operands of a MAINT_START command, whose rows are the activities (R945). -/
structure MaintArgs where
  unit : Nat := 0
  sub : Nat := 0
  index : Nat := 0
  addr : Nat := 0
  bytes : Nat := 0
  deriving DecidableEq, Repr

/-- The commands and events of the A960, in the order of the table. DESIGN CHOICE (log 5). -/
inductive Instr where
  /- driver commands, taken from ring `ring` (R866) -/
  | devNop (ring : Nat)
  | devInfo (ring : Nat)
  | devReset (ring : Nat) (obs : BootObs)
  | herdForm (ring : Nat) (p : HerdParams)
  | herdLeave (ring : Nat)
  | planLoad (ring addr bytes space : Nat)
  | planUnload (ring : Nat)
  | stepRun (ring start : Nat)
  | stepHold (ring : Nat)
  | stepResume (ring tick : Nat)
  | scaleWrite (ring slot first count addr : Nat)
  | scaleRead (ring slot first count addr : Nat)
  | memCopy (ring src dst : Nat) (env : Env)
  | sparsePack (ring src dst ext : Nat) (env : Env)
  | readResult (ring slot addr : Nat)
  | releaseResult (ring slot : Nat)
  | seqOpen (ring slot evictEn budget sinkPages recentPages : Nat)
  | seqClose (ring slot : Nat)
  | seqTruncate (ring slot count : Nat)
  | seqInfo (ring slot layer : Nat)
  | batchSubmit (ring addr bytes : Nat)
  /- maintenance activities, started by MAINT_START (R938, R945) -/
  | hbmScrub (ring : Nat) (m : MaintArgs) (env : Env)
  | lsScrub (ring : Nat) (m : MaintArgs) (env : Env)
  | arrayCheck (ring : Nat) (m : MaintArgs) (found : List Mismatch)
  | rowRemap (ring : Nat) (m : MaintArgs) (env : Env)
  | channelRetire (ring : Nat) (m : MaintArgs)
  | spareBank (ring : Nat) (m : MaintArgs)
  | spareArrayLine (ring : Nat) (m : MaintArgs)
  | spareCore (ring : Nat) (m : MaintArgs)
  | spareLane (ring : Nat) (m : MaintArgs)
  | sparePort (ring : Nat) (m : MaintArgs)
  | fwStage (ring : Nat) (m : MaintArgs)
  | maintQuery (ring slot ordinal : Nat)
  | thresholdSet (ring part criterion t w rateExp : Nat)
  | spdmMessage (ring reqAddr reqBytes respAddr capacity : Nat)
  | ownerKeyInstall (ring addr : Nat)
  | ownerKeyRemove (ring addr : Nat)
  | ownerRequireSet (ring addr : Nat)
  | macsecKey (ring uplink dir an use ssci addr peerSci : Nat)
  | debugSeal (ring : Nat)
  | debugUnlock (ring addr : Nat) (obs : BootObs)
  | debugRelock (ring : Nat) (obs : BootObs)
  | fwActivate (ring slot raise reset : Nat) (obs : BootObs)
  | eventLogRead (ring first entries addr : Nat)
  | telemetryRead (ring addr : Nat)
  | traceConfig (ring addr bytes enable : Nat)
  /- the rings -/
  | packetTake (ring : Nat)
  | forwardedReply (ring status state : Nat) (result : List Byte)
  /- writes and reads of the control window -/
  | sqDoorbell (ring : Nat) (value : W64)
  | cqDoorbell (ring : Nat) (value : W64)
  | ringEnable (ring : Nat) (value : W64)
  | ringDisable (ring : Nat) (value : W64)
  | notifyClear (value : W64)
  | counterSelect (value : W64)
  | cadConfigWrite (value : W64)
  | memSplitWrite (value : W64)
  | uplConfigWrite (value : W64)
  | relConfigWrite (value : W64)
  | cadLagMaxRead
  | memUnschedWaitMaxRead
  | registerWrite (offset size : Nat) (value : W64)
  | hostRead (addr len : Nat) (busy : Bool) (env : Env)
  | hostWrite (addr : Nat) (data : List Byte) (busy : Bool) (env : Env)
  /- firings: logical core, index in its firing list -/
  | copyIn (core idx : Nat) (env : Env)
  | copyInT (core idx : Nat) (env : Env)
  | copyOut (core idx : Nat) (env : Env)
  | decode (core idx : Nat) (env : Env)
  | compact (core idx : Nat) (env : Env)
  | intersect (core idx : Nat) (env : Env)
  | laneMac (core idx : Nat) (env : Env)
  | pass (core idx : Nat) (env : Env)
  | matvec (core idx : Nat) (env : Env)
  | drain (core idx : Nat) (env : Env)
  | clear (core idx : Nat) (env : Env)
  | packOut (core idx : Nat) (env : Env)
  | forward (core idx : Nat) (env : Env)
  | backward (core idx : Nat) (env : Env)
  | map (core idx : Nat) (env : Env)
  | norm (core idx : Nat) (env : Env)
  | reduce (core idx : Nat) (env : Env)
  | optimise (core idx : Nat) (env : Env)
  | convert (core idx : Nat) (env : Env)
  | put (core idx : Nat) (env : Env)
  | collective (core idx : Nat) (env : Env)
  | take (core idx : Nat) (env : Env)
  | nop (core idx : Nat) (env : Env)
  | sectionOpen (core idx : Nat) (env : Env)
  | markMarker (core idx : Nat) (env : Env)
  | markStash (core idx : Nat) (env : Env)
  | markRelease (core idx : Nat) (env : Env)
  /- events of a running step -/
  | sectionClose (number clk : Nat)
  | elasticItemTake (core idx : Nat)
  | mergePieceSteal (core lane : Nat)
  | mergePieceRetire (core lane waitClk fullClk : Nat)
  | attendPageReady (core idx waitClk : Nat) (env : Env)
  | scoreboardStallRelease (core idx stallClk : Nat) (env : Env)
  | firingRetire (core idx : Nat) (env : Env)
  | stepStart
  | tickBoundary (energyNj : Nat)
  | stretchDecision (origin : Nat)
  | herdStop
  | stopDecision (reports : List StopReport)
  | rerunStart
  | herdResume
  | stepAbandon
  | commit
  | beatLoss
  | checkSlot (found : List Mismatch)
  | idleSelfCheck (found : List Mismatch)
  | refreshWindow (group window : Nat)
  | routeSetSwitch
  | appendPoint (entry : Nat)
  | deferredAppendServe
  | appendCopyDone (slot layer page : Nat)
  | spillDone (slot layer page : Nat)
  | fetchDone (slot layer page : Nat)
  | deferredEviction (slot : Nat)
  | tempSample (t : Sensors)
  | patrolScrub (channel : Nat) (env : Env)
  | rowRemapEffect (stack channel row : Nat)
  | maintActivityStart
  | maintActivityDone (ordinal : Nat)
  | unscheduledGrant (channel waitClk : Nat) (env : Env)
  /- power, reset, clocks and time -/
  | powerGood (obs : BootObs)
  | modResetN (obs : BootObs)
  | undervoltage
  | powerLoss
  | ppsEdge (second : Nat) (late : Int)
  | refclkLoss
  | cadenceLock (dmaxNs delayNs : Nat) (herdErr : Int)
  | herdFormTimeout
  | joinReceive (port : Nat) (p : HerdParams) (x y z : Nat)
  /- timing blocks (R750) -/
  | beatBlock (port : Nat) (block : W128)
  | holdBlock (port : Nat) (block : W128)
  | stretchBlock (port : Nat) (block : W128)
  | stopBlock (port : Nat) (block : W128)
  | resumeBlock (port : Nat) (block : W128)
  /- the fabric -/
  | flitReceive (port lane : Nat) (flit : Flit) (corrected symbols uncorrectable lostBeats : Nat)
  | peerAccessRequest (peer tag : Nat) (addr len op : Nat) (data : List Byte) (busy : Bool) (env : Env)
  | peerAccessResponse (tag status : Nat) (data : List Byte) (env : Env)
  | collectiveRingStep (entry stage ring shard : Nat) (upstream : List (List Byte)) (waitClk : Nat)
  | permuteChunkSend (entry chunk : Nat) (env : Env)
  | permuteChunkCopy (entry chunk : Nat) (env : Env)
  | laneFailure (port lane : Nat)
  | spareLaneTakeover (port : Nat)
  | linkTrained (port rawNs neighbour neighbourPort : Nat)
  | sidebandChange (port : Nat) (aliveN linkedN : Bool)
  | uplinkFrameReceive (uplink : Nat) (frame : Frame)
  | uplinkResendTimeout (uplink peer seq : Nat)
  | zwinusLaneFailure (lane : Nat)
  | zwinusLinkUp (lanes : Nat)
  /- Sheepdog and the board controller -/
  | requestUpdate
  | pldmUpdate (image : List Byte)
  | activateFirmware
  | sensorRead (sensor : Nat)
  /- completions of long commands, and the rest -/
  | planLoadVerified
  | memoryCommandDone (slot : Nat)
  | refclkReturn
  | ppsLoss
  | ptpMessageReceive (timeNs : Nat) (locked : Bool) (xherdErr : Int)
  | leaveReceive (port : Nat)
  | internalError (code : Nat)
  | uplinkLinkChange (uplink : Nat) (up : Bool)
  | priorityPauseFrame (uplink : Nat) (paused : Bool)
  deriving DecidableEq, Repr

end Sys2Proof
end

