-- ==== Sys2Proof/Machine/Types.lean ====
section
/-!
DEFINITION. The parts that State is made of: plain data, one structure for each block of registers, table, queue and
engine that the manual gives the A960.
-/

namespace Sys2Proof.Machine

/-- A sparse table: pairs of a key and a value, keys strictly rising, no value equal to what an absent key reads as. -/
abbrev SMap (α : Type) := List (Nat × α)

/-- A range of addresses whose unwritten bytes are undefined (R314, R341, R342, R903): they read as free values of
draw `draw`. -/
structure Hole where
  lo : Nat
  hi : Nat
  draw : Nat
  deriving DecidableEq, Repr

/-- A byte memory. An unlisted address inside a hole reads as that hole's free byte, the newest hole first; any other
unlisted address reads as zero (R976 step 4). -/
structure Memory where
  cells : List Host.Cell := []
  holes : List Hole := []
  deriving DecidableEq, Repr

/-! ### The plan (R81 to R97) -/

/-- The core-scoped sections of one logical core: firing records, stream entries and task entries (R83). -/
structure CorePlan where
  firings : List W128 := []
  streams : List W64 := []
  tasks : List W64 := []
  deriving DecidableEq, Repr

/-- An elastic section entry (R86) with the indices of its work lists. -/
structure ESection where
  number : Nat
  members : W128
  lists : List Nat
  deriving DecidableEq, Repr

/-- A work list (R87): KIND 1 MERGE items (in the low 256 bits), KIND 2 ATTEND items. -/
structure WorkList where
  kind : Nat
  items : List W512
  deriving DecidableEq, Repr

/-- A route set (R758): its header fields, route slots (R759) and collective entries (R772). -/
structure RouteSet where
  valid : Bool := false
  bondClass : Byte := 0
  slots : List W128 := []
  colls : List W512 := []
  deriving DecidableEq, Repr

/-- A drain table (R499): its header word (R500) and channel entries (R501). -/
structure DrainTab where
  head : W64
  entries : List W64
  deriving DecidableEq, Repr

/-- The scale tables (R208, R209), with the section's initial bytes. -/
structure ScaleTab where
  statBase : W64
  slots : List W128
  init : List Byte
  deriving DecidableEq, Repr

/-- A Cumulus policy (R653) and its append entries (R677). -/
structure Policy where
  hdr : BitVec 2048
  appends : List (BitVec 256)
  deriving DecidableEq, Repr

/-- An armed plan: its header (R81) and its sections (R83). -/
structure Plan where
  header : List Byte
  cls : Nat
  clockSel : Nat
  tickClk : Nat
  herdSize : Nat
  moduleIndex : Nat
  stepTicks : Nat
  planId : W64
  digest : List Byte
  cores : SMap CorePlan
  sections : List ESection
  lists : List WorkList
  descs : List W512
  regions : List W128
  routes : List RouteSet
  scales : Option ScaleTab
  drains : List DrainTab
  policy : Option Policy
  commits : List W64
  switches : List W64
  caps : List W64
  vec : List (BitVec 1024)
  deriving DecidableEq, Repr

/-! ### A logical core -/

/-- The per-core counters of the counter window (R840). -/
inductive Ctr where
  | slip | sbStall | sbFull | elasticIdle | elasticOverrun
  | idleReplay | idleMaint | idleHost | idleSlip | idlePeer | idleCadence
  | fmtNonfinite | fmtBadScale
  | gridCheckMismatch | gridOutlierMismatch | gridRamp | sweepBytes
  | tallyInexact | tallyOver | tallyFold | tallyResidue
  | spPruned | spIndexErrors | mergeSteal | mergeQueueFull | mergeTallyWait | mergeProducts
  | attItems | attFed | attSkipped | attEmpty | attWait
  | fmtSat | fmtConvNonfinite
  deriving DecidableEq, Repr

/-- The four states of a stream slot. -/
inductive SlotPhase where
  | empty | filling | full | draining
  deriving DecidableEq, Repr

/-- A stream slot's state and the herd time from which it holds (R1089, R1090), row mask (R407), MERGE tags (R564) and the
place of its tile in the 128-element window of its outlier list (R422). Its bytes stand in local store.
DESIGN CHOICE (log 10). -/
structure SlotSt where
  phase : SlotPhase := .empty
  since : Nat := 0
  mask : W64 := 0
  part : Nat := 0
  first : Bool := false
  last : Bool := false
  deriving DecidableEq, Repr

/-- A tally cell (R463). `got` is the model's mark that a partial has reached the cell since it was cleared (R481).
DESIGN CHOICE (log 10). -/
structure Cell where
  t : BitVec 160 := 0
  top : BitVec 10 := 0
  hi : W32 := 0
  lo : W32 := 0
  seg : Byte := 0
  inexact : Bool := false
  ovf : Bool := false
  res : BitVec 3 := 0
  got : Bool := false
  deriving DecidableEq, Repr

/-- A tally row's valid bit (R412) and KPOS (R464). DESIGN CHOICE (log 10). -/
structure TRow where
  valid : Bool := false
  kpos : W32 := 0
  deriving DecidableEq, Repr

/-- The weights active in an array (R387): the slot's bytes, the weight descriptor and the settings of the pass. -/
structure WTile where
  bytes : List Byte
  desc : Nat
  outlier : Bool
  deriving DecidableEq, Repr

/-- A partial on its way to a tally cell: its exact value, its combined exponent (R467, R469), and whether forming it
discarded a nonzero value (R405, R471). -/
structure Partial where
  v : Dyad
  c : Int
  inexact : Bool := false
  deriving DecidableEq, Repr

/-- The partials of one group that reach the 64 cells of a tally row in one clk, over `n` logical elements; `counted` is
whether KPOS counts them (the side path's are already counted, R423). -/
structure RowPart where
  n : Nat
  counted : Bool := true
  cols : List Partial
  deriving DecidableEq, Repr

/-- What a GRID pass or a SWEEP delivers to one tally row, and the herd time at which it arrives: FIRST, whether the row
is masked (R409), and its group-partials, none for a gated row (R410). -/
structure Deliver where
  time : Nat
  array : Nat
  row : Nat
  first : Bool
  masked : Bool
  groups : List RowPart
  deriving DecidableEq, Repr

/-- A lane partial (R580): tally cell 4096 × array + 64 × row + column, value, element count and segment. -/
structure LanePart where
  key : Nat
  p : Partial
  n : Nat
  seg : Nat
  deriving DecidableEq, Repr

/-- A piece of lane work (R584). -/
structure Piece where
  num : Nat
  firing : Nat
  row : Nat
  seg : Nat
  noSteal : Bool
  parts : List LanePart
  products : Nat
  deriving DecidableEq, Repr

/-- Why a firing in progress waits (R60 to R63, R79, R80, R445, R616). -/
inductive Stall where
  | notFull | notEmpty | overlap | noEntry | peer | order | page | engine | link | credit
  deriving DecidableEq, Repr

/-- A tile that a firing has taken from its stream and still works on: the operand it belongs to, its row mask, its
bytes. -/
structure Held where
  id : Nat
  mask : W64
  bytes : List Byte
  deriving DecidableEq, Repr

/-- A tile's use of a stream slot by a firing in progress (R24, R509, R1089, R1090): the stream, whether the tile is written,
the herd time from which the slot is used, that from which it is full, or empty again, and the clk over which its bytes
move: from the start when it is read, up to the end when it is written. -/
structure TUse where
  stream : Nat
  write : Bool
  start : Nat
  fin : Nat
  moves : Nat := 0
  deriving DecidableEq, Repr

/-- A firing in progress on a core, from issue to retirement. -/
structure Prog where
  idx : Nat
  /-- herd time of issue, in clk -/
  issued : Nat
  /-- the clk by which it issued late -/
  late : Nat
  /-- tile steps done -/
  pos : Nat := 0
  stall : Option Stall := none
  /-- clk stalled on tiles since issue (R127), and the herd time from which the present stall counts -/
  stalled : Nat := 0
  /-- DEDUCED (log 32). -/
  stallFrom : Nat := 0
  /-- the first cause of the stall at the present tile step (R64) -/
  cause : Option Stall := none
  /-- tags of peer requests it waits on, and the reads of its present tile step that are complete -/
  tags : List Nat := []
  phase : Nat := 0
  /-- tiles taken and still in use -/
  held : List Held := []
  /-- what a GRID or SWEEP firing delivers to the tallies DEDUCED (log 7). -/
  rows : List Deliver := []
  /-- the work item taken, as (list, position) -/
  item : Option (Nat × Nat) := none
  /-- token count of the item's layer when it was taken (R613) -/
  tokens : Nat := 0
  /-- logical pages of the walk when the item was taken (R666, R688) -/
  walk : List Nat := []
  /-- the ATTEND item taken does nothing: its position held no sequence, or a stalled one (R672, R710) -/
  void : Bool := false
  /-- the logical page an ATTEND item waits for (R616) -/
  page : Nat := 0
  /-- the uses of stream slots to come, in the order of the firing's tiles, as far as their times are known at issue -/
  uses : List TUse := []
  /-- clk spent retransmitting on the link of a SEND (R129) -/
  resent : Nat := 0
  /-- herd time before which the firing does not retire (R24) -/
  ends : Nat := 0
  /-- all the work of the firing is done, since a herd time -/
  done : Bool := false
  doneAt : Nat := 0
  deriving DecidableEq, Repr

/-- A scoreboard entry (R59 to R63): the range of local store that a tile's access holds, from a herd time until another, or
until it is released. -/
structure SbEntry where
  firing : Nat
  write : Bool
  lo : Nat
  hi : Nat
  stream : Nat
  slot : Nat
  start : Nat := 0
  stop : Option Nat := none
  /-- the clk over which the tile's bytes move (R361), and whether the firing is timed -/
  moves : Nat := 0
  timed : Bool := true
  deriving DecidableEq, Repr

/-- A spare bank, row or column: the part it replaces, and whether it is in use (R375, R460). -/
structure SpareUse where
  part : BitVec 6 := 0
  used : Bool := false
  /-- the pad register of a spare bank, in clk (R365) DESIGN CHOICE (log 10). -/
  pad : BitVec 3 := 0
  deriving DecidableEq, Repr

/-- The spares of one array (R460). -/
structure ArraySpares where
  row0 : SpareUse := {}
  row1 : SpareUse := {}
  col0 : SpareUse := {}
  col1 : SpareUse := {}
  deriving DecidableEq, Repr

/-- What belongs to a physical core and stays with it when the logical cores are laid out afresh (R434, R460, R366, R932): its
spares, and the words of its local store whose parity fails. -/
structure CoreHw where
  bank0 : SpareUse := {}
  bank1 : SpareUse := {}
  spares : SMap ArraySpares := []
  lsBad : SMap (BitVec 2) := []
  deriving DecidableEq, Repr

/-- A logical core (R20): counters, spares, local store, streams, scoreboard, tallies, weights and MERGE queues. -/
structure Core where
  counts : SMap W64 := []
  parityCount : W32 := 0
  bank0 : SpareUse := {}
  bank1 : SpareUse := {}
  spares : SMap ArraySpares := []
  taskBase : SMap W64 := []
  taskBound : SMap W64 := []
  /-- DESIGN CHOICE (log 9). -/
  ls : Memory := {}
  /-- by local store word, the parity bits, over even bits in [0] and over odd bits in [1], that differ from those of the word
  as stored (R368) -/
  lsBad : SMap (BitVec 2) := []
  prog : List Prog := []
  issued : List Nat := []
  retired : List Nat := []
  /-- herd time of each retirement (R54, R68) -/
  retiredAt : SMap Nat := []
  /-- herd time from which each station is free (R22, R24) -/
  free : SMap Nat := []
  slots : SMap SlotSt := []
  /-- tiles written into, and consumed from, each stream since the step began (R47) -/
  made : SMap Nat := []
  used : SMap Nat := []
  board : List SbEntry := []
  cells : SMap Cell := []
  rows : SMap TRow := []
  /-- the drain table each array was last loaded from, plus 256 × its position among the arrays named (R478, R502) -/
  tables : SMap Nat := []
  /-- herd time of the clk after the last row slot of the GRID firing before (R388), and by array of its last row -/
  gridNext : Nat := 0
  lastRow : SMap Nat := []
  /-- herd time at which each array's self-check ends (R150, R153) -/
  checkEnd : SMap Nat := []
  /-- an attention section holds the tallies (R599) -/
  attHold : Bool := false
  weights : SMap (Option WTile) := []
  /-- the 64 lane queues (R585), the piece each lane works on, and the pieces the dispatcher still holds -/
  queues : SMap (List Piece) := []
  lanes : SMap (Option Piece) := []
  dispatch : List Piece := []
  /-- herd time from which the core's idle clk are not yet counted -/
  idleFrom : Nat := 0
  /-- idle clk counted of late: the start of their span, their counter, and how many (R1093) -/
  idled : List (Nat × Nat × Nat) := []
  /-- idle clk held aside from a detection until the decision, by the cause of lower order (R1093) -/
  aside : SMap Nat := []
  deriving DecidableEq, Repr

/-! ### Device block, rings, results, notifications, event log -/

/-- The device states (R858). -/
inductive DevState where
  | off | boot | standby | joined | loaded | running | held | maint | fault
  deriving DecidableEq, Repr

/-- The causes of a transition (R836). -/
inductive Cause where
  | command | commit | herdStop | thermal | abandonment | beatLoss | maintenance | internal
  deriving DecidableEq, Repr

/-- A ring pair (R844); numbers from 64 on stand for the members that forward packets here (R884). `taken` is the packet taken and not yet replied to (R847).
DESIGN CHOICE (log 10). -/
structure Ring where
  sqBase : W64 := 0
  cqBase : W64 := 0
  log2 : BitVec 4 := 4
  enable : Bool := false
  tail : BitVec 12 := 0
  head : BitVec 12 := 0
  sqHead : BitVec 12 := 0
  cqTail : BitVec 12 := 0
  phase : Bool := true
  error : Bool := false
  /-- replies written and not yet read (R847) -/
  unread : Nat := 0
  taken : Option (List Byte) := none
  deriving DecidableEq, Repr

/-- States of a maintenance activity (R948). -/
inductive ActState where
  | waiting | running | pending
  deriving DecidableEq, Repr

/-- A maintenance activity accepted or waiting (R938 to R948). -/
structure Activity where
  code : Nat
  /-- started by a threshold (R941), not by a command -/
  auto : Bool
  slot : Option Nat
  args : MaintArgs
  state : ActState
  /-- FW_STAGE: the image verified -/
  good : Bool := true
  /-- ARRAY_CHECK: what it finds -/
  found : List Mismatch := []
  deriving DecidableEq, Repr

/-- A result slot that is taken (R871 to R878). -/
structure RSlot where
  ring : Nat
  opcode : W16
  tag : W32
  ready : Bool := false
  read : Bool := false
  status : Byte := 0
  body : List Byte := []
  /-- the maintenance activity whose record it holds (R948) -/
  maint : Option Activity := none
  deriving DecidableEq, Repr

/-- What the device sends out: over the Zwinus Link, the fabric, the uplinks and the I3C bus.
DESIGN CHOICE (log 148). -/
inductive Out where
  /-- an interrupt message (R839) -/
  | interrupt (addr : W64) (data : W32)
  /-- a packet forwarded to a flock member (R884) -/
  | forward (member : Nat) (packet : List Byte)
  /-- the reply sent back to the module that forwarded a packet (R886) -/
  | reply (member : Nat) (bytes : List Byte)
  /-- a flit on a port (R739, R754 to R756) -/
  | flit (port : Nat) (flit : Flit)
  /-- an unscheduled request (R749): tag, class, destination, address, length, operation, data -/
  | request (tag cls dest addr len op : Nat) (data : List Byte)
  /-- a response to an unscheduled request: tag, status, data -/
  | response (peer tag status : Nat) (data : List Byte)
  /-- a timing block (R750) on the beat ports or towards the bellwether -/
  | timing (port : Option Nat) (block : W128)
  /-- a retransmission request (R745) on a port -/
  | retransmit (port : Nat)
  /-- the join and the leave passed on (R889, R894) -/
  | join (p : HerdParams) (x y z : Nat)
  | leave
  /-- an uplink frame (R791): uplink, destination herd and member, SEQ, ACK, flits, and the bytes that come before the flits -/
  | frame (uplink herd member seq ack : Nat) (flits : List Flit) (head : List Byte)
  /-- a stop report (R909) -/
  | report (r : StopReport)
  /-- a PLDM PlatformEventMessage (R1051): sensor and value -/
  | pldmEvent (sensor value : Nat)
  /-- a PLDM response: completion code and value -/
  | pldmResponse (code value : Nat)
  deriving DecidableEq, Repr

/-- A PLAN_LOAD being verified (R92): its result slot and the image bytes read. -/
structure LoadJob where
  slot : Nat
  declared : Nat
  image : List Byte
  deriving DecidableEq, Repr

/-- A memory command whose paced copy is under way (R280, R551, R987): its slot, and what its record will hold. -/
structure MemJob where
  slot : Nat
  status : Byte
  body : List Byte
  deriving DecidableEq, Repr

/-- A write that waits for the Zwinus Link to return (R827): companion address and bytes. -/
structure Parked where
  addr : Nat
  data : List Byte
  /-- an interrupt message (R839) -/
  message : Bool := false
  deriving DecidableEq, Repr

/-- The device block (R835 to R839), the rings (R844), the result slots (R871), the event log (R954) and the link.
DESIGN CHOICE (log 10). -/
structure Dev where
  state : DevState := .boot
  prev : DevState := .off
  cause : Cause := .command
  held : Bool := false
  notify : BitVec 6 := 0
  notifyMask : BitVec 6 := 0
  intAddr : W64 := 0
  intData : W32 := 0
  noteBase : W64 := 0
  noteLog2 : BitVec 4 := 0
  noteEnable : Bool := false
  noteHead : BitVec 12 := 0
  noteTail : BitVec 12 := 0
  /-- DESIGN CHOICE (log 11). -/
  notePhase : Bool := true
  noteCount : Nat := 0
  noteLost : W64 := 0
  flockSelf : BitVec 6 := 0
  counterSelect : BitVec 7 := 0
  flockMap : SMap W64 := []
  rings : SMap Ring := []
  lastRing : Nat := 63
  results : SMap (Option RSlot) := []
  load : Option LoadJob := none
  /-- the result slot of a HERD_FORM whose join is under way (R892) -/
  forming : Option Nat := none
  jobs : List MemJob := []
  log : List W512 := []
  logNext : W32 := 0
  /-- the bytes that the last read over the link returned -/
  readData : List Byte := []
  /-- working lanes of the Zwinus Link, spares in use, and whether it is up (R824 to R827) -/
  zLanes : Nat := 16
  zSpares : Nat := 0
  linkUp : Bool := false
  parked : List Parked := []
  deriving DecidableEq, Repr

/-! ### Cadence -/

/-- The cadence block (R163 to R168) and the bellwether's alignment (R109 to R122).
DESIGN CHOICE (log 10); DEDUCED (log 146). -/
structure Cad where
  tickCount : W64 := 0
  offset : BitVec 17 := 0
  tickClk : BitVec 17 := 7200
  slackClk : BitVec 12 := 256
  stretchMax : BitVec 7 := 16
  lock : BitVec 2 := 0
  bellwether : Bool := false
  ppsOk : Bool := false
  ptpOk : Bool := false
  beatLost : Bool := false
  configReject : Bool := false
  stopPending : Bool := false
  holdLead : Byte := 0
  bellIndex : BitVec 10 := 0
  herdErr : W16 := 0
  beatDelay : W16 := 0
  dmax : W16 := 0
  xherdErr : W16 := 0
  stretchCount : W64 := 0
  stretchClk : W64 := 0
  holdCount : W64 := 0
  lagMax : W64 := 0
  /-- herd time since cadence lock in clk DEDUCED (log 21). -/
  time : Nat := 0
  /-- clk by which the tick boundaries stand off the grid of the anchor (R109, R110) -/
  drift : Int := 0
  /-- the second of the anchor (R110, R112), when there is one, and the clk by which the last edge since came after the instant
  expected of it (R111) -/
  anchor : Option Nat := none
  trim : Int := 0
  /-- IEEE 1588 time of day at herd time 0, in ns of the PTP timescale (R114) -/
  epochNs : Option Nat := none
  /-- the port the beat is taken from (R103) -/
  beatPort : Option Nat := none
  deriving DecidableEq, Repr

/-! ### HBM, companion memory and their counters -/

/-- A row remap (R331 to R336): the row, whether its copy is complete, and whether it is in effect. -/
structure Remap where
  stack : Nat
  channel : Nat
  row : Nat
  copied : Bool := false
  /-- a tick has begun since the copy was complete (R334) -/
  due : Bool := false
  /-- the lines that the copy wrote as zeros (R336) -/
  zeroed : List Nat := []
  inEffect : Bool := false
  deriving DecidableEq, Repr

/-- A line whose cells hold an error: corrected when read, or uncorrectable (R326). -/
structure BadLine where
  line : Nat
  lost : Bool
  deriving DecidableEq, Repr

/-- A stack's status (R373). -/
structure Stack where
  active : W32 := 0xFFFFFFFF
  pending : List (BitVec 5) := []
  temp : Byte := 0
  deriving DecidableEq, Repr

/-- An unscheduled access waiting at a channel (R345, R346). -/
structure UAcc where
  channel : Nat
  /-- 0 peer, 1 Cumulus, 2 host, 3 maintenance -/
  cls : Nat
  write : Bool
  addr : Nat
  len : Nat
  data : List Byte
  peer : Nat
  tag : Nat
  /-- lines of a host access that are refused (R350 to R353) -/
  barred : List Nat := []
  deriving DecidableEq, Repr

/-- An unscheduled request under way at a peer: who waits for it and where its data go (R749). -/
structure Req where
  tag : Nat
  peer : Nat
  addr : Nat
  len : Nat
  write : Bool
  core : Nat
  firing : Nat
  region : Nat
  deriving DecidableEq, Repr

/-- The memory block (R370 to R374), HBM, companion memory, what peers' HBM was last read as, errors and remaps. -/
structure MemSys where
  hbm : Memory := {}
  /-- DESIGN CHOICE (log 148). -/
  companion : Memory := {}
  /-- the companion memory of the modules that forward packets, reached through their links (R887)
  DESIGN CHOICE (log 148). -/
  companions : SMap Memory := []
  /-- DESIGN CHOICE (log 148). -/
  peers : SMap Memory := []
  /-- lines whose cells hold an error -/
  errs : List BadLine := []
  /-- the lost-line list (R921) -/
  lost : List Nat := []
  draws : Nat := 0
  splitX : BitVec 7 := 40
  trained : Bool := false
  configReject : Bool := false
  hbmStacks : SMap Stack := []
  remaps : List Remap := []
  ce : W64 := 0
  ue : W64 := 0
  odc : W64 := 0
  hostReads : W64 := 0
  hostWrites : W64 := 0
  waitMax : W64 := 0
  waiting : List UAcc := []
  /-- per channel, the classes from highest priority to lowest (R346) -/
  order : SMap (List Nat) := []
  /-- lines that the companion caches, and whether modified there (R352, R829) DEDUCED (log 106). -/
  cached : List (Nat × Bool) := []
  nextTag : Nat := 0
  reqs : List Req := []
  deriving DecidableEq, Repr

/-- The trace buffer (R1044 to R1046): its place, whether tracing is on, the next record, records held and lost.
DESIGN CHOICE (log 10). -/
structure Trace where
  base : W64 := 0
  bytes : W32 := 0
  on : Bool := false
  ptr : BitVec 30 := 0
  fill : Nat := 0
  lost : W64 := 0
  deriving DecidableEq, Repr

/-! ### The running step -/

/-- An accepted STEP_RUN: its result slot and START (R867, R118), and the herd tick of its acceptance. -/
structure StepReq where
  slot : Nat
  start : Nat
  since : Nat := 0
  deriving DecidableEq, Repr

/-- The step that runs or is held (R879). -/
structure StepSt where
  req : StepReq
  number : Nat
  /-- DEDUCED (log 28). -/
  startTick : Nat
  replays : Nat := 0
  sinceResume : Nat := 0
  /-- DEDUCED (log 28). -/
  stretchClk : Nat := 0
  deriving DecidableEq, Repr

/-- A detection (R908). -/
inductive DetKind where
  | parity | residue | selfCheck | coreTable | hbm
  deriving DecidableEq, Repr

structure Detection where
  core : Nat
  kind : DetKind
  deriving DecidableEq, Repr

/-- The event that a step's status reports (R53, R180, R303, R560): where and when it was met. -/
structure StepEvent where
  time : Nat
  core : Nat
  firing : Nat
  task : Nat := 0
  which : Nat := 0
  addr : Nat := 0
  row : Nat := 0
  deriving DecidableEq, Repr

/-- An elastic section of the step: the cores it has opened on, its lists' next untaken item and retired items. -/
structure SecRun where
  number : Nat
  opened : W128 := 0
  closed : Bool := false
  /-- declared end in plan time, as clk from the step's tick 0, from the last opening (R67, R98) -/
  due : Nat := 0
  /-- herd time of the close -/
  closedAt : Nat := 0
  /-- (list, next untaken item, items retired) -/
  lists : List (Nat × Nat × Nat) := []
  deriving DecidableEq, Repr

/-- A retired MASS_EN item (R687): its section, list position, item word and walk. -/
structure MassItem where
  number : Nat
  list : Nat
  pos : Nat
  item : W512
  slot : Nat
  walk : List Nat
  deriving DecidableEq, Repr

/-- A step's conversion statistics of one scale channel (R222 to R226, R235, R236). -/
structure ChanStat where
  amax : W32 := 0
  least : W32 := 0x7F800000
  most : W32 := 0xFF800000
  /-- the constant c while every value so far equals it -/
  const : Option Dyad := none
  any : Bool := false
  varies : Bool := false
  deriving DecidableEq, Repr

/-- A step's statistics of one scale slot (R226). -/
structure SlotStat where
  count : W64 := 0
  sqerr : BitVec 96 := 0
  sat : W32 := 0
  nonfinite : W32 := 0
  deriving DecidableEq, Repr

/-- A write of a station: its firing, from its issue until its last byte is visible, the memory (0 local HBM, 1 companion memory,
2 and more a peer's HBM) and the addresses from `lo` up to `hi` (R264); when these bytes are visible (R24), and what the lines that
they reach held before (R265). -/
structure Landed where
  core : Nat
  firing : Nat
  from_ : Nat
  until_ : Nat
  space : Nat := 0
  lo : Nat
  hi : Nat
  seen : Nat := 0
  base : List (Nat × List Byte) := []
  deriving DecidableEq, Repr

/-- The step machinery: what is accepted, queued, running or held, and what the step has met.
DESIGN CHOICE (log 10). -/
structure Run where
  accepted : Option StepReq := none
  /-- DEDUCED (log 23). -/
  queued : Option StepReq := none
  step : Option StepSt := none
  /-- a step abandoned here, whose record waits for the decision of R910 DEDUCED (log 40). -/
  ended : Option StepSt := none
  /-- steps begun since plan load, and steps committed since plan load (R41, R879)
  DEDUCED (log 27). -/
  begun : Nat := 0
  commits : Nat := 0
  tick : BitVec 24 := 0
  applied : Nat := 0
  decided : Nat := 0
  /-- the first origin whose stretch is not yet decided (R133, R134) -/
  nextDecision : Nat := 0
  /-- the present herd tick is the step tick `tick` -/
  counting : Bool := false
  /-- (target step tick, stretch clk) decided in this step -/
  stretches : List (Nat × Nat) := []
  /-- (origin, request) held at the bellwether -/
  holds : List (Nat × Nat) := []
  /-- a stop is to be raised at offset 0 of the next tick (R142) -/
  wantStop : Bool := false
  /-- herd tick of origin of the stop under way -/
  stopOrigin : Option Nat := none
  /-- herd tick named for resumption, and whether it restarts the step from tick 0 -/
  resumeAt : Option Nat := none
  rerun : Bool := false
  detections : List Detection := []
  /-- herd time of the first of them -/
  since : Nat := 0
  thermalStop : Bool := false
  /-- STEP_HOLD of this module raised the stop (R870) -/
  holdCmd : Bool := false
  /-- the herd has stopped and the decision of R910 is open -/
  stopped : Bool := false
  /-- queued steps discarded, whose result slots wait for the status of the step they followed (R864)
  DEDUCED (log 24). -/
  discarded : List StepReq := []
  indexErr : Option StepEvent := none
  formatErr : Option StepEvent := none
  /-- the first pruning STORE and the first inexact conversion of the step (R543, R511, R880) -/
  prunedEv : Option StepEvent := none
  inexactEv : Option StepEvent := none
  /-- status and location of the event that abandons the step, the first in herd time (R304, R880), and whether one other than a
  loss of committed data has come, which abandons at the next tick boundary (R302, R918) -/
  abandon : Option (Byte × StepEvent) := none
  faulted : Bool := false
  sections : List SecRun := []
  activeSet : BitVec 3 := 0
  /-- bias-correction factors of each VEC entry (R41) -/
  factors : SMap (W32 × W32) := []
  mass : List MassItem := []
  chanStats : SMap ChanStat := []
  slotStats : SMap SlotStat := []
  /-- route set in force at the issue of each SEND, RECV and COLLECTIVE in progress (R821): (core, firing, set) -/
  sets : List (Nat × Nat × Nat) := []
  /-- the stations' writes to local HBM that a write to come may not be ordered against (R264, R265) -/
  landed : List Landed := []
  deriving DecidableEq, Repr

/-! ### Scale registers -/

/-- The scale register file (R210): two banks of exponents and zero points, and which is active.
DESIGN CHOICE (log 10). -/
structure Scales where
  bank0 : SMap (Byte × Byte) := []
  bank1 : SMap (Byte × Byte) := []
  active1 : Bool := false
  deriving DecidableEq, Repr

/-! ### Cumulus -/

/-- What an append of the step changed, for R713 and R718: the first page count and each page taken or evicted. -/
inductive Journal where
  | tokens (slot layer tokens held : Nat)
  | took (slot layer page pool : Nat)
  /-- an indirect block taken, and the address of the pointer word that names it -/
  | block (slot layer block addr : Nat)
  /-- a held page evicted: its entry, and the other page of a move that was under way -/
  | evicted (slot layer page : Nat) (entry : W64) (other : Nat)
  deriving DecidableEq, Repr

/-- A stalled sequence (R709 to R714). -/
structure SeqStall where
  slot : Nat
  pos : Nat
  layer : Nat
  status : Byte
  deriving DecidableEq, Repr

/-- A page whose appended rows or whose copy is under way, or that waits for a pool page (R680, R685, R701, R704). -/
structure PageMove where
  slot : Nat
  layer : Nat
  page : Nat
  /-- pool page and tier page of the copy -/
  pool : Nat := 0
  tier : Nat := 0
  /-- appended rows on their way: offset within the page, bytes; and how many of them come from steps that have committed
  (R713, R718) -/
  rows : List (Nat × List Byte) := []
  older : Nat := 0
  /-- the append was taken in a step that has committed -/
  past : Bool := false
  /-- a page that the append extends is spilled, in tier page `tier`, and its fetch has not begun (R685) -/
  spilled : Bool := false
  /-- a spill whose page has stopped being a candidate (R702) -/
  keep : Bool := false
  deriving DecidableEq, Repr

/-- An eviction that waits for an item of its sequence to retire (R697). -/
structure LateEvict where
  slot : Nat
  layer : Nat
  page : Nat
  deriving DecidableEq, Repr

/-- Cumulus (R652 to R729): the firmware's lists and the block's registers. Slot records, layer roots, page tables and
indirect blocks stand in HBM. DESIGN CHOICE (log 10). -/
structure Cum where
  lastPolicy : Option (BitVec 2048) := none
  openSlots : List Nat := []
  pages : List Nat := []
  tiers : List Nat := []
  blocks : List Nat := []
  /-- pool and tier pages reserved until commit (R695) -/
  reserved : List Nat := []
  reservedTier : List Nat := []
  batch : List W64 := []
  next : Option (List W64) := none
  stalls : List SeqStall := []
  journal : List Journal := []
  /-- pages of deferred appends that wait for a pool page, in the order of their allocation (R680) -/
  deferred : List PageMove := []
  filling : List PageMove := []
  spilling : List PageMove := []
  fetching : List PageMove := []
  fetchQueue : List LateEvict := []
  lateEvict : List LateEvict := []
  /-- append entries treated in the present step -/
  treated : List Nat := []
  stepCount : W64 := 0
  appends : W64 := 0
  deferredCount : W64 := 0
  evictions : W64 := 0
  spills : W64 := 0
  fetches : W64 := 0
  demand : W64 := 0
  stallCount : W64 := 0
  /-- spilling goes on until HIGH_WM (R699) -/
  spillOn : Bool := false
  tierFull : Bool := false
  tierFullSeen : Bool := false
  deriving DecidableEq, Repr

/-! ### Mapping, reliability -/

/-- The mapping block (R818 to R820). -/
structure StageMap where
  unreleased : Bool := false
  underflow : Bool := false
  underflowStage : BitVec 4 := 0
  unreleasedMask : W16 := 0
  live : SMap (BitVec 56) := []
  peak : SMap (BitVec 56) := []
  /-- largest live value in the present step (R815) -/
  high : SMap (BitVec 56) := []
  deriving DecidableEq, Repr

/-- A threshold as THRESHOLD_SET left it (R923, R949). -/
structure Threshold where
  t : Nat
  w : Nat
  rate : Nat
  deriving DecidableEq, Repr

/-- The reliability block (R958 to R961), the sliding windows, the spares, the maintenance activities and the
repair record, whose contents are the lists below (R951). DESIGN CHOICE (log 10). -/
structure Rel where
  replayActive : Bool := false
  classPending : Bool := false
  lostListFull : Bool := false
  recordError : Bool := false
  replaysThisStep : BitVec 4 := 0
  replayLimit : BitVec 4 := 3
  autoSpare : Bool := true
  patrolHours : Byte := 24
  replayCount : W64 := 0
  dataLost : W64 := 0
  lasting : W64 := 0
  tableCe : W64 := 0
  eventLost : W64 := 0
  rowOverflow : W64 := 0
  /-- run-time clock in ms (R927) DEDUCED (log 127). -/
  runMs : Nat := 0
  /-- clk that are not yet a whole millisecond of it -/
  runClk : Nat := 0
  thresholds : SMap (Option Threshold) := []
  /-- (part key, times in ms of its events) -/
  windows : SMap (List Nat) := []
  /-- (lane key, times in ms with the symbols corrected then) -/
  laneRates : SMap (List (Nat × Nat)) := []
  /-- tracked rows of each stack, newest event first (R926) -/
  tracked : SMap (List Nat) := []
  acts : List Activity := []
  patrol : Nat := 0
  /-- logical core to physical core (R930), and physical cores out of service -/
  coreMap : SMap Nat := []
  badCores : List Nat := []
  /-- physical cores with a lasting fault that serve until a class change (R934) -/
  dying : List Nat := []
  cls : Nat := 128
  /-- by physical core that serves no logical core, what belongs to it (R932) -/
  parked : SMap CoreHw := []
  retired : List Nat := []
  laneSpares : List (Nat × Nat) := []
  portSpares : List (Nat × Nat) := []
  deriving DecidableEq, Repr

/-! ### Fabric -/

/-- States of a fabric port (R803). -/
inductive PortSt where
  | down | training | up | absent | tooLong | miswired | idleSpare
  deriving DecidableEq, Repr

/-- A fabric port (R803, R806, R1072 to R1077): status, lanes, counts and sideband.
DESIGN CHOICE (log 20). -/
structure Port where
  st : PortSt := .down
  cabled : Bool := false
  spareUsed : Bool := false
  spareFor : BitVec 2 := 0
  bond : BitVec 3 := 7
  bondIndex : BitVec 3 := 0
  neighbour : BitVec 10 := 0
  neighbourPort : BitVec 6 := 0
  rawNs : W16 := 0
  /-- active lanes that have failed, and the lane whose spare is in training -/
  failed : List Nat := []
  takeover : Option Nat := none
  /-- the spare lane itself has failed -/
  spareBad : Bool := false
  fecCorr : W64 := 0
  fecUncorr : W64 := 0
  linkedN : Bool := true
  /-- incoming sideband lines (R1074): both pulled high -/
  aliveIn : Bool := true
  linkedIn : Bool := true
  deriving DecidableEq, Repr

/-- A MACsec association (R1038 to R1041). -/
structure Assoc where
  sci : Nat
  an : Nat
  ssci : Nat
  key : List Byte
  nextPn : Nat := 1
  deriving DecidableEq, Repr

/-- A frame sent and not yet acknowledged (R793, R794). -/
structure TxFrame where
  herd : Nat
  member : Nat
  seq : Nat
  flits : List Flit
  /-- the address of the peer's uplink, the VLAN identifier above it -/
  link : Nat := 0
  sends : Nat := 1
  deriving DecidableEq, Repr

/-- An uplink (R805) with its keys and its frames by peer. -/
structure Uplink where
  linkUp : Bool := false
  paused : Bool := false
  discarded : W32 := 0
  tx : List Assoc := []
  txUse : Option Nat := none
  rx : List Assoc := []
  unacked : List TxFrame := []
  /-- by peer: next SEQ to send, next SEQ to deliver -/
  nextSeq : SMap Nat := []
  expect : SMap Nat := []
  /-- frames held for order -/
  early : List Frame := []
  deriving DecidableEq, Repr

/-- The fabric block (R800 to R806). DESIGN CHOICE (log 74). -/
structure Fab where
  trained : Bool := false
  joined : Bool := false
  xM1 : BitVec 4 := 0
  yM1 : BitVec 3 := 0
  zM1 : BitVec 3 := 0
  member : BitVec 10 := 0
  herd : Byte := 0
  etherType : W16 := 0x9C4A
  vlanEn : Bool := false
  pcp : BitVec 3 := 3
  pfcEn : Bool := true
  retrans : W64 := 0
  backoff : W64 := 0
  dead : W64 := 0
  /-- DEDUCED (log 117). -/
  eventLost : W64 := 0
  uplRetry : W64 := 0
  /-- the fabric's event FIFO (R799); no rule places an entry in it -/
  events : List Nat := []
  ports : SMap Port := []
  uplinks : SMap Uplink := []
  deriving DecidableEq, Repr

/-- What has arrived for a stream of a core (R748): bytes of data transfers not yet taken, and the units of collectives'
results, each a row mask and bytes. -/
structure RxStream where
  core : Nat
  stream : Nat
  bytes : List Byte := []
  tiles : List (W64 × List Byte) := []
  deriving DecidableEq, Repr

/-- The arbiter of unscheduled packets at an output (R768): the inputs that it has granted, the latest last, the input whose packet
holds the output, and the flits that wait, each with its input. -/
structure Arb where
  granted : List Nat := []
  holder : Option Nat := none
  waiting : List (Nat × Flit) := []
  deriving DecidableEq, Repr

/-- A collective in progress on this module (R772 to R789): the entry's set and index, the core and firing that
contribute, the units now held (row mask and bytes), and the parts treated, as (stage, ring, shard). For a permute: the
chunks sent and copied, the bytes of the chunk that arrives, and the chunk that fills the swap slot. -/
structure Coll where
  set : Nat
  entry : Nat
  core : Nat
  firing : Nat
  units : List (W64 × List Byte) := []
  parts : List (Nat × Nat × Nat) := []
  sent : Nat := 0
  copied : Nat := 0
  fill : Nat := 0
  arrived : Nat := 0
  swap : Option Nat := none
  deriving DecidableEq, Repr

/-- A flit that waits for a frame of an uplink (R791). -/
structure UpFlit where
  uplink : Nat
  herd : Nat
  member : Nat
  flit : Flit
  link : Nat := 0
  deriving DecidableEq, Repr

/-- The fabric's data in flight on this module, and FAB_COLL_MISMATCH. DESIGN CHOICE (log 10). -/
structure Net where
  rx : List RxStream := []
  arbs : SMap Arb := []
  colls : List Coll := []
  /-- collective flits that have arrived and are not yet taken into a ring step -/
  inbox : List Flit := []
  upq : List UpFlit := []
  mismatch : W64 := 0
  deriving DecidableEq, Repr

/-! ### Power, clock, pins; security -/

/-- The power and thermal block (R997 to R1003), the clock (R968) and the sideband pins (R1071 to R1081).
DESIGN CHOICE (log 10, 147). -/
structure Pwr where
  powerGood : Bool := true
  lastReset : BitVec 2 := 0
  /-- DESIGN CHOICE (log 35). -/
  lastTickW : BitVec 12 := 0
  voltMv : W16 := 0
  current : W16 := 0
  warn : Bool := false
  emergency : Bool := false
  emergencySeen : Bool := false
  inletHigh : Bool := false
  dies : W64 := 0
  bootTimes : W64 := 0
  capTicks : W64 := 0
  capHolds : W64 := 0
  emergencies : W64 := 0
  clockSel : Bool := false
  paused : Bool := false
  thermTripN : Bool := true
  aliveN : Bool := true
  slotId : BitVec 3 := 0
  deriving DecidableEq, Repr

/-- A firmware image in a slot (R1004): its version, security version and part digests. -/
structure FwImage where
  version : W32 := 0
  svn : BitVec 6 := 0
  digests : List (List Byte) := []
  deriving DecidableEq, Repr

/-- An owner public key (R1026): its KEY_ID and point. -/
structure OwnerKey where
  keyId : W64
  x : Nat
  y : Nat
  deriving DecidableEq, Repr

/-- The debug states (R1032). -/
inductive Debug where
  | locked | unlocked | sealed
  deriving DecidableEq, Repr

/-- The security block (R1056 to R1058), the flash slots (R1006), the fuses (R1007, R1037), the security record (R1026),
the SPDM connection (R1023) and a PLDM update under way (R1052). DESIGN CHOICE (log 12). -/
structure Sec where
  bootB : Bool := false
  activeB : Bool := false
  fallback : Bool := false
  slotA : Option FwImage := some {}
  slotB : Option FwImage := none
  debug : Debug := .locked
  /-- a valid unlock token waits for the reset it starts (R1035) -/
  unlockNext : Bool := false
  minSvn : BitVec 6 := 0
  /-- a raise that waits for a start from the slot (R1015): slot B?, SVN -/
  raise : Option (Bool × BitVec 6) := none
  ownerRequire : Bool := false
  keys : SMap (Option OwnerKey) := []
  ownerNonce : W64 := Config.freeNonce 0
  debugNonce : W64 := Config.freeNonce 1
  /-- random values drawn so far -/
  nonceDraws : Nat := 2
  authFails : W64 := 0
  spdmCount : Nat := 0
  /-- the messages of the SPDM connection since it began (R1023) -/
  spdmLog : List Byte := []
  /-- the private DevID key, until the boot ROM erases it (R1017) -/
  romKey : Option Nat := some (Config.devidKey Config.deviceSecret)
  /-- the aliasKey of this boot and its certificate (R1017); none before start-up step 2 -/
  aliasKey : Option Nat := none
  aliasCert : List Byte := []
  /-- the image that FW_STAGE has copied and verified (R1011) -/
  staged : Option FwImage := none
  /-- the board controller's update holds the inactive slot (R1052), and the slot it wrote -/
  pldmBusy : Bool := false
  pldmDone : Bool := false
  deriving DecidableEq, Repr

end Sys2Proof.Machine
end

