-- ==== Sys2Proof/Machine/Maps.lean ====
section
/-!
DEFINITION. Reading and writing sparse tables and byte memories, and the little-endian byte order of R4.
-/

namespace Sys2Proof.Machine

/-! ### Sparse tables -/

/-- The value of key `k`, where an absent key reads as `d`. -/
def mget {α : Type} (m : SMap α) (d : α) (k : Nat) : α := (m.lookup k).getD d

/-- The table with `v` at key `k`; the value an absent key reads as is not listed. -/
def mset {α : Type} [DecidableEq α] (m : SMap α) (d : α) (k : Nat) (v : α) : SMap α :=
  m.filter (fun p => p.1 < k) ++ (if v = d then [] else [(k, v)]) ++ m.filter (fun p => k < p.1)

/-- Change of the value of key `k`. -/
def mmod {α : Type} [DecidableEq α] (m : SMap α) (d : α) (k : Nat) (f : α → α) : SMap α :=
  mset m d k (f (mget m d k))

/-! ### Bytes -/

/-- The number that bytes spell, the first byte the least significant (R4). -/
def leNat : List Byte → Nat
  | [] => 0
  | b :: bs => b.toNat + 256 * leNat bs

/-- The `n` bytes of a number, least significant first (R4). -/
def toLE : Nat → Nat → List Byte
  | 0, _ => []
  | n + 1, v => BitVec.ofNat 8 v :: toLE n (v / 256)

/-- A number as `n` bytes, the most significant first (R4). -/
def toBE (n v : Nat) : List Byte := (toLE n v).reverse

/-- The number at byte `o`, `n` bytes long, of a record; bytes beyond its end read as zero. -/
def leAt (bs : List Byte) (o n : Nat) : Nat := leNat ((bs.drop o).take n)

/-- `n` zero bytes. -/
def zeros (n : Nat) : List Byte := List.replicate n 0

/-- Bytes cut or filled with zeros to length `n`. -/
def fit (n : Nat) (bs : List Byte) : List Byte := bs.take n ++ zeros (n - bs.length)

/-- Whether every byte is zero. -/
def allZero (bs : List Byte) : Bool := bs.all (· == 0)

/-- A list cut into pieces of `n`; `k` bounds the number of pieces. -/
def chunksOf {α : Type} (n : Nat) : Nat → List α → List (List α)
  | 0, _ => []
  | k + 1, l => if l.isEmpty then [] else l.take n :: chunksOf n k (l.drop n)

/-- A list with its element `i` replaced; beyond its end, unchanged. -/
def setAt {α : Type} : List α → Nat → α → List α
  | [], _, _ => []
  | _ :: l, 0, v => v :: l
  | x :: l, i + 1, v => x :: setAt l i v

/-! ### Byte memories -/

/-- The free byte of the newest hole that holds address `a`, else zero. -/
def holeByte : List Hole → Nat → Byte
  | [], _ => 0
  | h :: hs, a => if h.lo ≤ a ∧ a < h.hi then Config.freeByte h.draw a else holeByte hs a

/-- What an unlisted address reads as (R314, R976). DESIGN CHOICE (log 8, 9). -/
def Memory.unlisted (m : Memory) (a : Nat) : Byte := holeByte m.holes a

/-- The byte at address `a`. DESIGN CHOICE (log 8). -/
def Memory.read (m : Memory) (a : Nat) : Byte := (m.cells.lookup a).getD (m.unlisted a)

/-- The `n` bytes from address `a`. -/
def Memory.readN (m : Memory) (a : Nat) : Nat → List Byte
  | 0 => []
  | n + 1 => m.read a :: m.readN (a + 1) n

/-- The addresses from `a` on with their bytes. -/
def number (a : Nat) : List Byte → List Host.Cell
  | [] => []
  | b :: bs => (a, b) :: number (a + 1) bs

/-- Bytes stored from address `a` on. -/
def Memory.write (m : Memory) (a : Nat) (bs : List Byte) : Memory :=
  { m with cells := m.cells.filter (fun c => c.1 < a)
      ++ (number a bs).filter (fun c => c.2 ≠ m.unlisted c.1)
      ++ m.cells.filter (fun c => a + bs.length ≤ c.1) }

/-- The addresses from `lo` up to `hi` made undefined: free values of draw `draw`.
DEDUCED (log 104). -/
def Memory.undef (m : Memory) (lo hi draw : Nat) : Memory :=
  { cells := m.cells.filter (fun c => c.1 < lo) ++ m.cells.filter (fun c => hi ≤ c.1 ∧ lo ≤ c.1)
    holes := ⟨lo, hi, draw⟩ :: m.holes }

/-- The canonical form of a memory: addresses strictly rising, and no entry equal to what an unlisted address reads
as. -/
abbrev Memory.wf (m : Memory) : Prop :=
  m.cells.Pairwise (fun a b => a.1 < b.1) ∧ ∀ c ∈ m.cells, c.2 ≠ m.unlisted c.1

/-- The number at address `a`, `n` bytes long. -/
def Memory.num (m : Memory) (a n : Nat) : Nat := leNat (m.readN a n)

end Sys2Proof.Machine
end

