-- ==== Sys2Proof/WellFormed.lean ====
section
/-!
DEFINITION. Which commands are well formed: every operand fits the field of the packet, register or block that carries
it. A command that is not well formed cannot be sent; its meaning is total all the same.
-/

namespace Sys2Proof

/-- Every value lies below its bound. -/
def below (xs : List (Nat × Nat)) : Bool := xs.all (fun x => decide (x.1 < x.2))

/-- A ring number: 64 ring pairs, and one number for each member that may forward packets here (R844, R884). -/
def ringOk (r : Nat) : Bool := decide (r < 64 + 1024)

/-- A logical core and an index into its firing list (R20, R83). -/
def firingOk (core idx : Nat) : Bool := below [(core, 128), (idx, 2 ^ 32)]

/-- The moment of an event lies in its tick, whose OFFSET has 17 bits (R163); a line's codeword has 72 bytes (R325), a core 2^20
words of local store (R355) and 256 tally rows (R463). -/
def Env.wf (e : Env) : Bool :=
  decide (e.clk < 2 ^ 17) && e.lines.all (fun l => decide (l.bytes ≤ 72)) && e.words.all (fun w => decide (w.word < 2 ^ 20)) &&
  e.residues.all (fun r => decide (r < 256))

/-- Parameters of HERD_FORM within their bytes (R866). -/
def HerdParams.wf (p : HerdParams) : Bool :=
  below [(p.xM1, 2 ^ 8), (p.yM1, 2 ^ 8), (p.zM1, 2 ^ 8), (p.herd, 2 ^ 8), (p.member, 2 ^ 16), (p.bellwether, 2 ^ 16),
    (p.clockSel, 2 ^ 8), (p.stretchMax, 2 ^ 8), (p.slackClk, 2 ^ 16), (p.tickClk, 2 ^ 32), (p.memX, 2 ^ 8),
    (p.uplConfig, 2 ^ 32)]

/-- Parameters of MAINT_START within their bytes (R945). -/
def MaintArgs.wf (m : MaintArgs) : Bool :=
  below [(m.unit, 2 ^ 16), (m.sub, 2 ^ 16), (m.index, 2 ^ 32), (m.addr, 2 ^ 64), (m.bytes, 2 ^ 64)]

/-- A flit carries 248 payload bytes (R746). -/
def Flit.wf (f : Flit) : Bool := decide (f.payload.length = 248)

/-- A received frame (R791): at most 34 flits, the association number and the packet number within their fields. -/
def Frame.wf (f : Frame) : Bool :=
  below [(f.sci, 2 ^ 64), (f.an, 4), (f.pn, 2 ^ 64), (f.etherType, 2 ^ 16), (f.srcHerd, 2 ^ 8), (f.dstHerd, 2 ^ 8),
    (f.srcMember, 2 ^ 16), (f.dstMember, 2 ^ 16), (f.seq, 2 ^ 32), (f.ack, 2 ^ 32),
    (f.flits.length, 35)] && f.flits.all Flit.wf

/-- A mismatch lies on a core's array, on a row or a column among its 66 (R440, R441). -/
def Mismatch.wf (m : Mismatch) : Bool := below [(m.core, 128), (m.array, 4), (m.line, 66)]

/-- Whether a command is well formed. -/
def Instr.wf : Instr → Bool
  | .devNop r => ringOk r
  | .devInfo r => ringOk r
  | .devReset r _ => ringOk r
  | .herdForm r p => ringOk r && p.wf
  | .herdLeave r => ringOk r
  | .planLoad r a n sp => ringOk r && below [(a, 2 ^ 64), (n, 2 ^ 64), (sp, 2 ^ 8)]
  | .planUnload r => ringOk r
  | .stepRun r st => ringOk r && below [(st, 2 ^ 64)]
  | .stepHold r => ringOk r
  | .stepResume r t => ringOk r && below [(t, 2 ^ 64)]
  | .scaleWrite r sl f n a => ringOk r && below [(sl, 2 ^ 16), (f, 2 ^ 32), (n, 2 ^ 32), (a, 2 ^ 64)]
  | .scaleRead r sl f n a => ringOk r && below [(sl, 2 ^ 16), (f, 2 ^ 32), (n, 2 ^ 32), (a, 2 ^ 64)]
  | .memCopy r a b e => ringOk r && below [(a, 2 ^ 64), (b, 2 ^ 64)] && e.wf
  | .sparsePack r a b x e => ringOk r && below [(a, 2 ^ 64), (b, 2 ^ 64), (x, 2 ^ 64)] && e.wf
  | .readResult r k a => ringOk r && below [(k, 2 ^ 16), (a, 2 ^ 64)]
  | .releaseResult r k => ringOk r && below [(k, 2 ^ 16)]
  | .seqOpen r k e b s n => ringOk r && below [(k, 2 ^ 16), (e, 2 ^ 8), (b, 2 ^ 32), (s, 2 ^ 16), (n, 2 ^ 16)]
  | .seqClose r k => ringOk r && below [(k, 2 ^ 16)]
  | .seqTruncate r k m => ringOk r && below [(k, 2 ^ 16), (m, 2 ^ 32)]
  | .seqInfo r k l => ringOk r && below [(k, 2 ^ 16), (l, 2 ^ 8)]
  | .batchSubmit r a n => ringOk r && below [(a, 2 ^ 64), (n, 2 ^ 32)]
  | .hbmScrub r m e => ringOk r && m.wf && e.wf
  | .lsScrub r m e => ringOk r && m.wf && e.wf
  | .arrayCheck r m xs => ringOk r && m.wf && xs.all Mismatch.wf
  | .rowRemap r m e => ringOk r && m.wf && e.wf
  | .channelRetire r m => ringOk r && m.wf
  | .spareBank r m => ringOk r && m.wf
  | .spareArrayLine r m => ringOk r && m.wf
  | .spareCore r m => ringOk r && m.wf
  | .spareLane r m => ringOk r && m.wf
  | .sparePort r m => ringOk r && m.wf
  | .fwStage r m => ringOk r && m.wf
  | .maintQuery r k n => ringOk r && below [(k, 2 ^ 16), (n, 2 ^ 16)]
  | .thresholdSet r p c t w x => ringOk r && below [(p, 2 ^ 8), (c, 2 ^ 8), (t, 2 ^ 32), (w, 2 ^ 32), (x, 2 ^ 8)]
  | .spdmMessage r a n b c => ringOk r && below [(a, 2 ^ 64), (n, 2 ^ 32), (b, 2 ^ 64), (c, 2 ^ 32)]
  | .ownerKeyInstall r a => ringOk r && below [(a, 2 ^ 64)]
  | .ownerKeyRemove r a => ringOk r && below [(a, 2 ^ 64)]
  | .ownerRequireSet r a => ringOk r && below [(a, 2 ^ 64)]
  | .macsecKey r u d an us ss a sci => ringOk r &&
      below [(u, 2 ^ 8), (d, 2 ^ 8), (an, 2 ^ 8), (us, 2 ^ 8), (ss, 2 ^ 32), (a, 2 ^ 64), (sci, 2 ^ 64)]
  | .debugSeal r => ringOk r
  | .debugUnlock r a _ => ringOk r && below [(a, 2 ^ 64)]
  | .debugRelock r _ => ringOk r
  | .fwActivate r s x y _ => ringOk r && below [(s, 2 ^ 8), (x, 2 ^ 8), (y, 2 ^ 8)]
  | .eventLogRead r f n a => ringOk r && below [(f, 2 ^ 32), (n, 2 ^ 32), (a, 2 ^ 64)]
  | .telemetryRead r a => ringOk r && below [(a, 2 ^ 64)]
  | .traceConfig r a n e => ringOk r && below [(a, 2 ^ 64), (n, 2 ^ 32), (e, 2 ^ 8)]
  | .packetTake r => decide (r < 64)
  | .forwardedReply r st x res => below [(r, 64), (st, 2 ^ 8), (x, 2 ^ 8), (res.length, 25)]
  | .sqDoorbell r _ => decide (r < 64)
  | .cqDoorbell r _ => decide (r < 64)
  | .ringEnable r _ => decide (r < 64)
  | .ringDisable r _ => decide (r < 64)
  | .notifyClear _ => true
  | .counterSelect _ => true
  | .cadConfigWrite _ => true
  | .memSplitWrite _ => true
  | .uplConfigWrite _ => true
  | .relConfigWrite _ => true
  | .cadLagMaxRead => true
  | .memUnschedWaitMaxRead => true
  | .registerWrite o n _ => below [(o, 2 ^ 16), (n, 9)]
  | .hostRead a n _ e => below [(a, 2 ^ 64), (n, 2 ^ 16)] && e.wf
  | .hostWrite a d _ e => below [(a, 2 ^ 64), (d.length, 2 ^ 16)] && e.wf
  | .copyIn c i e => firingOk c i && e.wf
  | .copyInT c i e => firingOk c i && e.wf
  | .copyOut c i e => firingOk c i && e.wf
  | .decode c i e => firingOk c i && e.wf
  | .compact c i e => firingOk c i && e.wf
  | .intersect c i e => firingOk c i && e.wf
  | .laneMac c i e => firingOk c i && e.wf
  | .pass c i e => firingOk c i && e.wf
  | .matvec c i e => firingOk c i && e.wf
  | .drain c i e => firingOk c i && e.wf
  | .clear c i e => firingOk c i && e.wf
  | .packOut c i e => firingOk c i && e.wf
  | .forward c i e => firingOk c i && e.wf
  | .backward c i e => firingOk c i && e.wf
  | .map c i e => firingOk c i && e.wf
  | .norm c i e => firingOk c i && e.wf
  | .reduce c i e => firingOk c i && e.wf
  | .optimise c i e => firingOk c i && e.wf
  | .convert c i e => firingOk c i && e.wf
  | .put c i e => firingOk c i && e.wf
  | .collective c i e => firingOk c i && e.wf
  | .take c i e => firingOk c i && e.wf
  | .nop c i e => firingOk c i && e.wf
  | .sectionOpen c i e => firingOk c i && e.wf
  | .markMarker c i e => firingOk c i && e.wf
  | .markStash c i e => firingOk c i && e.wf
  | .markRelease c i e => firingOk c i && e.wf
  | .sectionClose n clk => below [(n, 2 ^ 16), (clk, 2 ^ 17)]
  | .elasticItemTake c i => firingOk c i
  | .mergePieceSteal c l => below [(c, 128), (l, 64)]
  | .mergePieceRetire c l _ _ => below [(c, 128), (l, 64)]
  | .attendPageReady c i _ e => firingOk c i && e.wf
  | .scoreboardStallRelease c i _ e => firingOk c i && e.wf
  | .firingRetire c i e => firingOk c i && e.wf
  | .stepStart => true
  | .tickBoundary _ => true
  | .stretchDecision _ => true
  | .herdStop => true
  | .stopDecision rs => rs.all (fun r => decide (r.member < 1024))
  | .rerunStart => true
  | .herdResume => true
  | .stepAbandon => true
  | .commit => true
  | .beatLoss => true
  | .checkSlot xs => xs.all Mismatch.wf
  | .idleSelfCheck xs => xs.all Mismatch.wf
  | .refreshWindow g w => below [(g, 4), (w, 2 ^ 32)]
  | .routeSetSwitch => true
  | .appendPoint _ => true
  | .deferredAppendServe => true
  | .appendCopyDone k l _ => below [(k, 2 ^ 16), (l, 2 ^ 8)]
  | .spillDone k l _ => below [(k, 2 ^ 16), (l, 2 ^ 8)]
  | .fetchDone k l _ => below [(k, 2 ^ 16), (l, 2 ^ 8)]
  | .deferredEviction k => below [(k, 2 ^ 16)]
  | .tempSample t => below [(t.compute.length, 5), (t.eastIo, 256), (t.westIo, 256), (t.stackTemps.length, 13)]
  | .patrolScrub ch e => below [(ch, 384)] && e.wf
  | .rowRemapEffect st ch _ => below [(st, 12), (ch, 32)]
  | .maintActivityStart => true
  | .maintActivityDone _ => true
  | .unscheduledGrant ch _ e => below [(ch, 384)] && e.wf
  | .powerGood _ => true
  | .modResetN _ => true
  | .undervoltage => true
  | .powerLoss => true
  | .ppsEdge _ _ => true
  | .refclkLoss => true
  | .cadenceLock _ _ _ => true
  | .herdFormTimeout => true
  | .joinReceive p h x y z => below [(p, 40), (x, 16), (y, 8), (z, 8)] && h.wf
  | .beatBlock p _ => decide (p < 40)
  | .holdBlock p _ => decide (p < 40)
  | .stretchBlock p _ => decide (p < 40)
  | .stopBlock p _ => decide (p < 40)
  | .resumeBlock p _ => decide (p < 40)
  | .flitReceive p l f _ _ _ _ => below [(p, 40), (l, 4)] && f.wf
  | .peerAccessRequest p _ a n op _ _ e => below [(p, 1024), (a, 2 ^ 64), (n, 2 ^ 16), (op, 2 ^ 8)] && e.wf
  | .peerAccessResponse _ st _ e => below [(st, 2 ^ 8)] && e.wf
  | .collectiveRingStep _ _ _ _ _ _ => true
  | .permuteChunkSend _ _ e => e.wf
  | .permuteChunkCopy _ _ e => e.wf
  | .laneFailure p l => below [(p, 40), (l, 5)]
  | .spareLaneTakeover p => decide (p < 40)
  | .linkTrained p raw n q => below [(p, 40), (raw, 2 ^ 16), (n, 1024), (q, 64)]
  | .sidebandChange p _ _ => decide (p < 40)
  | .uplinkFrameReceive u f => below [(u, 4)] && f.wf
  | .uplinkResendTimeout u _ _ => below [(u, 4)]
  | .zwinusLaneFailure l => decide (l < 18)
  | .zwinusLinkUp n => decide (n ≤ 18)
  | .requestUpdate => true
  | .pldmUpdate _ => true
  | .activateFirmware => true
  | .sensorRead n => decide (n < 2 ^ 16)
  | .planLoadVerified => true
  | .memoryCommandDone k => decide (k < 256)
  | .refclkReturn => true
  | .ppsLoss => true
  | .ptpMessageReceive _ _ _ => true
  | .leaveReceive p => decide (p < 40)
  | .internalError _ => true
  | .uplinkLinkChange u _ => below [(u, 4)]
  | .priorityPauseFrame u _ => below [(u, 4)]

end Sys2Proof
end

