-- ==== Sys2Proof/Decode.lean ====
section
/-!
DEFINITION. The command that a word spells, and the command that a command packet spells (R852, R854, R866 and the
parameter lists of R945, R948, R949, R1012, R1021, R1027, R1033, R1038 and R1044), with the packet of a command beside it.

The table of commands gives no row any bits, so no word spells one. A packet holds a driver command's parameters; what
the environment shows the device while the command runs stands beside the packet.
-/

namespace Sys2Proof

/-- The command that the word `w` of `nbits` bits spells by the table's bits: none, since no row has any.
DESIGN CHOICE (log 3). -/
def decodeTableWord (_nbits _w : Nat) : Option Instr := none

/-! ### Command packets -/

/-- What stands beside a packet: what the environment shows its command, and the OP byte of the owner key block in
companion memory (R1027). -/
structure Beside where
  env : Env := {}
  obs : BootObs := {}
  found : List Mismatch := []
  keyOp : Nat := 0
  deriving DecidableEq, Repr

/-- The 48 parameter bytes of a packet; those at or beyond PLEN are taken as zero (R852, R854). -/
def packetParams (pk : List Byte) : List Byte := Machine.fit 48 ((pk.drop 16).take (Machine.leAt pk 8 1))

/-- The parameters of HERD_FORM (R866). -/
def herdParams (ps : List Byte) : HerdParams :=
  let f := Machine.leAt ps
  { xM1 := f 0 1, yM1 := f 1 1, zM1 := f 2 1, herd := f 3 1, member := f 4 2, bellwether := f 6 2, clockSel := f 8 1
    stretchMax := f 9 1, slackClk := f 10 2, tickClk := f 12 4, memX := f 16 1, uplConfig := f 20 4 }

/-- The parameters of MAINT_START after ACTIVITY (R945). -/
def maintParams (ps : List Byte) : MaintArgs :=
  let f := Machine.leAt ps
  { unit := f 2 2, sub := f 4 2, index := f 8 4, addr := f 16 8, bytes := f 24 8 }

/-- The activity that ACTIVITY names (R938). -/
def decodeMaint (ring activity : Nat) (m : MaintArgs) (b : Beside) : Option Instr :=
  match activity with
  | 0x01 => some (.hbmScrub ring m b.env)
  | 0x02 => some (.lsScrub ring m b.env)
  | 0x03 => some (.arrayCheck ring m b.found)
  | 0x04 => some (.rowRemap ring m b.env)
  | 0x05 => some (.channelRetire ring m)
  | 0x06 => some (.spareBank ring m)
  | 0x07 => some (.spareArrayLine ring m)
  | 0x08 => some (.spareCore ring m)
  | 0x09 => some (.spareLane ring m)
  | 0x0A => some (.sparePort ring m)
  | 0x0B => some (.fwStage ring m)
  | _ => none

/-- The change that the OP of an owner key block names (R1027). -/
def decodeOwnerKey (ring addr op : Nat) : Option Instr :=
  match op with
  | 0 => some (.ownerKeyInstall ring addr)
  | 1 => some (.ownerKeyRemove ring addr)
  | 2 => some (.ownerRequireSet ring addr)
  | _ => none

/-- The operation that the OP of DEBUG_LOCK names (R1033). -/
def decodeDebugLock (ring op addr : Nat) (b : Beside) : Option Instr :=
  match op with
  | 0 => some (.debugSeal ring)
  | 1 => some (.debugUnlock ring addr b.obs)
  | 2 => some (.debugRelock ring b.obs)
  | _ => none

/-- The command that an opcode and its parameters spell; none for an opcode that R866 does not list. -/
def decodeParams (ring op : Nat) (ps : List Byte) (b : Beside) : Option Instr :=
  let f := Machine.leAt ps
  match op with
  | 0x0000 => some (.devNop ring)
  | 0x0001 => some (.devInfo ring)
  | 0x0002 => some (.devReset ring b.obs)
  | 0x0100 => some (.herdForm ring (herdParams ps))
  | 0x0101 => some (.herdLeave ring)
  | 0x0200 => some (.planLoad ring (f 0 8) (f 8 8) (f 16 1))
  | 0x0201 => some (.planUnload ring)
  | 0x0202 => some (.stepRun ring (f 0 8))
  | 0x0203 => some (.stepHold ring)
  | 0x0204 => some (.stepResume ring (f 0 8))
  | 0x0205 => some (.scaleWrite ring (f 0 2) (f 4 4) (f 8 4) (f 16 8))
  | 0x0206 => some (.scaleRead ring (f 0 2) (f 4 4) (f 8 4) (f 16 8))
  | 0x0300 => some (.memCopy ring (f 0 8) (f 8 8) b.env)
  | 0x0301 => some (.sparsePack ring (f 0 8) (f 8 8) (f 16 8) b.env)
  | 0x0302 => some (.readResult ring (f 0 2) (f 8 8))
  | 0x0303 => some (.releaseResult ring (f 0 2))
  | 0x0400 => some (.seqOpen ring (f 0 2) (f 2 1) (f 4 4) (f 8 2) (f 10 2))
  | 0x0401 => some (.seqClose ring (f 0 2))
  | 0x0402 => some (.seqTruncate ring (f 0 2) (f 4 4))
  | 0x0403 => some (.seqInfo ring (f 0 2) (f 2 1))
  | 0x0404 => some (.batchSubmit ring (f 0 8) (f 8 4))
  | 0x0500 => decodeMaint ring (f 0 1) (maintParams ps) b
  | 0x0501 => some (.maintQuery ring (f 0 2) (f 2 2))
  | 0x0502 => some (.thresholdSet ring (f 0 1) (f 1 1) (f 4 4) (f 8 4) (f 12 1))
  | 0x0600 => some (.spdmMessage ring (f 0 8) (f 8 4) (f 16 8) (f 24 4))
  | 0x0601 => decodeOwnerKey ring (f 0 8) b.keyOp
  | 0x0602 => some (.macsecKey ring (f 0 1) (f 1 1) (f 2 1) (f 3 1) (f 4 4) (f 8 8) (f 16 8))
  | 0x0603 => decodeDebugLock ring (f 0 1) (f 8 8) b
  | 0x0604 => some (.fwActivate ring (f 0 1) (f 1 1) (f 2 1) b.obs)
  | 0x0700 => some (.eventLogRead ring (f 0 4) (f 4 4) (f 8 8))
  | 0x0701 => some (.telemetryRead ring (f 0 8))
  | 0x0702 => some (.traceConfig ring (f 0 8) (f 8 4) (f 12 1))
  | _ => none

/-- The command that a packet of a ring spells (R852, R854). DESIGN CHOICE (log 4). -/
def decodePacket (ring : Nat) (pk : List Byte) (b : Beside) : Option Instr :=
  if 48 < Machine.leAt pk 8 1 then none else decodeParams ring (Machine.leAt pk 0 2) (packetParams pk) b

/-! ### The packet of a command -/

/-- A field of `n` bytes with its value. -/
def field (n v : Nat) : List Byte := Machine.toLE n v

/-- The parameters of HERD_FORM as bytes. -/
def herdBytes (p : HerdParams) : List Byte :=
  field 1 p.xM1 ++ field 1 p.yM1 ++ field 1 p.zM1 ++ field 1 p.herd ++ field 2 p.member ++ field 2 p.bellwether ++
  field 1 p.clockSel ++ field 1 p.stretchMax ++ field 2 p.slackClk ++ field 4 p.tickClk ++ field 4 p.memX ++
  field 4 p.uplConfig

/-- The parameters of MAINT_START as bytes. -/
def maintBytes (activity : Nat) (m : MaintArgs) : List Byte :=
  field 2 activity ++ field 2 m.unit ++ field 4 m.sub ++ field 8 m.index ++ field 8 m.addr ++ field 8 m.bytes

/-- The opcode and the parameter bytes of a driver command; none for any other command. -/
def Instr.params : Instr → Option (Nat × List Byte)
  | .devNop _ => some (0x0000, [])
  | .devInfo _ => some (0x0001, [])
  | .devReset _ _ => some (0x0002, [])
  | .herdForm _ p => some (0x0100, herdBytes p)
  | .herdLeave _ => some (0x0101, [])
  | .planLoad _ a n sp => some (0x0200, field 8 a ++ field 8 n ++ field 1 sp)
  | .planUnload _ => some (0x0201, [])
  | .stepRun _ st => some (0x0202, field 8 st)
  | .stepHold _ => some (0x0203, [])
  | .stepResume _ t => some (0x0204, field 8 t)
  | .scaleWrite _ k x n a => some (0x0205, field 4 k ++ field 4 x ++ field 8 n ++ field 8 a)
  | .scaleRead _ k x n a => some (0x0206, field 4 k ++ field 4 x ++ field 8 n ++ field 8 a)
  | .memCopy _ a d _ => some (0x0300, field 8 a ++ field 8 d)
  | .sparsePack _ a d x _ => some (0x0301, field 8 a ++ field 8 d ++ field 8 x)
  | .readResult _ k a => some (0x0302, field 8 k ++ field 8 a)
  | .releaseResult _ k => some (0x0303, field 2 k)
  | .seqOpen _ k e b x n => some (0x0400, field 2 k ++ field 2 e ++ field 4 b ++ field 2 x ++ field 2 n)
  | .seqClose _ k => some (0x0401, field 2 k)
  | .seqTruncate _ k m => some (0x0402, field 4 k ++ field 4 m)
  | .seqInfo _ k l => some (0x0403, field 2 k ++ field 1 l)
  | .batchSubmit _ a n => some (0x0404, field 8 a ++ field 4 n)
  | .hbmScrub _ m _ => some (0x0500, maintBytes 0x01 m)
  | .lsScrub _ m _ => some (0x0500, maintBytes 0x02 m)
  | .arrayCheck _ m _ => some (0x0500, maintBytes 0x03 m)
  | .rowRemap _ m _ => some (0x0500, maintBytes 0x04 m)
  | .channelRetire _ m => some (0x0500, maintBytes 0x05 m)
  | .spareBank _ m => some (0x0500, maintBytes 0x06 m)
  | .spareArrayLine _ m => some (0x0500, maintBytes 0x07 m)
  | .spareCore _ m => some (0x0500, maintBytes 0x08 m)
  | .spareLane _ m => some (0x0500, maintBytes 0x09 m)
  | .sparePort _ m => some (0x0500, maintBytes 0x0A m)
  | .fwStage _ m => some (0x0500, maintBytes 0x0B m)
  | .maintQuery _ k n => some (0x0501, field 2 k ++ field 2 n)
  | .thresholdSet _ p c t w x => some (0x0502, field 1 p ++ field 3 c ++ field 4 t ++ field 4 w ++ field 1 x)
  | .spdmMessage _ a n d c => some (0x0600, field 8 a ++ field 8 n ++ field 8 d ++ field 4 c)
  | .ownerKeyInstall _ a => some (0x0601, field 8 a)
  | .ownerKeyRemove _ a => some (0x0601, field 8 a)
  | .ownerRequireSet _ a => some (0x0601, field 8 a)
  | .macsecKey _ u d an us ss a sci => some (0x0602,
      field 1 u ++ field 1 d ++ field 1 an ++ field 1 us ++ field 4 ss ++ field 8 a ++ field 8 sci)
  | .debugSeal _ => some (0x0603, field 1 0)
  | .debugUnlock _ a _ => some (0x0603, field 8 1 ++ field 8 a)
  | .debugRelock _ _ => some (0x0603, field 1 2)
  | .fwActivate _ x y z _ => some (0x0604, field 1 x ++ field 1 y ++ field 1 z)
  | .eventLogRead _ x n a => some (0x0700, field 4 x ++ field 4 n ++ field 8 a)
  | .telemetryRead _ a => some (0x0701, field 8 a)
  | .traceConfig _ a n e => some (0x0702, field 8 a ++ field 4 n ++ field 1 e)
  | _ => none

/-- The 64 bytes of a packet (R852): FLAGS, TARGET and TAG are the driver's. -/
def packetBytes (op flags target tag : Nat) (ps : List Byte) : List Byte :=
  field 2 op ++ field 1 flags ++ field 1 target ++ field 4 tag ++ field 8 ps.length ++ Machine.fit 48 ps

/-- What stands beside the packet of a command. -/
def Instr.beside : Instr → Beside
  | .devReset _ o => { obs := o }
  | .memCopy _ _ _ e => { env := e }
  | .sparsePack _ _ _ _ e => { env := e }
  | .hbmScrub _ _ e => { env := e }
  | .lsScrub _ _ e => { env := e }
  | .arrayCheck _ _ xs => { found := xs }
  | .rowRemap _ _ e => { env := e }
  | .ownerKeyInstall _ _ => { keyOp := 0 }
  | .ownerKeyRemove _ _ => { keyOp := 1 }
  | .ownerRequireSet _ _ => { keyOp := 2 }
  | .debugUnlock _ _ o => { obs := o }
  | .debugRelock _ o => { obs := o }
  | .fwActivate _ _ _ _ o => { obs := o }
  | _ => {}

/-- The ring of a driver command. -/
def Instr.ring : Instr → Nat
  | .devNop r => r | .devInfo r => r | .devReset r _ => r | .herdForm r _ => r | .herdLeave r => r
  | .planLoad r _ _ _ => r | .planUnload r => r | .stepRun r _ => r | .stepHold r => r | .stepResume r _ => r
  | .scaleWrite r _ _ _ _ => r | .scaleRead r _ _ _ _ => r | .memCopy r _ _ _ => r | .sparsePack r _ _ _ _ => r
  | .readResult r _ _ => r | .releaseResult r _ => r | .seqOpen r _ _ _ _ _ => r | .seqClose r _ => r
  | .seqTruncate r _ _ => r | .seqInfo r _ _ => r | .batchSubmit r _ _ => r | .hbmScrub r _ _ => r
  | .lsScrub r _ _ => r | .arrayCheck r _ _ => r | .rowRemap r _ _ => r | .channelRetire r _ => r
  | .spareBank r _ => r | .spareArrayLine r _ => r | .spareCore r _ => r | .spareLane r _ => r | .sparePort r _ => r
  | .fwStage r _ => r | .maintQuery r _ _ => r | .thresholdSet r _ _ _ _ _ => r | .spdmMessage r _ _ _ _ => r
  | .ownerKeyInstall r _ => r | .ownerKeyRemove r _ => r | .ownerRequireSet r _ => r
  | .macsecKey r _ _ _ _ _ _ _ => r | .debugSeal r => r | .debugUnlock r _ _ => r | .debugRelock r _ => r
  | .fwActivate r _ _ _ _ => r | .eventLogRead r _ _ _ => r | .telemetryRead r _ => r | .traceConfig r _ _ _ => r
  | _ => 0

/-- The packet of a driver command; none for any other command. -/
def encodePacket (i : Instr) (flags target tag : Nat) : Option (List Byte) :=
  i.params.map (fun x => packetBytes x.1 flags target tag x.2)

end Sys2Proof
end

