-- ==== Sys2Proof/Machine/State.lean ====
section
/-!
DEFINITION. The state of the A960 block, the reasons a step may stop, and the state right after reset.
-/

namespace Sys2Proof.Machine

/-- Why the machine stops. -/
inductive Fault where
  /-- Raised by HOST_READ, HOST_WRITE and PEER_ACCESS_REQUEST for an address beyond the 960 GiB of HBM, which R306 and
  R828 say do not exist. Safe: the hardware has no such address, so nothing is claimed of it. -/
  | noSuchAddress (addr : Nat)
  deriving DecidableEq, Repr

/-- Why the machine gives a command no meaning. -/
inductive Refusal where
  /-- Raised by an arm of `exec` whose command has no meaning yet. Safe: nothing is claimed of it. -/
  | notModelled (mnemonic : String)
  deriving DecidableEq, Repr

/-- What commands and plan work touch: everything but the command queue, the fabric block, the power and thermal
block and the security block. -/
structure Work where
  dev : Dev := {}
  cad : Cad := {}
  mem : MemSys := {}
  cores : SMap Core := []
  plan : Option Plan := none
  run : Run := {}
  scales : Scales := {}
  cum : Cum := {}
  stages : StageMap := {}
  rel : Rel := {}
  net : Net := {}
  trace : Trace := {}
  out : List Out := []
  deriving DecidableEq, Repr

/-- The A960: the commands that wait, first in first out, and everything the manual gives the module. -/
structure State where
  pending : List Instr
  w : Work
  fab : Fab
  pwr : Pwr
  sec : Sec
  deriving DecidableEq, Repr

/-- The module right after power-good: BOOT, every register at the reset value of its layout (R974), memory with
nothing listed. Every default above is the reset value that the manual gives, or one that the assumption log names.
DESIGN CHOICE (log 8, 12, 13). -/
def State.reset : State := { pending := [], w := {}, fab := {}, pwr := {}, sec := {} }

end Sys2Proof.Machine
end

