-- ==== Sys2Proof/Machine/Ops.lean ====
section
/-!
DEFINITION. The operations that the meanings share: counters, the event log, notifications and interrupts, changes of
device state, result slots, replies, and accesses to companion memory.
-/

namespace Sys2Proof.Machine

/-! ### Status codes (R895) -/

/-- ST_OK. -/
def stOk : Nat := 0x00
/-- ST_OK_REPEAT. -/
def stOkRepeat : Nat := 0x01
/-- ST_OK_PRUNED. -/
def stOkPruned : Nat := 0x02
/-- ST_OK_INEXACT. -/
def stOkInexact : Nat := 0x03
/-- ST_NOT_READY. -/
def stNotReady : Nat := 0x10
/-- ST_BUSY. -/
def stBusy : Nat := 0x11
/-- ST_STATE_CONFLICT. -/
def stStateConflict : Nat := 0x12
/-- ST_MAINT_CONFLICT. -/
def stMaintConflict : Nat := 0x13
/-- ST_BAD_OPCODE. -/
def stBadOpcode : Nat := 0x20
/-- ST_BAD_PARAM. -/
def stBadParam : Nat := 0x21
/-- ST_BAD_DESCRIPTOR. -/
def stBadDescriptor : Nat := 0x22
/-- ST_INDEX_RANGE. -/
def stIndexRange : Nat := 0x23
/-- ST_FORMAT_VIOLATION. -/
def stFormatViolation : Nat := 0x24
/-- ST_NO_PAGE. -/
def stNoPage : Nat := 0x30
/-- ST_TIER_FULL. -/
def stTierFull : Nat := 0x31
/-- ST_XLATE_FAULT. -/
def stXlateFault : Nat := 0x40
/-- ST_REPLAYED. -/
def stReplayed : Nat := 0x41
/-- ST_DATA_LOST. -/
def stDataLost : Nat := 0x42
/-- ST_PEER_LOST. -/
def stPeerLost : Nat := 0x43
/-- ST_AUTH_FAIL. -/
def stAuthFail : Nat := 0x50
/-- ST_LOCKED. -/
def stLocked : Nat := 0x51
/-- ST_INTERNAL. -/
def stInternal : Nat := 0x7F

/-- The codes of the device states (R858). -/
def DevState.code : DevState → Nat
  | .off => 0 | .boot => 1 | .standby => 2 | .joined => 3 | .loaded => 4
  | .running => 5 | .held => 6 | .maint => 7 | .fault => 8

/-- The codes of the causes (R836). -/
def Cause.code : Cause → Nat
  | .command => 0 | .commit => 1 | .herdStop => 2 | .thermal => 3 | .abandonment => 4
  | .beatLoss => 5 | .maintenance => 6 | .internal => 7

/-- Fields, each a value and its width in bits, packed from bit 0 up. -/
def pack : List (Nat × Nat) → Nat
  | [] => 0
  | (v, n) :: fs => v % 2 ^ n + 2 ^ n * pack fs

/-! ### Cores and their counters -/

/-- The offset of a counter in the counter window (the table under R841). -/
def Ctr.off : Ctr → Nat
  | .slip => 0x000 | .sbStall => 0x008 | .sbFull => 0x010 | .elasticIdle => 0x018 | .elasticOverrun => 0x020
  | .idleReplay => 0x028 | .idleMaint => 0x030 | .idleHost => 0x038 | .idleSlip => 0x040 | .idlePeer => 0x048
  | .idleCadence => 0x050 | .fmtNonfinite => 0x058 | .fmtBadScale => 0x060
  | .gridCheckMismatch => 0x090 | .gridOutlierMismatch => 0x098 | .gridRamp => 0x0A0 | .sweepBytes => 0x0A8
  | .tallyInexact => 0x0B0 | .tallyOver => 0x0B8 | .tallyFold => 0x0C0 | .tallyResidue => 0x0C8
  | .spPruned => 0x0D0 | .spIndexErrors => 0x0D8 | .mergeSteal => 0x0E0 | .mergeQueueFull => 0x0E8
  | .mergeTallyWait => 0x0F0 | .mergeProducts => 0x0F8
  | .attItems => 0x100 | .attFed => 0x108 | .attSkipped => 0x110 | .attEmpty => 0x118 | .attWait => 0x120
  | .fmtSat => 0x128 | .fmtConvNonfinite => 0x130

/-- A counter of a core advanced by `n`. -/
def Core.count (c : Core) (k : Ctr) (n : Nat) : Core :=
  { c with counts := mmod c.counts 0 k.off (· + BitVec.ofNat 64 n) }

/-- A logical core. -/
def Work.core (w : Work) (c : Nat) : Core := mget w.cores {} c

/-- A logical core changed. -/
def Work.modCore (w : Work) (c : Nat) (f : Core → Core) : Work := { w with cores := mmod w.cores {} c f }

/-- A counter of logical core `c` advanced by `n`. -/
def Work.count (w : Work) (c : Nat) (k : Ctr) (n : Nat) : Work := w.modCore c (·.count k n)

/-! ### Time -/

/-- The tick period P in clk (R95). -/
def Work.period (w : Work) : Nat := w.cad.tickClk.toNat

/-- The stretch of the present tick: that decided for the step tick which it is (R139). -/
def Run.stretch (r : Run) : Nat :=
  if r.counting then ((r.stretches.filter (fun x => x.1 = r.tick.toNat)).map (·.2)).sum else 0

/-- The herd time in clk since cadence lock of an offset in the present tick, whose offsets run to P + s − 1 (R97).
DEDUCED (log 21). -/
def Work.now (w : Work) (clk : Nat) : Nat := w.cad.time + min clk (w.period + w.run.stretch - 1)

/-! ### The Zwinus Link, interrupts, notifications, the event log -/

/-- Bytes written into companion memory; while the link is down they wait (R827). -/
def Work.linkWrite (w : Work) (addr : Nat) (bs : List Byte) : Work :=
  if w.dev.linkUp then { w with mem.companion := w.mem.companion.write addr bs }
  else { w with dev.parked := w.dev.parked ++ [{ addr := addr, data := bs }] }

/-- The interrupt message (R839). DEDUCED (log 55). -/
def Work.interrupt (w : Work) : Work :=
  if w.dev.linkUp then { w with out := w.out ++ [.interrupt w.dev.intAddr w.dev.intData] }
  else { w with dev.parked := w.dev.parked ++
          [{ addr := w.dev.intAddr.toNat, data := toLE 4 w.dev.intData.toNat, message := true }] }

/-- A bit of NOTIFY set; where it rises and is enabled, the interrupt message is sent (R838, R839). -/
def Work.raise (w : Work) (b : Nat) : Work :=
  if w.dev.notify.getLsbD b then w
  else
    let w1 := { w with dev.notify := w.dev.notify ||| BitVec.ofNat 6 (2 ^ b) }
    if w.dev.notifyMask.getLsbD b then w1.interrupt else w1

/-- Entries of the notification ring. -/
def Dev.noteEntries (d : Dev) : Nat := 2 ^ d.noteLog2.toNat

/-- Room made in a full notification ring: the oldest unread entry is given up (R883). -/
def Work.noteRoom (w : Work) : Work :=
  if w.dev.noteCount < w.dev.noteEntries then w
  else ({ w with dev.noteHead := BitVec.ofNat 12 ((w.dev.noteHead.toNat + 1) % w.dev.noteEntries)
                 dev.noteCount := w.dev.noteCount - 1
                 dev.noteLost := w.dev.noteLost + 1 }).raise 4

/-- A notification entry (R881 to R883). -/
def Work.note (w : Work) (kind core data : Nat) : Work :=
  if w.dev.noteEnable then
    let w := w.noteRoom
    let d := w.dev
    let w := w.linkWrite (d.noteBase.toNat + 16 * d.noteTail.toNat)
      (toLE 16 (pack [(kind, 8), (b2n d.notePhase, 8), (core, 16), (data, 32), (w.cad.tickCount.toNat, 64)]))
    let t := (d.noteTail.toNat + 1) % d.noteEntries
    ({ w with dev.noteTail := BitVec.ofNat 12 t
              dev.notePhase := if t = 0 then !d.notePhase else d.notePhase
              dev.noteCount := d.noteCount + 1 }).raise 0
  else w

/-- The entry of an event (R954). -/
def Work.eventEntry (w : Work) (kind sev unit sub idx addr data : Nat) : W512 :=
  BitVec.ofNat 512 (pack [(w.dev.logNext.toNat, 32), (kind, 16), (sev, 8), (0, 8), (w.rel.runMs, 64),
    (w.cad.tickCount.toNat, 64), (unit, 16), (sub, 16), (idx, 32), (addr, 64), (data, 64)])

/-- An event logged (R954 to R956): the log keeps the last 4,096 entries and counts those it overwrites.
DEDUCED (log 117); DESIGN CHOICE (log 132). -/
def Work.event (w : Work) (kind sev unit sub idx addr data : Nat) : Work :=
  let e := w.eventEntry kind sev unit sub idx addr data
  let full := 4096 ≤ w.dev.log.length
  let w1 := { w with dev.log := (if full then w.dev.log.drop 1 else w.dev.log) ++ [e]
                     dev.logNext := w.dev.logNext + 1
                     rel.eventLost := if full then w.rel.eventLost + 1 else w.rel.eventLost }
  (w1.raise 3).note 4 0 w.dev.logNext.toNat

/-- A change of DEV_STATE.STATE (R836): the state before, the cause, NOTIFY.STATE, a notification of KIND 3, and the
PLDM event of sensor 20 (R1051). DESIGN CHOICE (log 41); DEDUCED (log 44). -/
def Work.setState (w : Work) (st : DevState) (cause : Cause) : Work :=
  if st = w.dev.state then w
  else
    let w1 := { w with dev.prev := w.dev.state, dev.state := st, dev.cause := cause
                       out := w.out ++ [Out.pldmEvent 20 st.code] }
    (w1.raise 2).note 3 0 (st.code + 256 * cause.code)

/-! ### Result slots -/

/-- The lowest free result slot (R871). -/
def Dev.freeSlot (d : Dev) : Option Nat := (List.range 256).find? (fun k => (mget d.results none k).isNone)

/-- The packet taken from a ring and not replied to. -/
def Dev.taken (d : Dev) (ring : Nat) : List Byte := ((mget d.rings {} ring).taken).getD []

/-- A result slot taken by a command of a ring (R871, R873). -/
def Work.takeSlot (w : Work) (slot ring opcode : Nat) : Work :=
  let r : RSlot :=
    { ring := ring, opcode := BitVec.ofNat 16 opcode, tag := BitVec.ofNat 32 (leAt (w.dev.taken ring) 4 4) }
  { w with dev.results := mset w.dev.results none slot (some r) }

/-- A result slot made ready with a status and a body (R873, R881). -/
def Work.finish (w : Work) (slot status : Nat) (body : List Byte) : Work :=
  match mget w.dev.results none slot with
  | none => w
  | some r =>
    let r1 := { r with ready := true, status := BitVec.ofNat 8 status, body := body }
    let w1 := { w with dev.results := mset w.dev.results none slot (some r1) }
    (w1.raise 1).note 1 0 slot

/-- SEC_AUTH_FAIL_COUNT counts completions with ST_AUTH_FAIL (R1058). -/
def Sec.countAuth (x : Sec) (status : Nat) : Sec :=
  if status = stAuthFail then { x with authFails := x.authFails + 1 } else x

/-- A result slot made ready, the count of authentication failures kept. -/
def State.finish (s : State) (slot status : Nat) (body : List Byte) : State :=
  { s with w := s.w.finish slot status body, sec := s.sec.countAuth status }

/-! ### Companion memory, as a command of a ring sees it (R855, R887) -/

/-- The companion memory that the parameters of a ring's command address. DEDUCED (log 59). -/
def MemSys.comp (m : MemSys) (ring : Nat) : Memory :=
  if ring < 64 then m.companion else mget m.companions {} (ring - 64)

/-- Bytes read from it. -/
def Work.compRead (w : Work) (ring addr n : Nat) : List Byte := (w.mem.comp ring).readN addr n

/-- Bytes written into it. DEDUCED (log 59). -/
def Work.compWrite (w : Work) (ring addr : Nat) (bs : List Byte) : Work :=
  if ring < 64 then w.linkWrite addr bs
  else { w with mem.companions := mmod w.mem.companions {} (ring - 64) (·.write addr bs) }

/-! ### Replies -/

/-- The 32 bytes of a reply (R853). -/
def replyBytes (packet : List Byte) (status state phase : Nat) (result : List Byte) : List Byte :=
  toLE 8 (pack [(leAt packet 4 4, 32), (status, 8), (state, 8), (leAt packet 3 1, 8), (phase, 8)]) ++ fit 24 result

/-- A ring whose next reply entry has been written (R851). -/
def Ring.advance (r : Ring) : Ring :=
  let t := (r.cqTail.toNat + 1) % 2 ^ r.log2.toNat
  { r with cqTail := BitVec.ofNat 12 t, phase := if t = 0 then !r.phase else r.phase, unread := r.unread + 1, taken := none }

/-- A reply of the command taken from a ring, written with a state code (R853); a forwarded packet's reply goes back to
the module that forwarded it (R886). DEDUCED (log 59). -/
def Work.replyAs (w : Work) (ring status state : Nat) (result : List Byte) : Work :=
  let r := mget w.dev.rings {} ring
  if ring < 64 then
    let w := w.linkWrite (r.cqBase.toNat + 32 * r.cqTail.toNat)
      (replyBytes (w.dev.taken ring) status state (b2n r.phase) result)
    { w with dev.rings := mset w.dev.rings {} ring r.advance }
  else
    let bs := replyBytes (w.dev.taken ring) status state 0 result
    { w with out := w.out ++ [Out.reply (ring - 64) bs]
             dev.rings := mset w.dev.rings {} ring { r with taken := none } }

/-- The reply of the command taken from a ring, with this module's state after it (R853).
DESIGN CHOICE (log 4). -/
def Work.reply (w : Work) (ring status : Nat) (result : List Byte) : Work :=
  w.replyAs ring status w.dev.state.code result

/-- A reply, the count of authentication failures kept. -/
def State.reply (s : State) (ring status : Nat) (result : List Byte) : State :=
  { s with w := s.w.reply ring status result, sec := s.sec.countAuth status }

/-- What a command does once accepted: the new state, its reply's status and result bytes. -/
structure Answer where
  s : State
  status : Nat
  result : List Byte := []

/-- A command refused: nothing changes (R860, R896). -/
def State.refuse (s : State) (status : Nat) : Answer := { s := s, status := status }

/-- A command of a ring: refused in a state that R861 does not allow it in, otherwise carried out; then its reply is
written. A module without power takes no command. DESIGN CHOICE (log 4); DEDUCED (log 57). -/
def State.command (s : State) (ring : Nat) (allowed : List DevState) (act : State → Answer) : State :=
  if s.w.dev.state = .off then s
  else if s.w.dev.state ∈ allowed then
    let a := act s
    a.s.reply ring a.status a.result
  else s.reply ring stStateConflict []

/-- A result-producing command: it takes the lowest free slot, whose number the reply gives, or is refused with
ST_BUSY (R871, R872). DEDUCED (log 57). -/
def State.withSlot (s : State) (ring opcode : Nat) (act : State → Nat → State) : Answer :=
  match s.w.dev.freeSlot with
  | none => s.refuse stBusy
  | some k =>
    { s := act { s with w := s.w.takeSlot k ring opcode } k, status := stOk, result := toLE 2 k }

/-- Every state but OFF, BOOT. -/
def started : List DevState := [.standby, .joined, .loaded, .running, .held, .maint, .fault]

/-- Every state but OFF. -/
def powered : List DevState := .boot :: started

/-- Member index, herd and shape as the fabric block holds them. -/
def State.isBellwether (s : State) : Bool := s.w.cad.bellwether

/-- Whether a step runs or is held (R349). -/
def Work.stepping (w : Work) : Bool := w.run.step.isSome

end Sys2Proof.Machine
end

