-- ==== Sys2Proof/Machine/Rel.lean ====
section
/-!
DEFINITION. Lasting faults (R923 to R928), detections (R899, R908, R916), and the event that abandons a step.
-/

namespace Sys2Proof.Machine

/-! ### Thresholds and sliding windows -/

/-- A default of R923: T, W in ms and, for the lane rate criterion, the exponent of the rate limit, by part code and
criterion. -/
def defaultThreshold (part crit : Nat) : Threshold :=
  match part, crit with
  | 0, _ => { t := 2, w := 72 * 3600000, rate := 0 }
  | 1, 0 => { t := 64, w := 24 * 3600000, rate := 0 }
  | 1, _ => { t := 2, w := 24 * 3600000, rate := 0 }
  | 2, _ => { t := 2, w := 3600000, rate := 0 }
  | 3, _ => { t := 2, w := 24 * 3600000, rate := 0 }
  | 4, _ => { t := 3, w := 3600000, rate := 0 }
  | 5, 0 => { t := 4, w := 1000, rate := 5 }
  | 7, 0 => { t := 4, w := 1000, rate := 5 }
  | 5, _ => { t := 1, w := 1000, rate := 5 }
  | 7, _ => { t := 1, w := 1000, rate := 5 }
  | _, _ => { t := 1, w := 0, rate := 0 }

/-- The threshold of a part and criterion in force (R949, R950). -/
def Rel.threshold (r : Rel) (part crit : Nat) : Threshold :=
  (mget r.thresholds none (2 * part + crit)).getD (defaultThreshold part crit)

/-- The key of a part's window. -/
def windowKey (part crit unit sub idx : Nat) : Nat :=
  (((part * 2 + crit) * 2 ^ 16 + unit % 2 ^ 16) * 2 ^ 16 + sub % 2 ^ 16) * 2 ^ 32 + idx % 2 ^ 32

/-- `n` events of a part counted in its window; true when T events fall within W, the present ones counted. The
window of a part found lasting starts empty again. DEDUCED (log 123). -/
def Rel.countEvent (r : Rel) (part crit unit sub idx n : Nat) : Rel × Bool :=
  let key := windowKey part crit unit sub idx
  let th := r.threshold part crit
  let now := r.runMs
  let times := (mget r.windows [] key).filter (fun t => now < t + th.w) ++ List.replicate n now
  if th.t ≤ times.length then ({ r with windows := mset r.windows [] key [] }, true)
  else ({ r with windows := mset r.windows [] key times }, false)

/-! ### Maintenance activities: the resources they hold (R938, R939) -/

/-- A resource that an activity holds. -/
inductive Resource where
  | channel (stack channel : Nat)
  | core (core : Nat)
  | remapWriter (quadrant : Nat)
  | port (port : Nat)
  | zwinus
  | fwSlot
  deriving DecidableEq, Repr

/-- The quadrant of a logical core (R932). -/
def Rel.quadrant (r : Rel) (core : Nat) : Nat := core / (r.cls / 4)

/-- The resources that an activity holds from acceptance until it is done (R938). -/
def Rel.resources (r : Rel) (code : Nat) (m : MaintArgs) : List Resource :=
  match code with
  | 0x01 => [.channel m.unit m.sub]
  | 0x02 => [.core m.unit]
  | 0x03 => [.core m.unit]
  | 0x04 => [.channel m.unit m.sub, .remapWriter (m.unit / 3)]
  | 0x05 => (List.range 32).map (.channel m.unit ·)
  | 0x06 => [.core m.unit, .remapWriter (r.quadrant m.unit)]
  | 0x07 => [.core m.unit, .remapWriter (r.quadrant m.unit)]
  | 0x08 => [.core m.unit, .remapWriter (r.quadrant m.unit)]
  | 0x09 => if m.unit = 0xFFFF then [.zwinus] else [.port m.unit]
  | 0x0A => [.port m.unit, .port m.sub]
  | 0x0B => [.fwSlot]
  | _ => []

/-- Two activities conflict when they hold a resource in common (R939). -/
def Rel.conflict (r : Rel) (code : Nat) (m : MaintArgs) (a : Activity) : Bool :=
  (r.resources code m).any (fun x => x ∈ r.resources a.code a.args)

/-- The accepted or waiting activity in the way of another (R940). -/
def Rel.inTheWay (r : Rel) (code : Nat) (m : MaintArgs) : Option Activity := r.acts.find? (r.conflict code m)

/-- Whether an activity is carried out between steps, at an entry to LOADED or STANDBY (R929, R938). -/
def betweenSteps (code : Nat) : Bool := code ∈ [0x05, 0x06, 0x07, 0x08, 0x0A]

/-- The state in which an activity starts. -/
def startState (code : Nat) : ActState := if betweenSteps code then .pending else .running

/-- An activity that a threshold starts: it waits where another is in the way (R941). -/
def Rel.autoStart (r : Rel) (code : Nat) (m : MaintArgs) : Rel :=
  let st := match r.inTheWay code m with
    | some _ => ActState.waiting
    | none => startState code
  { r with acts := r.acts ++ [{ code := code, auto := true, slot := none, args := m, state := st }] }

/-! ### Lasting faults -/

/-- A stack's status. -/
def MemSys.stack (m : MemSys) (s : Nat) : Stack := mget m.hbmStacks {} s

/-- A channel marked retire-pending, after those of its stack that are marked already (R338). DEDUCED (log 104). -/
def MemSys.retirePending (m : MemSys) (stack ch : Nat) : MemSys :=
  { m with hbmStacks := mmod m.hbmStacks {} stack (fun x =>
      if x.active.getLsbD ch ∧ BitVec.ofNat 5 ch ∉ x.pending then { x with pending := x.pending ++ [BitVec.ofNat 5 ch] } else x) }

/-- Physical cores of quadrant q, good and in service or spare (R932, R933): 36 per quadrant less the bad ones. -/
def Rel.goodCores (r : Rel) (q : Nat) : Nat :=
  ((List.range 36).filter (fun i => 36 * q + i ∉ r.badCores)).length

/-- The physical core that serves a logical core (R930); at first the cores of each quadrant in order. -/
def Rel.phys (r : Rel) (core : Nat) : Nat :=
  let n := r.cls / 4
  mget r.coreMap (36 * (core / n) + core % n) core

/-- Spare cores left in quadrant q (R837, R933). -/
def Rel.sparesLeft (r : Rel) (q : Nat) : Nat := r.goodCores q - r.cls / 4

/-- The activity that a lasting fault of a part calls for (R923), with the activity's target; none replaces a spare line of an array.
DESIGN CHOICE (log 122). -/
def lastingAction (part unit sub idx : Nat) : Option (Nat × MaintArgs) :=
  match part with
  | 0 => some (0x04, { unit := unit, sub := sub, index := idx })
  | 1 => some (0x05, { unit := unit, sub := sub })
  | 2 => some (0x06, { unit := unit, sub := sub })
  | 3 => if idx < 128 then some (0x07, { unit := unit, sub := sub, index := idx }) else none
  | 4 => some (0x08, { unit := unit })
  | 5 => some (0x09, { unit := unit, sub := sub })
  | 6 => some (0x0A, { unit := unit, sub := sub })
  | 7 => some (0x09, { unit := 0xFFFF, sub := sub })
  | _ => none

/-- Whether a core has a spare of the kind that a part's fault needs (R924). -/
def Work.hasSpare (w : Work) (part unit sub idx : Nat) : Bool :=
  let c := w.core unit
  match part with
  | 2 => !c.bank0.used || !c.bank1.used
  | 3 =>
    let a := mget c.spares {} sub
    if 128 ≤ idx then true
    else if idx / 64 = 0 then !a.row0.used || !a.row1.used else !a.col0.used || !a.col1.used
  | _ => true

/-- Remap entries in use in a stack (R373). -/
def MemSys.remapsUsed (m : MemSys) (stack : Nat) : Nat := (m.remaps.filter (fun r => decide (r.stack = stack))).length

/-- The part that a lasting fault counts for: a row of a stack whose remap entries are all in use counts for its channel (R337),
and a bank, row or column without a spare left for its core (R924). -/
def Work.lastingPart (w : Work) (part unit sub idx : Nat) : Nat :=
  if part = 0 ∧ 4096 ≤ w.mem.remapsUsed unit then 1
  else if w.hasSpare part unit sub idx then part else 4

/-- A lasting fault (R928): counted, logged with its part code, and its action started when AUTO_SPARE is 1. A channel is
marked retire-pending in any case (R338), and a core fault in a quadrant without a spare makes a class change pending
(R934). -/
def Work.lasting (w : Work) (part unit sub idx : Nat) : Work :=
  let part' := w.lastingPart part unit sub idx
  let w := { w with rel.lasting := w.rel.lasting + 1 }
  let w := w.event 0x0008 3 unit sub (if part' = 1 then 0 else idx) 0 part'
  let w := if part' = 1 then { w with mem := w.mem.retirePending unit sub } else w
  if part' = 4 ∧ w.rel.sparesLeft (w.rel.quadrant unit) = 0 then
    { w with rel.classPending := true
             rel.dying := w.rel.dying ++ [w.rel.phys unit] }
  else if w.rel.autoSpare then
    match lastingAction part' unit sub idx with
    | some (code, m) => { w with rel := w.rel.autoStart code m }
    | none => w
  else w

/-- The unit by which a part's window is known: a bank, a row or column of an array and a core belong to the physical core, whichever
logical core it serves (R932). -/
def Rel.windowUnit (r : Rel) (part unit : Nat) : Nat := if part = 2 ∨ part = 3 ∨ part = 4 then r.phys unit else unit

/-- `n` events of a part: when they make the fault lasting, its action is taken (R923). -/
def Work.partEvent (w : Work) (part crit unit sub idx n : Nat) : Work :=
  let r := w.rel.countEvent part crit (w.rel.windowUnit part unit) sub idx n
  let w1 := { w with rel := r.1 }
  if r.2 then w1.lasting part unit sub idx else w1

/-- A row tracked in its stack, at most 256 of them (R926): when a new row needs a place, the row whose last event is
oldest loses its count. -/
def Rel.trackRow (r : Rel) (stack ch row : Nat) : Rel :=
  let key := ch * 2 ^ 32 + row
  let rows := mget r.tracked [] stack
  if key ∈ rows then { r with tracked := mset r.tracked [] stack (key :: rows.filter (· ≠ key)) }
  else if rows.length < 256 then { r with tracked := mset r.tracked [] stack (key :: rows) }
  else
    let old := rows.getLastD 0
    { r with tracked := mset r.tracked [] stack (key :: rows.dropLast)
             windows := mset r.windows [] (windowKey 0 0 stack (old / 2 ^ 32) (old % 2 ^ 32)) []
             rowOverflow := r.rowOverflow + 1 }

/-! ### Events of a running step -/

/-- Whether event `a` comes before event `b`: by herd time, then core, then place in the firing list (R304). -/
def StepEvent.before (a b : StepEvent) : Bool :=
  a.time < b.time ∨ (a.time = b.time ∧ (a.core < b.core ∨ (a.core = b.core ∧ a.firing < b.firing)))

/-- The event that abandons the step: the first in herd time stays (R304, R880). -/
def Run.blame (r0 : Run) (status : Nat) (e : StepEvent) : Run :=
  let r := { r0 with faulted := r0.faulted || status != stDataLost }
  match r.abandon with
  | none => { r with abandon := some (BitVec.ofNat 8 status, e) }
  | some (st, f) => if e.before f then { r with abandon := some (BitVec.ofNat 8 status, e) }
                    else { r with abandon := some (st, f) }

/-- The event that a status of the step's data reports: the lowest-numbered logical core, then firing-list order, and of one firing
the event met first (R180, R561). DEDUCED (log 92); DESIGN CHOICE (log 86). -/
def firstByCore (old : Option StepEvent) (e : StepEvent) : Option StepEvent :=
  match old with
  | none => some e
  | some f => if e.core < f.core ∨ (e.core = f.core ∧ e.firing < f.firing) then some e else some f

/-- A step in which an input was replaced (R180). -/
def Work.formatEvent (w : Work) (e : StepEvent) : Work :=
  if w.stepping then { w with run.formatErr := firstByCore w.run.formatErr e } else w

/-- The first of two events in the order of R304. DEDUCED (log 92). -/
def firstInTime (old : Option StepEvent) (e : StepEvent) : Option StepEvent :=
  match old with
  | none => some e
  | some f => if e.before f then some e else some f

/-- A step in which bad sparse metadata or a bad page entry was met (R560, R617); the first in the order of R304 is
reported. DEDUCED (log 92). -/
def Work.indexEvent (w : Work) (e : StepEvent) : Work :=
  if w.stepping then { w with run.indexErr := firstInTime w.run.indexErr e } else w

/-- A step in which a packing STORE pruned (R561); the order among several is that of R180.
DEDUCED (log 92). -/
def Work.prunedEvent (w : Work) (e : StepEvent) : Work :=
  if w.stepping then { w with run.prunedEv := firstByCore w.run.prunedEv e } else w

/-- A step in which an inexact tally element was drained (R511); the order among several is that of R180.
DEDUCED (log 92). -/
def Work.inexactEvent (w : Work) (e : StepEvent) : Work :=
  if w.stepping then { w with run.inexactEv := firstByCore w.run.inexactEv e } else w

/-- A detection on a logical core of a running step: recorded, a stop raised, REPLAY_ACTIVE set (R899, R908, R959);
one attributable to the core counts against its threshold (R916). Outside a running step it causes no rerun (R900).
DEDUCED (log 123). -/
def Work.detect (w : Work) (core : Nat) (kind : DetKind) : Work :=
  if w.stepping then
    let w := { w with run.since := if w.run.detections.isEmpty then w.now w.cad.offset.toNat else w.run.since
                      run.detections := w.run.detections ++ [{ core := core, kind := kind }]
                      rel.replayActive := true
                      run.wantStop := true }
    match kind with
    | .parity => w.partEvent 4 0 core 0 0 1
    | .residue => w.partEvent 4 0 core 0 0 1
    | .coreTable => w.partEvent 4 0 core 0 0 1
    | .selfCheck => w
    | .hbm => w
  else w

/-- The events that a firing's environment shows outside memory: core-table words (R898, R899).
DEDUCED (log 128). -/
def Work.tableErrors (w : Work) (core : Nat) (env : Env) : Work :=
  let w := { w with rel.tableCe := w.rel.tableCe + BitVec.ofNat 64 env.tableCe }
  if env.table then (w.event 0x0005 2 core 0 0 0 0).detect core .coreTable else w

end Sys2Proof.Machine
end

