-- ==== Sys2Proof/Machine/FabOps.lean ====
section
/-!
DEFINITION. The fabric's geometry: the port map (R732), herd shape and coordinates (R733, R734), routes (R754 to
R757), the state of ports and bonds (R737 to R742, R771, R1074 to R1076), and the CRC of flits (R746).
-/

namespace Sys2Proof.Machine

/-- The ports of a bond (the port map under R732); code 6 names the spares. -/
def bondPorts : Nat → List Nat
  | 0 => [0, 1, 2, 3, 4, 5] | 1 => [20, 21, 22, 23, 24, 25]
  | 2 => [6, 7, 8, 9, 10, 11] | 3 => [26, 27, 28, 29, 30, 31]
  | 4 => [12, 13, 14, 15, 16, 17] | 5 => [32, 33, 34, 35, 36, 37]
  | 6 => [18, 19, 38, 39]
  | _ => []

/-- The bond that a port number belongs to by the port map. -/
def portBond (p : Nat) : Nat := ((List.range 7).find? (fun b => p ∈ bondPorts b)).getD 7

/-- The index of a port in its bond. -/
def portIndex (p : Nat) : Nat := (bondPorts (portBond p)).idxOf p

/-- A port. -/
def Fab.port (f : Fab) (p : Nat) : Port := mget f.ports {} p

/-- A port changed. -/
def Fab.modPort (f : Fab) (p : Nat) (g : Port → Port) : Fab := { f with ports := mmod f.ports {} p g }

/-- An uplink. -/
def Fab.uplink (f : Fab) (u : Nat) : Uplink := mget f.uplinks {} u

/-- An uplink changed. -/
def Fab.modUplink (f : Fab) (u : Nat) (g : Uplink → Uplink) : Fab := { f with uplinks := mmod f.uplinks {} u g }

/-- The sizes X, Y, Z of the herd (R733). -/
def Fab.dims (f : Fab) : List Nat := [f.xM1.toNat + 1, f.yM1.toNat + 1, f.zM1.toNat + 1]

/-- Modules of the herd. -/
def Fab.herdSize (f : Fab) : Nat := (f.xM1.toNat + 1) * (f.yM1.toNat + 1) * (f.zM1.toNat + 1)

/-- The coordinates of a member (R733). -/
def Fab.coords (f : Fab) (m : Nat) : List Nat :=
  let x := f.xM1.toNat + 1
  let y := f.yM1.toNat + 1
  let z := f.zM1.toNat + 1
  [m % x, m / x % y, m / (x * y) % z]

/-- The member at coordinates taken modulo the shape. -/
def Fab.memberAt (f : Fab) (c : List Nat) : Nat :=
  let x := f.xM1.toNat + 1
  let y := f.yM1.toNat + 1
  let z := f.zM1.toNat + 1
  c.getD 0 0 % x + x * (c.getD 1 0 % y + y * (c.getD 2 0 % z))

/-- The neighbour of a member over a bond (R734). -/
def Fab.neighbourOf (f : Fab) (m bond : Nat) : Nat :=
  let k := bond / 2
  let n := f.dims.getD k 1
  let c := f.coords m
  f.memberAt (setAt c k (if bond % 2 = 0 then c.getD k 0 + 1 else c.getD k 0 + n - 1))

/-- The dimensions of an ORDER code (R746). -/
def orderDims : Nat → List Nat
  | 0 => [0, 1, 2] | 1 => [0, 2, 1] | 2 => [1, 0, 2] | 3 => [1, 2, 0] | 4 => [2, 0, 1] | _ => [2, 1, 0]

/-- The next bond of a scheduled flit at member `at_`: the first dimension of ORDER whose coordinate does not match,
in the direction of NEG (R754); none when it has arrived. -/
def Fab.nextBond (f : Fab) (at_ dest order neg : Nat) : Option Nat :=
  let a := f.coords at_
  let b := f.coords dest
  ((orderDims order).find? (fun k => a.getD k 0 ≠ b.getD k 0)).map
    (fun k => 2 * k + neg / 2 ^ k % 2)

/-- The next bond of an unscheduled flit: the shorter way round each ring, the positive one when both are equal
(R757). -/
def Fab.nextUnscheduled (f : Fab) (at_ dest : Nat) : Option Nat :=
  let a := f.coords at_
  let b := f.coords dest
  ((orderDims 0).find? (fun k => a.getD k 0 ≠ b.getD k 0)).map (fun k =>
    let n := f.dims.getD k 1
    let fwd := (b.getD k 0 + n - a.getD k 0) % n
    if fwd ≤ n - fwd then 2 * k else 2 * k + 1)

/-- Working lanes of a port: four active lanes less the failed ones the spare does not replace (R736, R737). -/
def Port.lanes (p : Port) : Nat := 4 - p.failed.length + b2n p.spareUsed

/-- The rate code of a port (R737, R803). -/
def Port.rateCode (p : Port) : Nat :=
  match p.lanes with
  | 0 => 3 | 1 => 3 | 2 => 2 | 3 => 1
  | _ => 0

/-- The incoming sideband is asserted or held: the port is masked (R771, R1074, R1076). -/
def Port.masked (p : Port) : Bool := p.aliveIn || p.linkedIn

/-- Whether a port carries flits. -/
def Port.working (p : Port) : Bool := p.st = .up ∧ !p.masked

/-- The ports that serve a bond now, with their bond indices (R735, R739). -/
def Fab.bondMembers (f : Fab) (bond : Nat) : List (Nat × Nat) :=
  (List.range 40).filterMap (fun p =>
    let x := f.port p
    if x.bond.toNat = bond ∧ x.working then some (x.bondIndex.toNat, p) else none)

/-- The port of a bond that carries a bond index: that index's, or the next working one in ascending index with
wrap-around (R739). DEDUCED (log 113). -/
def Fab.portFor (f : Fab) (bond idx : Nat) : Option Nat :=
  let ms := f.bondMembers bond
  ((List.range 6).findSome? (fun k => (ms.find? (fun m => m.1 = (idx + k) % 6)).map (·.2)))

/-- Whether a bond has less than its full rate: a port of it that once trained is not working or not at full rate
(R739). -/
def Fab.bondDegraded (f : Fab) (bond : Nat) : Bool :=
  (List.range 40).any (fun p => let x := f.port p
    x.bond.toNat = bond ∧ (!x.working ∨ x.rateCode ≠ 0))

/-- FAB_STATUS.DEGRADED (R739, R801). -/
def Fab.degraded (f : Fab) : Bool := (List.range 6).any f.bondDegraded

/-- The trained class of a bond: the largest of any working port (R742). -/
def Fab.bondCabled (f : Fab) (bond : Nat) : Bool :=
  (f.bondMembers bond).any (fun m => (f.port m.2).cabled)

/-- Whether an unscheduled access to a member can leave: the bond of its first hop has a port for its index (R757,
R771). DEDUCED (log 113). -/
def Fab.reachable (f : Fab) (dest tag : Nat) : Bool :=
  match f.nextUnscheduled f.member.toNat dest with
  | none => true
  | some b => (f.portFor b (tag % 6)).isSome

/-- One step of the CRC-16 of polynomial 0x1021 over a byte (R746). -/
def crcByte (crc : Nat) (b : Byte) : Nat :=
  (List.range 8).foldl (fun c i =>
    let x := (c / 0x8000 + b.toNat / 2 ^ (7 - i)) % 2
    let c' := c * 2 % 0x10000
    if x = 1 then Nat.xor c' 0x1021 else c') crc

/-- CRC-16 from 0xFFFF over bytes. -/
def crc16 (bs : List Byte) : Nat := bs.foldl crcByte 0xFFFF

/-- The CRC of a flit: header bits [47:0], then the payload (R746). -/
def flitCrc (f : Flit) : Nat := crc16 (toLE 6 (f.hdr.toNat % 2 ^ 48) ++ f.payload)

/-- Whether a flit's CRC is right. -/
def flitOk (f : Flit) : Bool := bits f.hdr 63 48 = flitCrc f

/-- A flit with its CRC. DEDUCED (log 112). -/
def mkFlit (hdr : Nat) (payload : List Byte) : Flit :=
  let pl := fit 248 payload
  let h := hdr % 2 ^ 48
  { hdr := BitVec.ofNat 64 (h + 2 ^ 48 * crc16 (toLE 6 h ++ pl)), payload := pl }

/-- Whether a timing block's CRC is right (R750): over bits [111:0]. -/
def blockOk (b : W128) : Bool := bits b 127 112 = crc16 (toLE 14 (b.toNat % 2 ^ 112))

/-- A timing block (R750). -/
def mkBlock (kind tick value source : Nat) : W128 :=
  let x := pack [(kind, 3), (0, 5), (tick, 24), (value, 32), (source, 10), (0, 38)]
  BitVec.ofNat 128 (x + 2 ^ 112 * crc16 (toLE 14 x))

/-! ### Route slots (R759) -/

/-- A route slot entry's KIND. -/
def slotKind (e : W128) : Nat := bits e 1 0
/-- ORDER. -/
def slotOrder (e : W128) : Nat := bits e 4 2
/-- NEG. -/
def slotNeg (e : W128) : Nat := bits e 7 5
/-- PORTS. -/
def slotPorts (e : W128) : Nat := max 1 (bits e 10 8)
/-- DEST. -/
def slotDest (e : W128) : Nat := bits e 20 11
/-- DEST_MAC, with VLAN above it. -/
def slotLink (e : W128) : Nat := bits e 111 64 + 2 ^ 48 * bits e 63 52
/-- COLL. -/
def slotColl (e : W128) : Nat := bits e 51 44

/-- The route set at an index. DEDUCED (log 115). -/
def Plan.route (p : Plan) (k : Nat) : RouteSet := p.routes.getD k {}

end Sys2Proof.Machine
end

