-- ==== Sys2Proof/Machine/PlanImage.lean ====
section
/-!
DEFINITION. The plan image (R81 to R91): its header, section table and sections taken apart, and the fields of the
records they hold.
-/

namespace Sys2Proof.Machine

/-! ### Taking an image apart -/

/-- An entry of the section table (R82). -/
structure ImgSection where
  index : Nat
  type : Nat
  flags : Nat
  scope : Nat
  offset : Nat
  length : Nat
  entries : Nat
  reserved : Nat
  deriving DecidableEq, Repr

/-- Entry `i` of the section table. -/
def imgSection (img : List Byte) (i : Nat) : ImgSection :=
  let e := (img.drop (256 + 32 * i)).take 32
  { index := i, type := leAt e 0 2, flags := leAt e 2 2, scope := leAt e 4 2, reserved := leAt e 6 2 + leAt e 28 4
    offset := leAt e 8 8, length := leAt e 16 8, entries := leAt e 24 4 }

/-- The section table. -/
def imgSections (img : List Byte) : List ImgSection := (List.range (leAt img 0x18 2)).map (imgSection img)

/-- The bytes of a section; bytes beyond the image read as zero. -/
def ImgSection.bytes (s : ImgSection) (img : List Byte) : List Byte := fit s.length ((img.drop s.offset).take s.length)

/-- `n` words of `k` bytes from the start of a section. -/
def words (w k n : Nat) (bs : List Byte) : List (BitVec w) :=
  (chunksOf k n bs).map (fun c => BitVec.ofNat w (leNat c))

/-- `n` words of `k` bytes from byte `o` of a section. -/
def wordsAt (w k n o : Nat) (bs : List Byte) : List (BitVec w) := words w k n (bs.drop o)

/-- The module-scoped section of a type, if the image has one. -/
def moduleSection (img : List Byte) (ty : Nat) : Option ImgSection :=
  (imgSections img).find? (fun s => s.type = ty)

/-- Its bytes; none read as an empty list. -/
def moduleBytes (img : List Byte) (ty : Nat) : List Byte :=
  match moduleSection img ty with
  | some s => s.bytes img
  | none => []

/-- Its count of entries. -/
def moduleEntries (img : List Byte) (ty : Nat) : Nat :=
  match moduleSection img ty with
  | some s => s.entries
  | none => 0

/-- The core-scoped sections of an image, by logical core (R83, R84). -/
def parseCores (img : List Byte) : SMap CorePlan :=
  (imgSections img).foldl (fun m s =>
    let bs := s.bytes img
    match s.type with
    | 1 => mmod m {} s.scope (fun c => { c with firings := words 128 16 s.entries bs })
    | 2 => mmod m {} s.scope (fun c => { c with streams := words 64 8 s.entries bs })
    | 3 => mmod m {} s.scope (fun c => { c with tasks := words 64 8 s.entries bs })
    | _ => m) []

/-- The elastic section table (R85, R86). -/
def parseSections (bs : List Byte) : List ESection :=
  (List.range (leAt bs 0 2)).map (fun i =>
    let e := (bs.drop (16 + 64 * i)).take 64
    { number := leAt e 0 2, members := BitVec.ofNat 128 (leAt e 8 16)
      lists := (List.range (leAt e 4 2)).map (· + leAt e 2 2) })

/-- The work lists (R87): items of 32 or 64 bytes. -/
def parseLists (bs : List Byte) : List WorkList :=
  (List.range (leAt bs 2 2)).map (fun i =>
    let e := (bs.drop (16 + 64 * leAt bs 0 2 + 16 * i)).take 16
    let k := leAt e 12 1
    { kind := k, items := wordsAt 512 (if k = 1 then 32 else 64) (leAt e 8 4) (leAt e 0 8) bs })

/-- The eight route sets (R758): header k stands at 64 × k. DEDUCED (log 115). -/
def parseRoutes (bs : List Byte) : List RouteSet :=
  (List.range 8).map (fun k =>
    let h := (bs.drop (64 * k)).take 64
    if leAt h 0 1 = 0 then {}
    else { valid := true, bondClass := BitVec.ofNat 8 (leAt h 1 1)
           slots := wordsAt 128 16 (leAt h 2 2) (leAt h 8 8) bs
           colls := wordsAt 512 64 (leAt h 4 2) (leAt h 16 8) bs })

/-- The scale tables (R208, R209). -/
def parseScales (img : List Byte) : Option ScaleTab :=
  (moduleSection img 8).map (fun s =>
    let bs := s.bytes img
    { statBase := BitVec.ofNat 64 (leAt bs 0 8), slots := wordsAt 128 16 (leAt bs 8 4) 16 bs, init := bs })

/-- The drain tables (R499). -/
def parseDrains (bs : List Byte) : List DrainTab :=
  (List.range (leAt bs 0 2)).map (fun k =>
    let t := (bs.drop (16 + 2112 * k)).take 2112
    { head := BitVec.ofNat 64 (leAt t 0 8), entries := wordsAt 64 8 256 64 t })

/-- The Cumulus policy (R653, R677). -/
def parsePolicy (img : List Byte) : Option Policy :=
  (moduleSection img 10).map (fun s =>
    let bs := s.bytes img
    { hdr := BitVec.ofNat 2048 (leAt bs 0 256), appends := wordsAt 256 32 (leAt bs 0x2E 2) 256 bs })

/-- A whole image taken apart. -/
def parsePlan (img : List Byte) : Plan :=
  let sb := moduleBytes img 11
  { header := fit 256 (img.take 256)
    cls := leAt img 0x08 2
    clockSel := leAt img 0x0A 1
    tickClk := leAt img 0x0C 4
    herdSize := leAt img 0x1A 2
    moduleIndex := leAt img 0x28 2
    stepTicks := leAt img 0x1C 4
    planId := BitVec.ofNat 64 (leAt img 0x20 8)
    digest := fit 48 ((img.drop 0x40).take 48)
    cores := parseCores img
    sections := parseSections (moduleBytes img 4)
    lists := parseLists (moduleBytes img 4)
    descs := words 512 64 (moduleEntries img 5) (moduleBytes img 5)
    regions := words 128 16 (moduleEntries img 6) (moduleBytes img 6)
    routes := match moduleSection img 7 with
      | some s => parseRoutes (s.bytes img)
      | none => List.replicate 8 {}
    scales := parseScales img
    drains := parseDrains (moduleBytes img 9)
    policy := parsePolicy img
    commits := wordsAt 64 8 (leAt sb 4 2) (leAt sb 0x10 8) sb
    switches := wordsAt 64 8 (leAt sb 6 2) (leAt sb 0x18 8) sb
    caps := wordsAt 64 8 (leAt sb 8 2) (leAt sb 0x20 8) sb
    vec := words 1024 128 (moduleEntries img 12) (moduleBytes img 12) }

/-! ### Firing records (R54, R55) -/

/-- A firing record. -/
abbrev Rec := W128

/-- STATION. -/
def Rec.station (r : Rec) : Nat := bits r 127 124
/-- OP. -/
def Rec.op (r : Rec) : Nat := bits r 123 116
/-- MODE: 0 timed, 1 elastic. -/
def Rec.mode (r : Rec) : Nat := bits r 115 114
/-- TICK. -/
def Rec.tick (r : Rec) : Nat := bits r 113 90
/-- OFFSET. -/
def Rec.offset (r : Rec) : Nat := bits r 89 73
/-- SRC_A. -/
def Rec.srcA (r : Rec) : Nat := bits r 72 67
/-- SRC_B. -/
def Rec.srcB (r : Rec) : Nat := bits r 66 61
/-- DST. -/
def Rec.dst (r : Rec) : Nat := bits r 60 55
/-- DESC. -/
def Rec.desc (r : Rec) : Nat := bits r 54 43
/-- COUNT. -/
def Rec.count (r : Rec) : Nat := bits r 42 31
/-- TASK. -/
def Rec.task (r : Rec) : Nat := bits r 30 27
/-- PARAM. -/
def Rec.param (r : Rec) : Nat := bits r 26 11
/-- The elastic section that a SECTION_OPEN, a SECTION_CLOSE names (R55). -/
def Rec.section (r : Rec) : Nat := bits r 72 61
/-- The declared length of a SECTION_OPEN in clk (R55). -/
def Rec.declared (r : Rec) : Nat := bits r 54 31
/-- NOTIFY. -/
def Rec.notify (r : Rec) : Bool := bit r 3
/-- TRACE. -/
def Rec.trace (r : Rec) : Bool := bit r 4
/-- FENCE. -/
def Rec.fence (r : Rec) : Bool := bit r 5
/-- FIRST. -/
def Rec.first (r : Rec) : Bool := bit r 6
/-- Whether the record is a SECTION_CLOSE, which never issues (R1086). -/
def Rec.isClose (r : Rec) : Bool := r.station = 15 ∧ r.op = 2
/-- Whether the record is a SECTION_OPEN. -/
def Rec.isOpen (r : Rec) : Bool := r.station = 15 ∧ r.op = 1

/-- A stream entry (R45). -/
abbrev Stm := W64

/-- BASE. -/
def Stm.base (s : Stm) : Nat := bits s 22 0
/-- SLOT_BYTES. -/
def Stm.slotBytes (s : Stm) : Nat := bits s 41 26
/-- The number of slots. -/
def Stm.slots (s : Stm) : Nat := bits s 47 42 + 1
/-- PRODUCER. -/
def Stm.producer (s : Stm) : Nat := bits s 51 48
/-- CONSUMER. -/
def Stm.consumer (s : Stm) : Nat := bits s 55 52
/-- TASK. -/
def Stm.task (s : Stm) : Nat := bits s 59 56

/-- A region table entry (R296). -/
abbrev Reg := W128

/-- VALID. -/
def Reg.valid (r : Reg) : Bool := bit r 0
/-- READ. -/
def Reg.read (r : Reg) : Bool := bit r 1
/-- WRITE. -/
def Reg.write (r : Reg) : Bool := bit r 2
/-- STEP_OWNED. -/
def Reg.owned (r : Reg) : Bool := bit r 3
/-- TARGET. -/
def Reg.target (r : Reg) : Nat := bits r 5 4
/-- PEER. -/
def Reg.peer (r : Reg) : Nat := bits r 25 8
/-- VBASE in bytes. -/
def Reg.vbase (r : Reg) : Nat := bits r 66 32 * 2 ^ 21
/-- SIZE in bytes. -/
def Reg.size (r : Reg) : Nat := bits r 90 67 * 2 ^ 21
/-- TBASE in bytes. -/
def Reg.tbase (r : Reg) : Nat := bits r 125 91 * 2 ^ 21
/-- The entry with another TBASE field (R902). -/
def Reg.withTbase (r : Reg) (t : Nat) : Reg :=
  BitVec.ofNat 128 (r.toNat % 2 ^ 91 + 2 ^ 91 * (t % 2 ^ 35) + 2 ^ 126 * (r.toNat / 2 ^ 126))

/-- The records of a core. -/
def Plan.core (p : Plan) (c : Nat) : CorePlan := mget p.cores {} c

/-- The firing record at an index of a core's list. -/
def Plan.firing? (p : Plan) (c i : Nat) : Option Rec := (p.core c).firings[i]?

/-- The stream entry of a core; an absent one is unused, all zero (R44). -/
def Plan.stream (p : Plan) (c s : Nat) : Stm := (p.core c).streams.getD s 0

/-- The descriptor at an index. -/
def Plan.desc (p : Plan) (i : Nat) : W512 := p.descs.getD i 0

/-- The region entry that holds a device address, with its index (R298). -/
def Plan.region? (p : Plan) (a : Nat) : Option (Nat × Reg) :=
  (p.regions.zipIdx.find? (fun x => Reg.valid x.1 ∧ Reg.vbase x.1 ≤ a ∧ a < Reg.vbase x.1 + Reg.size x.1)).map
    (fun x => (x.2, x.1))

/-- The region entry of TARGET 0 that holds an HBM physical address (R831). DEDUCED (log 107). -/
def Plan.regionOf? (p : Plan) (pa : Nat) : Option (Nat × Reg) :=
  (p.regions.zipIdx.find? (fun x => Reg.valid x.1 ∧ Reg.target x.1 = 0 ∧ Reg.tbase x.1 ≤ pa ∧
      pa < Reg.tbase x.1 + Reg.size x.1)).map (fun x => (x.2, x.1))

/-- A commit list entry's REGION, PARTNER and KIND (R901). -/
def commitFields (e : W64) : Nat × Nat × Nat := (bits e 11 0, bits e 23 12, bits e 25 24)

/-- Whether a region is a write version or a scratch region of the step (R901, R917). -/
def Plan.replayable (p : Plan) (region : Nat) : Bool :=
  p.commits.any (fun e => let f := commitFields e
    (f.2.2 = 0 ∧ f.2.1 = region) ∨ (f.2.2 = 2 ∧ f.1 = region))

/-- The elastic section with a number. -/
def Plan.section? (p : Plan) (n : Nat) : Option ESection := p.sections.find? (·.number = n)

/-- A field of the policy header: `n` bytes at offset `o` (R653). -/
def Policy.field (p : Policy) (o n : Nat) : Nat := p.hdr.toNat / 2 ^ (8 * o) % 2 ^ (8 * n)

end Sys2Proof.Machine
end

