-- ==== Sys2Proof/Machine/Desc.lean ====
section
/-!
DEFINITION. Tensor descriptors (R240 to R263, R287 to R290): decoding, the tiled view, data offsets, interleaved scale
areas, extents, and the checks of R292; and tiles as they stand in stream slots.
-/

namespace Sys2Proof.Machine

/-- Group size of a block-shape code (R185); 0 for no scales, none for a reserved code. -/
def groupSize : Nat → Option Nat
  | 0 => some 0 | 1 => some 32 | 2 => some 64 | 3 => some 128
  | _ => none

/-- A tensor descriptor taken apart (R243, R244). `g` is the group size, 0 when unscaled. -/
structure Tensor where
  base : Nat
  rank : Nat
  fmt : Fmt
  g : Nat
  innerT : Bool
  sparse : Nat
  outlier : Bool
  slotEn : Bool
  slot : Nat
  link : Nat
  fill : Nat
  size : List Nat
  stride : List Int
  deriving DecidableEq, Repr

/-- KIND of a descriptor entry (R241). -/
def descKind (d : W512) : Nat := bits d 65 64

/-- LINK of a descriptor entry. -/
def descLink (d : W512) : Nat := bits d 105 94

/-- A descriptor's fields; a reserved format or block code reads as INT4 without scales. -/
def tensor (d : W512) : Tensor :=
  { base := bits d 55 0
    rank := bits d 68 66
    fmt := (Fmt.ofCode (bits d 73 69)).getD .int4
    g := (groupSize (bits d 76 74)).getD 0
    innerT := bit d 77
    sparse := bits d 79 78
    outlier := bit d 80
    slotEn := bit d 81
    slot := bits d 93 82
    link := descLink d
    fill := bits d 121 106
    size := (List.range 6).map (fun k => bits d (128 + 24 * k + 23) (128 + 24 * k) + 1)
    stride := (List.range 6).map (fun k => sbits d (272 + 40 * k + 39) (272 + 40 * k)) }

/-- The tensor descriptor at an index of a plan. -/
def Plan.tensor (p : Plan) (i : Nat) : Tensor := Machine.tensor (p.desc i)

/-- Size of dimension k. -/
def Tensor.s (t : Tensor) (k : Nat) : Nat := t.size.getD k 1

/-- Stride of dimension k. -/
def Tensor.d (t : Tensor) (k : Nat) : Int := t.stride.getD k 0

/-- The columns of a tile (R250). -/
def Fmt.tileWidth (f : Fmt) : Nat := if f.bits = 4 then 128 else 64

/-- The sizes of the view; `tr` is a transposed view (R249). -/
def Tensor.view (t : Tensor) (tr : Bool) : List Nat :=
  if tr then [t.s 1, t.s 0, t.s 2, t.s 3, t.s 4, t.s 5] else [t.s 0, t.s 1, t.s 2, t.s 3, t.s 4, t.s 5]

/-- Tiles of the view along dimension 0 (R251). -/
def Tensor.t0 (t : Tensor) (tr : Bool) : Nat := ceilDiv ((t.view tr).getD 0 1) t.fmt.tileWidth

/-- Tiles of the view along dimension 1 (R251). -/
def Tensor.t1 (t : Tensor) (tr : Bool) : Nat := ceilDiv ((t.view tr).getD 1 1) 64

/-- All the tiles of the view (R258). -/
def Tensor.tiles (t : Tensor) (tr : Bool) : Nat := t.t0 tr * t.t1 tr * t.s 2 * t.s 3 * t.s 4 * t.s 5

/-- The element offset of an in-bounds index (R246). -/
def Tensor.elem (t : Tensor) (i : List Nat) : Nat :=
  let at0 := ((List.range 6).map (fun k => (i.getD k 0 : Int) * t.d k)).sum
  let back := ((List.range 6).map (fun k => if t.d k < 0 then ((t.s k - 1 : Nat) : Int) * (t.d k).natAbs else 0)).sum
  (at0 + back).toNat

/-- The largest element offset (R246). -/
def Tensor.maxElem (t : Tensor) : Nat :=
  ((List.range 6).map (fun k => (t.s k - 1) * (t.d k).natAbs)).sum

/-- The data offset in bytes of an element offset (R247). -/
def Fmt.dataOff (f : Fmt) (e : Nat) : Nat := e * f.bits / 8

/-- Elements of one 2,048-byte block. -/
def Fmt.perBlock (f : Fmt) : Nat := 2048 * 8 / f.bits

/-- Scale-area bytes of a block that holds `n` groups (R191). -/
def scaleArea (f : Fmt) (n : Nat) : Nat := ceilDiv (if f.zp then 2 * n else n) 64 * 64

/-- Scale-area size A of a whole block (the table under R193); 0 when unscaled. -/
def Tensor.area (t : Tensor) : Nat := if t.g = 0 then 0 else scaleArea t.fmt (t.fmt.perBlock / t.g)

/-- The byte address of an element offset (R190, R248). -/
def Tensor.addr (t : Tensor) (e : Nat) : Nat :=
  let d := t.fmt.dataOff e
  t.base + d + d / 2048 * t.area

/-- Data bytes of the tensor. -/
def Tensor.dataBytes (t : Tensor) : Nat := t.fmt.dataOff t.maxElem + max 1 (t.fmt.bits / 8)

/-- Groups of block b, and where its scale area starts (R191, R193). -/
def Tensor.blockArea (t : Tensor) (b : Nat) : Nat × Nat :=
  let start := t.base + b * (2048 + t.area)
  let n := min 2048 (t.dataBytes - 2048 * b)
  let groups := n * 8 / t.fmt.bits / t.g
  (groups, start + ceilDiv n 64 * 64)

/-- The addresses of the scale byte and the zero-point byte of the group that holds an element offset (R191). -/
def Tensor.scaleAddr (t : Tensor) (e : Nat) : Nat × Nat :=
  let b := t.fmt.dataOff e / 2048
  let ga := t.blockArea b
  let j := (e - b * t.fmt.perBlock) / t.g
  (ga.2 + j, ga.2 + ga.1 + j)

/-- The extent in bytes: from BASE to the highest byte (before R278). -/
def Tensor.extent (t : Tensor) : Nat :=
  if t.g = 0 then t.dataBytes
  else
    let b := (t.dataBytes - 1) / 2048
    let ga := t.blockArea b
    ga.2 + scaleArea t.fmt ga.1 - t.base

/-- The position of a tile: t0, t1 and the higher indices; none when the index is out of bounds (R251, R258). -/
def Tensor.tilePos (t : Tensor) (tr : Bool) (i : Nat) : Option (Nat × Nat × List Nat) :=
  if i < t.tiles tr then
    let a := t.t0 tr
    let b := t.t1 tr
    let r := i / a / b
    some (i % a, i / a % b,
      [r % t.s 2, r / t.s 2 % t.s 3, r / t.s 2 / t.s 3 % t.s 4, r / t.s 2 / t.s 3 / t.s 4])
  else none

/-- The element offset of the view position in row m and column j of a tile; none when it is out of bounds. -/
def Tensor.tileElem (t : Tensor) (tr : Bool) (i m j : Nat) : Option Nat :=
  match t.tilePos tr i with
  | none => none
  | some (a, b, hi) =>
    let x := a * t.fmt.tileWidth + j
    let y := 64 * b + m
    if x < (t.view tr).getD 0 1 ∧ y < (t.view tr).getD 1 1 then
      some (t.elem (if tr then y :: x :: hi else x :: y :: hi))
    else none

/-- The row block of a tile (R1087). -/
def Tensor.rowBlock (t : Tensor) (tr : Bool) (i : Nat) : Nat := i / t.t0 tr

/-! ### Tiles in stream slots -/

/-- The layout of a stream tile: element format and group size. DEDUCED (log 150). -/
structure TileFmt where
  fmt : Fmt
  g : Nat
  deriving DecidableEq, Repr

/-- The stream tile layout of a descriptor. -/
def Tensor.tf (t : Tensor) : TileFmt := { fmt := t.fmt, g := t.g }

/-- Columns of a stream tile. -/
def TileFmt.width (x : TileFmt) : Nat := x.fmt.tileWidth

/-- Scale bytes of one tile row: one for each group, whole or in part, that the row holds. -/
def TileFmt.rowGroups (x : TileFmt) : Nat := if x.g = 0 then 0 else ceilDiv x.width x.g

/-- Scale-area bytes of each of the tile's two blocks. -/
def TileFmt.area (x : TileFmt) : Nat := if x.g = 0 then 0 else scaleArea x.fmt (x.fmt.perBlock / x.g)

/-- Bytes of one row of elements. -/
def TileFmt.rowBytes (x : TileFmt) : Nat := x.width * x.fmt.bits / 8

/-- Bytes of a tile with its interleaved scales. -/
def TileFmt.bytes (x : TileFmt) : Nat := 64 * x.rowBytes + 2 * x.area

/-- A row of a tile: element codes, and the scale and zero-point bytes of its groups. -/
structure TileRow where
  codes : List Nat
  scales : List Nat := []
  zps : List Nat := []
  deriving DecidableEq, Repr

/-- A tile: its 64-bit row mask and its rows. -/
structure Tile where
  mask : W64
  rows : List TileRow
  deriving DecidableEq, Repr

/-- The codes packed in bytes (R171, R172). -/
def unpackCodes (f : Fmt) (bs : List Byte) : List Nat :=
  match f.bits with
  | 4 => bs.flatMap (fun b => [b.toNat % 16, b.toNat / 16])
  | 8 => bs.map (fun b => f.own b.toNat)
  | n => (chunksOf (n / 8) bs.length bs).map leNat

/-- Codes as bytes; FP6 codes have bits [7:6] zero. -/
def packCodes (f : Fmt) : List Nat → List Byte
  | [] => []
  | [a] => toLE (max 1 (f.bits / 8)) (f.own a)
  | a :: b :: cs =>
    if f.bits = 4 then BitVec.ofNat 8 (a % 16 + 16 * (b % 16)) :: packCodes f cs
    else toLE (f.bits / 8) (f.own a) ++ packCodes f (b :: cs)

/-- The rows of one block of 32 rows (64-byte rows, scaled formats) and its scale area.
DEDUCED (log 150). -/
def unpackBlock (x : TileFmt) (bs : List Byte) : List TileRow :=
  let gpr := x.rowGroups
  let sc := bs.drop 2048
  (chunksOf 64 32 bs).zipIdx.map (fun p =>
    { codes := unpackCodes x.fmt p.1
      scales := (((sc.drop (gpr * p.2)).take gpr).map (·.toNat))
      zps := if x.fmt.zp then ((sc.drop (32 * gpr + gpr * p.2)).take gpr).map
          (fun b => x.fmt.ownZp b.toNat) else [] })

/-- The rows of a tile's bytes. DEDUCED (log 150). -/
def unpackTile (x : TileFmt) (bs : List Byte) : List TileRow :=
  if x.g = 0 then (chunksOf x.rowBytes 64 bs).map (fun r => { codes := unpackCodes x.fmt r })
  else unpackBlock x (bs.take (2048 + x.area)) ++ unpackBlock x (bs.drop (2048 + x.area))

/-- One block of 32 rows as bytes. DEDUCED (log 150). -/
def packBlock (x : TileFmt) (rows : List TileRow) : List Byte :=
  fit 2048 (rows.flatMap (fun r => packCodes x.fmt r.codes)) ++
  fit x.area ((rows.flatMap (fun r => r.scales)).map (BitVec.ofNat 8 ·) ++
    (if x.fmt.zp then (rows.flatMap (fun r => r.zps)).map (BitVec.ofNat 8 ·) else []))

/-- A tile's rows as bytes. DEDUCED (log 150). -/
def packTile (x : TileFmt) (rows : List TileRow) : List Byte :=
  if x.g = 0 then rows.flatMap (fun r => fit x.rowBytes (packCodes x.fmt r.codes))
  else packBlock x (rows.take 32) ++ packBlock x (rows.drop 32)

/-- The value of an element of a tile row, its scale and zero point applied; an element of a group with scale byte
0xFF is zero (R183, R184, R195). -/
def TileRow.value (x : TileFmt) (r : TileRow) (j : Nat) : FVal :=
  let c := r.codes.getD j 0
  if x.g = 0 then x.fmt.decode c
  else
    let e := r.scales.getD (j / x.g) 127
    if e = 255 then .zero else scaledValue x.fmt c e (r.zps.getD (j / x.g) 0)

/-- Groups of a tile row with the invalid scale byte 0xFF (R184). -/
def TileRow.badScales (r : TileRow) : Nat := (r.scales.filter (· = 255)).length

/-! ### Moving tiles between memory and slots -/

/-- The code that a read out of bounds returns (R255, R256). -/
def Tensor.fillCode (t : Tensor) : Nat :=
  match t.fmt with
  | .fp32 => t.fill * 2 ^ 16
  | .cbf16 => t.fill
  | f => f.own (t.fill % 2 ^ f.bits)

/-- The code at an element offset, `rd` giving the byte at an address. -/
def Tensor.codeAt (t : Tensor) (rd : Nat → Byte) (e : Nat) : Nat :=
  let a := t.addr e
  if t.fmt.bits = 4 then (if e % 2 = 0 then (rd a).toNat % 16 else (rd a).toNat / 16)
  else t.fmt.own (leNat ((List.range (t.fmt.bits / 8)).map (fun k => rd (a + k))))

/-- The tile at a tile index as LOAD moves it: codes and scale bytes unchanged, fill out of bounds (R254, R257), the
row mask by R408. -/
def Tensor.readTile (t : Tensor) (tr : Bool) (i : Nat) (rd : Nat → Byte) : Tile :=
  let x := t.tf
  let row (m : Nat) : TileRow :=
    { codes := (List.range x.width).map (fun j =>
        match t.tileElem tr i m j with
        | some e => t.codeAt rd e
        | none => t.fillCode)
      scales := (List.range x.rowGroups).map (fun k =>
        match t.tileElem tr i m (k * x.g) with
        | some e => (rd (t.scaleAddr e).1).toNat
        | none => 0x7F)
      zps := if x.fmt.zp then (List.range x.rowGroups).map (fun k =>
          match t.tileElem tr i m (k * x.g) with
          | some e => x.fmt.ownZp (rd (t.scaleAddr e).2).toNat
          | none => 0) else [] }
  { mask := BitVec.ofNat 64 (((List.range 64).map (fun m =>
      if (t.tileElem tr i m 0).isSome then 2 ^ m else 0)).sum)
    rows := (List.range 64).map row }

/-- A byte to be stored: its address, the bits of it that are written, and their value. -/
structure Put where
  addr : Nat
  mask : Nat
  val : Nat
  deriving DecidableEq, Repr

/-- The stores of a tile's in-bounds elements, element by element in the order of R253.
DEDUCED (log 102). -/
def Tensor.cellPuts (t : Tensor) (tr : Bool) (i : Nat) (rows : List TileRow) : List (List (List Put)) :=
  rows.zipIdx.map (fun rm => rm.1.codes.zipIdx.map (fun cj =>
    match t.tileElem tr i rm.2 cj.2 with
    | none => []
    | some e =>
      let a := t.addr e
      if t.fmt.bits = 4 then
        (if e % 2 = 0 then [⟨a, 0x0F, cj.1 % 16⟩] else [⟨a, 0xF0, cj.1 % 16 * 16⟩])
      else (toLE (t.fmt.bits / 8) cj.1).zipIdx.map (fun b => ⟨a + b.2, 0xFF, b.1.toNat⟩)))

/-- The stores of a tile's elements, one list for each row of the access: the run of elements along the descriptor's
dimension 0 that one tile row covers, in ascending addresses (R266). A narrow access writes element by element, and so
does a transposing one whose rows could share bytes, in the order of R253 (R263, R317).
DEDUCED (log 102). -/
def Tensor.accessRows (t : Tensor) (tr : Bool) (i : Nat) (rows : List TileRow) : List (List Put) :=
  let cells := t.cellPuts tr i rows
  let up (l : List (List Put)) : List Put := (if t.d 0 < 0 then l.reverse else l).flatten
  if 1 < (t.d 0).natAbs ∨ (tr ∧ (t.d 1).natAbs < 64) then cells.flatten
  else if tr then (List.range t.fmt.tileWidth).map (fun j => up (cells.map (fun r => r.getD j [])))
  else cells.map up

/-- The stores of the scale and zero-point bytes of a tile's in-bounds groups (R207, R260).
DEDUCED (log 108). -/
def Tensor.scalePuts (t : Tensor) (tr : Bool) (i : Nat) (rows : List TileRow) : List Put :=
  let x := t.tf
  if x.g = 0 then [] else rows.zipIdx.flatMap (fun rm =>
    (List.range x.rowGroups).flatMap (fun k =>
      match t.tileElem tr i rm.2 (k * x.g) with
      | none => []
      | some e =>
        let sa := t.scaleAddr e
        ⟨sa.1, 0xFF, rm.1.scales.getD k 127⟩ :: (if x.fmt.zp then [⟨sa.2, 0xFF, rm.1.zps.getD k 0⟩] else [])))

/-- The in-bounds bytes of a tile, then the scale and zero-point bytes of its in-bounds groups (R207, R259, R260). -/
def Tensor.writeTile (t : Tensor) (tr : Bool) (i : Nat) (rows : List TileRow) : List Put :=
  (t.accessRows tr i rows).flatten ++ t.scalePuts tr i rows

/-- The padding bytes of the scale areas that a STORE of a tile writes scale bytes into, written as zero (R192).
DEDUCED (log 108). -/
def Tensor.padPuts (t : Tensor) (tr : Bool) (i : Nat) : List Put :=
  let x := t.tf
  let blocks := if x.g = 0 then [] else ((List.range 64).flatMap (fun m => (List.range x.rowGroups).filterMap (fun k =>
    (t.tileElem tr i m (k * x.g)).map (fun e => t.fmt.dataOff e / 2048)))).dedup
  blocks.flatMap (fun b =>
    let ga := t.blockArea b
    let n := if x.fmt.zp then 2 * ga.1 else ga.1
    (List.range (scaleArea x.fmt ga.1 - n)).map (fun k => ⟨ga.2 + n + k, 0xFF, 0⟩))

/-- A store put in before the first of a later address. -/
def insertPut (a : Put) : List Put → List Put
  | [] => [a]
  | b :: bs => if a.addr ≤ b.addr then a :: b :: bs else b :: insertPut a bs

/-- Stores in ascending addresses; those of one address keep their order. -/
def sortPuts : List Put → List Put
  | [] => []
  | a :: as => insertPut a (sortPuts as)

/-- What STORE writes of a tile: its rows one after the other, then its scale areas' bytes in ascending addresses.
DEDUCED (log 102). -/
def Tensor.tilePuts (t : Tensor) (tr : Bool) (i : Nat) (rows : List TileRow) : List (List Put) :=
  t.accessRows tr i rows ++
    [sortPuts (t.scalePuts tr i rows ++ t.padPuts tr i)]

/-- Neighbouring stores to one byte joined, the later one's bits winning. -/
def joinPuts : List Put → List Put
  | [] => []
  | a :: as =>
    match joinPuts as with
    | [] => [a]
    | b :: bs =>
      if a.addr = b.addr then
        ⟨a.addr, a.mask ||| b.mask, (a.val &&& (255 - b.mask)) ||| b.val⟩ :: bs
      else a :: b :: bs

/-- The bytes that stores leave, one after the other: the bits that a store leaves are those of the latest earlier store of
its byte, and of `rd` where there is none (R263). -/
def putBytes (rd : Nat → Byte) : List Put → List (Nat × Byte)
  | [] => []
  | p :: ps =>
    let b := BitVec.ofNat 8 (p.val ||| ((rd p.addr).toNat &&& (255 - p.mask)))
    (p.addr, b) :: putBytes (if ps.all (·.mask = 255) then rd else fun a => if a = p.addr then b else rd a) ps

/-- Bytes at consecutive addresses joined. -/
def byteRuns : List (Nat × Byte) → List (Nat × List Byte)
  | [] => []
  | x :: xs =>
    match byteRuns xs with
    | [] => [(x.1, [x.2])]
    | (a, bs) :: rs => if a = x.1 + 1 then (x.1, x.2 :: bs) :: rs else (x.1, [x.2]) :: (a, bs) :: rs

/-- Stores as runs of whole bytes; `rd` supplies the bits that no store writes. -/
def putRuns (rd : Nat → Byte) (ps : List Put) : List (Nat × List Byte) := byteRuns (putBytes rd (joinPuts ps))

/-- Runs of addresses: consecutive single addresses joined. -/
def runs : List Nat → List (Nat × Nat)
  | [] => []
  | a :: as =>
    match runs as with
    | [] => [(a, 1)]
    | (b, n) :: rs => if b = a + 1 then (a, n + 1) :: rs else (a, 1) :: (b, n) :: rs

/-- The addresses that a read of a tile touches: its in-bounds elements and their groups' scale bytes. -/
def Tensor.readAddrs (t : Tensor) (tr : Bool) (i : Nat) : List (Nat × Nat) :=
  let x := t.tf
  runs ((List.range 64).flatMap (fun m => (List.range x.width).flatMap (fun j =>
    match t.tileElem tr i m j with
    | none => []
    | some e =>
      let a := t.addr e
      let sc := if x.g ≠ 0 ∧ j % x.g = 0 then
          let sa := t.scaleAddr e
          if x.fmt.zp then [sa.1, sa.2] else [sa.1]
        else []
      sc ++ (List.range (max 1 (t.fmt.bits / 8))).map (a + ·))))

/-! ### Descriptor checks (R186, R188, R244, R245, R262, R270, R271, R275, R292) -/

/-- What a descriptor is used for, as far as its checks depend on it. -/
structure DescUse where
  /-- written by a STORE, a quantising write or a command -/
  written : Bool := false
  /-- read by COPY_IN_T -/
  transposedRead : Bool := false
  /-- named by a quantising write -/
  quantised : Bool := false
  deriving DecidableEq, Repr

/-- Whether a tensor descriptor passes the checks of R292 but for its extension chain and its scale slot. -/
def tensorOk (d : W512) (u : DescUse) : Bool :=
  let t := tensor d
  let f := Fmt.ofCode (bits d 73 69)
  let g := groupSize (bits d 76 74)
  let lane := if t.fmt.bits = 4 then 128 else 64
  descKind d = 0 ∧ bits d 63 56 = 0 ∧ bits d 127 122 = 0 ∧ 1 ≤ t.rank ∧ t.rank ≤ 6 ∧ f.isSome ∧ g.isSome ∧
  ((List.range 6).all (fun k => k < t.rank || (t.s k == 1 && t.d k == 0))) ∧
  -- R186
  (t.g ≠ 0 → t.fmt.scalable) ∧ (t.fmt.zp → t.g ≠ 0) ∧
  -- R188, R270, R527
  (t.g ≠ 0 → t.s 0 % t.g = 0 ∧ t.s 0 % lane = 0 ∧ t.d 0 = 1 ∧
    ((List.range 6).all (fun k => k == 0 || t.d k % (t.g : Nat) == 0))) ∧
  -- R271
  (t.base % (if t.g = 0 then max 1 (t.fmt.bits / 8) else 64) = 0) ∧
  -- R262
  (u.written → (List.range 6).all (fun k => t.s k == 1 || t.d k != 0)) ∧
  -- R273, R275
  (t.innerT ∨ u.transposedRead → t.g = 0 ∧ 8 ≤ t.fmt.bits ∧ 2 ≤ t.rank) ∧
  ¬(t.innerT ∧ u.transposedRead)

/-- Whether a descriptor of a sparse operand has the sizes, strides and format that its layout asks for (R523, R524, R533,
R535, R536). -/
def Tensor.sparseOk (t : Tensor) : Bool :=
  match t.sparse with
  | 0 => true
  | 3 =>
    decide (t.fmt ∈ [Fmt.int4, .fp4, .fp6e3, .fp6e2, .e4m3, .e5m2, .int8, .bf16, .fp16]) && decide (t.g = 0) && !t.innerT &&
    (List.range 6).all (fun k => k ≥ t.rank || decide (t.d k = (((List.range k).map t.s).prod : Nat)))
  | n =>
    decide (t.d 0 = 1) && !t.innerT && (List.range 6).all (fun k => k == 0 || t.d k % 4 == 0) &&
    decide (t.s 0 % (if t.fmt.bits = 4 then 256 else 128) = 0) && (n == 1 || t.s 1 % 4 == 0)

/-- Whether an extension entry of KIND 1 or 2 is well formed (R287, R288, R5). Bits [63:56] of every address in it are held
zero, where R287 reserves only those of LIST_BASE. DESIGN CHOICE (log 155). -/
def extensionOk (d : W512) : Bool :=
  bits d 63 56 = 0 ∧ bits d 93 66 = 0 ∧ bits d 127 106 = 0 ∧
  (if descKind d = 1 then bits d 191 184 = 0 ∧ bits d 255 248 = 0 ∧ bits d 511 288 = 0
   else bits d 191 184 = 0 ∧ bits d 511 256 = 0)

/-- The extension chain from a LINK, at most `fuel` entries (R290); none when it is not well formed. -/
def chain (descs : List W512) : Nat → Nat → Option (List W512)
  | 0, link => if link = 0 then some [] else none
  | n + 1, link =>
    if link = 0 then some []
    else match descs[link]? with
      | none => none
      | some d =>
        if (descKind d = 1 ∨ descKind d = 2) ∧ extensionOk d then
          (chain descs n (descLink d)).bind (fun rest =>
            if rest.any (fun x => descKind x = descKind d) then none else some (d :: rest))
        else none

/-- The extension of a kind that a descriptor's chain holds. -/
def Plan.extension? (p : Plan) (t : Tensor) (kind : Nat) : Option W512 :=
  (chain p.descs 2 t.link).bind (fun l => l.find? (fun d => descKind d = kind))

/-- Whether a sparse extension suits a descriptor: ROWIDX_BASE is 0 but for gap-coded operands (R288). -/
def Tensor.metaFits (t : Tensor) (x : W512) : Bool := t.sparse == 3 || bits x 191 128 == 0

/-- Whether the chain that a descriptor reaches holds the extensions that its flags use (R288, R289). -/
def Tensor.chainFits (t : Tensor) (l : List W512) : Bool :=
  (!t.outlier || l.any (fun x => descKind x == 1)) &&
  (t.sparse == 0 || (match l.find? (fun x => descKind x = 2) with
    | some x => t.metaFits x
    | none => false))

/-- Whether a descriptor's chain is complete and well formed (R289, R290). -/
def chainOk (descs : List W512) (d : W512) : Bool :=
  let t := tensor d
  match chain descs 2 t.link with
  | none => false
  | some l => t.chainFits l

end Sys2Proof.Machine
end

