-- ==== Sys2Proof/Machine/Hbm.lean ====
section
/-!
DEFINITION. HBM: the physical address map (R309 to R312), reads through the decoder with corrected, uncorrectable and
lost lines (R325 to R330, R921), whole-line writes (R1092), row remaps in progress (R335), and the pools' capacity.
-/

namespace Sys2Proof.Machine

/-- 1 GiB. -/
def gib : Nat := 2 ^ 30

/-- Bytes of HBM that the physical addresses cover (R306, R309). -/
def hbmBytes : Nat := 960 * gib

/-- The active channels of a stack in ascending order (R312). -/
def MemSys.activeList (m : MemSys) (s : Nat) : List Nat :=
  (List.range 32).filter (fun c => (m.stack s).active.getLsbD c)

/-- Active channels of the module (R372). -/
def MemSys.activeCount (m : MemSys) : Nat := ((List.range 12).map (fun s => (m.activeList s).length)).sum

/-- The smallest active capacity of any stack in whole GiB (R315, R341, R372). -/
def MemSys.minGib (m : MemSys) : Nat :=
  (List.range 12).foldl (fun a s => min a (5 * (m.activeList s).length / 2)) 80

/-- A place in HBM: stack, channel and byte within the channel. -/
structure Place where
  stack : Nat
  channel : Nat
  offset : Nat
  deriving DecidableEq, Repr

/-- The stack of a physical address and the address within it (R310, R311). -/
def MemSys.stackOf (m : MemSys) (pa : Nat) : Nat × Nat :=
  let x := m.splitX.toNat * gib
  if pa < 12 * x then
    let u := pa / 4096
    (u % 12, u / 12 * 4096 + pa % 4096)
  else
    let r := 80 * gib - x
    ((pa - 12 * x) / r, x + (pa - 12 * x) % r)

/-- The physical address map (R312). -/
def MemSys.place (m : MemSys) (pa : Nat) : Place :=
  let sa := m.stackOf pa
  let act := m.activeList sa.1
  let g := sa.2 / 256
  { stack := sa.1, channel := act.getD (g % act.length) 0, offset := g / act.length * 256 + sa.2 % 256 }

/-- The row of a place within its channel. DESIGN CHOICE (log 103). -/
def Place.row (p : Place) : Nat := p.offset / Config.hbmRowBytes

/-- Whether a physical address is backed: the home-stack pool of a stack with a retired channel ends earlier (R341). -/
def MemSys.backed (m : MemSys) (pa : Nat) : Bool :=
  let sa := m.stackOf pa
  pa < hbmBytes ∧ 2 * sa.2 < 5 * gib * (m.activeList sa.1).length

/-- What the decoder finds in a line. -/
inductive LineSt where
  | clean | corrected | lost
  deriving DecidableEq, Repr

/-- The state of line `l` (R326 to R330); a listed lost line reads as uncorrectable (R921). -/
def MemSys.line (m : MemSys) (l : Nat) : LineSt :=
  if l ∈ m.lost then .lost
  else match m.errs.find? (fun e => e.line = l) with
    | some e => if e.lost then .lost else .corrected
    | none => .clean

/-- What the code of R325 makes of an error: up to 3 bytes are corrected, 4 and 5 detected, 6 and more detected, miscorrected
or, from the code's distance of 9 on, not seen at all (R325, R326); none is found where no byte is wrong. -/
def foundLine (e : LineErr) : Option BadLine :=
  if e.bytes = 0 then none
  else if e.bytes ≤ 3 then some ⟨e.line, false⟩
  else if e.bytes ≤ 5 then some ⟨e.line, true⟩
  else match e.miss with
    | .detected => some ⟨e.line, true⟩
    | .unseen => if e.bytes < 9 then some ⟨e.line, true⟩ else none
    | .miscorrected => some ⟨e.line, false⟩

/-- Whether an error leaves wrong bytes that the decoder passes on (R326). -/
def wrongLine (e : LineErr) : Bool :=
  match e.miss with
  | .detected => false
  | .unseen => decide (9 ≤ e.bytes)
  | .miscorrected => decide (6 ≤ e.bytes)

/-- An error that the decoder finds from now on: an uncorrectable one outlives a correctable one. -/
def MemSys.strikeLine (m : MemSys) (e : BadLine) : MemSys :=
  if m.errs.any (fun x => x.line = e.line ∧ x.lost) then m
  else { m with errs := m.errs.filter (fun x => x.line ≠ e.line) ++ [e] }

/-- Lines that show an error from now on. The bytes of a line that is wrong unseen are free values.
DESIGN CHOICE (log 5). -/
def MemSys.strike (m : MemSys) (es : List LineErr) : MemSys :=
  es.foldl (fun m e =>
    let m := if wrongLine e then
        { m with hbm := m.hbm.undef (64 * e.line) (64 * e.line + 64) m.draws, draws := m.draws + 1 }
      else m
    match foundLine e with
    | some b => m.strikeLine b
    | none => m) m

/-- What the environment shows of HBM: the errors of its lines, and the corrections that its stacks report (R308).
DESIGN CHOICE (log 5). -/
def MemSys.see (m : MemSys) (env : Env) : MemSys := { (m.strike env.lines) with odc := m.odc + BitVec.ofNat 64 env.odc }

/-- The lines that `n` bytes from `pa` touch. -/
def linesOf (pa n : Nat) : List Nat :=
  if n = 0 then [] else (List.range ((pa + n - 1) / 64 - pa / 64 + 1)).map (· + pa / 64)

/-- The lines among those touched that hold an error or are listed. -/
def MemSys.badLines (m : MemSys) (pa n : Nat) : List Nat :=
  if m.errs.isEmpty && m.lost.isEmpty then []
  else (linesOf pa n).filter (fun l => m.line l ≠ .clean)

/-- Who makes an access: 0 a station, 1 the host, 2 a peer, 3 Cumulus, 4 maintenance, 5 a command. -/
abbrev Requester := Nat

/-- One read of a line through the decoder: a corrected read counts and advances its row's and its channel's windows
(R328); an uncorrectable one counts, is logged with its requester, advances its channel's window and makes its row
lasting (R330, R923, R925). -/
def Work.readLine (w : Work) (rq : Requester) (l : Nat) : Work :=
  let p := w.mem.place (64 * l)
  match w.mem.line l with
  | .clean => w
  | .corrected =>
    let w := { w with mem.ce := w.mem.ce + 1, rel := w.rel.trackRow p.stack p.channel p.row }
    (w.partEvent 0 0 p.stack p.channel p.row 1).partEvent 1 0 p.stack p.channel 0 1
  | .lost =>
    let w := { w with mem.ue := w.mem.ue + 1 }
    let w := w.event 0x0001 4 p.stack p.channel p.row (64 * l) rq
    (w.lasting 0 p.stack p.channel p.row).partEvent 1 1 p.stack p.channel 0 1

/-- Bytes of HBM, those of uncorrectable and lost lines delivered as zeros (R330, R921). -/
def MemSys.hbmRead (m : MemSys) (pa n : Nat) : List Byte :=
  if m.errs.isEmpty && m.lost.isEmpty then m.hbm.readN pa n
  else (List.range n).map (fun i => if m.line ((pa + i) / 64) = .lost then 0 else m.hbm.read (pa + i))

/-- The effects of a read of `n` bytes on counters, windows and log. -/
def Work.readEffects (w : Work) (rq : Requester) (pa n : Nat) : Work :=
  (w.mem.badLines pa n).foldl (fun w l => w.readLine rq l) w

/-- A lost line listed, or, with the list of 4,096 full, only logged (R921, R922). -/
def Work.listLost (w : Work) (l : Nat) : Work :=
  if l ∈ w.mem.lost then w
  else
    let p := w.mem.place (64 * l)
    if w.mem.lost.length < 4096 then
      ({ w with mem.lost := w.mem.lost ++ [l] }).event 0x000B 4 p.stack p.channel p.row (64 * l) 0
    else ({ w with rel.lostListFull := true }).event 0x000B 4 p.stack p.channel p.row (64 * l) 1

/-- A remap whose copy starts again. -/
def Remap.again (r : Remap) : Remap := if r.inEffect then r else { r with copied := false, due := false, zeroed := [] }

/-- A write reaching a row whose remap copy has started starts that copy again (R335). -/
def MemSys.restartCopy (m : MemSys) (pa n : Nat) : MemSys :=
  if m.remaps.isEmpty then m
  else { m with remaps := m.remaps.map (fun r =>
      if r.copied && !r.inEffect && (linesOf pa n).any (fun l =>
          let p := m.place (64 * l); p.stack = r.stack ∧ p.channel = r.channel ∧ p.row = r.row)
      then r.again else r) }

/-- The two partial lines at the ends of a write, as far as they are partial (R317). -/
def partialLines (pa n : Nat) : List Nat :=
  if n = 0 then []
  else
    let a := pa / 64
    let b := (pa + n - 1) / 64
    let fa := pa % 64 ≠ 0 ∨ (a = b ∧ (pa + n) % 64 ≠ 0)
    let fb := a ≠ b ∧ (pa + n) % 64 ≠ 0
    (if fa then [a] else []) ++ (if fb then [b] else [])

/-- A line that a write covers in part: when it reads as uncorrectable its other bytes become zeros and it is
listed; when it is listed already its other bytes become zeros and it stays; otherwise the error is gone (R1092). -/
def Work.mergeLine (w : Work) (rq : Requester) (l : Nat) : Work :=
  match w.mem.line l with
  | .clean => w
  | .corrected =>
    let w := w.readLine rq l
    { w with mem.errs := w.mem.errs.filter (fun e => e.line ≠ l) }
  | .lost =>
    let listed : Bool := l ∈ w.mem.lost
    let w := if listed then w else w.readLine rq l
    let w := { w with mem.hbm := w.mem.hbm.write (64 * l) (zeros 64)
                      mem.errs := w.mem.errs.filter (fun e => e.line ≠ l) }
    if listed then w else w.listLost l

/-- A write to HBM (R1092): whole lines afresh, partial lines merged with what the decoder reads. -/
def Work.hbmWrite (w : Work) (rq : Requester) (pa : Nat) (bs : List Byte) : Work :=
  let n := bs.length
  let w :=
    if w.mem.errs.isEmpty && w.mem.lost.isEmpty then w
    else
      let parts := partialLines pa n
      let w := parts.foldl (fun w l => w.mergeLine rq l) w
      let whole := (linesOf pa n).filter (· ∉ parts)
      { w with mem.errs := w.mem.errs.filter (fun e => e.line ∉ whole)
               mem.lost := w.mem.lost.filter (· ∉ whole) }
  { w with mem := { (w.mem.restartCopy pa n) with hbm := w.mem.hbm.write pa bs } }

/-- A scrub of a line (R944): a corrected line is written back, which a row copy that has started meets as any write (R335); an
uncorrectable one stays. -/
def Work.scrubLine (w : Work) (l : Nat) : Work :=
  let st := w.mem.line l
  let w := w.readLine 4 l
  if st = .corrected then
    { w with mem := { (w.mem.restartCopy (64 * l) 64) with errs := w.mem.errs.filter (fun e => e.line ≠ l) } }
  else w

/-- The lines with errors that lie in a channel. -/
def MemSys.errsIn (m : MemSys) (stack ch : Nat) : List Nat :=
  (m.errs.map (·.line)).filter (fun l => let p := m.place (64 * l); p.stack = stack ∧ p.channel = ch)

/-- A scrub of a channel: every line that holds an error is read, and written back when corrected (R944). -/
def Work.scrubChannel (w : Work) (stack ch : Nat) : Work :=
  (w.mem.errsIn stack ch).foldl (fun w l => w.scrubLine l) w

/-! ### Arbiters of the channels (R346) -/

/-- The global channel of a physical address (R312). -/
def MemSys.channelOf (m : MemSys) (pa : Nat) : Nat := let p := m.place pa; 32 * p.stack + p.channel

/-- The classes of a channel's arbiter, from the highest priority down (R346).
DESIGN CHOICE (log 10). -/
def MemSys.priority (m : MemSys) (channel : Nat) : List Nat :=
  let xs := mget m.order [] channel
  if xs.isEmpty then [0, 1, 2] else xs

/-- The class just granted drops to the lowest priority (R346). -/
def MemSys.rotate (m : MemSys) (channel cls : Nat) : MemSys :=
  if cls < 3 then { m with order := mset m.order [] channel ((m.priority channel).filter (· ≠ cls) ++ [cls]) } else m

end Sys2Proof.Machine
end

