-- ==== Sys2Proof/Machine/Pages.lean ====
section
/-!
DEFINITION. Bytes at device addresses (R298, R299, R301), and Cumulus's records and page tables in them (R653 to R668).
-/

namespace Sys2Proof.Machine

/-- The region that permits an access at a device address (R298, R299); none is a translation fault. -/
def Work.permit (w : Work) (addr : Nat) (wr : Bool) : Option (Nat × Reg) :=
  match w.plan with
  | none => none
  | some p =>
    match p.region? addr with
    | none => none
    | some (i, r) => if (if wr then Reg.write r else Reg.read r) then some (i, r) else none

/-- The target address of a device address in a region (R298). -/
def Reg.target! (r : Reg) (addr : Nat) : Nat := Reg.tbase r + (addr - Reg.vbase r)

/-- The byte of local HBM at an address as a reader finds it: a byte that a STORE has moved is not visible before its time, so the
byte before it is read until then (R24). DEDUCED (log 174). -/
def Work.hbmSeen (w : Work) (t : Nat) : Byte :=
  let now := w.now w.cad.offset.toNat
  match (w.run.landed.filter (fun l => decide (l.space = 0 ∧ now < l.seen ∧ l.lo ≤ t ∧ t < l.hi))).getLast? with
  | none => w.mem.hbm.read t
  | some l => (mget l.base [] (t / 64)).getD (t % 64) (w.mem.hbm.read t)

/-- The byte at a device address of a region: zero in a line that reads as uncorrectable (R330, R921); a peer's bytes are
those that its last response brought or that this module stored since. -/
def Work.regionByte (w : Work) (r : Reg) (addr : Nat) : Byte :=
  let t := Reg.target! r addr
  match Reg.target r with
  | 0 => if w.mem.line (t / 64) = .lost then 0 else w.mem.hbm.read t
  | 1 => (mget w.mem.peers {} (Reg.peer r)).read t
  | _ => w.mem.companion.read t

/-- The byte at a device address of a region as a reader finds it. -/
def Work.seenByte (w : Work) (r : Reg) (addr : Nat) : Byte :=
  let t := Reg.target! r addr
  if Reg.target r = 0 ∧ w.mem.line (t / 64) ≠ .lost then w.hbmSeen t else w.regionByte r addr

/-- The byte at a device address as a read delivers it: zero on a fault (R301). -/
def Work.devByte (w : Work) (addr : Nat) : Byte :=
  match w.permit addr false with
  | none => 0
  | some (_, r) => w.seenByte r addr

/-- The byte at a device address into which a write of a part of it merges (R263, R317): a region that permits writes need not
permit reads. -/
def Work.heldByte (w : Work) (addr : Nat) : Byte :=
  match w.permit addr true with
  | none => 0
  | some (_, r) => w.regionByte r addr

/-! ### The policy (R653 to R657) -/

/-- POOL_PAGES. -/
def Policy.poolPages (p : Policy) : Nat := p.field 0x08 4
/-- PAGE_FORMAT as an element format. -/
def Policy.fmt (p : Policy) : Fmt :=
  match p.field 0x0C 1 with
  | 0 => .bf16 | 1 => .e4m3 | 2 => .e5m2 | _ => .int8
/-- HEADS. -/
def Policy.heads (p : Policy) : Nat := p.field 0x0D 1
/-- LAYERS. -/
def Policy.layers (p : Policy) : Nat := p.field 0x0E 1
/-- DECAY_SHIFT. -/
def Policy.decay (p : Policy) : Nat := p.field 0x0F 1
/-- META_BASE. -/
def Policy.metaBase (p : Policy) : Nat := p.field 0x10 8
/-- TBLK_BASE. -/
def Policy.tblkBase (p : Policy) : Nat := p.field 0x18 8
/-- TBLK_COUNT. -/
def Policy.tblkCount (p : Policy) : Nat := p.field 0x20 4
/-- LOW_WM. -/
def Policy.low (p : Policy) : Nat := p.field 0x24 4
/-- HIGH_WM. -/
def Policy.high (p : Policy) : Nat := p.field 0x28 4
/-- BATCH_ROWS. -/
def Policy.rows (p : Policy) : Nat := p.field 0x2C 2
/-- STALL_BASE. -/
def Policy.stallBase (p : Policy) : Nat := p.field 0x30 8

/-- Bytes of a key block or a value block (R609). -/
def Policy.blockBytes (p : Policy) : Nat := if p.fmt = .bf16 then 16384 else 8448
/-- PAGE_BYTES (R655). -/
def Policy.pageBytes (p : Policy) : Nat := p.heads * (2 * p.blockBytes)
/-- The device address of pool page `n` (R655). -/
def Policy.pool (p : Policy) (n : Nat) : Nat := p.field 0x00 8 + n * p.pageBytes

/-- The tier entries: BASE and PAGES (R653). -/
def Policy.tierAreas (p : Policy) : List (Nat × Nat) :=
  (List.range 8).map (fun k => (p.field (0x40 + 16 * k) 8, p.field (0x48 + 16 * k) 4))
/-- Tier pages. -/
def Policy.tierPages (p : Policy) : Nat := (p.tierAreas.map (·.2)).sum
/-- The place of tier page `i` in areas taken in order (R654). -/
def tierPlace (bytes : Nat) : List (Nat × Nat) → Nat → Nat
  | [], _ => 0
  | (b, n) :: rest, i => if i < n then b + bytes * i else tierPlace bytes rest (i - n)
/-- The device address of tier page `i`. -/
def Policy.tier (p : Policy) (i : Nat) : Nat := tierPlace p.pageBytes p.tierAreas i

/-- The layout of a key block or a value block at a device address (R608, R609). -/
def Policy.block (p : Policy) (addr : Nat) : Tensor :=
  { base := addr, rank := 2, fmt := p.fmt, g := if p.fmt = .bf16 then 0 else 128, innerT := false, sparse := 0
    outlier := false, slotEn := false, slot := 0, link := 0, fill := 0
    size := [128, 64, 1, 1, 1, 1], stride := [1, 128, 0, 0, 0, 0] }

/-- The armed policy. -/
def Work.policy? (w : Work) : Option Policy := w.plan.bind (·.policy)

/-! ### Bytes of Cumulus's tables -/

/-- A number of `n` bytes at a device address. -/
def Work.cumNum (w : Work) (a n : Nat) : Nat := leNat ((List.range n).map (fun k => w.devByte (a + k)))

/-- Bytes at a device address. -/
def Work.cumBytes (w : Work) (a n : Nat) : List Byte := (List.range n).map (fun k => w.devByte (a + k))

/-! ### Slot records, layer roots and page tables (R662 to R666) -/

/-- The slot record of a slot. -/
def Policy.record (p : Policy) (s : Nat) : Nat := p.metaBase + 64 * s
/-- The layer root of a layer of a slot. -/
def Policy.root (p : Policy) (s l : Nat) : Nat := p.metaBase + 4194304 + 256 * (p.layers * s + l)

/-- TOKENS of a layer. -/
def Work.tokens (w : Work) (p : Policy) (s l : Nat) : Nat := w.cumNum (p.root s l) 4
/-- HELD of a layer. -/
def Work.held (w : Work) (p : Policy) (s l : Nat) : Nat := w.cumNum (p.root s l + 4) 4
/-- EVICT_EN of a slot. -/
def Work.evictEn (w : Work) (p : Policy) (s : Nat) : Bool := w.cumNum (p.record s + 1) 1 % 2 = 1
/-- BUDGET of a slot. -/
def Work.budget (w : Work) (p : Policy) (s : Nat) : Nat := w.cumNum (p.record s + 8) 4

/-- Where the walker finds the entry of a logical page: at an address, nowhere, or through a bad pointer (R665, R666,
R668). -/
inductive EntAt where
  | found (addr : Nat)
  | absent
  | bad
  deriving DecidableEq, Repr

/-- Following a pointer word to word `i` of its block. -/
def Policy.follow (p : Policy) (ptr i : Nat) : EntAt :=
  if ptr / 2 ^ 63 % 2 = 0 then .absent
  else if p.tblkCount ≤ ptr % 2 ^ 24 then .bad
  else .found (p.tblkBase + 4096 * (ptr % 2 ^ 24) + 8 * i)

/-- The entry of logical page `k` (the walk under R665). -/
def Work.entAt (w : Work) (p : Policy) (s l k : Nat) : EntAt :=
  let root := p.root s l
  if k < 16 then .found (root + 8 + 8 * k)
  else if k < 528 then p.follow (w.cumNum (root + 0x88) 8) (k - 16)
  else match p.follow (w.cumNum (root + 0x90) 8) ((k - 528) / 512) with
    | .found a => p.follow (w.cumNum a 8) ((k - 528) % 512)
    | x => x

/-- A page table entry; EMPTY where the walk finds none. -/
def Work.ent (w : Work) (p : Policy) (s l k : Nat) : Nat :=
  match w.entAt p s l k with
  | .found a => w.cumNum a 8
  | _ => 0

/-- PAGE of an entry. -/
def entPage (x : Nat) : Nat := x % 2 ^ 24
/-- STATE of an entry. -/
def entState (x : Nat) : Nat := x / 2 ^ 24 % 8
/-- SCORE of an entry. -/
def entScore (x : Nat) : FVal := fp32 (BitVec.ofNat 32 (x / 2 ^ 32))
/-- An entry with a page and a state, its score kept. -/
def entWith (x page state : Nat) : Nat := page % 2 ^ 24 + 2 ^ 24 * state + 2 ^ 32 * (x / 2 ^ 32)

/-- Logical pages that a token count reaches. -/
def pagesOf (tokens : Nat) : Nat := ceilDiv tokens 64

/-- The logical pages that a layer holds, in ascending order. -/
def Work.heldPages (w : Work) (p : Policy) (s l : Nat) : List Nat :=
  (List.range (pagesOf (w.tokens p s l))).filter (fun k => entState (w.ent p s l k) ≠ 0)

/-- The pool page that an entry in state RESIDENT, FILLING or SPILLING names (R665). -/
def poolEntry (x n : Nat) : Bool := decide (entPage x = n) && decide (1 ≤ entState x ∧ entState x ≤ 3)

/-- Whether a page is FILLING and holds no pool page yet: its append is deferred, or its fetch has not begun (R680, R685). -/
def Cum.unplaced (c : Cum) (s l k : Nat) : Bool :=
  c.deferred.any (fun m => m.slot = s ∧ m.layer = l ∧ m.page = k) ||
  c.filling.any (fun m => m.slot = s ∧ m.layer = l ∧ m.page = k ∧ m.spilled)

/-- The sequence slot, layer and logical page that a device address of the Cumulus pool belongs to.
DEDUCED (log 101). -/
def Work.pageAt (w : Work) (addr : Nat) : Option (Nat × Nat × Nat) :=
  match w.policy? with
  | none => none
  | some p =>
    let off := addr - p.pool 0
    if addr < p.pool 0 ∨ p.poolPages * p.pageBytes ≤ off then none
    else
      let n := off / p.pageBytes
      w.cum.openSlots.findSome? (fun s => (List.range p.layers).findSome? (fun l =>
        ((w.heldPages p s l).find? (fun k => poolEntry (w.ent p s l k) n && !w.cum.unplaced s l k)).map (fun k => (s, l, k))))

end Sys2Proof.Machine
end

