-- ==== Sys2Proof/Machine/Access.lean ====
section
/-!
DEFINITION. Device addresses: translation through the region table (R295 to R304, R857), reads and writes of local
HBM, peer HBM and companion memory by stations and by commands, and the step events they cause (R299, R301, R917,
R918, R771).
-/

namespace Sys2Proof.Machine

/-- Who makes a station access: logical core, firing, descriptor (or batch position), and herd time; and the herd time from which
what it writes is visible (R24). -/
structure Acc where
  core : Nat
  firing : Nat
  desc : Nat
  time : Nat
  seen : Nat := 0
  deriving DecidableEq, Repr

/-- The step event of an access at a device address. -/
def Acc.event (a : Acc) (addr : Nat) : StepEvent :=
  { time := a.time, core := a.core, firing := a.firing, which := a.desc, addr := addr }

/-- A run of addresses cut at the 2 MiB units of the region table. -/
def cut2M : Nat → Nat × Nat → List (Nat × Nat)
  | 0, _ => []
  | k + 1, (a, n) =>
    let m := min n (2 ^ 21 - a % 2 ^ 21)
    if n = 0 then [] else (a, m) :: cut2M k (a + m, n - m)

/-- Runs of addresses, each within one 2 MiB unit. -/
def cutRuns (rs : List (Nat × Nat)) : List (Nat × Nat) := rs.flatMap (fun r => cut2M (r.2 / 2 ^ 21 + 2) r)

/-- A run cut into pieces of at most 2,048 bytes: the accesses of an unscheduled packet (R749). -/
def cut2K : Nat → Nat × Nat → List (Nat × Nat)
  | 0, _ => []
  | k + 1, (a, n) => if n = 0 then [] else (a, min n 2048) :: cut2K k (a + min n 2048, n - min n 2048)

/-- What the log says of committed data lost: the sequence slot, layer and page of a line in the Cumulus pool (R919),
otherwise its stack, channel and row; of a peer's line, its physical address alone.
DEDUCED (log 101). -/
def Work.logLost (w : Work) (region : Nat) (g : Reg) (line : Nat) : Work :=
  match w.pageAt (Reg.vbase g + (64 * line - Reg.tbase g)) with
  | some (s, l, k) => w.event 0x0007 4 s l k (64 * line) region
  | none =>
    if Reg.target g = 0 then
      let p := w.mem.place (64 * line)
      w.event 0x0007 4 p.stack p.channel p.row (64 * line) region
    else w.event 0x0007 4 0xFFFF 0 0 (64 * line) region

/-- An uncorrectable read of a line of a region by a station of a running step: a detection when the region is a scratch
region or a write version, otherwise a loss of committed data (R917, R918). -/
def Work.judgeLost (w : Work) (acc : Acc) (region line : Nat) : Work :=
  if w.stepping then
    match w.plan with
    | none => w
    | some p =>
      if p.replayable region then w.detect acc.core .hbm
      else
        let r : Reg := p.regions.getD region 0
        let w := w.logLost region r line
        let run := w.run.blame stDataLost { (acc.event (Reg.vbase r)) with which := region }
        { w with run := { run with wantStop := true } }
  else w

/-- One run of addresses read by a station, its effects only. -/
def Work.readRun (w : Work) (acc : Acc) (r : Nat × Nat) : Work :=
  match w.permit r.1 false with
  | none => { w with run := w.run.blame stXlateFault (acc.event r.1) }
  | some (i, g) =>
    if Reg.target g = 0 then
      let bad := w.mem.badLines (Reg.target! g r.1) r.2
      bad.foldl (fun w l =>
        let lost := w.mem.line l = .lost
        let w := w.readLine 0 l
        if lost then w.judgeLost acc i l else w) w
    else w

/-- A request for a piece of a peer's HBM (R749): a tag is taken and the request sent; a path that meets a masked
port loses the peer (R771). -/
def Work.request (w : Work) (fab : Fab) (acc : Acc) (region : Nat) (g : Reg) (wr : Bool) (piece : Nat × Nat)
    (data : List Byte) : Work × List Nat :=
  let tag := w.mem.nextTag % 1024
  let dest := Reg.peer g
  if fab.reachable (dest % 1024) tag then
    let t := Reg.target! g piece.1
    let rq : Req := { tag := tag, peer := dest, addr := t, len := piece.2, write := wr, core := acc.core
                      firing := acc.firing, region := region }
    ({ w with mem.nextTag := tag + 1, mem.reqs := w.mem.reqs ++ [rq]
              out := w.out ++ [Out.request tag 0 dest t piece.2 (b2n wr) data] }, [tag])
  else ({ w with run := w.run.blame stPeerLost { (acc.event 0) with which := dest % 1024 } }, [])

/-- The runs of a read that lie in regions of a target. -/
def Work.inTarget (w : Work) (rs : List (Nat × Nat)) (wr : Bool) (target : Nat) : List (Nat × Nat × Reg × Nat) :=
  rs.filterMap (fun r => match w.permit r.1 wr with
    | some (i, g) => if Reg.target g = target then some (r.1, r.2, g, i) else none
    | none => none)

/-- A station's read of device addresses. It waits for the link when that is down and companion memory is read
(R827), and for the peers whose data have not come yet (`fresh`: they have); otherwise its effects happen, and the
bytes are those of `devByte`. -/
def Work.reach (w : Work) (fab : Fab) (acc : Acc) (rs : List (Nat × Nat)) (fresh : Bool) :
    Work × Option (Stall × List Nat) :=
  let rs := cutRuns rs
  if !w.dev.linkUp && !(w.inTarget rs false 2).isEmpty then (w, some (.link, []))
  else
    let peers := w.inTarget rs false 1
    if !fresh && !peers.isEmpty then
      let res := peers.foldl (fun (wt : Work × List Nat) x =>
        (cut2K (x.2.1 / 2048 + 1) (x.1, x.2.1)).foldl (fun (wt : Work × List Nat) piece =>
          let r := wt.1.request fab acc x.2.2.2 x.2.2.1 false piece []
          (r.1, wt.2 ++ r.2)) wt) (w, [])
      if res.2.isEmpty then (rs.foldl (fun w r => w.readRun acc r) res.1, none)
      else (res.1, some (.peer, res.2))
    else (rs.foldl (fun w r => w.readRun acc r) w, none)

/-- The interval of a firing's writes, from its issue to the visibility of its last byte, as far as that is known (R264). -/
def Work.writeSpan (w : Work) (acc : Acc) : Nat × Nat :=
  match (w.core acc.core).prog.find? (·.idx = acc.firing) with
  | none => (acc.time, acc.time)
  | some x => (x.issued, max x.ends (w.cad.time + w.cad.offset.toNat))

/-- Whether two runs of addresses share a byte of a line. -/
def shareLine (i lo hi lo' hi' : Nat) : Bool := decide (max lo (max lo' (64 * i)) < min hi (min hi' (64 * i + 64)))

/-- The write of another firing that is unordered with this access's firing and shares with it, in a write of `n` bytes at `t` or in
one before, a byte of line `i`: the newest (R264). -/
def Work.rival (w : Work) (acc : Acc) (space t n i : Nat) : Option Landed :=
  let me := w.writeSpan acc
  let own (l : Landed) : Bool := decide (l.core = acc.core ∧ l.firing = acc.firing)
  let mine := (t, t + n) :: (w.run.landed.filter (fun l => own l && decide (l.space = space))).map (fun l => (l.lo, l.hi))
  w.run.landed.find? (fun l => l.space = space ∧ !own l ∧ l.from_ ≤ me.2 ∧ me.1 ≤ l.until_ ∧
    mine.any (fun x => shareLine i l.lo l.hi x.1 x.2))

/-- Whether of a write that came and a firing's write that comes now the latter is left on a line (R265). DESIGN CHOICE (log 75). -/
def Work.prevails (w : Work) (acc : Acc) (l : Landed) (line : Nat) : Bool :=
  let a := [l.core, l.firing, l.from_]
  let b := [acc.core, acc.firing, (w.writeSpan acc).1]
  if l.core < acc.core ∨ (l.core = acc.core ∧ l.firing < acc.firing) then !Config.freeWinner (a ++ b) line
  else Config.freeWinner (b ++ a) line

/-- The byte of a memory: 0 local HBM, 1 companion memory, 2 and more a peer's HBM. -/
def MemSys.spaceByte (m : MemSys) (space t : Nat) : Byte :=
  match space with
  | 0 => m.hbm.read t
  | 1 => m.companion.read t
  | k + 2 => (mget m.peers {} k).read t

/-- What a station's write of bytes at `t` of a memory writes line by line. A line with a byte that an unordered write reached before
is left as that write, or becomes what it was with this firing's bytes alone (R264, R265). DESIGN CHOICE (log 75). -/
def Work.settleLine (w : Work) (acc : Acc) (space t : Nat) (bs : List Byte) (i : Nat) : List (Nat × List Byte) :=
  let part := (bs.zipIdx.map (fun b => (t + b.2, b.1))).filter (fun x => x.1 / 64 = i)
  match w.rival acc space t bs.length i with
  | none => byteRuns part
  | some l =>
    if w.prevails acc l i then
      let again := w.run.landed.any (fun x => x.core = acc.core ∧ x.firing = acc.firing ∧ x.space = space ∧
        shareLine i l.lo l.hi x.lo x.hi)
      if again then byteRuns part
      else [(64 * i, (List.range 64).map (fun k =>
        ((part.find? (fun x => x.1 = 64 * i + k)).map (·.2)).getD
          ((mget l.base [] i).getD k (w.mem.spaceByte space (64 * i + k)))))]
    else []

/-- The runs that a station's write of bytes at `t` of a memory writes (R265). -/
def Work.settle (w : Work) (acc : Acc) (space t : Nat) (bs : List Byte) : List (Nat × List Byte) :=
  if (linesOf t bs.length).all (fun i => (w.rival acc space t bs.length i).isNone) then [(t, bs)]
  else (linesOf t bs.length).flatMap (w.settleLine acc space t bs)

/-- A write about to be made, remembered for those that are not ordered against it and for readers that do not see it yet: one that
goes on where the firing's last one ended joins it (R24, R264). -/
def Work.recordWrite (w : Work) (acc : Acc) (space t n : Nat) : Work :=
  let me := w.writeSpan acc
  let base (old : List (Nat × List Byte)) := (linesOf t n).foldl (fun m i =>
    if m.any (·.1 = i) then m else mset m [] i ((List.range 64).map (fun k => w.mem.spaceByte space (64 * i + k)))) old
  let mine : Landed := { core := acc.core, firing := acc.firing, from_ := me.1, until_ := me.2, space := space, lo := t, hi := t + n
                         seen := acc.seen, base := base [] }
  { w with run.landed := match w.run.landed with
      | [] => [mine]
      | x :: l => if x.core = mine.core ∧ x.firing = mine.firing ∧ x.space = space ∧ x.seen = mine.seen ∧ x.hi = t then
          { mine with lo := x.lo, base := base x.base } :: l
        else mine :: x :: l }

/-- The runs of a write that lie outside some lines. -/
def outside (ls : List Nat) (t : Nat) (bs : List Byte) : List (Nat × List Byte) :=
  byteRuns ((bs.zipIdx.map (fun b => (t + b.2, b.1))).filter (fun x => x.1 / 64 ∉ ls))

/-- A run of a station's write to local HBM: the uncorrectable lines that it covers in part are read, and judged (R1092, R917).
DEDUCED (log 102). -/
def Work.stationRun (w : Work) (acc : Acc) (region t : Nat) (bs : List Byte) : Work :=
  let read := (w.mem.badLines t bs.length).filter (fun l =>
    w.mem.line l = .lost ∧ l ∉ w.mem.lost ∧ l ∈ partialLines t bs.length)
  read.foldl (fun w l => w.judgeLost acc region l) (w.hbmWrite 0 t bs)

/-- A station's write of bytes at a device address (R299, R301): the tags of the acknowledgements it waits for.
DESIGN CHOICE (log 75). -/
def Work.devWrite (w : Work) (fab : Fab) (acc : Acc) (addr : Nat) (bs : List Byte) : Work × List Nat :=
  (cut2M (bs.length / 2 ^ 21 + 2) (addr, bs.length)).foldl (fun (wt : Work × List Nat) piece =>
    let data := (bs.drop (piece.1 - addr)).take piece.2
    match wt.1.permit piece.1 true with
    | none => ({ wt.1 with run := wt.1.run.blame stXlateFault (acc.event piece.1) }, wt.2)
    | some (i, g) =>
      let t := Reg.target! g piece.1
      let space := match Reg.target g with
        | 0 => 0
        | 1 => 2 + Reg.peer g
        | _ => 1
      let rs := wt.1.settle acc space t data
      let w := wt.1.recordWrite acc space t data.length
      match Reg.target g with
      | 0 => (rs.foldl (fun w r => w.stationRun acc i r.1 r.2) w, wt.2)
      | 1 => (rs.flatMap (fun r => (cut2K (r.2.length / 2048 + 1) (r.1, r.2.length)).map (fun k =>
            (k, (r.2.drop (k.1 - r.1)).take k.2)))).foldl (fun (wt : Work × List Nat) x =>
          let r := wt.1.request fab acc i g true (x.1.1 - Reg.tbase g + Reg.vbase g, x.1.2) x.2
          ({ r.1 with mem.peers := mmod r.1.mem.peers {} (Reg.peer g) (·.write x.1.1 x.2) }, wt.2 ++ r.2)) (w, wt.2)
      | _ => (rs.foldl (fun w r => w.linkWrite r.1 r.2) w, wt.2)) (w, [])

/-- A station's stores, in their order. -/
def Work.devPuts (w : Work) (fab : Fab) (acc : Acc) (ps : List Put) : Work × List Nat :=
  (putRuns w.heldByte ps).foldl (fun (wt : Work × List Nat) r =>
    let x := wt.1.devWrite fab acc r.1 r.2
    (x.1, wt.2 ++ x.2)) (w, [])

/-- A station's stores of the rows of a tile, each with its access. -/
def Work.devRows (w : Work) (fab : Fab) (acc : Nat → Acc) (rows : List (List Put)) : Work × List Nat :=
  rows.zipIdx.foldl (fun (wt : Work × List Nat) ps =>
    let x := wt.1.devPuts fab (acc ps.2) ps.1
    (x.1, wt.2 ++ x.2)) (w, [])

/-! ### Commands -/

/-- Where a device address of a command's descriptor lies: through the armed plan's regions, otherwise the HBM
physical address itself (R857). DEDUCED (log 60). -/
def Work.cmdRegion (w : Work) (addr : Nat) (wr : Bool) : Option (Nat × Nat × Nat) :=
  -- (target, peer, address)
  match w.plan with
  | none => if addr < hbmBytes then some (0, 0, addr) else none
  | some _ => (w.permit addr wr).map (fun x => (Reg.target x.2, Reg.peer x.2, Reg.target! x.2 addr))

/-- The byte at a place that a command reaches: target, peer and address. -/
def Work.placeByte (w : Work) (x : Option (Nat × Nat × Nat)) : Byte :=
  match x with
  | none => 0
  | some (0, _, t) => if w.mem.line (t / 64) = .lost then 0 else w.mem.hbm.read t
  | some (1, p, t) => (mget w.mem.peers {} p).read t
  | some (_, _, t) => w.mem.companion.read t

/-- The byte at a device address as a command reads it. DEDUCED (log 60). -/
def Work.cmdByte (w : Work) (addr : Nat) : Byte := w.placeByte (w.cmdRegion addr false)

/-- The byte at a device address into which a command's write of a part of it merges. DEDUCED (log 60). -/
def Work.cmdHeld (w : Work) (addr : Nat) : Byte := w.placeByte (w.cmdRegion addr true)

/-- The effects of a command's reads on HBM counters and windows. -/
def Work.cmdReads (w : Work) (rs : List (Nat × Nat)) : Work :=
  (cutRuns rs).foldl (fun w r => match w.cmdRegion r.1 false with
    | some (0, _, t) => w.readEffects 5 t r.2
    | _ => w) w

/-- Bytes stored by a command at a device address. DEDUCED (log 60). -/
def Work.cmdWrite (w : Work) (addr : Nat) (bs : List Byte) : Work :=
  (cut2M (bs.length / 2 ^ 21 + 2) (addr, bs.length)).foldl (fun w piece =>
    let data := (bs.drop (piece.1 - addr)).take piece.2
    match w.cmdRegion piece.1 true with
    | some (0, _, t) => w.hbmWrite 5 t data
    | some (1, p, t) =>
      { w with out := w.out ++ [Out.request 0 0 p t piece.2 1 data]
               mem.peers := mmod w.mem.peers {} p (·.write t data) }
    | some (_, _, t) => w.linkWrite t data
    | none => w) w

/-- The areas that hold pages: the pool and the tiers. -/
def Policy.pageAreas (p : Policy) : List (Nat × Nat) :=
  (p.pool 0, p.poolPages * p.pageBytes) :: p.tierAreas.map (fun x => (x.1, x.2 * p.pageBytes))

/-- What R661 keeps the driver from writing: pool, tiers, slot records and layer roots, indirect blocks.
DESIGN CHOICE (log 100). -/
def Policy.areas (p : Policy) : List (Nat × Nat) :=
  p.pageAreas ++ [(p.metaBase, 4194304 + 16777216 * p.layers), (p.tblkBase, 4096 * p.tblkCount)]

/-- Whether a write of `n` bytes at a device address touches an area that R661 names while the policy is armed.
DESIGN CHOICE (log 100). -/
def Work.spoils (w : Work) (addr n : Nat) : Bool :=
  match w.policy? with
  | none => false
  | some p => p.areas.any (fun x => decide (addr < x.1 + x.2 ∧ x.1 < addr + n))

/-- The parts of memory that a range of device addresses maps to: target, peer, first address and end. -/
def Plan.memSpans (p : Plan) (a n : Nat) : List (Nat × Nat × Nat × Nat) :=
  p.regions.filterMap (fun r =>
    let lo := max a (Reg.vbase r)
    let hi := min (a + n) (Reg.vbase r + Reg.size r)
    if Reg.valid r ∧ lo < hi then some (Reg.target r, Reg.peer r, Reg.target! r lo, Reg.target! r lo + (hi - lo)) else none)

/-- A part of memory whose bytes are free values from now on. -/
def MemSys.undefAt (m : MemSys) (x : Nat × Nat × Nat × Nat) : MemSys :=
  let m := match x.1 with
    | 0 => { m with hbm := m.hbm.undef x.2.2.1 x.2.2.2 m.draws }
    | 1 => { m with peers := mmod m.peers {} x.2.1 (·.undef x.2.2.1 x.2.2.2 m.draws) }
    | _ => { m with companion := m.companion.undef x.2.2.1 x.2.2.2 m.draws }
  { m with draws := m.draws + 1 }

/-- After such a write the contents of every sequence, that is of the pool and of the tiers, are undefined (R661).
DESIGN CHOICE (log 100). -/
def Work.spoil (w : Work) (addr n : Nat) : Work :=
  match w.plan with
  | none => w
  | some pl =>
    match pl.policy with
    | none => w
    | some p =>
      if w.spoils addr n then
        { w with mem := (p.pageAreas.flatMap (fun x => pl.memSpans x.1 x.2)).foldl MemSys.undefAt w.mem }
      else w

/-- The device address that a host's HBM physical address has in the region that holds it (R831).
DEDUCED (log 107). -/
def Work.hostAddr (w : Work) (pa : Nat) : Option Nat :=
  ((w.plan.bind (fun p => p.regionOf? pa)).map (fun x => Reg.vbase x.2 + (pa - Reg.tbase x.2)))

/-- Whether a host store touches an area that R661 names. -/
def Work.hostSpoils (w : Work) (pa n : Nat) : Bool :=
  match w.hostAddr pa with
  | some a => w.spoils a n
  | none => false

/-- What a host store leaves of the Cumulus pool (R661). DESIGN CHOICE (log 100). -/
def Work.hostSpoil (w : Work) (pa n : Nat) : Work :=
  match w.hostAddr pa with
  | some a => w.spoil a n
  | none => w

/-- Whether every address of an extent lies in regions that permit the access (R299, R857). -/
def Work.cmdExtentOk (w : Work) (addr n : Nat) (wr : Bool) : Bool :=
  (cut2M (n / 2 ^ 21 + 2) (addr, n)).all (fun r => (w.cmdRegion r.1 wr).isSome && (w.cmdRegion (r.1 + r.2 - 1) wr).isSome)

end Sys2Proof.Machine
end

