-- ==== Sys2Proof/Machine/Fire.lean ====
section
/-!
DEFINITION. Firings: when one may issue (R21, R22, R56 to R58, R67 to R72, R75), local store windows, stream slots and
the scoreboard (R46 to R51, R59 to R66, R368, R369), running a firing tile by tile, trace records and retirement.
-/

namespace Sys2Proof.Machine

/-! ### Local store -/

/-- The bank of a physical local store offset (R356). -/
def lsBank (o : Nat) : Nat := 2 * (o / 262144) + o / 64 % 2

/-- The line of its bank in which a physical local store offset lies (R356). -/
def lsLine (o : Nat) : Nat := o / 128 % 2048

/-- A task's window: its start and length in bytes (R48, R50). DESIGN CHOICE (log 110). -/
def Core.window (c : Core) (task : Nat) : Nat × Nat :=
  (4096 * (mget c.taskBase 0 task).toNat, 4096 * (mget c.taskBound 0 task).toNat)

/-- A step event of a local store access beyond the task's window (R51 to R53). -/
def Work.windowFault (w : Work) (core firing task off time : Nat) : Work :=
  let e : StepEvent := { time := time, core := core, firing := firing, task := task, addr := off }
  { w with run := w.run.blame stXlateFault e }

/-- The two parity bits of a 64-bit word: over its even bits in [0], over its odd bits in [1] (R368). -/
def parityBits (x : BitVec 64) : BitVec 2 :=
  let odd (k : Nat) : Nat := ((List.range 32).filter (fun i => x.getLsbD (2 * i + k))).length % 2
  BitVec.ofNat 2 (odd 0 + 2 * odd 1)

/-- The parity bits that flips leave wrong (R368): a flip of a bit of the word, and one of the parity bit over it, undo each
other. -/
def wrongParity (e : WordErr) : BitVec 2 := parityBits (e.flips.setWidth 64) ^^^ (e.flips >>> 64).setWidth 2

/-- Bits of a word of local store flipped: the data change, and the parity fails where the parity bits do not follow (R368). -/
def Core.flip (c : Core) (e : WordErr) : Core :=
  let bs := (c.ls.readN (8 * e.word) 8).zipIdx.map (fun b => b.1 ^^^ (e.flips >>> (8 * b.2)).setWidth 8)
  { c with ls := if e.flips.setWidth 64 = 0 then c.ls else c.ls.write (8 * e.word) bs
           lsBad := mset c.lsBad 0 e.word (mget c.lsBad 0 e.word ^^^ wrongParity e) }

/-- The words with failing parity that a read of `n` bytes at physical offset `o` touches (R368, R369). -/
def Core.badWords (c : Core) (o n : Nat) : List Nat :=
  (c.lsBad.map (·.1)).filter (fun x => o < 8 * x + 8 ∧ 8 * x < o + n)

/-- A failed parity check: the core's count, its bank's window, an event, a detection (R369, R899). -/
def Work.parityFailure (w : Work) (core word : Nat) : Work :=
  let w := w.modCore core (fun c => { c with parityCount := c.parityCount + 1 })
  let w := w.event 0x0002 2 core (lsBank (8 * word)) 0 0 (8 * word)
  (w.partEvent 2 0 core (lsBank (8 * word)) 0 1).detect core .parity

/-- `n` bytes at an offset of a task's window; an access beyond the window does not take place and reads as zeros.
DESIGN CHOICE (log 110). -/
def Work.lsRead (w : Work) (core firing task off n time : Nat) : Work × List Byte :=
  let c := w.core core
  let win := c.window task
  if off + n ≤ win.2 then
    let o := win.1 + off
    ((c.badWords o n).foldl (fun w x => w.parityFailure core x) w, c.ls.readN o n)
  else (w.windowFault core firing task (max off win.2) time, zeros n)

/-- Bytes stored at an offset of a task's window. DESIGN CHOICE (log 110). -/
def Work.lsWrite (w : Work) (core firing task off : Nat) (bs : List Byte) (time : Nat) : Work :=
  let win := (w.core core).window task
  if off + bs.length ≤ win.2 then
    let o := win.1 + off
    w.modCore core (fun c => { c with ls := c.ls.write o bs
                                      lsBad := c.lsBad.filter (fun x => ¬(o ≤ 8 * x.1 ∧ 8 * x.1 + 8 ≤ o + bs.length)) })
  else w.windowFault core firing task (max off win.2) time

/-! ### Stream slots and the scoreboard -/

/-- The key of slot k of stream s. -/
def slotKey (s k : Nat) : Nat := 64 * s + k

/-- The state of a slot. -/
def Core.slot (c : Core) (s k : Nat) : SlotSt := mget c.slots {} (slotKey s k)

/-- The offset of slot k within its task's window (R45). -/
def Stm.slotOff (m : Stm) (k : Nat) : Nat := m.base + k * m.slotBytes

/-- Whether an entry holds its range at a herd time. -/
def SbEntry.holds (e : SbEntry) (t : Nat) : Bool :=
  decide (e.start ≤ t) && (match e.stop with
    | some x => decide (t < x)
    | none => true)

/-- Whether a range of local store waits at a herd time: no scoreboard entry is free (R63), or it overlaps a range that
another firing writes, or for a write also one that another reads (R62). -/
def Core.blocked (c : Core) (firing lo hi : Nat) (wr : Bool) (t : Nat) : Option Stall :=
  let b := c.board.filter (·.holds t)
  if 32 ≤ b.length then some .noEntry
  else if b.any (fun e => e.firing ≠ firing ∧ (wr ∨ e.write) ∧ lo < e.hi ∧ e.lo < hi) then some .overlap
  else none

/-- A tile taken from a stream: its row mask and MERGE tags, and its bytes. -/
structure Taken where
  st : SlotSt
  bytes : List Byte
  deriving DecidableEq, Repr

/-- Where a firing works: core, index, its record's task, and the herd time. -/
structure At where
  core : Nat
  firing : Nat
  time : Nat
  deriving DecidableEq, Repr

/-- The prog of a firing. -/
def Core.progOf (c : Core) (idx : Nat) : Option Prog := c.prog.find? (·.idx = idx)

/-- A prog changed. -/
def Core.modProg (c : Core) (idx : Nat) (f : Prog → Prog) : Core :=
  { c with prog := c.prog.map (fun x => if x.idx = idx then f x else x) }

/-- The firing's prog as it stands. -/
def Work.progAt (w : Work) (a : At) : Prog := ((w.core a.core).progOf a.firing).getD { idx := a.firing, issued := 0, late := 0 }


/-- The latency of a local store offset's bank (R357). DEDUCED (log 91). -/
def lsLatency (o : Nat) : Nat :=
  let u := o / 4096
  if u < 256 then 6 else if u < 576 then 7 else if u < 960 then 8 else if u < 1344 then 9 else if u < 1728 then 10 else 11

/-- The latency of a bank (R356, R357). -/
def bankLatency (b : Nat) : Nat := lsLatency (131072 * b)

/-- The latency of the part that serves a bank: a spare's own 5 clk and its pad, or the bank's own (R365). -/
def Core.servedLatency (c : Core) (b : Nat) : Nat :=
  match [c.bank0, c.bank1].find? (fun u => u.used && u.part.toNat == b) with
  | some u => 5 + u.pad.toNat
  | none => bankLatency b

/-- The physical bytes of slot `k` of a stream: start and end. -/
def CorePlan.slotRange (c : CorePlan) (s k : Nat) : Nat × Nat :=
  let m : Stm := c.streams.getD s 0
  let lo := 4096 * bits (c.tasks.getD (Stm.task m) 0) 10 0 + Stm.slotOff m (k % Stm.slots m)
  (lo, lo + Stm.slotBytes m)

/-- The clk that a slot's banks add beyond 6 (R359). DEDUCED (log 91). -/
def CorePlan.slotLag (c : CorePlan) (s k : Nat) : Nat := lsLatency ((c.slotRange s k).2 - 1) - 6

/-- The station of a firing's record. -/
def Plan.stationOf (p : Plan) (core idx : Nat) : Nat :=
  match p.firing? core idx with
  | some r => Rec.station r
  | none => 15

/-- A use whose time is not known at issue, from the present on: a slot moves at 128 B/clk, but what RECV delivers has arrived and is
full in the clk after (R24, R565, R1090); the slot's lag comes on top (R359). DEDUCED (log 91). -/
def Work.useNow (w : Work) (a : At) (wr : Bool) (s j : Nat) : TUse :=
  match w.plan with
  | none => ⟨s, wr, a.time, a.time, 0⟩
  | some p =>
    let n := ceilDiv (p.stream a.core s).slotBytes 128
    let k := mget (if wr then (w.core a.core).made else (w.core a.core).used) 0 s + j
    ⟨s, wr, a.time, a.time + (if p.stationOf a.core a.firing = 9 then 1 else n) + (p.core a.core).slotLag s k, n⟩

/-- The `j`-th use to come of a stream by a firing. -/
def Work.useOf (w : Work) (a : At) (wr : Bool) (s j : Nat) : TUse :=
  match ((w.progAt a).uses.filter (fun u => u.write = wr ∧ u.stream = s))[j]? with
  | some u => { u with start := max u.start a.time, fin := max u.fin a.time }
  | none => w.useNow a wr s j

/-- The first `n` uses to come of a stream dropped. -/
def dropUses (wr : Bool) (s : Nat) : Nat → List TUse → List TUse
  | 0, l => l
  | _, [] => []
  | n + 1, u :: l => if u.write = wr ∧ u.stream = s then dropUses wr s n l else u :: dropUses wr s (n + 1) l

/-- The `j`-th tile from the front of a stream, not consumed: none while its slot is not full, nor where the ring has no slot for it
beside the tiles before it (R60, R451, R1090). -/
def Work.peek (w : Work) (p : Plan) (a : At) (s j n : Nat) : Except Stall (Work × Taken) :=
  let c := w.core a.core
  let m := p.stream a.core s
  let k := (mget c.used 0 s + j) % m.slots
  let st := c.slot s k
  let t := (w.useOf a false s j).start
  if m.slots ≤ j ∨ st.phase ≠ .full ∨ t < st.since then .error .notFull
  else
    let off := m.slotOff k
    let lo := (c.window m.task).1 + off
    match c.blocked a.firing lo (lo + n) false t with
    | some x => .error x
    | none =>
      let r := w.lsRead a.core a.firing m.task off n a.time
      .ok (r.1, { st := st, bytes := r.2 })

/-- The clk at which an access to local store from `lo` to `hi` reaches its banks, with the bank (R361, R363, R364): its bytes
move over `n` clk from `t`, a 64-byte line for as long as the lines before and after leave it. DEDUCED (log 67). -/
def bankUse (lo hi t n : Nat) : List (Nat × Nat) :=
  let k := (hi - lo) / 64
  (List.range k).flatMap (fun i =>
    let a := i * n / k
    (List.range (max 1 ((i + 1) * n / k - a))).map (fun j => (t + a + j, lsBank (lo + 64 * i))))

/-- The bank accesses of an entry. -/
def SbEntry.reach (e : SbEntry) : List (Nat × Nat) :=
  bankUse e.lo e.hi (if e.write then (e.stop.getD e.start) - e.moves else e.start) e.moves

/-- Whether two entries of different firings move bytes at the same time. -/
def SbEntry.meets (e f : SbEntry) : Bool :=
  decide (e.firing ≠ f.firing) && decide (e.moves ≠ 0) && decide (f.moves ≠ 0) && decide (f.start < e.stop.getD 0) &&
    decide (e.start < f.stop.getD 0)

/-- The first clk from `t` on, `n` more at most, in which a bank is not taken. -/
def freeClk (taken : List (Nat × Nat)) (b : Nat) : Nat → Nat → Nat
  | 0, t => t
  | n + 1, t => if (t, b) ∈ taken then freeClk taken b n (t + 1) else t

/-- The clk that an entry's accesses lose: each waits while its bank serves one that comes before, one clk for each loss, and those
behind it come as much later (R361). -/
def SbEntry.lost (e : SbEntry) (fs : List SbEntry) : Nat :=
  let rs := fs.filter e.meets
  if rs.isEmpty then 0
  else
    let taken := rs.flatMap SbEntry.reach
    e.reach.foldl (fun d x => freeClk taken x.2 taken.length (x.1 + d) - x.1) 0

/-- A scoreboard entry for a tile in slot `k` of a stream of a core, held over a use. -/
def Work.entry (w : Work) (p : Plan) (a : At) (s k : Nat) (u : TUse) : SbEntry :=
  let m := p.stream a.core s
  let lo := ((w.core a.core).window m.task).1 + m.slotOff k
  { firing := a.firing, write := u.write, lo := lo, hi := lo + m.slotBytes, stream := s, slot := k, start := u.start
    stop := some u.fin, moves := u.moves, timed := (match p.firing? a.core a.firing with
      | some r => decide (Rec.mode r = 0)
      | none => true) }

/-- A use moved by some clk. -/
def TUse.late (u : TUse) (n : Nat) : TUse := { u with start := u.start + n, fin := u.fin + n }

/-- What is still to come of a firing, its station's free clk with it, comes `n` clk later. -/
def Core.postpone (c : Core) (idx station n : Nat) : Core :=
  { c with free := mmod c.free 0 station (· + n) }.modProg idx (fun x =>
    { x with uses := x.uses.map (fun (u : TUse) => u.late n), ends := x.ends + n })

/-- A firing of a record at an index loses `n` clk: a slip (R361). -/
def Core.lose (c : Core) (station idx n : Nat) : Core := if n = 0 then c else (c.postpone idx station n).count .slip n

/-- An access on the scoreboard loses `n` clk: its range is held, and its slot full or empty, that much later. -/
def Core.delayEntry (c : Core) (f : SbEntry) (n : Nat) : Core :=
  { c with board := c.board.map (fun e => if e = f then { e with stop := e.stop.map (· + n), moves := e.moves + n } else e)
           slots := mmod c.slots {} (slotKey f.stream f.slot) (fun x => { x with since := x.since + n }) }

/-- The entries whose ranges are still held at a herd time. -/
def heldAt (t : Nat) (b : List SbEntry) : List SbEntry := b.filter (fun f => match f.stop with
  | some x => decide (t < x)
  | none => true)

/-- An access enters the scoreboard, with the clk that its firing loses. Where it and another firing's reach one bank in one
clk, a timed firing is served before an elastic one, and of two of one kind the one that is on the scoreboard; the other loses
the clk, and is held against the others again where it comes later (R361). DESIGN CHOICE (log 151). -/
def Work.enter (w : Work) (p : Plan) (a : At) (e : SbEntry) : Work × Nat :=
  let fs := (w.core a.core).board
  let yields (f : SbEntry) : Bool := e.timed && !f.timed && e.meets f
  let n := e.lost (fs.filter (fun f => !yields f))
  let e := { e with stop := e.stop.map (· + n), moves := e.moves + n }
  (w.modCore a.core (fun c =>
    let c := (fs.filter yields).foldl (fun c f =>
      let d := f.lost (e :: (c.board.erase f))
      if d = 0 then c else (c.delayEntry f d).lose (p.stationOf a.core f.firing) f.firing d) c
    { c with board := heldAt a.time c.board ++ (if e.stop = some e.start then [] else [e]) }), n)

/-- The entries of `n` tiles of a stream from its `off`-th on that stand in the ring until a herd time, or for as long as the firing
is in progress: one range, or two where they run past the end of the ring (R451, R570, R577). -/
def Work.keepTiles (w : Work) (p : Plan) (a : At) (s off n start : Nat) (stop : Option Nat) : Work :=
  let m := p.stream a.core s
  let k := (mget (w.core a.core).used 0 s + off) % m.slots
  let lo := ((w.core a.core).window m.task).1
  let run (k n : Nat) : List SbEntry := if n = 0 then [] else
    [{ firing := a.firing, write := false, lo := lo + m.slotOff k, hi := lo + m.slotOff (k + n), stream := s, slot := k
       start := start, stop := stop }]
  let es := run k (min n (m.slots - k)) ++ run 0 (n - (m.slots - k))
  w.modCore a.core (fun c =>
    { c with board := heldAt a.time c.board ++ es.filter (fun e => !c.board.any (fun f =>
        f.firing = e.firing ∧ f.stream = e.stream ∧ f.slot = e.slot ∧ !f.write)) })

/-- The first `n` tiles of a stream, whose ranges are on the scoreboard already, given up: their slots are empty from the present on
(R46, R47, R451, R570). -/
def Work.vacate (w : Work) (p : Plan) (a : At) (s n : Nat) : Work :=
  let m := p.stream a.core s
  w.modCore a.core (fun c =>
    let i := mget c.used 0 s
    { c with slots := (List.range n).foldl (fun x j => mset x {} (slotKey s ((i + j) % m.slots)) { since := a.time }) c.slots
             used := mset c.used 0 s (i + n) }.modProg a.firing (fun y => { y with uses := dropUses false s n y.uses }))

/-- One tile of a stream consumed: its slot is empty again when its read ends (R46, R47, R1089). -/
def Work.consume1 (w : Work) (p : Plan) (a : At) (s : Nat) : Work :=
  let m := p.stream a.core s
  let u := w.useOf a false s 0
  let i := mget (w.core a.core).used 0 s
  let k := i % m.slots
  let x := w.enter p a (w.entry p a s k u)
  x.1.modCore a.core (fun c =>
    ({ c with slots := mset c.slots {} (slotKey s k) { since := u.fin + x.2 }
              used := mset c.used 0 s (i + 1) }.modProg a.firing (fun y => { y with uses := dropUses false s 1 y.uses })).lose
      (p.stationOf a.core a.firing) a.firing x.2)

/-- The first `n` tiles of a stream consumed. -/
def Work.consume (w : Work) (p : Plan) (a : At) (s n : Nat) : Work := (List.range n).foldl (fun w _ => w.consume1 p a s) w

/-- A tile taken from the front of a stream. -/
def Work.pull (w : Work) (p : Plan) (a : At) (s n : Nat) : Except Stall (Work × Taken) :=
  match w.peek p a s 0 n with
  | .error x => .error x
  | .ok (w1, t) => .ok (w1.consume p a s 1, t)

/-- Whether the next slot of a stream can be written: it is empty (R61) and its range is free (R62, R63). -/
def Work.room (w : Work) (p : Plan) (a : At) (s j n : Nat) : Option Stall :=
  let c := w.core a.core
  let m := p.stream a.core s
  let k := (mget c.made 0 s + j) % m.slots
  let t := (w.useOf a true s j).start
  if (c.slot s k).phase ≠ .empty ∨ t < (c.slot s k).since then some .notEmpty
  else
    let lo := (c.window m.task).1 + m.slotOff k
    c.blocked a.firing lo (lo + n) true t

/-- A tile written into the next slot of a stream, which is full from the clk after its last byte lands (R47, R1090). -/
def Work.push (w : Work) (p : Plan) (a : At) (s : Nat) (st : SlotSt) (bs : List Byte) : Work :=
  let m := p.stream a.core s
  let i := mget (w.core a.core).made 0 s
  let k := i % m.slots
  let u := w.useOf a true s 0
  let x := w.enter p a (w.entry p a s k u)
  let w := x.1.lsWrite a.core a.firing m.task (m.slotOff k) bs a.time
  w.modCore a.core (fun c =>
    ({ c with slots := mset c.slots {} (slotKey s k) { st with phase := .full, since := u.fin + x.2 }
              made := mset c.made 0 s (i + 1) }.modProg a.firing (fun y => { y with uses := dropUses true s 1 y.uses })).lose
      (p.stationOf a.core a.firing) a.firing x.2)

/-- The next slot of a stream marked filling, its range held on the scoreboard, while data are under way (R59). -/
def Work.hold (w : Work) (p : Plan) (a : At) (s n : Nat) : Work :=
  let m := p.stream a.core s
  w.modCore a.core (fun c =>
    let k := mget c.made 0 s % m.slots
    let lo := (c.window m.task).1 + m.slotOff k
    { c with slots := mset c.slots {} (slotKey s k) { (c.slot s k) with phase := .filling }
             board := c.board ++ [{ firing := a.firing, write := true, lo := lo, hi := lo + n, stream := s, slot := k
                                    start := a.time }] })

/-- The slot held before is released for writing. -/
def Work.unhold (w : Work) (a : At) : Work :=
  w.modCore a.core (fun c =>
    let mine (e : SbEntry) : Bool := e.firing = a.firing ∧ e.stop = none
    { c with slots := (c.board.filter mine).foldl (fun x e => mset x {} (slotKey e.stream e.slot) {}) c.slots
             board := c.board.filter (fun e => !mine e) })

/-! ### Running a firing tile by tile -/

/-- The outcome of one tile step of a firing. -/
inductive UnitRes where
  | ok (w : Work)
  /-- this step was the firing's last, whatever its number -/
  | fin (w : Work)
  | wait (w : Work) (why : Stall) (tags : List Nat)

/-- What a firing does from its issue on, in clk from then: when its station is free, its uses of stream slots in the order
of its tiles, before when it does not retire, and the clk for which its requests wait (R149, R153). -/
structure Times where
  free : Option Nat := none
  uses : List TUse := []
  ends : Nat := 0
  waits : Nat := 0
  deriving DecidableEq, Repr

/-- What a firing does: its number of tile steps, what each does, and the times that are known at issue. `fresh` says that
the peer data that the step waited on have come. -/
structure Job where
  n : Nat
  unit : Work → Nat → Bool → UnitRes
  times : Work → Times := fun _ => {}

/-- The tile steps of a job from `pos` on, at most `fuel` of them, until one waits. -/
def Job.run (j : Job) : Nat → Nat → Bool → Work → Work × Nat × Option (Stall × List Nat)
  | 0, pos, _, w => (w, pos, none)
  | k + 1, pos, fresh, w =>
    if j.n ≤ pos then (w, pos, none)
    else match j.unit w pos fresh with
      | .ok w1 => j.run k (pos + 1) false w1
      | .fin w1 => (w1, j.n, none)
      | .wait w1 why tags => (w1, pos, some (why, tags))

/-- The times of a firing that issues are set; the clk for which its requests wait are a slip (R22, R24, R149, R153, R318). -/
def Work.schedule (w : Work) (core idx station issued extra : Nat) (t : Times) : Work :=
  let n := t.waits + extra
  w.modCore core (fun c =>
    let c := if n = 0 then c else c.count .slip n
    { c with free := match t.free with
        | some k => mset c.free 0 station (issued + k + extra)
        | none => c.free }.modProg idx (fun x =>
      { x with uses := t.uses.map (fun (u : TUse) => u.late (issued + extra)), ends := max x.ends (issued + t.ends + extra) }))

/-- Whether a use to come finds its slot as it needs it. -/
def Work.useReady (w : Work) (p : Plan) (core : Nat) (before : List TUse) (u : TUse) : Bool :=
  let c := w.core core
  let n := (before.filter (fun v => v.stream = u.stream ∧ v.write = u.write)).length
  let st := c.slot u.stream ((mget (if u.write then c.made else c.used) 0 u.stream + n) % (p.stream core u.stream).slots)
  decide (st.phase = if u.write then .empty else .full) && decide (st.since ≤ u.start)

/-- The herd time from which a firing that waits is held up: that of its first use that does not find its slot ready, and
otherwise the present (R59 to R61). -/
def Work.stallStart (w : Work) (core : Nat) (x : Prog) (why : Stall) : Nat :=
  let now := w.now w.cad.offset.toNat
  match w.plan with
  | none => now
  | some p =>
    let wr : Option Bool := match why with
      | .notFull => some false
      | .notEmpty => some true
      | _ => none
    match wr with
    | none => if why = .credit then max now ((x.uses.head?.map (·.start)).getD now) else now
    | some b =>
      match (List.range x.uses.length).find? (fun i => match x.uses[i]? with
        | some u => u.write == b && !w.useReady p core (x.uses.take i) u
        | none => false) with
      | some i => max now ((x.uses[i]?.map (·.start)).getD now)
      | none => now

/-- A firing in progress goes on from where it stands, until it is done or waits.
DESIGN CHOICE (log 6). -/
def Work.advance (w : Work) (core idx : Nat) (j : Job) : Work :=
  match (w.core core).progOf idx with
  | none => w
  | some x =>
    if x.stall = some .peer ∧ !x.tags.isEmpty then w
    else
      let fresh := x.stall = some .peer
      let r := j.run (j.n - x.pos) x.pos fresh w
      r.1.modCore core (fun c => c.modProg idx (fun y => match r.2.2 with
        | none => { y with pos := r.2.1, stall := none, cause := none, done := y.tags.isEmpty
                           doneAt := if y.tags.isEmpty then r.1.now r.1.cad.offset.toNat else y.doneAt }
        | some (why, tags) => { y with pos := r.2.1, stall := some why, tags := tags
                                       cause := if x.pos = r.2.1 then y.cause.orElse (fun _ => some why) else some why
                                       stallFrom := if x.pos = r.2.1 ∧ y.stall = some why then y.stallFrom
                                         else r.1.stallStart core y why }))

/-! ### Issue -/

/-- Whether the work of a firing of a core is done: it has retired, or all its tile steps have. -/
def Core.doneWith (c : Core) (i : Nat) : Bool :=
  decide (i ∈ c.retired) || (match c.progOf i with
    | some x => x.done
    | none => false)

/-- The clk that lie between the planned herd time of a (tick, offset) of the step and an offset of the present tick,
stretches counted (R23, R99); none while it is not yet due. -/
def Work.lateBy (w : Work) (tick off clk : Nat) : Option Nat :=
  let now := w.run.tick.toNat
  if tick < now ∨ (tick = now ∧ off ≤ clk) then
    let st := ((w.run.stretches.filter (fun x => tick ≤ x.1 ∧ x.1 < now)).map (·.2)).sum
    some ((now - tick) * w.period + st + clk - off)
  else none

/-- An elastic section's state in the step. -/
def Run.sec? (r : Run) (n : Nat) : Option SecRun := r.sections.find? (·.number = n)

/-- An elastic section changed. -/
def Run.modSec (r : Run) (n : Nat) (f : SecRun → SecRun) : Run :=
  { r with sections := r.sections.map (fun x => if x.number = n then f x else x) }

/-- The SECTION_OPEN record of a section on a core. -/
def CorePlan.openRec (c : CorePlan) (n : Nat) : Option Rec :=
  c.firings.find? (fun r => Rec.isOpen r ∧ Rec.section r = n)

/-- Whether a section's station mask holds a station (R55). -/
def CorePlan.inMask (c : CorePlan) (n station : Nat) : Bool :=
  match c.openRec n with
  | some r => (Rec.param r / 2 ^ station) % 2 = 1
  | none => false

/-- The elastic section that a firing stands in (R1086): it stands between that section's SECTION_OPEN and its
SECTION_CLOSE. -/
def CorePlan.sectionOf (c : CorePlan) (idx : Nat) : Option Nat :=
  let before := c.firings.take idx
  match (before.filter Rec.isOpen).getLast? with
  | none => none
  | some o => if before.any (fun r => Rec.isClose r ∧ Rec.section r = Rec.section o) then none else some (Rec.section o)

/-- Whether a firing has retired before a herd time (R54, R68). -/
def Core.retiredBefore (c : Core) (i t : Nat) : Bool := decide (i ∈ c.retired) && decide (mget c.retiredAt 0 i < t)

/-- Whether a firing may issue now but for R58 (R21, R22, R54, R67 to R72, R75, R1086): a step runs, the firing is due and not
yet issued, its station has finished its earlier firings and is free, FENCE is met in an earlier clk, sections that it
follows have closed, and for an elastic firing its section is open on the core and its station's previous elastic firing has
retired in an earlier clk. DESIGN CHOICE (log 6). -/
def Work.ready (w : Work) (p : Plan) (core idx : Nat) (r : Rec) (clk : Nat) : Bool :=
  let c := w.core core
  let cp := p.core core
  let now := w.now clk
  let earlier := (cp.firings.take idx).zipIdx.filter (fun x => !Rec.isClose x.1)
  w.dev.state = .running ∧ w.run.step.isSome ∧ idx ∉ c.issued ∧ !r.isClose ∧ clk < w.period + w.run.stretch ∧
  -- the station's earlier firings are issued and their work is done, and it is free
  (earlier.all (fun x => Rec.station x.1 ≠ r.station ∨ r.station = 15 ∨
    (if r.station = 4 then decide (x.2 ∈ c.retired) else c.doneWith x.2))) ∧
  (r.station = 15 ∨ mget c.free 0 r.station ≤ now) ∧
  (r.fence → earlier.all (fun x => c.retiredBefore x.2 now)) ∧
  -- sections that the firing follows, on a station of their mask, have closed
  (((cp.firings.take idx).filter Rec.isClose).all (fun x =>
      !cp.inMask (Rec.section x) r.station ||
        (match w.run.sec? (Rec.section x) with
         | some s => s.closed
         | none => false))) ∧
  (if r.mode = 0 then (w.lateBy r.tick r.offset clk).isSome
   else match cp.sectionOf idx with
    | none => false
    | some n => (match w.run.sec? n with
        | some s => s.opened.getLsbD core && !s.closed
        | none => false) &&
      earlier.all (fun x => Rec.station x.1 ≠ r.station ∨ Rec.mode x.1 = 0 ∨ c.retiredBefore x.2 now))

/-- The use of a stream that the scoreboard checks when a firing issues (R59): the stream, and whether a tile is written. -/
def firstUse (r : Rec) : Option (Nat × Bool) :=
  match r.station, r.op with
  | 0, _ => some (r.dst, true)
  | 9, _ => some (r.dst, true)
  | 1, _ => some (r.srcA, false)
  | 4, _ => some (r.srcA, false)
  | 7, _ => some (r.srcA, false)
  | 8, 1 => some (r.srcA, false)
  | 3, _ => if r.count = 0 then none else some (if r.param / 128 % 2 = 1 then r.srcA else r.srcB, false)
  | _, _ => none

/-- The slot of a firing's first use, and whether it is as that use needs it (R60, R61). -/
def Work.firstSlot (w : Work) (p : Plan) (core : Nat) (r : Rec) : Option (SlotSt × Bool) :=
  (firstUse r).map (fun x =>
    let c := w.core core
    let st := c.slot x.1 ((mget (if x.2 then c.made else c.used) 0 x.1) % (p.stream core x.1).slots)
    (st, decide (st.phase = if x.2 then .empty else .full)))

/-- The herd time from which a ready firing could issue but for the scoreboard (R22, R54, R68): its planned time, or the opening
of its section and the clk after its station's previous elastic firing retired; what FENCE asks, the close of sections that it
follows, and its station free. `late` is how late it is now. -/
def Work.dueFrom (w : Work) (p : Plan) (core idx : Nat) (r : Rec) (now late : Nat) : Nat :=
  let c := w.core core
  let earlier := ((p.core core).firings.take idx).zipIdx.filter (fun x => !Rec.isClose x.1)
  let t := if r.mode = 0 then now - late
    else earlier.foldl (fun m x =>
      if Rec.isOpen x.1 then max m (mget c.retiredAt 0 x.2)
      else if Rec.station x.1 = r.station ∧ Rec.mode x.1 ≠ 0 then max m (mget c.retiredAt 0 x.2 + 1) else m) 0
  let t := if r.fence then earlier.foldl (fun m x => max m (mget c.retiredAt 0 x.2 + 1)) t else t
  let t := ((p.core core).firings.take idx).foldl (fun m x => if Rec.isClose x ∧ (p.core core).inMask (Rec.section x) r.station then
    max m (((w.run.sec? (Rec.section x)).map (·.closedAt)).getD 0) else m) t
  max t (mget c.free 0 r.station)

/-- The herd time at which a ready firing becomes issuable, when the scoreboard lets it issue now (R58, R59). -/
def Work.issueFrom (w : Work) (p : Plan) (core idx : Nat) (r : Rec) (clk : Nat) : Option Nat :=
  let now := w.now clk
  if w.ready p core idx r clk then
    let t := w.dueFrom p core idx r now ((w.lateBy r.tick r.offset clk).getD 0)
    match w.firstSlot p core r with
    | none => some t
    | some (st, fits) => if fits ∧ st.since ≤ now then some (max t st.since) else none
  else none

/-- Whether a firing may issue now: it is ready, and no firing that stands earlier in the core's list and has not issued became
issuable in the clk in which it did (R58). DEDUCED (log 171). -/
def Work.issuable (w : Work) (p : Plan) (core idx : Nat) (r : Rec) (clk : Nat) : Bool :=
  w.ready p core idx r clk &&
  (match w.issueFrom p core idx r clk with
   | none => true
   | some t => ((p.core core).firings.take idx).zipIdx.all (fun x => decide (w.issueFrom p core x.2 x.1 clk ≠ some t)))

/-- The clk up to its issue for which a firing has stalled on the slot of its first use (R60, R61, R64). -/
def Work.stalledAtIssue (w : Work) (core idx : Nat) (r : Rec) (clk : Nat) : Nat :=
  match w.plan with
  | none => 0
  | some p =>
    let now := w.now clk
    match w.firstSlot p core r with
    | none => 0
    | some (st, fits) =>
      (if fits then min now st.since else now) - w.dueFrom p core idx r now ((w.lateBy r.tick r.offset clk).getD 0)

/-- A residue that is wrong from now on in every cell of a tally row (R498). -/
def Core.spoilRow (c : Core) (row : Nat) : Core :=
  { c with cells := (List.range 64).foldl (fun m j =>
      mmod m {} (64 * row + j) (fun x => { x with res := BitVec.ofNat 3 ((x.res.toNat + 1) % 7) })) c.cells }

/-- An offset of the present tick, which has P clk and its stretch (R97). -/
def Work.clkOf (w : Work) (clk : Nat) : BitVec 17 := BitVec.ofNat 17 (min clk (w.period + w.run.stretch - 1))

/-- What the environment of a firing shows from now on: the moment, HBM lines, local store words, tally rows, core-table
words. DESIGN CHOICE (log 5). -/
def Work.observe (w : Work) (core : Nat) (env : Env) : Work :=
  let w := { w with cad.offset := w.clkOf env.clk, mem := w.mem.see env }
  let w := if env.words.isEmpty && env.residues.isEmpty then w else w.modCore core (fun c =>
    let c := env.words.foldl Core.flip c
    env.residues.foldl Core.spoilRow c)
  w.tableErrors core env

/-! ### Idle clk by cause (R158 to R160, R73, R1093) -/

/-- The clk of a span [lo, hi) that lie in [a, b). -/
def overlap (lo hi a b : Nat) : Nat := min hi b - max lo a

/-- A span put into a list in order of their starts. -/
def putSpan (x : Nat × Nat) : List (Nat × Nat) → List (Nat × Nat)
  | [] => [x]
  | y :: l => if x.1 ≤ y.1 then x :: y :: l else y :: putSpan x l

/-- The clk that lie in some span of a list. -/
def covered (l : List (Nat × Nat)) : Nat :=
  ((l.foldr putSpan []).foldl (fun (acc : Nat × Nat) x => (acc.1 + (x.2 - max x.1 acc.2), max acc.2 x.2)) (0, 0)).1

/-- The clk of a span that lie between the close of an elastic section of which the core is a member and that section's
declared end (R73, R158). DESIGN CHOICE (log 73). -/
def Work.elasticIdle (w : Work) (core lo hi : Nat) : Nat :=
  let base := w.cad.time
  let here := w.run.tick.toNat * w.period
  covered ((w.run.sections.filter (fun s => s.closed && s.opened.getLsbD core)).map (fun s =>
    (max lo (max base s.closedAt), min hi (base + min w.period (s.due - here)))))

/-- Whether a SEND of this module that has not retired feeds a stream of a core: by a data transfer of this member's, or a collective
whose group is this member alone (R80). DESIGN CHOICE (log 73). -/
def Work.fedHere (w : Work) (p : Plan) (core stream : Nat) : Bool :=
  let set := p.route w.run.activeSet.toNat
  p.cores.any (fun y => y.2.firings.zipIdx.any (fun x =>
    decide (Rec.station x.1 = 8) && decide (x.2 ∉ (w.core y.1).retired) &&
    match set.slots[Rec.param x.1]? with
    | none => false
    | some s =>
      if slotKind s = 2 then
        let e : W512 := set.colls.getD (slotColl s) 0
        decide (bits e 17 8 = 0) && !bit e 52 && decide (bits e 44 38 = core) && decide (bits e 50 45 = stream)
      else decide (slotKind s ≠ 1) && decide (slotDest s = p.moduleIndex) && decide (bits s 27 21 = core) &&
        decide (bits s 33 28 = stream)))

/-- Whether a stream of a core is one that a RECV fills with data from another module (R80, R158). -/
def Work.fromPeer (w : Work) (p : Plan) (core stream : Nat) : Bool :=
  decide (Stm.producer (p.stream core stream) = 9) && !w.fedHere p core stream

/-- Whether a firing in progress waits for a RECV, or for a slot that a RECV fills, of data from another module (R80, R158). -/
def Work.awaitsPeer (w : Work) (core : Nat) (x : Prog) : Bool :=
  match w.plan with
  | none => false
  | some p =>
    match p.firing? core x.idx, x.stall with
    | some r, some .peer => Rec.station r = 9 && w.fromPeer p core r.dst
    | some r, some .notFull => [Rec.srcA r, Rec.srcB r].any (fun s =>
        decide (Stm.consumer (p.stream core s) = Rec.station r) && w.fromPeer p core s &&
        decide (((w.core core).slot s (mget (w.core core).used 0 s % (p.stream core s).slots)).phase ≠ .full))
    | _, _ => false

/-- The herd times, up to `hi`, between which the next due firing of a core that has not issued waits for a slot that a RECV fills
with another module's data (R158 cause 5). -/
def Work.peerWait (w : Work) (core hi : Nat) : Option (Nat × Nat) :=
  match w.plan with
  | none => none
  | some p =>
    let clk := min (hi - w.cad.time) (w.period + w.run.stretch - 1)
    match (p.core core).firings.zipIdx.find? (fun x => w.ready p core x.2 x.1 clk) with
    | none => none
    | some (r, idx) =>
      match firstUse r, w.firstSlot p core r with
      | some (s, false), some (st, fits) =>
        if w.fromPeer p core s then
          some (w.dueFrom p core idx r (w.now clk) ((w.lateBy (Rec.tick r) (Rec.offset r) clk).getD 0), if fits then min hi st.since else hi)
        else none
      | _, _ => none

/-- The lines of step-owned regions that the companion caches (R352). -/
def Work.recalls (w : Work) (p : Plan) : List (Nat × Bool) :=
  w.mem.cached.filter (fun x => match p.regionOf? (64 * x.1) with
    | some (_, r) => Reg.owned r
    | none => false)

/-- The clk of an idle span before a step in which it waits for the companion to give up its lines (R352).
DESIGN CHOICE (log 170). -/
def Work.recallWait (w : Work) (span : Nat) : Nat :=
  match w.plan with
  | none => 0
  | some p => if (w.recalls p).isEmpty then 0 else min span (Config.freeRecall (w.recalls p).length w.cad.tickCount.toNat)

/-- An idle span [lo, hi) of the present tick, cut by cause below replay: maintenance, host, slip recovery, peer data, elastic
idle, cadence; `peer` says that the core waits for peer data. DESIGN CHOICE (log 73). -/
def Work.idleParts (w : Work) (core lo hi : Nat) (peer : Bool) : List (Ctr × Nat) :=
  if w.stepping then
    let base := w.cad.time
    let slot := if w.dev.state = .running ∧ w.run.tick.toNat % 64 = 32 then w.period / 2 else 0
    let maint := overlap lo hi base (base + slot)
    let slip := overlap lo hi (base + w.period) hi
    let rest := overlap lo hi (base + slot) (base + w.period)
    if peer then [(.idleMaint, maint), (.idleSlip, slip), (.idlePeer, rest)]
    else
      let elastic := w.elasticIdle core (max lo (base + slot)) (min hi (base + w.period))
      [(.idleMaint, maint), (.idleSlip, slip), (.elasticIdle, elastic), (.idleCadence, rest - elastic)]
  else if w.run.accepted.isSome then
    let n := w.recallWait (hi - lo)
    [(.idleHost, n), (.idleCadence, hi - lo - n)]
  else [(.idleHost, hi - lo)]

/-- Idle clk of a span from `lo` counted on a core, and remembered for a stop that comes to be known later (R1093). -/
def Core.idle (c : Core) (lo : Nat) (xs : List (Ctr × Nat)) : Core :=
  xs.foldl (fun c x => if x.2 = 0 then c else { (c.count x.1 x.2) with idled := c.idled ++ [(lo, x.1.off, x.2)] }) c

/-- Idle clk held aside on a core. -/
def Core.hold (c : Core) (xs : List (Ctr × Nat)) : Core :=
  { c with aside := xs.foldl (fun m x => mmod m 0 x.1.off (· + x.2)) c.aside }

/-- Idle clk counted from a herd time on are held aside after all: the stop whose origin lies there may prove to be a detection's
(R1093). -/
def Core.pullBack (c : Core) (since : Nat) : Core :=
  let xs := c.idled.filter (fun x => decide (since ≤ x.1))
  { c with counts := xs.foldl (fun m x => mmod m 0 x.2.1 (· - BitVec.ofNat 64 x.2.2)) c.counts
           aside := xs.foldl (fun m x => mmod m 0 x.2.1 (· + x.2.2)) c.aside
           idled := c.idled.filter (fun x => decide (x.1 < since)) }

/-- The herd time from which idle clk are held aside: that of this module's first detection, or else the origin of a stop under
way, which may prove to be another member's detection (R1093). DESIGN CHOICE (log 73). -/
def Work.heldSince (w : Work) : Option Nat :=
  if !w.run.detections.isEmpty then some w.run.since
  else if w.run.stopped then some 0
  else w.run.stopOrigin.map (fun o =>
    let d := w.cad.tickCount.toNat - o
    let t := w.run.tick.toNat
    w.cad.time - d * w.period - ((w.run.stretches.filter (fun x => t ≤ x.1 + d ∧ x.1 < t)).map (·.2)).sum)

/-- The herd time before which idle clk are no longer pulled back: a stop is known within H ticks of its origin (R107, R143). -/
def Work.idleHorizon (w : Work) : Nat :=
  w.cad.time - (w.cad.holdLead.toNat + 2) * (w.period + w.cad.stretchMax.toNat * w.cad.slackClk.toNat)

/-- The idle clk of a core up to herd time `hi`, each under the first cause that applies; from a detection until the
decision they are held aside, and after a rollback they count as replay. A core is idle while it has no firing in progress but
such as wait for peer data, from the clk in which the last of them was held up. DESIGN CHOICE (log 73). -/
def Work.idleUp (w : Work) (core hi : Nat) (c : Core) : Core :=
  let lo := c.prog.foldl (fun m x => max m x.stallFrom) c.idleFrom
  -- the span cut where the wait for another module's data begins and ends
  let cuts : List (Nat × Nat × Bool) :=
    if !c.prog.isEmpty then [(lo, hi, true)]
    else match w.peerWait core hi with
      | none => [(lo, hi, false)]
      | some (a, b) => [(lo, min a hi, false), (max a lo, min b hi, true), (max b lo, hi, false)]
  let parts (lo hi : Nat) : List (Ctr × Nat) := cuts.flatMap (fun s => w.idleParts core (max lo s.1) (min hi s.2.1) s.2.2)
  let c1 :=
    if c.prog.any (fun x => !w.awaitsPeer core x) ∨ hi ≤ lo then c
    else if w.run.rerun then c.count .idleReplay (hi - lo)
    else match w.heldSince with
      | none => c.idle lo (parts lo hi)
      | some since =>
        let m := max lo (min hi since)
        (c.idle lo (parts lo m)).hold (parts m hi)
  { c1 with idleFrom := max c.idleFrom hi, idled := c1.idled.filter (fun x => decide (w.idleHorizon ≤ x.1)) }

/-! ### Issue and retirement -/

/-- A trace record (R1045, R1046): written into the trace ring in HBM, the oldest overwritten when it is full.
DEDUCED (log 131). -/
def Work.traceRecord (w : Work) (kind stage core idx clk : Nat) : Work :=
  if w.trace.on then
    let t := w.trace
    let bs := toLE 16 (pack [(kind, 8), (stage, 8), (core, 16), (idx, 32), (w.run.tick.toNat, 32), (clk, 32)])
    let full := t.bytes.toNat / 16 ≤ t.fill
    let w := w.hbmWrite 5 (t.base.toNat + t.ptr.toNat) bs
    { w with trace := { t with ptr := BitVec.ofNat 30 ((t.ptr.toNat + 16) % t.bytes.toNat)
                               fill := if full then t.fill else t.fill + 1
                               lost := if full then t.lost + 1 else t.lost } }
  else w

/-- A firing issues: its late clk count as slip (R23), those for which it stalled on its first slot under the stall's counter
(R64), its observations hold, a trace record is written. DESIGN CHOICE (log 75). -/
def Work.begin (w : Work) (core idx : Nat) (r : Rec) (env : Env) : Work :=
  let late := if r.mode = 0 then (w.lateBy r.tick r.offset env.clk).getD 0 else 0
  let held := w.stalledAtIssue core idx r env.clk
  let w := w.observe core env
  let x : Prog := { idx := idx, issued := w.now env.clk, late := late, resent := if r.station = 8 then env.wait else 0 }
  let w := w.modCore core (fun c0 =>
    let c := w.idleUp core (w.now env.clk) c0
    ({ c with issued := c.issued ++ [idx], prog := c.prog ++ [x] }.count .slip (if r.mode = 0 then late else held)).count
      .sbStall held)
  let first := w.cores.foldl (fun m c => c.2.prog.foldl (fun m y => min m y.issued) m) x.issued
  let w := { w with run.landed := w.run.landed.filter (fun l => first ≤ l.until_) }
  if r.trace then w.traceRecord 1 0 core idx env.clk else w

/-- A firing issues with the times that are known then; the clk that its requests wait, at its channels or on its link, delay
it (R149, R153, R318), and so do those that a SEND's flits wait for a credit or at an output (R79, R767); but for a SEND's
retransmission they are a slip. DESIGN CHOICE (log 75, 166). -/
def Work.start (w : Work) (core idx : Nat) (r : Rec) (env : Env) (t : Times) : Work :=
  (w.begin core idx r env).schedule core idx r.station (w.now env.clk) (if r.station = 8 then env.held else env.wait) t

/-- A firing of a station and operation issues, when it may, and runs until it is done or waits; otherwise nothing
changes. DESIGN CHOICE (log 6). -/
def Work.issue (w : Work) (core idx : Nat) (env : Env) (station op : Nat) (job : Plan → Rec → At → Job) : Work :=
  match w.plan with
  | none => w
  | some p =>
    match p.firing? core idx with
    | none => w
    | some r =>
      if Rec.station r = station ∧ Rec.op r = op ∧ w.issuable p core idx r env.clk then
        let j := job p r { core := core, firing := idx, time := w.now env.clk }
        (w.start core idx r env (j.times w)).advance core idx j
      else w

/-- The access of a firing at a descriptor. -/
def At.acc (a : At) (desc : Nat) : Acc := { core := a.core, firing := a.firing, desc := desc, time := a.time }

/-- The arrays that a firing of GRID, SWEEP, TALLY or MERGE works on (R54, R396, R457, R491). -/
def Plan.arraysOf (p : Plan) (r : Rec) : List Nat :=
  match r.station with
  | 3 =>
    let sh := r.param % 8
    let a := r.param / 8 % 4
    if sh % 4 = 0 then [0, 1, 2, 3] else if sh % 4 = 1 then [2 * (a / 2), 2 * (a / 2) + 1] else [a]
  | 4 => List.range (ceilDiv ((p.tensor r.desc).s 1) 64)
  | 5 => (List.range 4).filter (fun k => r.param / 2 ^ (8 + k) % 2 = 1)
  | 2 => if r.op < 3 then [] else
      ((p.lists.getD r.param ⟨0, []⟩).items.map (fun i => bits i 57 56)).eraseDups
  | _ => [0, 1, 2, 3]

/-- Whether an earlier firing of a core keeps the order of R443 and R445 from being met: for a read of the tallies an
earlier GRID, SWEEP or MERGE firing whose partials have not all come; for such a firing an earlier DRAIN or PACK_OUT
that has not read. DEDUCED (log 85). -/
def Work.orderWait (w : Work) (p : Plan) (core idx : Nat) (r : Rec) : Bool :=
  let c := w.core core
  let arrs := p.arraysOf r
  ((p.core core).firings.take idx).zipIdx.any (fun x =>
    let st := Rec.station x.1
    (if r.station = 5 then st = 2 ∨ st = 3 ∨ st = 4 else st = 5 ∧ Rec.op x.1 ≠ 2) ∧
    !c.doneWith x.2 ∧ (p.arraysOf x.1).any (fun k => k ∈ arrs))

/-- The clk for which the partials of a GRID or SWEEP firing wait (R445): the first of them comes at `first`, and an earlier
DRAIN or PACK_OUT of its arrays reads a row each clk up to the clk at which its station is free. DEDUCED (log 85). -/
def Work.readWait (w : Work) (p : Plan) (core idx : Nat) (r : Rec) (first : Nat) : Nat :=
  let c := w.core core
  let arrs := p.arraysOf r
  let before := ((p.core core).firings.take idx).zipIdx.filter (fun x =>
    Rec.station x.1 = 5 ∧ Rec.op x.1 ≠ 2 ∧ x.2 ∈ c.issued ∧ (p.arraysOf x.1).any (fun k => k ∈ arrs))
  match before.getLast? with
  | none => 0
  | some x => (mget c.free 0 5 - Rec.count x.1 + 1) - first

/-- The clk for which the rows that a DRAIN or PACK_OUT reads wait (R445): row m, read m clk after issue, comes after every
partial that the firings before it deliver to it. DEDUCED (log 85). -/
def Work.partialWait (w : Work) (p : Plan) (a : At) (r : Rec) : Nat :=
  let arrs := p.arraysOf r
  ((w.core a.core).prog.filter (fun x => x.idx < a.firing)).foldl (fun m x => x.rows.foldl (fun m d =>
    if d.array ∈ arrs ∧ d.row < r.count ∧ !d.groups.isEmpty then max m (d.time + 1 - (a.time + d.row)) else m) m) 0

/-! ### Retirement -/

/-- A firing retires at a herd time (R24, R881): its slots on the scoreboard are released, a notification is posted when NOTIFY
is set, and a trace record written when TRACE is. DESIGN CHOICE (log 6). -/
def Work.retire (w : Work) (core idx : Nat) (r : Rec) (t : Nat) : Work :=
  let w := w.modCore core (fun c0 =>
    let c := w.idleUp core t c0
    { c with prog := c.prog.filter (·.idx ≠ idx), retired := c.retired ++ [idx]
             retiredAt := mset c.retiredAt 0 idx t, board := c.board.filter (·.firing ≠ idx) })
  let w := { w with run.sets := w.run.sets.filter (fun x => ¬(x.1 = core ∧ x.2.1 = idx)) }
  let w := if r.notify then w.note 2 core idx else w
  if r.trace then w.traceRecord 2 0 core idx (t - w.cad.time) else w

end Sys2Proof.Machine
end

