-- ==== Sys2Proof/Machine/Cumulus.lean ====
section
/-!
DEFINITION. Cumulus (R652 to R729): page tables in HBM, batch tables, appends and their outcomes, eviction, spill and
fetch, stalls, the undo of a step, and the sequence commands.
-/

namespace Sys2Proof.Machine

/-! ### Firmware accesses -/

/-- The effects on HBM of a read by Cumulus (R328, R330). -/
def Work.cumReads (w : Work) (a n : Nat) : Work :=
  if w.mem.errs.isEmpty && w.mem.lost.isEmpty then w else
  (cutRuns [(a, n)]).foldl (fun w r => match w.permit r.1 false with
    | some (_, g) => if Reg.target g = 0 then w.readEffects 3 (Reg.target! g r.1) r.2 else w
    | none => w) w

/-- Bytes stored by Cumulus at a device address (R706 for the areas of a tier). -/
def Work.cumWrite (w : Work) (a : Nat) (bs : List Byte) : Work :=
  (cut2M (bs.length / 2 ^ 21 + 2) (a, bs.length)).foldl (fun w piece =>
    let data := (bs.drop (piece.1 - a)).take piece.2
    match w.permit piece.1 true with
    | none => w
    | some (_, g) =>
      let t := Reg.target! g piece.1
      match Reg.target g with
      | 0 => w.hbmWrite 3 t data
      | 1 => { w with out := w.out ++ [Out.request 0 1 (Reg.peer g) t piece.2 1 data]
                      mem.peers := mmod w.mem.peers {} (Reg.peer g) (·.write t data) }
      | _ => w.linkWrite t data) w

/-- The lines of this module's HBM that `n` bytes at a device address touch, the first of each channel. -/
def Work.channelLines (w : Work) (a n : Nat) (wr : Bool) : List Nat :=
  ((cut2M (n / 2 ^ 21 + 2) (a, n)).flatMap (fun r => match w.permit r.1 wr with
    | some (_, g) => if Reg.target g = 0 then linesOf (Reg.target! g r.1) r.2 else []
    | none => [])).foldl (fun xs l => if xs.any (fun y => w.mem.channelOf (64 * y) = w.mem.channelOf (64 * l)) then xs else xs ++ [l]) []

/-- Accesses of Cumulus to `n` bytes at a device address wait at their channels, one for each channel, until it grants them
(R345, R346, R686, R706). DESIGN CHOICE (log 163). -/
def Work.queueRun (w : Work) (a n : Nat) (wr : Bool) : Work :=
  let us := (w.channelLines a n wr).map (fun l => ({ channel := w.mem.channelOf (64 * l), cls := 1, write := wr, addr := a, len := n
                                                     data := [], peer := 0, tag := 0 } : UAcc))
  { w with mem := { w.mem with waiting := w.mem.waiting ++ us } }

/-- The accesses of a page's copy wait at their channels. -/
def Work.queueCopy (w : Work) (src dst n : Nat) : Work := (w.queueRun src n false).queueRun dst n true

/-- Whether an access of Cumulus to a range of device addresses still waits at a channel. -/
def Work.copyWaits (w : Work) (a n : Nat) : Bool :=
  w.mem.waiting.any (fun u => u.cls = 1 ∧ a ≤ u.addr ∧ u.addr < a + n)

/-- What waits for a range of device addresses is given up with the copy that it was part of. -/
def Work.dropCopy (w : Work) (a n : Nat) : Work :=
  { w with mem := { w.mem with waiting := w.mem.waiting.filter (fun u => ¬(u.cls = 1 ∧ a ≤ u.addr ∧ u.addr < a + n)) } }

/-- Requests for bytes of a peer's HBM, sent in the fabric's leftover slots (R706, R749). -/
def Work.peerRead (w : Work) (a n : Nat) : Work :=
  (cut2M (n / 2 ^ 21 + 2) (a, n)).foldl (fun w r => match w.permit r.1 false with
    | some (_, g) => if Reg.target g = 1 then
        { w with out := w.out ++ (cut2K (r.2 / 2048 + 1) r).map (fun k =>
            Out.request 0 1 (Reg.peer g) (Reg.target! g k.1) k.2 0 []) }
      else w
    | none => w) w

/-- Whether a device address lies in companion memory and the link to it is down (R827). -/
def Work.cutOff (w : Work) (a : Nat) : Bool :=
  !w.dev.linkUp && (match w.permit a false with
    | some (_, g) => decide (Reg.target g = 2)
    | none => false)

/-- A page copied from one device address to another (R701, R704). -/
def Work.cumCopy (w : Work) (p : Policy) (src dst : Nat) : Work :=
  let bs := w.cumBytes src p.pageBytes
  (w.cumReads src p.pageBytes).cumWrite dst bs

/-- The blocks that a layer's pointers name. -/
def Work.layerBlocks (w : Work) (p : Policy) (s l : Nat) : List Nat :=
  let root := p.root s l
  let single := w.cumNum (root + 0x88) 8
  let top := w.cumNum (root + 0x90) 8
  let valid (x : Nat) : List Nat := if x / 2 ^ 63 = 1 then [x % 2 ^ 24] else []
  valid single ++ valid top ++
    (if top / 2 ^ 63 = 1 then (List.range 512).flatMap (fun i => valid (w.cumNum (p.tblkBase + 4096 * (top % 2 ^ 24) + 8 * i) 8))
     else [])

/-- The effects of Cumulus reading a slot's record, a layer's root and the indirect blocks that it names (R328, R330).
DEDUCED (log 98). -/
def Work.tableReads (w : Work) (p : Policy) (s l : Nat) : Work :=
  if w.mem.errs.isEmpty && w.mem.lost.isEmpty then w
  else (w.layerBlocks p s l).foldl (fun w b => w.cumReads (p.tblkBase + 4096 * b) 4096)
    ((w.cumReads (p.record s) 64).cumReads (p.root s l) 256)

/-! ### Changes of layer roots and page tables -/

/-- An entry stored. -/
def Work.setEnt (w : Work) (p : Policy) (s l k x : Nat) : Work :=
  match w.entAt p s l k with
  | .found a => w.cumWrite a (toLE 8 x)
  | _ => w

/-- TOKENS of a layer set. -/
def Work.setTokens (w : Work) (p : Policy) (s l n : Nat) : Work := w.cumWrite (p.root s l) (toLE 4 n)

/-- HELD of a layer and of its slot, and SPILLED of the slot, changed. -/
def Work.bump (w : Work) (p : Policy) (s l : Nat) (held spilled : Int) : Work :=
  let h := (w.held p s l : Int) + held
  let w := w.cumWrite (p.root s l + 4) (toLE 4 h.toNat)
  let sh := (w.cumNum (p.record s + 0x18) 4 : Int) + held
  let sp := (w.cumNum (p.record s + 0x1C) 4 : Int) + spilled
  w.cumWrite (p.record s + 0x18) (toLE 4 sh.toNat ++ toLE 4 sp.toNat)

/-! ### Free pages, blocks and tier pages -/

/-- The lowest number that is not in a list. -/
def lowestFree (used : List Nat) : Nat := ((List.range (used.length + 1)).find? (fun k => k ∉ used)).getD 0

/-- Free pool pages. -/
def Work.freePages (w : Work) (p : Policy) : Nat := p.poolPages - w.cum.pages.length
/-- Free tier pages. -/
def Work.freeTier (w : Work) (p : Policy) : Nat := p.tierPages - w.cum.tiers.length
/-- Free indirect blocks. -/
def Work.freeBlocks (w : Work) (p : Policy) : Nat := p.tblkCount - w.cum.blocks.length

/-- The lowest free pool page taken (R682). -/
def Work.takePage (w : Work) : Work × Nat :=
  let k := lowestFree w.cum.pages
  ({ w with cum.pages := w.cum.pages ++ [k] }, k)

/-- A pool page freed. -/
def Work.freePage (w : Work) (k : Nat) : Work := { w with cum.pages := w.cum.pages.filter (· ≠ k) }
/-- A tier page freed. -/
def Work.freeTierPage (w : Work) (k : Nat) : Work := { w with cum.tiers := w.cum.tiers.filter (· ≠ k) }

/-- An indirect block taken for the pointer word at an address: the lowest free one, its entries EMPTY (R682). -/
def Work.takeBlock (w : Work) (p : Policy) (s l addr : Nat) : Work :=
  let b := lowestFree w.cum.blocks
  let w := { w with cum.blocks := w.cum.blocks ++ [b], cum.journal := w.cum.journal ++ [Journal.block s l b addr] }
  (w.cumWrite (p.tblkBase + 4096 * b) (zeros 4096)).cumWrite addr (toLE 8 (b + 2 ^ 63))

/-- The blocks that the entry of a logical page lacks, taken. -/
def Work.growTable (w : Work) (p : Policy) (s l k : Nat) : Work :=
  let root := p.root s l
  if k < 16 then w
  else if k < 528 then
    (if w.cumNum (root + 0x88) 8 / 2 ^ 63 = 0 then w.takeBlock p s l (root + 0x88) else w)
  else
    let w := if w.cumNum (root + 0x90) 8 / 2 ^ 63 = 0 then w.takeBlock p s l (root + 0x90) else w
    match p.follow (w.cumNum (root + 0x90) 8) ((k - 528) / 512) with
    | .found a => if w.cumNum a 8 / 2 ^ 63 = 0 then w.takeBlock p s l a else w
    | _ => w

/-- The indirect blocks that the entries of logical pages lack (R681). -/
def Work.lackBlocks (w : Work) (p : Policy) (s l : Nat) (ks : List Nat) : Nat :=
  let root := p.root s l
  let single := ks.any (fun k => decide (16 ≤ k ∧ k < 528)) && w.cumNum (root + 0x88) 8 / 2 ^ 63 == 0
  let deep := (ks.filter (528 ≤ ·)).map (fun k => (k - 528) / 512)
  let top := w.cumNum (root + 0x90) 8
  let lacks (i : Nat) : Bool :=
    match p.follow top i with
    | .found a => w.cumNum a 8 / 2 ^ 63 == 0
    | _ => true
  b2n single + b2n (!deep.isEmpty && top / 2 ^ 63 == 0) + ((deep.dedup).filter lacks).length

/-! ### Batch tables (R670 to R676) -/

/-- SLOT of a batch entry. -/
def batchSlot (e : W64) : Nat := bits e 15 0
/-- APPEND of a batch entry. -/
def batchAppend (e : W64) : Nat := bits e 55 32
/-- Whether a table names a slot. -/
def names (t : List W64) (s : Nat) : Bool := t.any (fun e => bit e 16 && batchSlot e == s)
/-- The slot that a batch position holds in the table in force (R671). -/
def Work.batchAt (w : Work) (b : Nat) : Option Nat :=
  match w.cum.batch[b]? with
  | some e => if bit e 16 then some (batchSlot e) else none
  | none => none

/-- Whether a sequence is stalled in the present step (R710). -/
def Work.stalled (w : Work) (s : Nat) : Bool := w.cum.stalls.any (·.slot = s)

/-- The batch position that an item in progress of a firing names. -/
def Plan.itemSlot (p : Plan) (x : Prog) : Option Nat :=
  match x.item with
  | none => none
  | some (l, k) =>
    let wl := p.lists.getD l ⟨0, []⟩
    let it : W512 := wl.items.getD k 0
    if wl.kind = 2 ∧ bit it 152 then some (bits it 63 48) else none

/-- Whether an ATTEND item of a slot is in progress on some core (R615, R698). -/
def Work.inProgress (w : Work) (s : Nat) : Bool :=
  match w.plan with
  | none => false
  | some p => w.cores.any (fun c => c.2.prog.any (fun x =>
      match p.itemSlot x with
      | some b => w.batchAt b == some s
      | none => false))

/-! ### Spill (R698 to R702) -/

/-- Whether a slot's pages may spill: the tables do not name it and no item of it is in progress (R698). -/
def Work.slotSpillable (w : Work) (s : Nat) : Bool :=
  !names w.cum.batch s && !names (w.cum.next.getD []) s && !w.inProgress s

/-- The spill candidates in order (R698, R700): slot, layer, logical page. -/
def Work.candidates (w : Work) (p : Policy) : List (Nat × Nat × Nat) :=
  let slots := (w.cum.openSlots.filter w.slotSpillable).mergeSort
    (fun a b => let x := w.cumNum (p.record a + 0x10) 8
                let y := w.cumNum (p.record b + 0x10) 8
                decide (x < y ∨ (x = y ∧ a ≤ b)))
  slots.flatMap (fun s => (List.range p.layers).flatMap (fun l =>
    ((w.heldPages p s l).filter (fun k => let x := w.ent p s l k
        entState x = 1 && decide (entPage x ∉ w.cum.reserved))).map (fun k => (s, l, k))))

/-- A spill started (R701): its tier page is the lowest free one, its entry SPILLING. -/
def Work.startSpill (w : Work) (p : Policy) (c : Nat × Nat × Nat) : Work :=
  let x := w.ent p c.1 c.2.1 c.2.2
  let t := lowestFree w.cum.tiers
  let m : PageMove := { slot := c.1, layer := c.2.1, page := c.2.2, pool := entPage x, tier := t }
  (({ w with cum.tiers := w.cum.tiers ++ [t], cum.spilling := w.cum.spilling ++ [m] } : Work).queueCopy (p.pool (entPage x)) (p.tier t)
    p.pageBytes).setEnt p c.1 c.2.1 c.2.2 (entWith x (entPage x) 3)

/-- Spills under way that will free their pool pages. -/
def Work.spillsComing (w : Work) : Nat := (w.cum.spilling.filter (fun m => !m.keep)).length

/-- Whether a spill is wanted: the free pages are below LOW_WM, or an append is deferred, or the spilling that such a moment began
has not reached HIGH_WM (R699). -/
def Work.spillWanted (w : Work) (p : Policy) : Bool := w.freePages p < p.low || !w.cum.deferred.isEmpty || w.cum.spillOn

/-- TIER_FULL: while a policy is armed, no tier page is free and a spill is wanted (R708). -/
def Work.tierFullNow (w : Work) : Bool :=
  match w.policy? with
  | some p => w.freeTier p = 0 && w.spillWanted p
  | none => false

/-- TIER_FULL (R708) as it was last, brought up to date, and TIER_FULL_SEEN with it (R727). -/
def Work.tierStatus (w : Work) (p : Policy) : Work :=
  let full := w.freeTier p = 0 && w.spillWanted p
  { w with cum.tierFull := full, cum.tierFullSeen := w.cum.tierFullSeen || (full && !w.cum.tierFull) }

/-- Spills started until the free pages will reach HIGH_WM with every deferred append served, or no candidate or tier
room is left; begun, it goes on until then (R699). -/
def Work.spill (w : Work) (p : Policy) : Work :=
  if w.spillWanted p && !(decide (p.high ≤ w.freePages p) && w.cum.deferred.isEmpty) then
    let w := w.cum.openSlots.foldl (fun w s => w.cumReads (p.record s) 64) w
    let want := p.high + w.cum.deferred.length - (w.freePages p + w.spillsComing)
    let w := ((w.candidates p).take (min want (w.freeTier p))).foldl (fun w c => w.startSpill p c) w
    ({ w with cum.spillOn := !(w.candidates p).isEmpty && decide (w.freeTier p ≠ 0) } : Work).tierStatus p
  else ({ w with cum.spillOn := false } : Work).tierStatus p

/-! ### Fetch (R703 to R705) -/

/-- Whether appended rows of a page are on their way. -/
def Work.isFilling (w : Work) (s l k : Nat) : Bool :=
  w.cum.filling.any (fun m => m.slot = s ∧ m.layer = l ∧ m.page = k)

/-- The tier page of a spilled page whose fetch has not begun: that of its entry, or of the append that extends it (R685). -/
def Work.tierPage (w : Work) (p : Policy) (s l k : Nat) : Option Nat :=
  match w.cum.filling.find? (fun m => m.slot = s ∧ m.layer = l ∧ m.page = k ∧ m.spilled) with
  | some m => some m.tier
  | none => let x := w.ent p s l k; if entState x = 4 then some (entPage x) else none

/-- Whether a page is in a tier and its fetch has not begun. -/
def Work.unfetched (w : Work) (p : Policy) (s l k : Nat) : Bool := (w.tierPage p s l k).isSome

/-- A fetch started: its pool page is the lowest free one, its entry FETCHING, or FILLING while rows are on their way
(R685, R704). -/
def Work.startFetch (w : Work) (p : Policy) (f : LateEvict) : Work :=
  match w.tierPage p f.slot f.layer f.page with
  | none => w
  | some tier =>
    let x := w.ent p f.slot f.layer f.page
    let t := w.takePage
    let fill := w.isFilling f.slot f.layer f.page
    let m : PageMove := { slot := f.slot, layer := f.layer, page := f.page, pool := t.2, tier := tier }
    let w := { t.1 with cum.fetching := t.1.cum.fetching ++ [m]
                        cum.filling := t.1.cum.filling.map (fun (y : PageMove) =>
                          if y.slot = f.slot ∧ y.layer = f.layer ∧ y.page = f.page then { y with spilled := false } else y) }
    ((w.peerRead (p.tier tier) p.pageBytes).queueCopy (p.tier tier) (p.pool t.2) p.pageBytes).setEnt p f.slot f.layer f.page
      (if fill then entWith x t.2 2 else entWith x tier 5)

/-- Queued fetches started while pool pages are free; `n` bounds their number. -/
def Work.fetches (p : Policy) : Nat → Work → Work
  | 0, w => w
  | n + 1, w =>
    match w.cum.fetchQueue with
    | [] => w
    | f :: rest =>
      if w.freePages p = 0 ∨ !w.cum.deferred.isEmpty then w
      else Work.fetches p n (({ w with cum.fetchQueue := rest }).startFetch p f)

/-- Fetches and spills go on as far as they can. -/
def Work.cumRun (w : Work) (p : Policy) : Work := (Work.fetches p w.cum.fetchQueue.length w).spill p

/-- The pages of a slot that are being spilled are candidates no longer: their pool pages stay (R698, R702). -/
def Work.keepSpills (w : Work) (s : Nat) : Work :=
  { w with cum.spilling := w.cum.spilling.map (fun m => if m.slot = s then { m with keep := true } else m) }

/-- The spilled pages of a slot's layers, in order, queued for fetching (R703). -/
def Work.queueFetches (w : Work) (p : Policy) (s : Nat) : Work :=
  let w := (List.range p.layers).foldl (fun w l => w.tableReads p s l) (w.keepSpills s)
  let fs : List LateEvict := (List.range p.layers).flatMap (fun l =>
    ((w.heldPages p s l).filter (fun k => entState (w.ent p s l k) = 4)).map (fun k => ⟨s, l, k⟩))
  { w with cum.fetchQueue := w.cum.fetchQueue ++ fs.filter (· ∉ w.cum.fetchQueue) }

/-- A page that a walker waits on fetched ahead of every queued fetch (R705). -/
def Work.demandFetch (w : Work) (p : Policy) (s l k : Nat) : Work :=
  let w := w.tableReads p s l
  if w.unfetched p s l k then
    let f : LateEvict := ⟨s, l, k⟩
    let w := { w with cum.fetchQueue := f :: w.cum.fetchQueue.filter (· ≠ f)
                      cum.demand := if w.cum.fetchQueue.head? = some f then w.cum.demand else w.cum.demand + 1 }
    w.cumRun p
  else w

/-! ### Stalls (R709 to R712) -/

/-- A sequence stalls: its first stall in the step is kept and counted (R710, R729). -/
def Work.stallSeq (w : Work) (pos s l status : Nat) : Work :=
  if w.stalled s then w
  else { w with cum.stalls := w.cum.stalls ++ [{ slot := s, pos := pos, layer := l, status := BitVec.ofNat 8 status }]
                cum.stallCount := w.cum.stallCount + 1 }

/-! ### Eviction (R691 to R697) -/

/-- Whether a page is pinned, TOKENS being the count after the append (R691). -/
def Work.pinned (w : Work) (p : Policy) (s tokens k : Nat) : Bool :=
  let sink := w.cumNum (p.record s + 2) 2
  let recent := w.cumNum (p.record s + 4) 2
  decide (k < sink) || decide (pagesOf tokens ≤ k + recent)

/-- The pages that budget eviction takes: among held and new pages that are not pinned, the `n` first in ascending score
and then first position (R692). -/
def Work.victims (w : Work) (p : Policy) (s l tokens n : Nat) (fresh : List Nat) : List Nat :=
  let all := (w.heldPages p s l).map (fun k => (k, entScore (w.ent p s l k))) ++ fresh.map (fun k => (k, FVal.zero))
  let free := all.filter (fun x => !w.pinned p s tokens x.1)
  ((free.mergeSort (fun a b => flt a.2 b.2 || (!flt b.2 a.2 && decide (a.1 ≤ b.1)))).take n).map (·.1)

/-- The pool pages and the tier pages that an evicted entry frees (R695): `other` is the destination of a copy under
way. -/
def evictedPages (x other : Nat) : List Nat × List Nat :=
  match entState x with
  | 3 => ([entPage x], [other])
  | 4 => ([], [entPage x])
  | 5 => ([other], [entPage x])
  | _ => ([entPage x], [])

/-- A held page evicted: EMPTY, its pool and tier pages reserved until commit (R694, R695), moves of it given up. A page
that still waits for a pool page frees none. DEDUCED (log 98). -/
def Work.evict (w : Work) (p : Policy) (s l k : Nat) : Work :=
  let here (m : PageMove) : Bool := m.slot = s ∧ m.layer = l ∧ m.page = k
  let x := w.ent p s l k
  if x = 0 then w
  else if w.cum.deferred.any here then
    let w := { w with cum.deferred := w.cum.deferred.filter (fun m => !here m), cum.evictions := w.cum.evictions + 1 }
    (w.setEnt p s l k 0).bump p s l (-1) 0
  else
    let fetch := w.cum.fetching.find? here
    let x := match fetch, w.tierPage p s l k with
      | some m, _ => entWith x m.tier 5
      | none, some t => entWith x t 4
      | none, none => x
    let other := match fetch with
      | some m => m.pool
      | none => ((w.cum.spilling.find? here).map (·.tier)).getD 0
    let ps := evictedPages x other
    let f : LateEvict := ⟨s, l, k⟩
    let w := { w with cum.journal := w.cum.journal ++ [Journal.evicted s l k (BitVec.ofNat 64 x) other]
                      cum.reserved := w.cum.reserved ++ ps.1
                      cum.reservedTier := w.cum.reservedTier ++ ps.2
                      cum.fetching := w.cum.fetching.filter (fun m => !here m)
                      cum.spilling := w.cum.spilling.filter (fun m => !here m)
                      cum.filling := w.cum.filling.filter (fun m => !here m)
                      cum.fetchQueue := w.cum.fetchQueue.filter (· ≠ f)
                      cum.evictions := w.cum.evictions + 1 }
    let w := ps.1.foldl (fun w n => w.dropCopy (p.pool n) p.pageBytes) w
    let w := ps.2.foldl (fun w n => w.dropCopy (p.tier n) p.pageBytes) w
    (w.setEnt p s l k 0).bump p s l (-1) (if entState x = 4 ∨ entState x = 5 then -1 else 0)

/-! ### Appends (R677 to R686) -/

/-- An append entry's LAYER, TICK, OFFSET, KDESC, VDESC (R677). -/
structure AppendEnt where
  layer : Nat
  tick : Nat
  offset : Nat
  kdesc : Nat
  vdesc : Nat
  deriving DecidableEq, Repr

/-- An append entry taken apart. -/
def appendEnt (e : BitVec 256) : AppendEnt :=
  { layer := bits e 7 0, tick := bits e 63 32, offset := bits e 95 64, kdesc := bits e 111 96, vdesc := bits e 127 112 }

/-- The bytes of a staging row, and its scale byte. -/
def Work.stagingRow (w : Work) (t : Tensor) (h j b : Nat) : List Byte × List Byte :=
  let e := t.elem [0, h, j, b, 0, 0]
  ((List.range (128 * t.fmt.bits / 8)).map (fun k => w.devByte (t.addr (t.elem [k * 8 / t.fmt.bits, h, j, b, 0, 0]) +
      k % (t.fmt.bits / 8))),
   if t.g = 0 then [] else [w.devByte (t.scaleAddr e).1])

/-- Token row `r` of a block at offset `o` of a page: its bytes and its scale byte, as stores (R609, R684). -/
def Policy.rowPuts (p : Policy) (o r : Nat) (x : List Byte × List Byte) : List (Nat × List Byte) :=
  let t := p.block o
  let e := t.elem [0, r, 0, 0, 0, 0]
  (t.addr e, x.1) :: (if t.g = 0 then [] else [((t.scaleAddr e).1, x.2)])

/-- The rows of token `j` of an append, for every head (R684). -/
def Work.tokenPuts (w : Work) (p : Policy) (kt vt : Tensor) (j b r : Nat) : List (Nat × List Byte) :=
  (List.range p.heads).flatMap (fun h =>
    p.rowPuts (h * (2 * p.blockBytes)) r (w.stagingRow kt h j b) ++
    p.rowPuts (h * (2 * p.blockBytes) + p.blockBytes) r (w.stagingRow vt h j b))

/-- The rows that an append of `n` tokens after token `c` brings to logical page `k`. -/
def Work.pagePuts (w : Work) (p : Policy) (kt vt : Tensor) (c n b k : Nat) : List (Nat × List Byte) :=
  (List.range n).flatMap (fun j => if (c + j) / 64 = k then w.tokenPuts p kt vt j b ((c + j) % 64) else [])

/-- Rows on their way to a page that holds or will hold a pool page: its entry is FILLING (R685). -/
def Work.fill (w : Work) (p : Policy) (m : PageMove) : Work :=
  let here (y : PageMove) : Bool := y.slot = m.slot ∧ y.layer = m.layer ∧ y.page = m.page
  if w.cum.filling.any here then
    { w with cum.filling := w.cum.filling.map (fun y => if here y then { y with rows := y.rows ++ m.rows } else y) }
  else
    let x := w.ent p m.slot m.layer m.page
    let w := { w with cum.filling := w.cum.filling ++ [m] }
    match entState x with
    | 4 =>
      let g : LateEvict := ⟨m.slot, m.layer, m.page⟩
      ({ w with cum.fetchQueue := g :: w.cum.fetchQueue.filter (· ≠ g)
                cum.filling := w.cum.filling.map (fun (y : PageMove) =>
                  if here y then { y with spilled := true, tier := entPage x } else y) }
        : Work).setEnt p m.slot m.layer m.page (entWith x 0 2)
    | 5 =>
      match w.cum.fetching.find? here with
      | some y => w.setEnt p m.slot m.layer m.page (entWith x y.pool 2)
      | none => w
    | 3 =>
      let ts := (w.cum.spilling.filter here).map (·.tier)
      let w := ts.foldl (fun w t => w.dropCopy (p.tier t) p.pageBytes) (w.dropCopy (p.pool (entPage x)) p.pageBytes)
      ({ w with cum.spilling := w.cum.spilling.filter (fun y => !here y)
                cum.tiers := w.cum.tiers.filter (· ∉ ts) }).setEnt p m.slot m.layer m.page (entWith x (entPage x) 2)
    | _ => w.setEnt p m.slot m.layer m.page (entWith x (entPage x) 2)

/-- Rows on their way to a page that is held; their copies wait at their channels when it has a pool page (R684 to R686). -/
def Work.extend (w : Work) (p : Policy) (m : PageMove) : Work :=
  let w := w.fill p m
  if w.cum.unplaced m.slot m.layer m.page then w
  else m.rows.foldl (fun w r => w.queueRun (p.pool (entPage (w.ent p m.slot m.layer m.page)) + r.1) r.2.length true) w

/-- A new page receives a pool page, its entry FILLING with score 0, and the copies of its rows wait at their channels (R682, R685,
R686, R690); an append of an earlier step is not undone with the present one (R713, R718). -/
def Work.allocate (w : Work) (p : Policy) (m : PageMove) : Work :=
  let t := w.takePage
  let w := { t.1 with cum.journal := t.1.cum.journal ++ (if m.past then [] else [Journal.took m.slot m.layer m.page t.2]) }
  let w := ((w.setEnt p m.slot m.layer m.page (entWith 0 t.2 2)).fill p m)
  m.rows.foldl (fun w r => w.queueRun (p.pool t.2 + r.1) r.2.length true) w

/-- The pages of deferred appends receive pool pages, in order, while some are free (R680).
DEDUCED (log 98). -/
def Work.serveDeferred (p : Policy) : Nat → Work → Work
  | 0, w => w
  | n + 1, w =>
    match w.cum.deferred with
    | [] => w
    | m :: rest =>
      if w.freePages p = 0 then w
      else Work.serveDeferred p n (({ w with cum.deferred := rest }).allocate p m)

/-- The effects of reading the staging rows of an append (R328, R330, R684). -/
def Work.stagingReads (w : Work) (t : Tensor) (heads n b : Nat) : Work :=
  (List.range n).foldl (fun w j => (List.range heads).foldl (fun w h =>
    let a := t.addr (t.elem [0, h, j, b, 0, 0])
    let w := w.cumReads a (128 * t.fmt.bits / 8)
    if t.g = 0 then w else w.cumReads (t.scaleAddr (t.elem [0, h, j, b, 0, 0])).1 1) w) w

/-- The append of one batch position (R680, R681, R692). DEDUCED (log 98). -/
def Work.appendOne (w : Work) (pl : Plan) (p : Policy) (e : AppendEnt) (pos s n : Nat) : Work :=
  let l := e.layer
  let w := w.tableReads p s l
  let c := w.tokens p s l
  let fresh := (List.range (pagesOf (c + n))).filter (pagesOf c ≤ ·)
  let held_ := (w.heldPages p s l).length
  let ev := w.evictEn p s
  let budget := w.budget p s
  if w.stalled s ∨ 16777216 < c + n ∨ (!ev ∧ budget < held_ + fresh.length) then w.stallSeq pos s l stNoPage
  else
    let vs := if ev then w.victims p s l (c + n) (held_ + fresh.length - budget) fresh else []
    let need := fresh.filter (· ∉ vs)
    let blocks := w.lackBlocks p s l need
    let free := w.freePages p
    let cands := (w.candidates p).length
    let coming := w.spillsComing - w.cum.deferred.length
    let enough := blocks ≤ w.freeBlocks p
    let direct := enough && decide (need.length ≤ free)
    let later := enough && decide (need.length ≤ free + coming + min cands (w.freeTier p))
    if !direct && !later then
      w.stallSeq pos s l (if enough ∧ need.length ≤ free + coming + cands then stTierFull else stNoPage)
    else
      let kt := pl.tensor e.kdesc
      let vt := pl.tensor e.vdesc
      let w := (w.stagingReads kt p.heads n pos).stagingReads vt p.heads n pos
      let rows (k : Nat) : PageMove := { slot := s, layer := l, page := k, rows := w.pagePuts p kt vt c n pos k }
      let last := if c % 64 = 0 then [] else [c / 64]
      let w := { w with cum.journal := w.cum.journal ++ [Journal.tokens s l c held_]
                        cum.appends := w.cum.appends + 1
                        cum.deferredCount := if direct then w.cum.deferredCount else w.cum.deferredCount + 1 }
      let old := vs.filter (· ∉ fresh)
      let w := { w with cum.evictions := w.cum.evictions + BitVec.ofNat 64 (vs.length - old.length) }
      let busy := w.inProgress s
      let w := old.foldl (fun w k =>
        if busy then { w with cum.lateEvict := w.cum.lateEvict ++ [⟨s, l, k⟩] } else w.evict p s l k) w
      let w := w.setTokens p s l (c + n)
      let w := (last.filter (fun k => w.ent p s l k ≠ 0 ∧ k ∉ vs)).foldl (fun w k => w.extend p (rows k)) w
      let w := need.foldl (fun w k => ((w.growTable p s l k).setEnt p s l k (entWith 0 0 2)).bump p s l 1 0) w
      let w := { w with cum.deferred := w.cum.deferred ++ need.map rows }
      (Work.serveDeferred p w.cum.deferred.length w).cumRun p

/-- The append point of an entry (R680): every VALID position with APPEND above 0, in ascending order.
DEDUCED (log 98). -/
def Work.appendPoint (w : Work) (pl : Plan) (p : Policy) (e : AppendEnt) : Work :=
  w.cum.batch.zipIdx.foldl (fun w x =>
    let s := batchSlot x.1
    let n := batchAppend x.1
    if bit x.1 16 ∧ 0 < n ∧ s ∈ w.cum.openSlots then w.appendOne pl p e x.2 s n else w) w

/-- The rows of an append have landed: its page is RESIDENT (R684, R685). Nothing happens while one of its accesses waits at a
channel (R686). -/
def Work.landed (w : Work) (p : Policy) (s l k : Nat) : Work :=
  let w := w.tableReads p s l
  let here (m : PageMove) : Bool := m.slot = s ∧ m.layer = l ∧ m.page = k
  match w.cum.filling.find? here with
  | none => w
  | some m =>
    if w.cum.fetching.any here ∨ w.cum.unplaced s l k then w
    else
      let x := w.ent p s l k
      if entState x ≠ 2 ∨ w.copyWaits (p.pool (entPage x)) p.pageBytes then w
      else
        let w := { w with cum.filling := w.cum.filling.filter (fun y => !here y) }
        let w := m.rows.foldl (fun w r => w.cumWrite (p.pool (entPage x) + r.1) r.2) w
        w.setEnt p s l k (entWith x (entPage x) 1)

/-- A spill's copy has ended (R701, R702); it cannot while one of its accesses waits at a channel, or while the link to a
companion tier is down (R345, R706, R827). -/
def Work.spillEnds (w : Work) (p : Policy) (s l k : Nat) : Work :=
  let w := w.tableReads p s l
  let here (m : PageMove) : Bool := m.slot = s ∧ m.layer = l ∧ m.page = k
  match w.cum.spilling.find? here with
  | none => w
  | some m =>
    let x := w.ent p s l k
    if w.copyWaits (p.pool m.pool) p.pageBytes ∨ w.copyWaits (p.tier m.tier) p.pageBytes ∨ w.cutOff (p.tier m.tier) then w else
    let w := { w with cum.spilling := w.cum.spilling.filter (fun y => !here y) }
    let w := if m.keep ∨ !w.slotSpillable s then (w.setEnt p s l k (entWith x m.pool 1)).freeTierPage m.tier
      else
        let w := w.cumCopy p (p.pool m.pool) (p.tier m.tier)
        let w := { w with cum.spills := w.cum.spills + 1 }
        ((w.setEnt p s l k (entWith x m.tier 4)).bump p s l 0 1).freePage m.pool
    (Work.serveDeferred p w.cum.deferred.length w).cumRun p

/-- A fetch's copy has ended (R704); it cannot while one of its accesses waits at a channel, or while the link to a companion tier
is down (R345, R706, R827). Rows that wait for the page are then copied. -/
def Work.fetchEnds (w : Work) (p : Policy) (s l k : Nat) : Work :=
  let w := w.tableReads p s l
  let here (m : PageMove) : Bool := m.slot = s ∧ m.layer = l ∧ m.page = k
  match w.cum.fetching.find? here with
  | none => w
  | some m =>
    let x := w.ent p s l k
    if w.copyWaits (p.pool m.pool) p.pageBytes ∨ w.copyWaits (p.tier m.tier) p.pageBytes ∨ w.cutOff (p.tier m.tier) then w else
    let w := { w with cum.fetching := w.cum.fetching.filter (fun y => !here y), cum.fetches := w.cum.fetches + 1 }
    let w := w.cumCopy p (p.tier m.tier) (p.pool m.pool)
    let w := (w.cum.filling.filter here).foldl (fun w y => y.rows.foldl (fun w r => w.queueRun (p.pool m.pool + r.1) r.2.length true) w) w
    let w := w.setEnt p s l k (entWith x m.pool (if w.isFilling s l k then 2 else 1))
    ((w.bump p s l 0 (-1)).freeTierPage m.tier).cumRun p

/-- The evictions of a slot that waited for its items (R697). -/
def Work.lateEvictions (w : Work) (p : Policy) (s : Nat) : Work :=
  let here := w.cum.lateEvict.filter (·.slot = s)
  let w := { w with cum.lateEvict := w.cum.lateEvict.filter (·.slot ≠ s) }
  here.foldl (fun w f => w.evict p f.slot f.layer f.page) w

/-! ### Undo (R713, R718) -/

/-- One entry of the journal undone. -/
def Work.undo (w : Work) (p : Policy) (j : Journal) : Work :=
  match j with
  | .tokens s l n _ => w.setTokens p s l n
  | .took s l k page =>
    let x := w.ent p s l k
    let w := { w with cum.filling := w.cum.filling.filter (fun m => ¬(m.slot = s ∧ m.layer = l ∧ m.page = k)) }
    let w := w.dropCopy (p.pool page) p.pageBytes
    let w := if x = 0 then w else (w.setEnt p s l k 0).bump p s l (-1) 0
    w.freePage page
  | .block _ _ b addr => ({ w with cum.blocks := w.cum.blocks.filter (· ≠ b) }).cumWrite addr (toLE 8 0)
  | .evicted s l k e other =>
    let x := e.toNat
    match entState x with
    | 3 => ((w.setEnt p s l k (entWith x (entPage x) 1)).bump p s l 1 0).freeTierPage other
    | 5 => ((w.setEnt p s l k (entWith x (entPage x) 4)).bump p s l 1 1).freePage other
    | 4 => (w.setEnt p s l k x).bump p s l 1 1
    | _ => (w.setEnt p s l k (entWith x (entPage x) 1)).bump p s l 1 0

/-- The slot that a journal entry is of. -/
def Journal.slot : Journal → Nat
  | .tokens s _ _ _ => s
  | .took s _ _ _ => s
  | .block s _ _ _ => s
  | .evicted s _ _ _ _ => s

/-- The pool pages and the tier pages that an eviction reserved. DEDUCED (log 98). -/
def Journal.reserved : Journal → List Nat × List Nat
  | .evicted _ _ _ e other => evictedPages e.toNat other
  | _ => ([], [])

/-- A page that was being extended as it was before the step: with rows of earlier steps still on their way it stays FILLING, without
it is RESIDENT, or in its tier, again. -/
def Work.shrink (w : Work) (p : Policy) (m : PageMove) : Work :=
  let here (y : PageMove) : Bool := y.slot = m.slot ∧ y.layer = m.layer ∧ y.page = m.page
  if 0 < m.older then
    { w with cum.filling := w.cum.filling.map (fun y => if here y then { y with rows := y.rows.take y.older } else y) }
  else
    let w := { w with cum.filling := w.cum.filling.filter (fun y => !here y) }
    let x := w.ent p m.slot m.layer m.page
    match w.cum.fetching.find? here with
    | some y => w.setEnt p m.slot m.layer m.page (entWith x y.tier 5)
    | none =>
      if m.spilled then w.setEnt p m.slot m.layer m.page (entWith x m.tier 4)
      else if entState x = 2 then
        (w.dropCopy (p.pool (entPage x)) p.pageBytes).setEnt p m.slot m.layer m.page (entWith x (entPage x) 1)
      else w

/-- The step's changes to the slots that `f` picks undone, the newest first: pages that waited for a pool page are given
up, pages that were being extended are as before, and reservations are lifted; what appends of earlier steps still wait for stays
(R713, R718). DEDUCED (log 98). -/
def Work.undoSlots (w : Work) (p : Policy) (f : Nat → Bool) : Work :=
  let mine := w.cum.journal.filter (fun j => f j.slot)
  let waits := w.cum.deferred.filter (fun m => f m.slot && !m.past)
  let w := { w with cum.deferred := w.cum.deferred.filter (fun m => !f m.slot || m.past)
                    cum.lateEvict := w.cum.lateEvict.filter (fun x => !f x.slot) }
  let w := waits.foldl (fun w m => (w.setEnt p m.slot m.layer m.page 0).bump p m.slot m.layer (-1) 0) w
  let w := mine.reverse.foldl (fun w j => w.undo p j) w
  let w := (w.cum.filling.filter (fun m => f m.slot)).foldl (fun w m => w.shrink p m) w
  { w with cum.journal := w.cum.journal.filter (fun j => !f j.slot)
           cum.reserved := w.cum.reserved.filter (· ∉ mine.flatMap (·.reserved.1))
           cum.reservedTier := w.cum.reservedTier.filter (· ∉ mine.flatMap (·.reserved.2)) }

/-! ### Commit (R687 to R690, R713 to R717) -/

/-- A stall entry (R714). -/
def stallEntry (x : SeqStall) : List Byte :=
  toLE 8 (pack [(x.slot, 16), (x.pos, 12), (0, 4), (x.layer, 8), (x.status.toNat, 8)])

/-- Page scores after a step: `masses` gives for each page (slot, layer, logical page) the masses it received, in their
order (R689). -/
def Work.score (w : Work) (p : Policy) (s l k : Nat) (ms : List FVal) : Work :=
  let x := w.ent p s l k
  if x = 0 ∨ ms.isEmpty then w
  else
    let mass := fdiv (ms.tail.foldl fadd (ms.headD .zero)) (.ofInt ms.length)
    let old := entScore x
    let new := fadd old (fmul (fsub mass old) (.fin false 1 (-(p.decay : Int))))
    w.setEnt p s l k (x % 2 ^ 32 + 2 ^ 32 * new.code32.toNat)

/-- The mass of a page for an item of `r` rows (R635, R687): `terms` gives each row's λ and statistic.
DEDUCED (log 97). -/
def pageMass (r : Nat) (terms : List (FVal × FVal)) : FVal :=
  let ts := terms.map (fun x => match x.2 with
    | .inf true => FVal.zero
    | st => fexp2 (fsub x.1 st))
  fdiv (ts.tail.foldl fadd (ts.headD .zero)) (.ofInt r)

/-- The masses of the pages that a retired MASS_EN item visited: (slot, layer, logical page) with its mass (R687,
R688). DEDUCED (log 97). -/
def Work.itemMasses (w : Work) (pl : Plan) (p : Policy) (m : MassItem) : List ((Nat × Nat × Nat) × FVal) :=
  let it := m.item
  let heads := bits it 69 64 + 1
  let r := heads * (bits it 75 70 + 1)
  let st := pl.tensor (bits it 47 36)
  let l := bits it 83 76 / p.heads
  m.walk.zipIdx.map (fun x => ((m.slot, l, x.1),
    pageMass r ((List.range r).map (fun i =>
      (fp32 (BitVec.ofNat 32 (w.cumNum (bits it 375 320 + 4 * (r * x.2 + i)) 4)),
       let idx := [bits it 91 84 + i % heads, bits it 115 92 + i / heads, 0, 0, 0, 0]
       if idx.getD 1 0 < st.s 1 then fp32 (BitVec.ofNat 32 (w.cumNum (st.addr (st.elem idx)) 4)) else .inf true)))))

/-- The effects of reading an item's masses and statistics, and the table of its layer (R328, R330). -/
def Work.massReads (w : Work) (pl : Plan) (p : Policy) (m : MassItem) : Work :=
  if w.mem.errs.isEmpty && w.mem.lost.isEmpty then w
  else
    let it := m.item
    let r := (bits it 69 64 + 1) * (bits it 75 70 + 1)
    let st := pl.tensor (bits it 47 36)
    let w := (w.tableReads p m.slot (bits it 83 76 / p.heads)).cumReads (bits it 375 320) (4 * (r * m.walk.length))
    (List.range r).foldl (fun w i =>
      let idx := [bits it 91 84 + i % (bits it 69 64 + 1), bits it 115 92 + i / (bits it 69 64 + 1), 0, 0, 0, 0]
      if idx.getD 1 0 < st.s 1 then w.cumReads (st.addr (st.elem idx)) 4 else w) w

/-- Scores brought up to date at a commit (R687 to R690): items in ascending section number, then list position; a
stalled sequence keeps its scores. -/
def Work.updateScores (w : Work) (pl : Plan) (p : Policy) : Work :=
  let items := (w.run.mass.filter (fun m => !w.stalled m.slot)).mergeSort
    (fun a b => decide (a.number < b.number ∨ (a.number = b.number ∧ a.pos ≤ b.pos)))
  let w := items.foldl (fun w m => w.massReads pl p m) w
  let ms := items.flatMap (w.itemMasses pl p)
  ((ms.map (·.1)).dedup).foldl (fun w k =>
    w.score p k.1 k.2.1 k.2.2 ((ms.filter (fun x => x.1 = k)).map (·.2))) w

/-- An append's page once its step has committed. -/
def PageMove.commit (m : PageMove) : PageMove := { m with past := true, older := m.rows.length }

/-- What Cumulus does at a step's commit (R717). The answer counts the stall entries.
DEDUCED (log 30, 98). -/
def Work.cumCommit (w : Work) : Work × Nat :=
  match w.plan.bind (fun pl => pl.policy.map (fun p => (pl, p))) with
  | none => ({ w with cum.stepCount := w.cum.stepCount + 1, cum.treated := [] }, 0)
  | some (pl, p) =>
    let w := w.undoSlots p w.stalled
    let stalls := w.cum.stalls.mergeSort (fun a b => decide (a.pos ≤ b.pos))
    let w := stalls.zipIdx.foldl (fun w x => w.cumWrite (p.stallBase + 8 * x.2) (stallEntry x.1)) w
    let w := w.updateScores pl p
    let w := { w with cum.pages := w.cum.pages.filter (· ∉ w.cum.reserved)
                      cum.tiers := w.cum.tiers.filter (· ∉ w.cum.reservedTier)
                      cum.reserved := [], cum.reservedTier := [], cum.journal := [], cum.stalls := [], cum.treated := []
                      cum.deferred := w.cum.deferred.map PageMove.commit, cum.filling := w.cum.filling.map PageMove.commit }
    let w := w.cum.batch.foldl (fun w e =>
      if bit e 16 then w.cumWrite (p.record (batchSlot e) + 0x10) (toLE 8 w.cum.stepCount.toNat) else w) w
    let w := { w with cum.stepCount := w.cum.stepCount + 1
                      cum.batch := w.cum.next.getD w.cum.batch
                      cum.next := none }
    ((Work.serveDeferred p w.cum.deferred.length w).cumRun p, stalls.length)

/-- What Cumulus restores when a step is replayed or abandoned (R718). -/
def Work.cumUndo (w : Work) : Work :=
  match w.policy? with
  | none => w
  | some p =>
    let w := w.undoSlots p (fun _ => true)
    { w with cum.stalls := [], cum.treated := [], cum.reserved := [], cum.reservedTier := [] }.cumRun p

/-- Every slot closed and every page free (R659, R660). DEDUCED (log 98, 99). -/
def Cum.closeAll (c : Cum) : Cum :=
  { c with openSlots := [], pages := [], tiers := [], blocks := [], reserved := [], reservedTier := [], batch := []
           next := none, stalls := [], journal := [], deferred := [], filling := [], spilling := [], fetching := []
           fetchQueue := [], lateEvict := [], treated := [], spillOn := false, tierFull := false }

/-- Every slot closed and every page free, the open slots' records with them, when the plan of their policy is armed (R659, R660,
R662). DEDUCED (log 98). -/
def Work.closeSlots (w : Work) : Work :=
  let w := match w.policy? with
    | none => w
    | some p => w.cum.openSlots.foldl (fun w s => w.cumWrite (p.record s) (zeros 64)) w
  { w with cum := w.cum.closeAll, mem := { w.mem with waiting := w.mem.waiting.filter (fun u => u.cls ≠ 1) } }

/-- The fields of a policy that the slots depend on (R659). -/
def Policy.keepKey (p : Policy) : List Nat :=
  [p.field 0x00 8, p.poolPages, p.field 0x0C 1, p.heads, p.layers, p.metaBase, p.tblkBase, p.tblkCount] ++
  (p.tierAreas.flatMap (fun x => [x.1, x.2]))

/-- The arming of a plan, `old` being the one armed before: slots and pages stay when its policy agrees with the one last armed;
otherwise, and without a policy, every slot is closed and every page freed (R659). Spilling begins where R699 wants it. -/
def Work.cumArm (w : Work) (old : Option Plan) : Work :=
  let same := match w.policy?, w.cum.lastPolicy with
    | some p, some h => ({ hdr := h, appends := [] } : Policy).keepKey == p.keepKey
    | _, _ => false
  let w := if same then w else { ({ w with plan := old } : Work).closeSlots with plan := w.plan }
  match w.policy? with
  | none => { w with cum.tierFull := false }
  | some p => ({ w with cum.lastPolicy := some p.hdr } : Work).spill p

/-! ### The events (R680, R684, R697, R701, R704) -/

/-- The change that an armed policy's event makes; without a policy none. -/
def Work.withPolicy (w : Work) (f : Policy → Work → Work) : Work :=
  match w.policy? with
  | some p => f p w
  | none => w

/-- APPEND_POINT of an entry: at its plan time, once in a step. -/
def execAppendPoint (entry : Nat) (s : State) : Host.Outcome State Fault Refusal :=
  .next { s with w :=
    match s.w.plan.bind (fun pl => pl.policy.map (fun p => (pl, p))) with
    | none => s.w
    | some (pl, p) =>
      match p.appends[entry]? with
      | none => s.w
      | some e =>
        let e := appendEnt e
        if s.w.dev.state = .running ∧ s.w.run.step.isSome ∧ e.tick ≤ s.w.run.tick.toNat ∧ entry ∉ s.w.cum.treated then
          ({ s.w with cum.treated := s.w.cum.treated ++ [entry] }).appendPoint pl p e
        else s.w }

/-- DEFERRED_APPEND_SERVE: a deferred append's pages are allocated as pool pages come free (R680, R699). -/
def execDeferredAppendServe (s : State) : Host.Outcome State Fault Refusal :=
  .next { s with w := s.w.withPolicy (fun p w => (Work.serveDeferred p w.cum.deferred.length w).cumRun p) }

/-- APPEND_COPY_DONE: the rows of a page have landed. -/
def execAppendCopyDone (slot layer page : Nat) (s : State) : Host.Outcome State Fault Refusal :=
  .next { s with w := s.w.withPolicy (fun p w => w.landed p slot layer page) }

/-- SPILL_DONE: a spill's copy ends. -/
def execSpillDone (slot layer page : Nat) (s : State) : Host.Outcome State Fault Refusal :=
  .next { s with w := s.w.withPolicy (fun p w => w.spillEnds p slot layer page) }

/-- FETCH_DONE: a fetch's copy ends. -/
def execFetchDone (slot layer page : Nat) (s : State) : Host.Outcome State Fault Refusal :=
  .next { s with w := s.w.withPolicy (fun p w => w.fetchEnds p slot layer page) }

/-- DEFERRED_EVICTION: the last item of a slot in progress has retired, and its evictions take place (R697). -/
def execDeferredEviction (slot : Nat) (s : State) : Host.Outcome State Fault Refusal :=
  .next { s with w := s.w.withPolicy (fun p w => if w.inProgress slot then w else (w.lateEvictions p slot).cumRun p) }

/-! ### The commands (R673 to R676, R719 to R725) -/

/-- A sequence command: refused as a state conflict unless a plan with a policy is armed and the state allows it (R725,
R861, R865). -/
def State.seqCommand (s : State) (ring : Nat) (act : Policy → State → Answer) : State :=
  s.command ring [.loaded, .running, .held] (fun s =>
    match s.w.policy? with
    | none => s.refuse stStateConflict
    | some p => act p s)

/-- A slot record as SEQ_OPEN writes it (R662, R719). -/
def openRecord (evictEn sink recent budget lastStep : Nat) : List Byte :=
  toLE 1 1 ++ toLE 1 evictEn ++ toLE 2 sink ++ toLE 2 recent ++ toLE 2 0 ++ toLE 4 budget ++ toLE 4 0 ++ toLE 8 lastStep ++
  zeros 40

/-- SEQ_OPEN (R719, R720). -/
def execSeqOpen (ring slot evictEn budget sink recent : Nat) (s : State) : Host.Outcome State Fault Refusal :=
  .next (s.seqCommand ring (fun p s =>
    if 65536 ≤ slot ∨ 1 < evictEn ∨ budget < 1 ∨ 262144 < budget ∨ 65536 ≤ sink ∨ 65536 ≤ recent ∨
        (evictEn = 1 ∧ budget < sink + recent + 1) then s.refuse stBadParam
    else if slot ∈ s.w.cum.openSlots then s.refuse stBusy
    else
      let w := s.w.cumWrite (p.record slot) (openRecord evictEn sink recent budget s.w.cum.stepCount.toNat)
      let w := (List.range p.layers).foldl (fun w l => w.cumWrite (p.root slot l) (zeros 256)) w
      { s := { s with w := { w with cum.openSlots := w.cum.openSlots ++ [slot] } }, status := stOk }))

/-- Whether a slot is named by the table in force of a running step, or by the next table (R723). -/
def Work.slotBusy (w : Work) (s : Nat) : Bool := (w.stepping && names w.cum.batch s) || names (w.cum.next.getD []) s

/-- A held page given up at once: its pool page, its tier page and its moves. -/
def Work.drop (w : Work) (p : Policy) (s l k : Nat) : Work :=
  let x := w.ent p s l k
  if x = 0 then w
  else
    let here (m : PageMove) : Bool := m.slot = s ∧ m.layer = l ∧ m.page = k
    let moves := (w.cum.fetching ++ w.cum.spilling).filter here
    let waits := w.cum.unplaced s l k
    let tier := w.tierPage p s l k
    let st := entState x
    let pools := (if (st = 1 ∨ st = 2 ∨ st = 3) ∧ !waits then [entPage x] else []) ++ moves.map (·.pool)
    let tiers := tier.toList ++ (if st = 5 then [entPage x] else []) ++ moves.map (·.tier)
    let sp : Int := if tier.isSome ∨ st = 5 ∨ (w.cum.fetching.any here) then -1 else 0
    let f : LateEvict := ⟨s, l, k⟩
    let w := pools.foldl (fun w n => w.dropCopy (p.pool n) p.pageBytes) (tiers.foldl (fun w n => w.dropCopy (p.tier n) p.pageBytes) w)
    let w := { w with cum.pages := w.cum.pages.filter (· ∉ pools), cum.tiers := w.cum.tiers.filter (· ∉ tiers)
                      cum.fetching := w.cum.fetching.filter (fun m => !here m)
                      cum.spilling := w.cum.spilling.filter (fun m => !here m)
                      cum.filling := w.cum.filling.filter (fun m => !here m)
                      cum.deferred := w.cum.deferred.filter (fun m => !here m)
                      cum.fetchQueue := w.cum.fetchQueue.filter (· ≠ f) }
    (w.setEnt p s l k 0).bump p s l (-1) sp

/-- SEQ_CLOSE (R721, R723). -/
def execSeqClose (ring slot : Nat) (s : State) : Host.Outcome State Fault Refusal :=
  .next (s.seqCommand ring (fun p s =>
    if 65536 ≤ slot then s.refuse stBadParam
    else if slot ∉ s.w.cum.openSlots then { s := s, status := stOk }
    else if s.w.slotBusy slot then s.refuse stBusy
    else
      let w := (List.range p.layers).foldl (fun w l =>
        let w := w.tableReads p slot l
        let w := (w.heldPages p slot l).foldl (fun w k => w.drop p slot l k) w
        let bs := w.layerBlocks p slot l
        { w with cum.blocks := w.cum.blocks.filter (· ∉ bs) }.cumWrite (p.root slot l) (zeros 256)) s.w
      let w := w.cumWrite (p.record slot) (zeros 64)
      let w := { w with cum.openSlots := w.cum.openSlots.filter (· ≠ slot) }
      { s := { s with w := (Work.serveDeferred p w.cum.deferred.length w).cumRun p }, status := stOk }))

/-- SEQ_TRUNCATE (R722, R723). DEDUCED (log 99). -/
def execSeqTruncate (ring slot count : Nat) (s : State) : Host.Outcome State Fault Refusal :=
  .next (s.seqCommand ring (fun p s =>
    if 65536 ≤ slot ∨ 2 ^ 32 ≤ count then s.refuse stBadParam
    else if slot ∉ s.w.cum.openSlots then s.refuse stBadParam
    else if s.w.slotBusy slot then s.refuse stBusy
    else
      let w := (List.range p.layers).foldl (fun w l =>
        let w := w.tableReads p slot l
        let w := ((w.heldPages p slot l).filter (fun k => count ≤ 64 * k)).foldl (fun w k => w.drop p slot l k) w
        w.setTokens p slot l (min (w.tokens p slot l) count)) s.w
      { s := { s with w := (Work.serveDeferred p w.cum.deferred.length w).cumRun p }, status := stOk }))

/-- SEQ_INFO (R724). DEDUCED (log 99). -/
def execSeqInfo (ring slot layer : Nat) (s : State) : Host.Outcome State Fault Refusal :=
  .next (s.seqCommand ring (fun p s =>
    if 65536 ≤ slot ∨ p.layers ≤ layer then s.refuse stBadParam
    else if slot ∉ s.w.cum.openSlots then s.refuse stBadParam
    else
      { s := { s with w := s.w.tableReads p slot layer }, status := stOk
        result := s.w.cumBytes (p.root slot layer) 8 ++ s.w.cumBytes (p.record slot + 0x1C) 4 ++
          s.w.cumBytes (p.record slot + 0x10) 8 }))

/-- The largest APPEND that the staging tensors of the policy take (R674). -/
def Plan.appendLimit (pl : Plan) (p : Policy) : Nat :=
  p.appends.foldl (fun m e =>
    let e := appendEnt e
    min m (min ((pl.tensor e.kdesc).s 2) ((pl.tensor e.vdesc).s 2))) (2 ^ 24)

/-- Whether a submitted table is refused (R674). -/
def Work.batchBad (w : Work) (pl : Plan) (p : Policy) (t : List W64) : Bool :=
  let vs := t.filter (fun e => bit e 16)
  vs.any (fun e => decide (batchSlot e ∉ w.cum.openSlots) || decide (pl.appendLimit p < batchAppend e)) ||
    !decide ((vs.map batchSlot).Nodup)

/-- BATCH_SUBMIT (R673 to R676, R703). DEDUCED (log 99). -/
def execBatchSubmit (ring addr bytes : Nat) (s : State) : Host.Outcome State Fault Refusal :=
  .next (s.seqCommand ring (fun p s =>
    match s.w.plan with
    | none => s.refuse stStateConflict
    | some pl =>
      let t := words 64 8 p.rows (s.w.compRead ring addr bytes)
      if bytes ≠ 8 * p.rows ∨ s.w.batchBad pl p t then s.refuse stBadParam
      else if s.w.stepping ∨ s.w.cum.next.isSome then
        let w := { s.w with cum.next := some t }
        let w := t.foldl (fun w e => if bit e 16 then w.queueFetches p (batchSlot e) else w) w
        { s := { s with w := w.cumRun p }, status := stOk }
      else
        let w := { s.w with cum.batch := t }
        let w := t.foldl (fun w e => if bit e 16 then w.keepSpills (batchSlot e) else w) w
        { s := { s with w := w }, status := stOk }))

end Sys2Proof.Machine
end

