-- ==== Sys2Proof/Machine/Operands.lean ====
section
/-!
DEFINITION. The forms that a tile operand takes in a stream slot beyond the dense tile of Desc.lean: the stored tile of
a 2:4 operand with its code trailer (R525 to R532), the outlier trailer (R420, R421), outlier lists (R216 to R221), and
the checks that every reader of 2:4 codes makes (R554 to R560).
-/

namespace Sys2Proof.Machine

/-- Whether the descriptor describes a 2:4 operand (R523). -/
def Tensor.twoFour (t : Tensor) : Bool := t.sparse = 1 ∨ t.sparse = 2

/-- The descriptor as its storage lies: of a 2:4 operand, S_0 / 2 kept values to a row, G / 2 to a group (R525 to
R527). -/
def Tensor.stored (t : Tensor) : Tensor :=
  if t.twoFour then { t with size := setAt t.size 0 (t.s 0 / 2), g := t.g / 2 } else t

/-- Bytes of a code trailer (R531). -/
def Tensor.codeBytes (t : Tensor) : Nat := if t.twoFour then 64 * (t.fmt.tileWidth / 4) else 0

/-- Bytes of an outlier trailer (R420). -/
def Tensor.sideBytes (t : Tensor) : Nat := if t.outlier then 1088 else 0

/-- Bytes of a tile of the operand in its slot, trailers counted (R420, R531, R532). -/
def Tensor.slotUse (t : Tensor) : Nat := t.stored.tf.bytes + t.codeBytes + t.sideBytes

/-- The number of the tensor row that tile row m of a tile covers (R536). -/
def Tensor.rowNumber (t : Tensor) (tr : Bool) (i m : Nat) : Nat :=
  match t.tilePos tr i with
  | none => 0
  | some (_, b, hi) =>
    64 * b + m + t.s 1 * (hi.getD 0 0 + t.s 2 * (hi.getD 1 0 + t.s 3 * (hi.getD 2 0 + t.s 4 * hi.getD 3 0)))

/-! ### Position codes -/

/-- Position codes of one tile row packed four to a byte (R528). -/
def packPos (cs : List Nat) : List Byte :=
  (chunksOf 4 cs.length cs).map (fun c => BitVec.ofNat 8
    (c.getD 0 0 % 4 + 4 * (c.getD 1 0 % 4) + 16 * (c.getD 2 0 % 4) + 64 * (c.getD 3 0 % 4)))

/-- The position codes in bytes. -/
def unpackPos (bs : List Byte) : List Nat :=
  bs.flatMap (fun b => [b.toNat % 4, b.toNat / 4 % 4, b.toNat / 16 % 4, b.toNat / 64])

/-- The code trailer of a tile in its slot: the codes of each row. -/
def Tensor.slotCodes (t : Tensor) (bs : List Byte) : List (List Nat) :=
  chunksOf t.fmt.tileWidth 64 (unpackPos ((bs.drop t.stored.tf.bytes).take t.codeBytes))

/-- The position code of the kept value at an element offset (R528), `rd` giving the byte at an address. -/
def posAt (mb : Nat) (rd : Nat → Byte) (e : Nat) : Nat := (rd (mb + e / 4)).toNat / 4 ^ (e % 4) % 4

/-- The codes of a stored tile as memory holds them; positions out of bounds read as codes 0 and 1. -/
def Tensor.readCodes (t : Tensor) (mb : Nat) (tr : Bool) (i : Nat) (rd : Nat → Byte) : List (List Nat) :=
  (List.range 64).map (fun m => (List.range t.fmt.tileWidth).map (fun j =>
    match t.stored.tileElem tr i m j with
    | some e => posAt mb rd e
    | none => j % 2))

/-- The bytes of codes that a tile's reader touches. -/
def Tensor.codeAddrs (t : Tensor) (mb : Nat) (tr : Bool) (i : Nat) : List (Nat × Nat) :=
  runs ((List.range 64).flatMap (fun m => ((List.range (t.fmt.tileWidth / 4)).filterMap (fun j =>
    (t.stored.tileElem tr i m (4 * j)).map (fun e => mb + e / 4)))))

/-- The mask of positions that a pair of codes keeps. -/
def pairMask (a b : Nat) : Nat := 2 ^ a ||| 2 ^ b

/-- Whether a block of four rows obeys the column rule: each position is kept by exactly two rows (R534). -/
def columnRule (masks : List Nat) : Bool :=
  (List.range 4).all (fun c => (masks.filter (fun m => m.testBit c)).length = 2)

/-- The checks of one group over all tile rows: every group whose codes break R529 and every block that breaks the column rule is an
index error, of a row cut before too (R555, R556). `live` says which rows have met no error yet; the answer gives the rows still live
after it, and the rows at which an index error was found. -/
def checkGroup (columns : Bool) (pairs : List (Nat × Nat)) (live : List Bool) : List Bool × List Nat :=
  let bad := (List.range 64).filter (fun m => !decide ((pairs.getD m (0, 1)).1 < (pairs.getD m (0, 1)).2))
  let blocks := if columns then (List.range 16).filter (fun b =>
      !columnRule ((List.range 4).map (fun i => let p := pairs.getD (4 * b + i) (0, 1); pairMask p.1 p.2))) else []
  ((List.range 64).map (fun m => live.getD m false && decide (m ∉ bad) && decide (m / 4 ∉ blocks)), bad ++ blocks.map (4 * ·))

/-- The checks of a tile's codes, group by group: for each row the number of groups that are good, and the rows of the
index errors (R554 to R556). `n` groups remain, the next being number `g`. -/
def checkCodes (columns : Bool) (codes : List (List Nat)) :
    Nat → Nat → List Bool → List Nat → List Nat → List Nat × List Nat
  | 0, _, _, good, errs => (good, errs)
  | n + 1, g, live, good, errs =>
    let pairs := codes.map (fun r => (r.getD (2 * g) 0, r.getD (2 * g + 1) 1))
    let r := checkGroup columns pairs live
    checkCodes columns codes n (g + 1) r.1
      ((List.range 64).map (fun m => good.getD m 0 + b2n (r.1.getD m false))) (errs ++ r.2)

/-- The checks of a whole tile; the rows of the index errors as the tile's rows are visited (R253). -/
def Tensor.checkTile (t : Tensor) (codes : List (List Nat)) : List Nat × List Nat :=
  let r := checkCodes (t.sparse = 2) codes (t.fmt.tileWidth / 2) 0 (List.replicate 64 true) (List.replicate 64 0) []
  (r.1, (List.range 64).flatMap (fun m => r.2.filter (· = m)))

/-- The code of the value zero in a row's group: the group's zero point where the format has one. -/
def TileRow.zeroCode (x : TileFmt) (r : TileRow) (j : Nat) : Nat := if x.fmt.zp then r.zps.getD (j / x.g) 0 else 0

/-- A row whose groups from number `good` on are delivered as zero values (R555). -/
def TileRow.cutRow (x : TileFmt) (r : TileRow) (good : Nat) : TileRow :=
  { r with codes := r.codes.zipIdx.map (fun c => if c.2 < 2 * good then c.1 else r.zeroCode x c.2) }

/-- Codes whose groups from number `good` on are 0 and 1 (R555). -/
def cutPos (cs : List Nat) (good : Nat) : List Nat := cs.zipIdx.map (fun c => if c.2 < 2 * good then c.1 else c.2 % 2)

/-- Index errors found by a reader of a descriptor, at rows of it in the order in which it meets them (R559, R560). -/
def Work.indexErrors (w : Work) (acc : Acc) (rows : List Nat) : Work :=
  match rows with
  | [] => w
  | r :: _ =>
    let e : StepEvent := { (acc.event 0) with row := r }
    (w.count acc.core .spIndexErrors rows.length).indexEvent e

/-! ### Outlier lists -/

/-- An outlier extension's LIST_BASE, SIDE_BASE, WSIDE_BASE and WINDOWS (R287). DEDUCED (log 87). -/
structure Side where
  list : Nat
  side : Nat
  wside : Nat
  windows : Nat
  deriving DecidableEq, Repr

/-- The outlier extension that a descriptor reaches. -/
def Plan.side (p : Plan) (t : Tensor) : Side :=
  match p.extension? t 1 with
  | some d => ⟨bits d 55 0, bits d 191 128, bits d 255 192, bits d 287 256⟩
  | none => ⟨0, 0, 0, 0⟩

/-- A sparse extension's META_BASE, ROWIDX_BASE and META_BYTES (R288). -/
structure Meta where
  base : Nat
  rowidx : Nat
  bytes : Nat
  deriving DecidableEq, Repr

/-- The fields of a sparse extension entry. -/
def metaOf (d : W512) : Meta := ⟨bits d 63 0, bits d 191 128, bits d 255 192⟩

/-- The sparse extension that a descriptor reaches. -/
def Plan.sparseMeta (p : Plan) (t : Tensor) : Meta :=
  match p.extension? t 2 with
  | some d => metaOf d
  | none => ⟨0, 0, 0⟩

/-- The offsets of an outlier list entry, as far as they ascend, at most 8 (R216, R221). -/
def ascending : Nat → List Nat → List Nat
  | _, [] => []
  | lo, x :: xs => if lo ≤ x ∧ x < 128 then x :: ascending (x + 1) xs else []

/-- The channel offsets that an entry lists (R216, R221). -/
def listOffsets (e : List Byte) : List Nat := ascending 0 (((e.drop 1).take (min 8 (leAt e 0 1))).map (·.toNat))

/-- Whether an entry breaks R216: its COUNT exceeds 8 or its offsets do not ascend (R221). -/
def listBad (e : List Byte) : Bool := 8 < leAt e 0 1 || (listOffsets e).length < min 8 (leAt e 0 1)

/-- The first logical position along dimension 0 that a tile covers. -/
def Tensor.firstPos (t : Tensor) (tr : Bool) (i : Nat) : Nat :=
  match t.stored.tilePos tr i with
  | none => 0
  | some (a, _, _) => a * t.fmt.tileWidth * (if t.twoFour then 2 else 1)

/-- Logical positions that a tile covers along dimension 0. -/
def Tensor.spanPos (t : Tensor) : Nat := t.fmt.tileWidth * (if t.twoFour then 2 else 1)

/-- The address of the outlier list entry of a tile's window. -/
def Side.listAddr (s : Side) (t : Tensor) (tr : Bool) (i : Nat) : Nat := s.list + 16 * (t.firstPos tr i / 128)

/-- The address of the eight side values of a tile row (R217). -/
def Side.rowAddr (s : Side) (t : Tensor) (tr : Bool) (i m : Nat) : Nat :=
  s.side + 16 * (t.stored.rowNumber tr i m * s.windows + t.firstPos tr i / 128)

/-- The output width of a weight operand: its rows. -/
def Tensor.outputs (t : Tensor) : Nat := t.s 1 * t.s 2 * t.s 3 * t.s 4 * t.s 5

/-- The address of the side weight of list position k and tile row m (R218). -/
def Side.weightAddr (s : Side) (t : Tensor) (tr : Bool) (i k m : Nat) : Nat :=
  s.wside + 2 * ((8 * (t.firstPos tr i / 128) + k) * t.outputs + t.stored.rowNumber tr i m)

/-- Whether a stream of a core holds weight tiles: a GRID firing of the core names it in SRC_B. -/
def CorePlan.weightStream (c : CorePlan) (s : Nat) : Bool :=
  c.firings.any (fun r => Rec.station r = 3 ∧ Rec.srcB r = s)

/-- The addresses that the outlier trailer of a tile is read from. -/
def Side.addrs (s : Side) (t : Tensor) (tr : Bool) (i : Nat) (weight : Bool) : List (Nat × Nat) :=
  let rows := (List.range 64).filter (fun m => (t.stored.tileElem tr i m 0).isSome)
  (s.listAddr t tr i, 16) ::
    (if weight then (List.range 8).flatMap (fun k => rows.map (fun m => (s.weightAddr t tr i k m, 2)))
     else rows.map (fun m => (s.rowAddr t tr i m, 16)))

/-- The outlier trailer of a tile (R421). -/
def Side.trailer (s : Side) (t : Tensor) (tr : Bool) (i : Nat) (weight : Bool) (rd : Nat → Byte) : List Byte :=
  let at_ (a n : Nat) : List Byte := (List.range n).map (fun k => rd (a + k))
  let inb (m : Nat) : Bool := (t.stored.tileElem tr i m 0).isSome
  at_ (s.listAddr t tr i) 16 ++
  (if weight then (List.range 8).flatMap (fun k => (List.range 64).flatMap (fun m =>
      if inb m then at_ (s.weightAddr t tr i k m) 2 else zeros 2))
   else (List.range 64).flatMap (fun m => if inb m then at_ (s.rowAddr t tr i m) 16 else zeros 16)) ++
  zeros 48

/-- The outlier trailer of a tile in its slot. DEDUCED (log 87). -/
def Tensor.slotSide (t : Tensor) (bs : List Byte) : List Byte := (bs.drop (t.stored.tf.bytes + t.codeBytes)).take 1088

/-- An outlier list entry that breaks R216 is reported as R180 gives (R221). -/
def Work.badList (w : Work) (acc : Acc) (e : List Byte) : Work := if listBad e then w.formatEvent (acc.event 0) else w

/-! ### Inputs that are not finite, and bad scales (R177 to R180, R184) -/

/-- An input element of GRID, SWEEP, MERGE or ATTEND: infinity is the largest finite value, NaN is zero (R177,
R178). -/
def finiteInput (f : Fmt) (v : FVal) : FVal :=
  match v with
  | .nan => .zero
  | .inf s => if s then fneg f.limit else f.limit
  | v => v

/-- Elements of a list of codes that R177 or R178 replaces. DESIGN CHOICE (log 86). -/
def Fmt.nonfinite (f : Fmt) (cs : List Nat) : Nat :=
  match f with
  | .e5m2 | .bf16 | .fp16 | .fp32 => (cs.filter (fun c => !(f.decode c).finite)).length
  | _ => 0

/-- The counts and the report of replaced inputs of a descriptor (R179, R180, R184).
DESIGN CHOICE (log 86). -/
def Work.replaced (w : Work) (acc : Acc) (nonfinite badScales : Nat) : Work :=
  if nonfinite = 0 ∧ badScales = 0 then w
  else ((w.count acc.core .fmtNonfinite nonfinite).count acc.core .fmtBadScale badScales).formatEvent (acc.event 0)

end Sys2Proof.Machine
end

