-- ==== Sys2Proof/Machine/Pack.lean ====
section
/-!
DEFINITION. The packer of 2:4 and gap-coded operands (R540 to R553): claim mode, which keeps values by magnitude, and
follow mode, which keeps the positions that codes name.
-/

namespace Sys2Proof.Machine

/-- A magnitude as the packer compares it, exactly (R545); none is infinite. DEDUCED (log 81). -/
abbrev Mag := Option Dyad

/-- The magnitude of an element of a tile row. DEDUCED (log 81). -/
def TileRow.mag (x : TileFmt) (r : TileRow) (j : Nat) : Mag :=
  match r.value x j with
  | .nan => some ⟨(Config.nanMagnitude (r.codes.getD j 0) : Int) + 1, -1024⟩
  | .inf _ => none
  | v => some ⟨(v.dyad.n.natAbs : Int), v.dyad.e⟩

/-- Whether a magnitude is zero. -/
def magZero : Mag → Bool
  | some d => d.n = 0
  | none => false

/-- Whether magnitude `a` is below magnitude `b`. -/
def magLt : Mag → Mag → Bool
  | none, _ => false
  | some _, none => true
  | some a, some b => let q := min a.e b.e; decide (a.at q < b.at q)

/-- The sum of magnitudes. -/
def magAdd : Mag → Mag → Mag
  | some a, some b => some (a.add b)
  | _, _ => none

/-- The position of the largest magnitude among some positions, the lowest of equals. -/
def largest (m : Nat → Mag) : List Nat → Nat
  | [] => 0
  | [a] => a
  | a :: as => let b := largest m as; if magLt (m a) (m b) then b else a

/-- The two positions that a group of four keeps in claim mode on SPARSE 1 (R542, R543), in ascending order.
DEDUCED (log 81). -/
def claimGroup (m : Nat → Mag) : Nat × Nat :=
  let nz := (List.range 4).filter (fun i => !magZero (m i))
  let free := (List.range 4).filter (fun i => magZero (m i))
  let two := if 3 ≤ nz.length then
      let a := largest m nz
      [a, largest m (nz.filter (· ≠ a))]
    else (nz ++ free).take 2
  (min (two.getD 0 0) (two.getD 1 1), max (two.getD 0 0) (two.getD 1 1))

/-- The row masks that keep two of four positions. -/
def rowMasks : List Nat := [3, 5, 6, 9, 10, 12]

/-- The 90 patterns of a block that obey the column rule, as the masks of its four rows, in ascending order of the
16-bit mask (R534, R544). -/
def blockPatterns : List (List Nat) :=
  (rowMasks.flatMap (fun d => rowMasks.flatMap (fun c => rowMasks.flatMap (fun b => rowMasks.map (fun a =>
    [a, b, c, d]))))).filter columnRule

/-- The magnitudes that a pattern keeps, summed. -/
def patternSum (m : Nat → Nat → Mag) (pat : List Nat) : Mag :=
  (List.range 4).foldl (fun s i => (List.range 4).foldl (fun s c =>
    if (pat.getD i 0).testBit c then magAdd s (m i c) else s) s) (some ⟨0, 0⟩)

/-- The first of the patterns with the largest sum. DEDUCED (log 81). -/
def bestPattern (m : Nat → Nat → Mag) : List (List Nat) → List Nat
  | [] => []
  | [p] => p
  | p :: ps => let q := bestPattern m ps; if magLt (patternSum m p) (patternSum m q) then q else p

/-- The pair of positions in a row mask. DEDUCED (log 81). -/
def maskPair (mask : Nat) : Nat × Nat :=
  let l := (List.range 4).filter mask.testBit
  (l.getD 0 0, l.getD 1 1)

/-- Two dense tiles side by side, as rows of 2W codes. -/
structure DensePair where
  x : TileFmt
  a : List TileRow
  b : List TileRow

/-- The code at logical column l of row m. -/
def DensePair.code (d : DensePair) (m l : Nat) : Nat :=
  let w := d.x.width
  if l < w then (d.a.getD m ⟨[], [], []⟩).codes.getD l 0 else (d.b.getD m ⟨[], [], []⟩).codes.getD (l - w) 0

/-- The magnitude at logical column l of row m. -/
def DensePair.mag (d : DensePair) (m l : Nat) : Mag :=
  let w := d.x.width
  if l < w then (d.a.getD m ⟨[], [], []⟩).mag d.x l else (d.b.getD m ⟨[], [], []⟩).mag d.x (l - w)

/-- The positions that claim mode keeps: for each row, a pair for each group (R542 to R544). -/
def DensePair.claim (d : DensePair) (columns : Bool) : List (List (Nat × Nat)) :=
  let groups := d.x.width / 2
  if columns then
    let blocks := (List.range 16).map (fun b => (List.range groups).map (fun g =>
      (bestPattern (fun i c => d.mag (4 * b + i) (4 * g + c)) blockPatterns).map maskPair))
    (List.range 64).map (fun m => (blocks.getD (m / 4) []).map (fun pat => pat.getD (m % 4) (0, 1)))
  else (List.range 64).map (fun m => (List.range groups).map (fun g =>
      claimGroup (fun i => d.mag m (4 * g + i))))

/-- Groups of the first `rows` rows that lose a nonzero value (R546). -/
def DensePair.pruned (d : DensePair) (pairs : List (List (Nat × Nat))) (inb : Nat → Bool) : Nat :=
  ((List.range 64).filter inb).foldl (fun n m => n + (((pairs.getD m []).zipIdx.filter (fun p =>
    (List.range 4).any (fun i => i ≠ p.1.1 ∧ i ≠ p.1.2 ∧ !magZero (d.mag m (4 * p.2 + i))))).length)) 0

/-- The kept values of a row: codes at the pairs' positions, scale and zero-point bytes of the input groups (R547). -/
def DensePair.keep (d : DensePair) (y : TileFmt) (m : Nat) (pairs : List (Nat × Nat)) : TileRow :=
  let w := d.x.width
  let grp (f : TileRow → List Nat) (k : Nat) : Nat :=
    let l := k * d.x.g
    let r := if l < w then d.a.getD m ⟨[], [], []⟩ else d.b.getD m ⟨[], [], []⟩
    (f r).getD (l % w / d.x.g) 0
  { codes := pairs.zipIdx.flatMap (fun p => [d.code m (4 * p.2 + p.1.1), d.code m (4 * p.2 + p.1.2)])
    scales := (List.range y.rowGroups).map (grp (·.scales))
    zps := if y.fmt.zp then (List.range y.rowGroups).map (grp (·.zps)) else [] }

/-- The position codes of a tile's kept values as stores at META_BASE (R528, R547). -/
def Tensor.codePuts (t : Tensor) (mb i : Nat) (pairs : List (List (Nat × Nat))) : List Put :=
  pairs.zipIdx.flatMap (fun rm => (rm.1.flatMap (fun p => [p.1, p.2])).zipIdx.filterMap (fun cj =>
    (t.stored.tileElem false i rm.2 cj.2).map (fun e => ⟨mb + e / 4, 3 * 4 ^ (e % 4), cj.1 * 4 ^ (e % 4)⟩)))

end Sys2Proof.Machine
end

