-- ==== Sys2Proof/Machine/Rates.lean ====
section
/-!
DEFINITION. When a firing's tiles move: the rates of LOAD and STORE (R266 to R268, R276), the times from a firing's issue at
which its stream slots are used and the station is free (R24, R359, R1089, R1090).
-/

namespace Sys2Proof.Machine

/-! ### Rates (R266 to R268) -/

/-- The runs along dimension 0 that a view tile covers, one for each row: the index of the run's lowest-addressed element
(R266). DEDUCED (log 70). -/
def Tensor.tileRuns (t : Tensor) (tr : Bool) (i : Nat) : List (List Nat) :=
  match t.tilePos tr i with
  | none => []
  | some (a, b, hi) =>
    let w := t.fmt.tileWidth
    let lo := if tr then 64 * b else a * w
    let n := if tr then 64 else w
    let ys := if tr then (List.range w).map (a * w + ·) else (List.range 64).map (64 * b + ·)
    let x := if t.d 0 = -1 then min (lo + n) (t.s 0) - 1 else lo
    (ys.filter (fun y => decide (y < t.s 1))).map (fun y => x :: y :: hi)

/-- Bytes per clk of an access to `n` tiles from index `i` (R266); none for a narrow access. -/
def Tensor.rate (t : Tensor) (tr : Bool) (i n : Nat) : Option Nat :=
  if t.d 0 = 0 then some 128
  else if t.d 0 = 1 ∨ t.d 0 = -1 then
    some (if (List.range n).all (fun k => (t.tileRuns tr (i + k)).all (fun e => t.addr (t.elem e) % 64 == 0)) then 128 else 64)
  else none

/-- The clk after the start of an access at which its first `b` bytes, `n` tiles of them, have moved, and the clk in which
the byte after them moves (R267, R268). -/
def moved (rate : Option Nat) (w n b : Nat) : Nat × Nat :=
  match rate with
  | some q => (ceilDiv b q, b / q)
  | none => (n * 64 * w, n * 64 * w)

/-! ### The times of a firing -/


/-- The clk that the banks of a firing's slots add (R359): of the `j`-th tile that it reads from a stream, or writes into it. -/
abbrev Lags := Bool → Nat → Nat → Nat

/-- The largest lag of the first `n` tiles that a firing reads from a stream. -/
def Lags.most (lag : Lags) (s n : Nat) : Nat := ((List.range n).map (lag false s)).foldl max 0

/-- The times of a LOAD: its first bytes land 512 clk after issue, of a transposed tile ceil(tile bytes / 128) clk later
(R24, R276). -/
def Plan.loadTimes (p : Plan) (r : Rec) (lag : Lags) : Times :=
  let d := p.tensor r.desc
  let tr : Bool := r.op == 2 || d.innerT
  let b := d.slotUse
  let q := d.stored.rate tr r.param r.count
  let mv (j : Nat) := moved q d.fmt.tileWidth j (j * b)
  let uses := (List.range r.count).map (fun j =>
    (⟨r.dst, true, (mv j).2, 512 + (if tr then ceilDiv b 128 else 0) + (mv (j + 1)).1 + lag true r.dst j,
      (mv (j + 1)).1 - (mv j).2⟩ : TUse))
  { free := some (mv r.count).1, uses := uses, ends := (uses.map (·.fin)).foldl max 0 }

/-- The times of a STORE: each byte is visible 512 clk after it is read, ceil(tile bytes / 128) clk more of a transposed
tensor, and the firing retires with the last (R24, R276). -/
def Plan.storeTimes (p : Plan) (r : Rec) (lag : Lags) : Times :=
  let d := p.tensor r.desc
  let b := d.tf.bytes + d.sideBytes
  let n := if d.twoFour then 2 * r.count else r.count
  let q := d.stored.rate d.innerT r.param r.count
  let mv (j : Nat) := moved q d.fmt.tileWidth j (j * b)
  { free := some (mv n).1
    uses := (List.range n).map (fun j => ⟨r.srcA, false, (mv j).2, (mv (j + 1)).1, (mv (j + 1)).1 - (mv j).2⟩)
    ends := (mv n).1 + lag.most r.srcA n + 511 + (if d.innerT then ceilDiv b 128 else 0) }

/-- The lags that the slots of a core's streams add, from the tiles already written into and read from each (R359).
DEDUCED (log 91). -/
def Work.lags (w : Work) (p : Plan) (core : Nat) : Lags := fun wr s j =>
  (p.core core).slotLag s (mget (if wr then (w.core core).made else (w.core core).used) 0 s + j)

/-! ### Requests that reach a channel inside its refresh window (R147 to R149, R319 to R323) -/

/-- The end of the refresh window of a stack's group in which an offset lies (R319 to R321). -/
def refreshEnd (period : Nat) (slow : Bool) (stack o : Nat) : Option Nat :=
  let n := ceilDiv period (if slow then 3000 else 3600)
  ((List.range n).map (fun k => 8 * ((2 * k + stack % 2 + 1) * period / (16 * n)))).find? (fun e => decide (e ≤ o + 160) && decide (o < e))

/-- The offset of a herd time in its tick: the present tick with its stretch, later ones without. -/
def Work.offsetAt (w : Work) (t : Nat) : Nat :=
  let d := w.period + w.run.stretch
  if t < w.cad.time + d then t - w.cad.time else (t - w.cad.time - d) % w.period

/-- The clk for which an access that reaches a channel of a stack at a herd time waits: until the end of the refresh window
that it meets (R149). -/
def Work.refreshWait (w : Work) (slow : Bool) (stack t : Nat) : Nat :=
  let o := w.offsetAt t
  match refreshEnd w.period slow stack o with
  | some e => e - o
  | none => 0

/-- The stacks of the local HBM lines that runs of device addresses touch, in order, each with the bytes that come before it. -/
def Work.lineStacks (w : Work) (rs : List (Nat × Nat)) : List (Nat × Nat) :=
  (rs.foldl (fun (acc : List (Nat × Nat) × Nat) r =>
    (acc.1 ++ (linesOf r.1 r.2).filterMap (fun l => match w.permit (64 * l) false with
      | some (_, g) => if Reg.target g = 0 then some ((w.mem.place (Reg.target! g (64 * l))).stack, acc.2 + (64 * l - r.1)) else none
      | none => none), acc.2 + r.2)) ([], 0)).1

/-- The clk for which reads made from a herd time on, at 128 B/clk, wait at channels in refresh (R149, R322, R565). -/
def Work.readWaits (w : Work) (slow : Bool) (t : Nat) (rs : List (Nat × Nat)) : Nat :=
  (w.lineStacks rs).foldl (fun n x => n + w.refreshWait slow x.1 (t + n + x.2 / 128 + 64)) 0

/-- What is still to come of a firing that reads runs of device addresses now comes later by their wait for refresh, a slip (R149).
DEDUCED (log 152). -/
def Work.readSlip (w : Work) (a : At) (rs : List (Nat × Nat)) : Work :=
  match w.plan with
  | none => w
  | some p => w.modCore a.core (·.lose (p.stationOf a.core a.firing) a.firing
      (w.readWaits (p.clockSel ≠ 0) (w.now w.cad.offset.toNat) rs))

/-- Uses whose tiles' requests wait at channels in refresh: tile `j` reads or writes `addrs j` at `q` bytes per clk from its
start on, and reaches the channels 64 clk later; every wait delays what comes after it (R149).
DEDUCED (log 152). -/
def Work.refreshed (w : Work) (slow : Bool) (q now : Nat) (addrs : Nat → List (Nat × Nat)) (us : List TUse) : List TUse × Nat :=
  us.zipIdx.foldl (fun (acc : List TUse × Nat) u =>
    let n := (w.lineStacks (addrs u.2)).foldl (fun n x => n + w.refreshWait slow x.1 (now + u.1.start + n + x.2 / q + 64)) acc.2
    (acc.1 ++ [{ u.1 with start := u.1.start + acc.2, fin := u.1.fin + n }], n)) ([], 0)

/-- The times of a firing with the waits of its requests for refresh. A timed firing that is not late meets no window: its
plan was verified (R318). -/
def Work.withRefresh (w : Work) (p : Plan) (r : Rec) (a : At) (q : Nat) (addrs : Nat → List (Nat × Nat)) (t : Times) : Times :=
  if r.mode = 0 ∧ (w.lateBy r.tick r.offset (a.time - w.cad.time)).getD 0 = 0 then t
  else
    let x := w.refreshed (p.clockSel ≠ 0) q a.time addrs t.uses
    { free := t.free.map (· + x.2), uses := x.1, ends := t.ends + x.2, waits := t.waits + x.2 }

end Sys2Proof.Machine
end

