-- ==== Sys2Proof/Machine/LoadStore.lean ====
section
/-!
DEFINITION. LOAD and STORE: COPY_IN, COPY_IN_T and COPY_OUT (R24, R60, R61, R252 to R260, R272 to R277, R420, R531,
R540 to R548, R554 to R560), tile by tile.
-/

namespace Sys2Proof.Machine

/-- A firing that waits for the acknowledgements of peer writes. -/
def Work.awaits (w : Work) (a : At) (tags : List Nat) : Work :=
  if tags.isEmpty then w
  else w.modCore a.core (fun c => c.modProg a.firing (fun x => { x with tags := x.tags ++ tags }))

/-- A tile of a descriptor as LOAD delivers it, with its trailers and the checks of its codes: the rows at which index
errors were found, the row mask and the bytes. -/
def Plan.loadTile (p : Plan) (t : Tensor) (tr : Bool) (i : Nat) (weight : Bool) (rd : Nat → Byte) :
    List Nat × W64 × List Byte :=
  let tile := t.stored.readTile tr i rd
  let side := if t.outlier then (p.side t).trailer t tr i weight rd else []
  if t.twoFour then
    let codes := t.readCodes (p.sparseMeta t).base tr i rd
    let chk := t.checkTile codes
    let rows := tile.rows.zipIdx.map (fun r => r.1.cutRow t.stored.tf (chk.1.getD r.2 0))
    let cs := codes.zipIdx.map (fun r => cutPos r.1 (chk.1.getD r.2 0))
    (chk.2.map (t.stored.rowNumber tr i ·), tile.mask, packTile t.stored.tf rows ++ cs.flatMap packPos ++ side)
  else ([], tile.mask, packTile t.tf tile.rows ++ side)

/-- The addresses that a LOAD of a tile reads. -/
def Plan.loadAddrs (p : Plan) (t : Tensor) (tr : Bool) (i : Nat) (weight : Bool) : List (Nat × Nat) :=
  t.stored.readAddrs tr i ++
  (if t.twoFour then t.codeAddrs (p.sparseMeta t).base tr i else []) ++
  (if t.outlier then (p.side t).addrs t tr i weight else [])

/-- The times of a LOAD that issues. -/
def Work.loadTimesAt (w : Work) (p : Plan) (r : Rec) (a : At) : Times :=
  let t := p.tensor r.desc
  let tr := r.op == 2 || t.innerT
  w.withRefresh p r a ((t.stored.rate tr r.param r.count).getD 1)
    (fun j => p.loadAddrs t tr (r.param + j) ((p.core a.core).weightStream r.dst)) (p.loadTimes r (w.lags p a.core))

/-- The times of a STORE that issues. -/
def Work.storeTimesAt (w : Work) (p : Plan) (r : Rec) (a : At) : Times :=
  let t := p.tensor r.desc
  w.withRefresh p r a ((t.stored.rate t.innerT r.param r.count).getD 1)
    (fun j => t.stored.readAddrs t.innerT (r.param + (if t.twoFour then j / 2 else j))) (p.storeTimes r (w.lags p a.core))

/-- LOAD moves tile PARAM + k of its descriptor into the next slot of DST; `turn` is COPY_IN_T (R252, R272). -/
def loadUnit (fab : Fab) (p : Plan) (r : Rec) (a : At) (turn : Bool) (w : Work) (k : Nat) (fresh : Bool) : UnitRes :=
  let t := p.tensor r.desc
  let tr := turn || t.innerT
  let i := r.param + k
  let n := t.slotUse
  let weight := (p.core a.core).weightStream r.dst
  match (if fresh then none else w.room p a r.dst 0 n) with
  | some x => .wait w x []
  | none =>
    match (if fresh then w.unhold a else w).reach fab (a.acc r.desc) (p.loadAddrs t tr i weight) fresh with
    | (w2, some (.peer, tags)) => .wait (w2.hold p a r.dst n) .peer tags
    | (w2, some (x, tags)) => .wait w2 x tags
    | (w2, none) =>
      let x := p.loadTile t tr i weight w2.devByte
      .ok ((w2.indexErrors (a.acc r.desc) x.1).push p a r.dst
        { mask := x.2.1, part := t.firstPos tr i % 128 } x.2.2)

/-- LOAD COPY_IN and COPY_IN_T. -/
def loadJob (fab : Fab) (turn : Bool) (p : Plan) (r : Rec) (a : At) : Job :=
  { n := r.count, unit := loadUnit fab p r a turn, times := fun w => w.loadTimesAt p r a }

/-- The side values of a drained stream tile as stores into the side tensor: those of the listed channels that the
tile covers, its W logical positions from `first` on, and zero in the positions of the window that no channel uses (R217,
R219, R510). -/
def Side.puts (s : Side) (t : Tensor) (i first : Nat) (trailer : List Byte) : List Put :=
  let offs := listOffsets (trailer.take 16)
  let lo := first % 128
  (List.range 64).flatMap (fun m =>
    if (t.stored.tileElem false i m 0).isSome then
      (List.range 8).flatMap (fun k =>
        let a := s.side + 16 * (t.stored.rowNumber false i m * s.windows + first / 128) + 2 * k
        match offs[k]? with
        | none => [⟨a, 0xFF, 0⟩, ⟨a + 1, 0xFF, 0⟩]
        | some o =>
          if lo ≤ o ∧ o < lo + t.fmt.tileWidth then
            ((trailer.drop (16 + 16 * m + 2 * k)).take 2).zipIdx.map (fun b => ⟨a + b.2, 0xFF, b.1.toNat⟩)
          else [])
    else [])

/-- The access by which a STORE writes row `m` of the tile that it reads as the `j`-th from the front of its stream: its bytes are
visible 512 clk after they are read, and later for a transposed tile (R24, R276). -/
def Work.storeAcc (w : Work) (p : Plan) (r : Rec) (a : At) (j m : Nat) : Acc :=
  let t := p.tensor r.desc
  let u := w.useOf a false r.srcA j
  { a.acc r.desc with
    seen := u.start + w.lags p a.core false r.srcA j + ceilDiv (min (m + 1) 64 * u.moves) 64 + 511 +
      (if t.innerT then ceilDiv (t.tf.bytes + t.sideBytes) 128 else 0) }

/-- STORE writes the tile at the front of its stream as tile PARAM + k of its descriptor (R252, R259, R260, R274).
DEDUCED (log 87). -/
def storeUnit (fab : Fab) (p : Plan) (r : Rec) (a : At) (w : Work) (k : Nat) : UnitRes :=
  let t := p.tensor r.desc
  let i := r.param + k
  match w.pull p a r.srcA (t.tf.bytes + t.sideBytes) with
  | .error x => .wait w x []
  | .ok (w1, tk) =>
    let side := if t.outlier then (p.side t).puts t i (t.firstPos t.innerT i) (tk.bytes.drop t.tf.bytes) else []
    let x := w1.devRows fab (w.storeAcc p r a 0) (t.tilePuts t.innerT i (unpackTile t.tf tk.bytes) ++ [side])
    .ok (x.1.awaits a x.2)

/-- A packed view tile: its kept rows and, in claim mode, the stores of its codes. -/
def packPuts (t : Tensor) (i : Nat) (d : DensePair) (pairs : List (List (Nat × Nat))) (good : List Nat)
    (codes : List Put) : List (List Put) :=
  let rows := (List.range 64).map (fun m =>
    (d.keep t.stored.tf m (pairs.getD m [])).cutRow t.stored.tf (good.getD m 0))
  t.stored.tilePuts false i rows ++ [codes]

/-- A packing STORE: two dense stream tiles for each view tile (R540), in claim mode when SRC_B equals SRC_A, where a group with an
invalid scale byte compares as zeros and counts (R184), and in follow mode otherwise (R541 to R548). -/
def packUnit (fab : Fab) (p : Plan) (r : Rec) (a : At) (w : Work) (k : Nat) (fresh : Bool) : UnitRes :=
  let t := p.tensor r.desc
  let i := r.param + k
  let n := t.tf.bytes + t.sideBytes
  let mb := (p.sparseMeta t).base
  match w.peek p a r.srcA 0 n with
  | .error x => .wait w x []
  | .ok (w1, ta) =>
    match w1.peek p a r.srcA 1 n with
    | .error x => .wait w x []
    | .ok (w2, tb) =>
      let d : DensePair := { x := t.tf, a := unpackTile t.tf ta.bytes, b := unpackTile t.tf tb.bytes }
      let f := t.firstPos false i
      let side := if t.outlier then
          (p.side t).puts t i f (ta.bytes.drop t.tf.bytes) ++
          (p.side t).puts t i (f + t.fmt.tileWidth) (tb.bytes.drop t.tf.bytes) else []
      let inb (m : Nat) : Bool := (t.stored.tileElem false i m 0).isSome
      let full := List.replicate 64 (t.fmt.tileWidth / 2)
      if r.srcA = r.srcB then
        let pairs := d.claim (t.sparse = 2)
        let pruned := d.pruned pairs inb
        let w3 := w2.count a.core .spPruned pruned
        let w3 := if pruned = 0 then w3 else w3.prunedEvent ((a.acc r.desc).event 0)
        let w3 := w3.replaced (a.acc r.desc) 0 (((d.a.zipIdx ++ d.b.zipIdx).filter (fun x => inb x.2)).map (·.1.badScales)).sum
        let x := w3.devRows fab (w2.storeAcc p r a 1) (packPuts t i d pairs full (t.codePuts mb i pairs) ++ [side])
        .ok ((x.1.consume p a r.srcA 2).awaits a x.2)
      else
        match w2.reach fab (a.acc r.desc) (t.codeAddrs mb false i) fresh with
        | (w3, some (x, tags)) => .wait w3 x tags
        | (w3, none) =>
          let w3 := w3.readSlip a (t.codeAddrs mb false i)
          let codes := t.readCodes mb false i w3.devByte
          let chk := t.checkTile codes
          let pairs := codes.map (fun c => (List.range (t.fmt.tileWidth / 2)).map (fun g =>
            (c.getD (2 * g) 0, c.getD (2 * g + 1) 1)))
          let w4 := w3.indexErrors (a.acc r.desc) (chk.2.map (t.stored.rowNumber false i ·))
          let x := w4.devRows fab (w3.storeAcc p r a 1) (packPuts t i d pairs chk.1 [] ++ [side])
          .ok ((x.1.consume p a r.srcA 2).awaits a x.2)

/-- STORE COPY_OUT. -/
def storeJob (fab : Fab) (p : Plan) (r : Rec) (a : At) : Job :=
  { n := r.count
    unit := fun w k fresh => if (p.tensor r.desc).twoFour then packUnit fab p r a w k fresh else storeUnit fab p r a w k
    times := fun w => w.storeTimesAt p r a }

/-- LOAD COPY_IN. -/
def execCopyIn (core idx : Nat) (env : Env) (s : State) : Host.Outcome State Fault Refusal :=
  .next { s with w := s.w.issue core idx env 0 1 (loadJob s.fab false) }

/-- LOAD COPY_IN_T, which transposes the two innermost dimensions. -/
def execCopyInT (core idx : Nat) (env : Env) (s : State) : Host.Outcome State Fault Refusal :=
  .next { s with w := s.w.issue core idx env 0 2 (loadJob s.fab true) }

/-- STORE COPY_OUT. -/
def execCopyOut (core idx : Nat) (env : Env) (s : State) : Host.Outcome State Fault Refusal :=
  .next { s with w := s.w.issue core idx env 1 1 (storeJob s.fab) }

end Sys2Proof.Machine
end

