-- ==== Sys2Proof/Machine/Scale.lean ====
section
/-!
DEFINITION. Scale slots (R206 to R215, R1087), conversions into stream tiles with their counts (R199 to R207, R1091),
conversion statistics (R222 to R227) and calibration (R228 to R238).
-/

namespace Sys2Proof.Machine

/-! ### The scale register file and slot entries -/

/-- A scale slot entry (R209). -/
abbrev SlotEnt := W128

/-- FORMAT. -/
def SlotEnt.format (s : SlotEnt) : Nat := bits s 4 0
/-- GRAN. -/
def SlotEnt.gran (s : SlotEnt) : Bool := bit s 5
/-- CAL_MODE. -/
def SlotEnt.mode (s : SlotEnt) : Nat := bits s 7 6
/-- MARGIN. -/
def SlotEnt.margin (s : SlotEnt) : Nat := bits s 9 8
/-- The number of scale channels. -/
def SlotEnt.channels (s : SlotEnt) : Nat := bits s 31 16 + 1
/-- INIT_OFFSET. -/
def SlotEnt.init (s : SlotEnt) : Nat := bits s 63 32
/-- REG_BASE. -/
def SlotEnt.base (s : SlotEnt) : Nat := bits s 81 64
/-- The element format. -/
def SlotEnt.fmt (s : SlotEnt) : Fmt := (Fmt.ofCode s.format).getD .int4

/-- The bank in force (R210). -/
def Scales.bank (s : Scales) : SMap (Byte × Byte) := if s.active1 then s.bank1 else s.bank0

/-- Exponent and zero point of a scale register. -/
def Scales.chan (s : Scales) (k : Nat) : Nat × Nat :=
  let x := mget s.bank (0, 0) k
  (x.1.toNat, x.2.toNat)

/-- An exponent and a zero point written into the active bank. -/
def Scales.put (s : Scales) (k e z : Nat) : Scales :=
  let v : Byte × Byte := (BitVec.ofNat 8 e, BitVec.ofNat 8 z)
  if s.active1 then { s with bank1 := mset s.bank1 (0, 0) k v } else { s with bank0 := mset s.bank0 (0, 0) k v }

/-- An exponent and a zero point written into the bank that is not active (R234). -/
def Scales.putNext (s : Scales) (k e z : Nat) : Scales :=
  let v : Byte × Byte := (BitVec.ofNat 8 e, BitVec.ofNat 8 z)
  if s.active1 then { s with bank0 := mset s.bank0 (0, 0) k v } else { s with bank1 := mset s.bank1 (0, 0) k v }

/-- The slots of a plan. -/
def Plan.slots (p : Plan) : List SlotEnt :=
  match p.scales with
  | some t => t.slots
  | none => []

/-- The scale register of a tile row: row m of row block b (R1087). -/
def SlotEnt.reg (s : SlotEnt) (b m : Nat) : Nat := s.base + (if s.gran then (64 * b + m) % s.channels else 0)

/-- Plan load writes the initial exponents and zero points into the active bank (R212). -/
def Scales.load (s : Scales) (t : ScaleTab) : Scales :=
  t.slots.foldl (fun s e =>
    (List.range (SlotEnt.channels e)).foldl (fun s c =>
      s.put (SlotEnt.base e + c) (leAt t.init (SlotEnt.init e + c) 1)
        (if (SlotEnt.fmt e).zp then (SlotEnt.fmt e).ownZp (leAt t.init (SlotEnt.init e + SlotEnt.channels e + c) 1) else 0)) s) s

/-! ### Statistics of a step -/

/-- The FP32 code of a value, converted by R197 to R204. -/
def FVal.stat32 (v : FVal) : W32 := BitVec.ofNat 32 (Fmt.fp32.conv v).code

/-- Whether two dyadic numbers are equal. -/
def Dyad.eq (x y : Dyad) : Bool := let q := min x.e y.e; decide (x.at q = y.at q)

/-- One more value of a scale channel (R224, R226, R235, R236). DEDUCED (log 79). -/
def ChanStat.add (c : ChanStat) (y : FVal) : ChanStat :=
  match y with
  | .fin s m e =>
    let d := (FVal.fin s m e).dyad
    let v := (FVal.fin s m e).stat32
    let a := (FVal.fin false m e).stat32
    { amax := if c.amax.toNat < a.toNat then a else c.amax
      least := if flt (fp32 v) (fp32 c.least) then v else c.least
      most := if flt (fp32 c.most) (fp32 v) then v else c.most
      const := match c.const with
        | none => some d
        | some x => some x
      any := true
      varies := c.varies || (match c.const with
        | none => false
        | some x => !x.eq d) }
  | _ => { c with any := true, varies := true }

/-- The error term of an element in units of 2^-32 (R223). -/
def errTerm (f : Fmt) (e z : Nat) (y : FVal) (code : Nat) : Nat :=
  if y.finite then
    let d := y.dyad.sub (scaledValue f code e z).dyad
    let u : Dyad := ⟨d.n, d.e + 127 - e⟩
    min (2 ^ 63) ((u.mul u).roundAt (-32)).toNat
  else 0

/-- A row of values through a scale slot, in the format of the output's descriptor (R505): its codes, and the statistics added
(R206, R222 to R226). Columns that `skip`
names are written as code zero and left out (R219, R220); every other position of the row counts, one out of the tensor's
bounds too. DESIGN CHOICE (log 160). -/
def Work.quantiseRow (w : Work) (slot : Nat) (s : SlotEnt) (f : Fmt) (b m : Nat) (ys : List FVal) (skip : Nat → Bool) :
    Work × List Nat :=
  let k := s.reg b m
  let ez := w.scales.chan k
  let used := ys.zipIdx.map (fun y => if skip y.2 then none else some (y.1, quantise f ez.1 ez.2 y.1))
  let st := mget w.run.slotStats {} slot
  let st := used.foldl (fun (st : SlotStat) u => match u with
    | none => st
    | some (y, c) =>
      { count := st.count + 1
        sqerr := st.sqerr + BitVec.ofNat 96 (errTerm f ez.1 ez.2 y c.code)
        sat := st.sat + BitVec.ofNat 32 c.sat
        nonfinite := st.nonfinite + BitVec.ofNat 32 (b2n (!y.finite)) }) st
  let ch := used.foldl (fun (c : ChanStat) u => match u with
    | none => c
    | some (y, _) => c.add y) (mget w.run.chanStats {} k)
  ({ w with run.slotStats := mset w.run.slotStats {} slot st
            run.chanStats := mset w.run.chanStats {} k ch },
   used.map (fun u => match u with
    | none => 0
    | some (_, c) => c.code))

/-- A row of values converted without a slot (R197 to R204), saturations and non-finite inputs counted on the core
(R1091). -/
def Work.convRow (w : Work) (core : Nat) (f : Fmt) (ys : List FVal) (skip : Nat → Bool) : Work × List Nat :=
  let cs := ys.zipIdx.map (fun y => if skip y.2 then (⟨0, 0, 0⟩ : Conv) else f.conv y.1)
  let sat := (cs.map (·.sat)).sum
  let nf := (cs.map (·.nonfinite)).sum
  ((if sat = 0 ∧ nf = 0 then w else (w.count core .fmtSat sat).count core .fmtConvNonfinite nf), cs.map (·.code))

/-- A row of values as a tile row of an output descriptor, through its slot or not; the scale and zero-point bytes are
those of the row's channel (R207). -/
def Work.encodeRow (w : Work) (p : Plan) (core : Nat) (t : Tensor) (viaSlot : Bool) (b m : Nat) (ys : List FVal)
    (skip : Nat → Bool) : Work × TileRow :=
  if viaSlot then
    let s := p.slots.getD t.slot 0
    let r := w.quantiseRow t.slot s t.fmt b m ys skip
    let ez := w.scales.chan (SlotEnt.reg s b m)
    let n := t.stored.tf.rowGroups
    (r.1, { codes := r.2, scales := List.replicate n ez.1, zps := if t.fmt.zp then List.replicate n ez.2 else [] })
  else
    let r := w.convRow core t.fmt ys skip
    (r.1, { codes := r.2 })

/-- The tile row of a dropped row: zero codes, under the exponent of the row's channel. -/
def Work.dropRow (w : Work) (p : Plan) (t : Tensor) (viaSlot : Bool) (b m : Nat) : TileRow :=
  let n := t.stored.tf.rowGroups
  let ez := if viaSlot then w.scales.chan (SlotEnt.reg (p.slots.getD t.slot 0) b m) else (127, 0)
  { codes := List.replicate t.fmt.tileWidth 0, scales := List.replicate n ez.1
    zps := if t.fmt.zp then List.replicate n ez.2 else [] }

/-! ### Calibration -/

/-- The smallest exponent from `e` on, below 255, that meets a condition; none when there is none. -/
def smallestExp (ok : Nat → Bool) : Option Nat := (List.range 255).find? ok

/-- An exponent proposal with its margin (R228). -/
def withMargin (e : Option Nat) (margin : Nat) : Nat :=
  match e with
  | some e => min 254 (e + margin)
  | none => 254

/-- Whether a channel's values in the step are all zero (R235). -/
def ChanStat.isZero (c : ChanStat) : Bool :=
  c.any && !c.varies && (match c.const with
    | some d => decide (d.n = 0)
    | none => false)

/-- Whether a channel is degenerate (R236). -/
def ChanStat.degenerate (c : ChanStat) : Bool := c.any && !c.varies && !c.isZero

/-- The integer that a dyadic number is, if it is one. -/
def Dyad.int? (d : Dyad) : Option Int :=
  if 0 ≤ d.e then some (d.at 0) else if d.n % (2 ^ (-d.e).toNat : Nat) = 0 then some (d.n / (2 ^ (-d.e).toNat : Nat)) else none

/-- The proposal of a channel: exponent and zero point (R228 to R230, R235, R237, R238).
DEDUCED (log 79). -/
def ChanStat.propose (c : ChanStat) (s : SlotEnt) (cur : Nat × Nat) : Nat × Nat :=
  let f := s.fmt
  let top : Int := f.range.2
  if !c.any || c.isZero then cur
  else if !f.zp then
    (withMargin (smallestExp (fun e => fle (fp32 c.amax) (f.limit.shift ((e : Int) - 127)))) s.margin, 0)
  else
    let exact := if c.degenerate then (c.const.bind Dyad.int?).filter (fun v => v.natAbs ≤ top.toNat) else none
    match exact with
    | some v => (127, (-v).toNat)
    | none =>
      let zero : Dyad := ⟨0, 0⟩
      let lo := if flt (fp32 c.least) .zero then (fp32 c.least).dyad else zero
      let hi := if flt .zero (fp32 c.most) then (fp32 c.most).dyad else zero
      let e := withMargin (smallestExp (fun e =>
        fle (hi.sub lo).val ((FVal.ofInt top).shift ((e : Int) - 127)))) s.margin
      let z := (⟨-lo.n, lo.e + 127 - e⟩ : Dyad).roundAt 0
      (e, (max 0 (min top z)).toNat)

/-- The proposals of a slot's channels: (register, in force, proposal, statistics).
DEDUCED (log 79). -/
def Work.proposals (w : Work) (s : SlotEnt) : List (Nat × (Nat × Nat) × (Nat × Nat) × ChanStat) :=
  (List.range s.channels).map (fun c =>
    let k := SlotEnt.base s + c
    let cur := w.scales.chan k
    let st := mget w.run.chanStats {} k
    (k, cur, st.propose s cur, st))

/-- The statistics record of a slot (R226). DEDUCED (log 79). -/
def Work.statRecord (w : Work) (i : Nat) (s : SlotEnt) (step : Nat) : List Byte :=
  let ps := w.proposals s
  let st := mget w.run.slotStats {} i
  let amax := ps.foldl (fun a x => max a x.2.2.2.amax.toNat) 0
  let mn := ps.foldl (fun (a : W32) x => if flt (fp32 x.2.2.2.least) (fp32 a) then x.2.2.2.least else a) 0x7F800000
  let mx := ps.foldl (fun (a : W32) x => if flt (fp32 a) (fp32 x.2.2.2.most) then x.2.2.2.most else a) 0xFF800000
  let switched := s.mode = 1 ∧ ps.any (fun x => x.2.1 ≠ x.2.2.1)
  toLE 64 (pack [(st.count.toNat, 64), (st.sqerr.toNat, 128), (amax, 32), (mn.toNat, 32), (mx.toNat, 32),
    (st.sat.toNat, 32), (st.nonfinite.toNat, 32), ((ps.filter (fun x => x.2.2.2.degenerate)).length, 32),
    ((ps.filter (fun x => x.2.2.2.isZero)).length, 32), (ps.foldl (fun a x => max a x.2.2.1.1) 0, 8),
    (ps.foldl (fun a x => max a x.2.1.1) 0, 8), (b2n switched, 16), (step, 64)])

/-- At a commit: a record for each slot (R225), the other bank written and made active (R231, R234).
DEDUCED (log 30). -/
def Work.commitScales (w : Work) (p : Plan) (step : Nat) : Work :=
  match p.scales with
  | none => w
  | some t =>
    let recs := t.slots.zipIdx.map (fun s => (t.statBase.toNat + 64 * s.2, w.statRecord s.2 s.1 step))
    let sc := t.slots.foldl (fun sc s => (w.proposals s).foldl (fun (sc : Scales) x =>
      let v := if SlotEnt.mode s = 1 then x.2.2.1 else x.2.1
      sc.putNext x.1 v.1 v.2) sc) w.scales
    let w := recs.foldl (fun w r => w.cmdWrite r.1 r.2) w
    { w with scales := { sc with active1 := !sc.active1 } }

end Sys2Proof.Machine
end

