-- ==== Sys2Proof/Machine/Flags.lean ====
section
/-!
DEFINITION. The tallies (R462 to R490): how a partial reaches a cell, windows, folds, residues, row valid bits and
KPOS, and the flags INEXACT and OVER that they compute.
-/

namespace Sys2Proof.Machine

/-! ### Drain tables (R484, R499 to R502) -/

/-- The table that a plan without a drain-table section runs every array on (R484). -/
def defaultTable : DrainTab := { head := 0, entries := [BitVec.ofNat 64 (48 * 2 ^ 48)] }

/-- Drain table k of a plan. -/
def Plan.drain (p : Plan) (k : Nat) : DrainTab := if p.drains.isEmpty then defaultTable else p.drains.getD k defaultTable

/-- WIN_MODE is ABS. -/
def DrainTab.abs (t : DrainTab) : Bool := bits t.head 1 0 = 1

/-- The entry of channel n (R502). -/
def DrainTab.entry (t : DrainTab) (n : Nat) : W64 := t.entries.getD (n % (bits t.head 15 8 + 1)) 0

/-- WIN_TOP of the entry of channel n. -/
def DrainTab.winTop (t : DrainTab) (n : Nat) : Int := sbits (t.entry n) 57 48

/-- MULT × 2^SHIFT of the entry of channel n; 1 when MULT_EN is 0 (R500, R504). -/
def DrainTab.mult (t : DrainTab) (n : Nat) : Dyad :=
  if bit t.head 2 then
    let m := (Fmt.bf16.decode (bits (t.entry n) 15 0)).dyad
    ⟨m.n, m.e + sbits (t.entry n) 23 16⟩
  else ⟨1, 0⟩

/-- BIAS of the entry of channel n; 0 when BIAS_EN is 0. -/
def DrainTab.bias (t : DrainTab) (n : Nat) : Dyad :=
  if bit t.head 3 then (Fmt.bf16.decode (bits (t.entry n) 47 32)).dyad else ⟨0, 0⟩

/-- How a cell's window stands: mode ABS, and WIN_TOP. DEDUCED (log 88). -/
structure Win where
  abs : Bool
  top : Int
  deriving DecidableEq, Repr

/-- The window rule of a column of an array (R478). -/
def Core.win (c : Core) (p : Plan) (array col : Nat) : Win :=
  let k := mget c.tables 0 array
  let t := p.drain (k % 256)
  { abs := t.abs, top := t.winTop (64 * (k / 256) + col) }

/-! ### Cells -/

/-- The sum T × 2^(TOP − 96) of a cell. -/
def Cell.sum (x : Cell) : Dyad := ⟨x.t.toInt, x.top.toInt - 96⟩

/-- The value V of a cell: PAIR.hi + PAIR.lo + T × 2^(TOP − 96), exactly (R490). -/
def Cell.value (x : Cell) : Dyad := ((fp32 x.hi).dyad.add (fp32 x.lo).dyad).add x.sum

/-- RES agrees with T (R498). -/
def Cell.resOk (x : Cell) : Bool := (x.res.toNat : Int) = x.t.toInt % 7

/-- A cell folded for a segment above SEG (R486, R487). -/
def Cell.fold (x : Cell) (seg : Nat) : Cell :=
  let v := x.value
  let hi := Fmt.fp32.conv v.val
  let rest := v.sub (Fmt.fp32.decode hi.code).dyad
  let lo := Fmt.fp32.conv rest.val
  let left := rest.sub (Fmt.fp32.decode lo.code).dyad
  { x with hi := BitVec.ofNat 32 hi.code, lo := BitVec.ofNat 32 lo.code, t := 0, res := 0
           seg := BitVec.ofNat 8 seg
           inexact := x.inexact || decide (left.n ≠ 0)
           ovf := x.ovf || decide (0 < hi.sat + lo.sat) }

/-- A partial that carries FIRST prepares the cell: its sum, its fold and its flags are cleared (R465), and in mode FIRST
its window is placed (R480). DEDUCED (log 88). -/
def Cell.restart (x : Cell) (w : Win) (c : Int) : Cell :=
  { x with t := 0, hi := 0, lo := 0, seg := 0, inexact := false, ovf := false, res := 0, got := true
           top := BitVec.ofInt 10 (if w.abs then w.top else c + w.top) }

/-- A partial added within the window (R472 to R476). DEDUCED (log 88). -/
def Cell.place (x : Cell) (n : Nat) (p : Partial) : Cell :=
  if x.ovf then x
  else
    let x := { x with inexact := x.inexact || p.inexact }
    if p.v.n = 0 then x
    else
      let top := x.top.toInt
      let limit : Dyad := ⟨(n : Int), top + 38⟩
      let mag : Dyad := ⟨(p.v.n.natAbs : Int), p.v.e⟩
      let q := min limit.e mag.e
      if limit.at q < mag.at q then { x with ovf := true }
      else
        let k := p.v.roundAt (top - 96)
        { x with t := x.t + BitVec.ofInt 160 k
                 res := BitVec.ofNat 3 (((x.res.toNat : Int) + k) % 7).toNat
                 inexact := x.inexact || !(p.v.eq ⟨k, top - 96⟩) }

/-- A cell as its window rule shows it: in mode ABS, TOP equals WIN_TOP (R479). -/
def Cell.shown (x : Cell) (w : Win) : Cell := if w.abs then { x with top := BitVec.ofInt 10 w.top } else x

/-- A partial reaching a cell (R465, R475, R479 to R481, R486): the cell, and whether it folded. -/
def Cell.add (x : Cell) (w : Win) (first : Bool) (seg n : Nat) (p : Partial) : Cell × Nat :=
  let x := x.shown w
  if first || (!w.abs && !x.got) then ((x.restart w p.c).place n p, 0)
  else if x.ovf then (x, 0)
  else if x.seg.toNat < seg then ((x.fold seg).place n p, 1)
  else (x.place n p, 0)

/-- The key of a tally row. -/
def rowKey (array row : Nat) : Nat := 64 * array + row

/-- The 64 cells of a tally row. -/
def Core.rowCells (c : Core) (array row : Nat) : List Cell :=
  let k := 64 * rowKey array row
  let here := c.cells.filter (fun x => k ≤ x.1 ∧ x.1 < k + 64)
  (List.range 64).map (fun j => mget here {} (k + j))

/-- The 64 cells of a tally row as they stand (R479). -/
def Core.shownRow (c : Core) (p : Plan) (array row : Nat) : List Cell :=
  (c.rowCells array row).zipIdx.map (fun x => x.1.shown (c.win p array x.2))

/-- The cells of a tally row replaced. -/
def Core.setRow (c : Core) (array row : Nat) (xs : List Cell) : Core :=
  let k := 64 * rowKey array row
  { c with cells := c.cells.filter (fun x => x.1 < k) ++
      ((xs.take 64).zipIdx.filterMap (fun x => if x.1 = {} then none else some (k + x.2, x.1))) ++
      c.cells.filter (fun x => k + 64 ≤ x.1) }

/-- The valid bit and KPOS of a tally row. -/
def Core.trow (c : Core) (array row : Nat) : TRow := mget c.rows {} (rowKey array row)

/-- One group-partial reaching a tally row: the cells, and KPOS (R464, R485). The side path's partial, which is not counted, is of
the segment in which its pass begins, at position `at_` (R423). -/
def Core.addGroup (c : Core) (p : Plan) (array row : Nat) (first : Bool) (at_ : Nat) (g : RowPart) : Core :=
  let k := c.trow array row
  let seg := (if g.counted then k.kpos.toNat else at_) / 2 ^ 24
  let xs := (c.rowCells array row).zipIdx.map (fun x =>
    match g.cols[x.2]? with
    | some q => x.1.add (c.win p array x.2) first seg g.n q
    | none => (x.1, 0))
  let kpos := if g.counted then BitVec.ofNat 32 (if first then g.n else k.kpos.toNat + g.n) else k.kpos
  let c := c.setRow array row (xs.map (·.1))
  let c := { c with rows := mset c.rows {} (rowKey array row) { k with kpos := kpos } }
  let folds := (xs.map (·.2)).sum
  if folds = 0 then c else c.count .tallyFold folds

/-- What a firing delivers to a tally row: the valid bit (R412), then the group-partials, the first of them overwriting
when FIRST is set. DEDUCED (log 7, 84). -/
def Core.deliver (p : Plan) (c : Core) (d : Deliver) : Core :=
  let k := c.trow d.array d.row
  let valid := if d.first then !d.masked else k.valid && !d.masked
  let c := { c with rows := mset c.rows {} (rowKey d.array d.row) { k with valid := valid } }
  let at_ := if d.first then 0 else k.kpos.toNat
  d.groups.zipIdx.foldl (fun c g => c.addGroup p d.array d.row (d.first && g.2 == 0) at_ g.1) c

/-- A lane partial reaching its cell (R579, R580): never FIRST (R581), its segment given.
DEDUCED (log 88). -/
def Core.addLane (p : Plan) (c : Core) (l : LanePart) : Core :=
  let array := l.key / 4096
  let x := (mget c.cells {} l.key).add (c.win p array (l.key % 64)) false l.seg l.n l.p
  let c := { c with cells := mset c.cells {} l.key x.1 }
  if x.2 = 0 then c else c.count .tallyFold x.2

/-- Every array loaded from drain table 0, as at tick 0 of each step (R483). -/
def Core.loadTables (c : Core) : Core := { c with tables := (List.range 4).foldl (fun m a => mset m 0 a (256 * a)) c.tables }

end Sys2Proof.Machine
end

