-- ==== Sys2Proof/Machine/Tally.lean ====
section
/-!
DEFINITION. The TALLY station: DRAIN, CLEAR and PACK_OUT (R443, R445, R491 to R518).
-/

namespace Sys2Proof.Machine

/-- The arrays that a TALLY firing names (R491). -/
def tallyArrays (r : Rec) : List Nat := (List.range 4).filter (fun k => r.param / 2 ^ (8 + k) % 2 = 1)

/-- Columns of a read row whose residue disagrees (R498). DEDUCED (log 88). -/
def residueErrors (xs : List Cell) : Nat := (xs.filter (fun x => !x.resOk)).length

/-- The residue check of a read row: each mismatch counts, and the read is a detection (R498).
DEDUCED (log 88). -/
def Work.checkResidue (w : Work) (core array row : Nat) : Work :=
  let n := residueErrors ((w.core core).rowCells array row)
  if n = 0 then w
  else ((w.count core .tallyResidue n).event 0x0003 2 core array row 0 (64 * array + row)).detect core .residue

/-- The checks of every row that a firing reads. -/
def Work.checkRows (w : Work) (core array count : Nat) : Work :=
  (List.range count).foldl (fun w m => w.checkResidue core array m) w

/-- The value that the drain pipeline rounds: V × MULT × 2^SHIFT + BIAS, NaN when OVER is set (R504, R506). -/
def drainValue (t : DrainTab) (n : Nat) (x : Cell) : FVal :=
  if x.ovf then .nan else ((x.value.mul (t.mult n)).add (t.bias n)).val

/-- The counts and the step status of drained cells (R506, R511). -/
def Work.drainFlags (w : Work) (acc : Acc) (xs : List Cell) : Work :=
  let ovr := (xs.filter (·.ovf)).length
  let inex := (xs.filter (·.inexact)).length
  let w := if ovr = 0 then w else (w.count acc.core .tallyOver ovr).formatEvent (acc.event 0)
  if inex = 0 then w else (w.count acc.core .tallyInexact inex).inexactEvent (acc.event 0)

/-- Half a row: the 64 columns that one array gives, or none for a dropped row. -/
def Core.drainRow (c : Core) (p : Plan) (array m count : Nat) : Option (List Cell) :=
  if m < count ∧ (c.trow array m).valid then some (c.shownRow p array m) else none

/-- The rows of a DRAIN or PACK_OUT that has stood still, held again against the partials of the firings before it: where one of them
comes later than the row would be read, the rows are read later by so many clk, a slip (R445). -/
def Work.readLater (w : Work) (p : Plan) (a : At) (r : Rec) : Work :=
  let u := w.useOf a true r.dst 0
  let n := w.partialWait p { a with time := u.fin - (r.count + 10 + w.lags p a.core true r.dst 0) } r
  w.modCore a.core (fun c => c.lose 5 a.firing n)

/-- The list entry of the window that holds logical position `pos`, and the addresses it is read from (R216). -/
def Work.listEntry (w : Work) (s : Side) (pos : Nat) : List Byte :=
  (List.range 16).map (fun k => w.devByte (s.list + 16 * (pos / 128) + k))

/-- The row block of a DRAIN through a slot of GRAN 1 (R1087): bits [72:61] of its record. -/
def Rec.rowblk (r : Rec) : Nat := bits r 72 61

/-- One row of a drained tile: its halves from one or two arrays (R507, R508), with the listed channels as code zero. -/
def Work.drainTileRow (w : Work) (p : Plan) (r : Rec) (a : At) (t : Tensor) (tab : DrainTab) (pos m : Nat)
    (halves : List (Option (List Cell))) (offs : List Nat) : Work × TileRow :=
  let via := t.slotEn
  if halves.all (·.isNone) then (w, w.dropRow p t via r.rowblk m)
  else
    let cells := halves.flatMap (fun h => h.getD [])
    let w := w.drainFlags (a.acc r.desc) cells
    let ys := halves.zipIdx.flatMap (fun h => match h.1 with
      | some xs => xs.zipIdx.map (fun x => drainValue tab (pos + 64 * h.2 + x.2) x.1)
      | none => List.replicate 64 .zero)
    let off := halves.map (·.isNone)
    let skip (j : Nat) : Bool := off.getD (j / 64) false || decide ((pos + j) % 128 ∈ offs)
    w.encodeRow p a.core t via r.rowblk m ys skip

/-- The outlier trailer that a drained tile carries (R219, R421, R510): the list entry, then for each row the values of
the listed channels that the tile covers, as BF16. -/
def Work.drainSide (w : Work) (core : Nat) (tab : DrainTab) (pos width : Nat) (entry : List Byte)
    (rows : List (List (Option (List Cell)))) : Work × List Byte :=
  let offs := listOffsets entry
  let lo := pos % 128
  let res := rows.foldl (fun (acc : Work × List Byte) halves =>
    let vals := (List.range 8).map (fun k => match offs[k]? with
      | some o =>
        if lo ≤ o ∧ o < lo + width then
          let j := o - lo
          match halves.getD (j / 64) none with
          | some xs => drainValue tab (pos + j) (xs.getD (j % 64) {})
          | none => .zero
        else .zero
      | none => .zero)
    let e := acc.1.convRow core .bf16 vals (fun _ => false)
    (e.1, acc.2 ++ e.2.flatMap (toLE 2 ·))) (w, [])
  (res.1, fit 16 entry ++ res.2 ++ zeros 48)

/-- DRAIN writes tile q: one named array, or a pair of them for a 4-bit format (R508).
DEDUCED (log 7, 87). -/
def drainUnit (fab : Fab) (p : Plan) (r : Rec) (a : At) (w : Work) (q : Nat) (fresh : Bool) : UnitRes :=
  let t := { p.tensor r.desc with sparse := 0 }
  let arrs := tallyArrays r
  let per := if t.fmt.bits = 4 then 2 else 1
  let mine := (arrs.drop (per * q)).take per
  let pos := 64 * per * q
  let s := p.side t
  if w.orderWait p a.core a.firing r then .wait w .order []
  else
  let w := if q = 0 then w.readLater p a r else w
  match w.room p a r.dst 0 t.slotUse with
    | some x => .wait w x []
    | none =>
      match (if t.outlier then w.reach fab (a.acc r.desc) [(s.list + 16 * (pos / 128), 16)] fresh else (w, none)) with
      | (w1, some (x, tags)) => .wait w1 x tags
      | (w1, none) =>
        let w1 := if t.outlier then w1.readSlip a [(s.list + 16 * (pos / 128), 16)] else w1
        let w1 := mine.foldl (fun w k => w.checkRows a.core k r.count) w1
        let entry := if t.outlier then w1.listEntry s pos else []
        let w1 := if t.outlier then w1.badList (a.acc r.desc) entry else w1
        let tab := p.drain (r.param % 256)
        let c := w1.core a.core
        let rows := (List.range 64).map (fun m => mine.map (fun k => c.drainRow p k m r.count))
        let res := rows.zipIdx.foldl (fun (acc : Work × List TileRow) x =>
          let e := acc.1.drainTileRow p r a t tab pos x.2 x.1 (listOffsets entry)
          (e.1, acc.2 ++ [e.2])) (w1, [])
        let side := if t.outlier then res.1.drainSide a.core tab pos t.fmt.tileWidth entry rows else (res.1, [])
        let mask := ((rows.zipIdx.map (fun x => if x.1.any (·.isSome) then 2 ^ x.2 else 0)).sum)
        .ok (side.1.push p a r.dst { mask := BitVec.ofNat 64 mask, part := pos % 128 } (packTile t.tf res.2 ++ side.2))

/-- The times of a DRAIN or PACK_OUT of `n` tiles (R24, R445, R509): a row is read each clk, and every tile is full at issue +
COUNT + 10. -/
def drainTimes (r : Rec) (n wait : Nat) (lag : Lags) : Times :=
  { free := some (r.count + wait)
    uses := (List.range n).map (fun j => ⟨r.dst, true, 0, r.count + 10 + wait + lag true r.dst j, r.count⟩)
    ends := r.count + 9 + wait, waits := wait }

/-- The tiles that a DRAIN writes (R508). -/
def Plan.drainTiles (p : Plan) (r : Rec) : Nat := (tallyArrays r).length / (if (p.tensor r.desc).fmt.bits = 4 then 2 else 1)

/-- TALLY DRAIN. -/
def drainJob (fab : Fab) (p : Plan) (r : Rec) (a : At) : Job :=
  { n := p.drainTiles r, unit := drainUnit fab p r a
    times := fun w => drainTimes r (p.drainTiles r) (w.partialWait p a r) (w.lags p a.core) }

/-- An array cleared and its window loaded from a drain table at position `pos` (R494, R483). -/
def Core.clearArray (c : Core) (table pos array : Nat) : Core :=
  let k := 4096 * array
  { c with cells := c.cells.filter (fun x => x.1 < k ∨ k + 4096 ≤ x.1)
           rows := (List.range 64).foldl (fun m r => mset m {} (rowKey array r) { valid := true, kpos := 0 }) c.rows
           tables := mset c.tables 0 array (table + 256 * pos) }

/-- CLEAR of the named arrays; partials of firings in progress that arrive from this clk on are added after it (R494,
R495). DEDUCED (log 7). -/
def clearUnit (p : Plan) (r : Rec) (a : At) (w : Work) : UnitRes :=
  let arrs := tallyArrays r
  .ok (w.modCore a.core (fun c =>
    let late := (c.prog.flatMap (·.rows)).filter (fun d => d.array ∈ arrs ∧ a.time ≤ d.time)
    late.foldl (Core.deliver p) (arrs.zipIdx.foldl (fun c k => c.clearArray (r.param % 256) k.2 k.1) c)))

/-- TALLY CLEAR. -/
def clearJob (p : Plan) (r : Rec) (a : At) : Job := 
  { n := 1, unit := fun w _ _ => clearUnit p r a w, times := fun _ => { free := some 1 } }

/-- A trailing-zero count of a nonzero number, at most `k`. -/
def trailing : Nat → Nat → Nat
  | 0, _ => 0
  | k + 1, n => if n % 2 = 1 then 0 else 1 + trailing k (n / 2)

/-- The tag and the record of a packed element (R515 to R518). DEDUCED (log 89). -/
def packCell (x : Cell) : Nat × List Byte :=
  if x.ovf ∨ x.seg ≠ 0 then (2, [])
  else
    let off := if x.t = 0 then 0 else trailing 160 x.t.toNat
    let m := x.t.toInt / (2 ^ off : Nat)
    if -(2 ^ 63 : Int) ≤ m ∧ m < 2 ^ 63 then (0, toLE 8 (m % (2 ^ 64 : Nat)).toNat ++ toLE 2 off ++ zeros 2)
    else (1, toLE 20 x.t.toNat)

/-- A packed half-tile (R514): `h` is HALF. DEDUCED (log 89). -/
def packHalf (top : Int) (array h : Nat) (rows : List (Option (List Cell))) : List Byte :=
  let els := rows.flatMap (fun r => match r with
    | some xs => xs.map packCell
    | none => List.replicate 64 (3, []))
  let inex := rows.any (fun r => (r.getD []).any (·.inexact))
  let body := packPos (els.map (·.1)) ++ els.flatMap (·.2)
  let n := ceilDiv (16 + body.length) 64 * 64
  fit n (toLE 2 (top % 65536).toNat ++ toLE 1 (b2n inex + 2 * h) ++ toLE 1 array ++ toLE 4 n ++ zeros 8 ++ body)

/-- PACK_OUT writes half-tile q: rows 0 to 31 and then 32 to 63 of each named array (R512, R513).
DEDUCED (log 89). -/
def packOutUnit (p : Plan) (r : Rec) (a : At) (w : Work) (q : Nat) : UnitRes :=
  let array := (tallyArrays r).getD (q / 2) 0
  let h := q % 2
  if w.orderWait p a.core a.firing r then .wait w .order []
  else
  let w := if q = 0 then w.readLater p a r else w
  match w.room p a r.dst 0 41536 with
    | some x => .wait w x []
    | none =>
      let w := if h = 0 then w.checkRows a.core array r.count else w
      let c := w.core a.core
      let rows := (List.range 32).map (fun m => c.drainRow p array (32 * h + m) r.count)
      let cells := rows.flatMap (fun x => x.getD [])
      let w := w.count a.core .tallyOver (cells.filter (·.ovf)).length
      let w := w.count a.core .tallyInexact (cells.filter (·.inexact)).length
      let mask := ((rows.zipIdx.map (fun x => if x.1.isSome then 2 ^ (32 * h + x.2) else 0)).sum)
      .ok (w.push p a r.dst { mask := BitVec.ofNat 64 mask } (packHalf (c.win p array 0).top array h rows))

/-- TALLY PACK_OUT. -/
def packOutJob (p : Plan) (r : Rec) (a : At) : Job :=
  { n := 2 * (tallyArrays r).length, unit := fun w q _ => packOutUnit p r a w q
    times := fun w => drainTimes r (2 * (tallyArrays r).length) (w.partialWait p a r) (w.lags p a.core) }

/-- TALLY DRAIN. -/
def execDrain (core idx : Nat) (env : Env) (s : State) : Host.Outcome State Fault Refusal :=
  .next { s with w := s.w.issue core idx env 5 1 (drainJob s.fab) }

/-- TALLY CLEAR. -/
def execClear (core idx : Nat) (env : Env) (s : State) : Host.Outcome State Fault Refusal :=
  .next { s with w := s.w.issue core idx env 5 2 clearJob }

/-- TALLY PACK_OUT. -/
def execPackOut (core idx : Nat) (env : Env) (s : State) : Host.Outcome State Fault Refusal :=
  .next { s with w := s.w.issue core idx env 5 3 packOutJob }

end Sys2Proof.Machine
end

