-- ==== Sys2Proof/Machine/Grid.lean ====
section
/-!
DEFINITION. GRID: the PASS in its six shapes, dense, 2:4, transposed and with the outlier side path (R376 to R433), and
the partials that it and SWEEP form (R466 to R471).
-/

namespace Sys2Proof.Machine

/-! ### Partials -/

/-- The unit exponent u of a format (R466). -/
def Fmt.unit (f : Fmt) : Int :=
  match f.float with
  | some (_, mb, bias, _) => 1 - bias - mb
  | none => 0

/-- The element of a code as a multiple of 2^u, infinities and NaN replaced (R177, R178, R466). -/
def Fmt.int (f : Fmt) (c : Nat) : Int := (finiteInput f (f.decode c)).dyad.at f.unit

/-- An element of a tile row as an integer, its zero point subtracted, with the scale byte of its group; a group with
scale byte 0xFF is zero under byte 127 (R184, R196, R467). -/
def TileRow.elem (x : TileFmt) (r : TileRow) (j : Nat) : Int × Nat :=
  let c := r.codes.getD j 0
  if x.g = 0 then (x.fmt.int c, 127)
  else
    let e := r.scales.getD (j / x.g) 127
    if e = 255 then (0, 127)
    else if x.fmt.zp then ((c : Int) - r.zps.getD (j / x.g) 0, e) else (x.fmt.int c, e)

/-- ⌊log2⌋ of the magnitude of a nonzero dyadic number. -/
def Dyad.flog (d : Dyad) : Int := (Nat.log2 d.n.natAbs : Int) + d.e

/-- The partial of a group of BF16 or FP16 products (R469 to R471). -/
def group16 (ps : List Dyad) : Partial :=
  let nz := ps.filter (fun d => d.n ≠ 0)
  match nz with
  | [] => { v := ⟨0, 0⟩, c := -56 }
  | d :: ds =>
    let fl := ds.foldl (fun m x => max m x.flog) d.flog
    let sum := nz.foldl Dyad.add ⟨0, fl - 56⟩
    let k := sum.roundAt (fl - 56)
    { v := ⟨k, fl - 56⟩, c := fl - 56, inexact := !(sum.eq ⟨k, fl - 56⟩) }

/-- A product with its weight exponent. -/
structure Prod where
  p : Int
  e : Nat
  deriving DecidableEq, Repr

/-- The partial of a group of products under one weight exponent: exact (R467, R468). `u` is u_a + u_w.
DEDUCED (log 80). -/
def groupExact (u : Int) (ea ew : Nat) (sum : Int) : Partial :=
  let c := ((ea : Int) - 127) + ((ew : Int) - 127) + u
  { v := ⟨sum, c⟩, c := c }

/-- The partial of a transposed group: each product is aligned to the largest weight exponent with 32 bits below it
(R404 to R406). DEDUCED (log 80). -/
def groupAligned (u : Int) (ea : Nat) (ps : List Prod) : Partial :=
  let ew : Nat := ps.foldl (fun (m : Nat) x => max m x.e) (match ps with
    | [] => 127
    | x :: _ => x.e)
  let c := ((ea : Int) - 127) + ((ew : Int) - 127) + u
  let terms := ps.map (fun x => (⟨x.p, 32 - ((ew - x.e : Nat) : Int)⟩ : Dyad))
  let ks := terms.map (fun d => d.roundAt 0)
  { v := ⟨ks.sum, c - 32⟩, c := c
    -- a sum that is exactly zero is never inexact (R474)
    inexact := decide ((terms.foldl Dyad.add ⟨0, 0⟩).n ≠ 0) && (terms.zip ks).any (fun x => !(x.1.eq ⟨x.2, 0⟩)) }

/-! ### Operands of a pass -/

/-- The rows of operand tiles side by side: activation tiles, or the tile of one array. -/
structure Act where
  x : TileFmt
  tiles : List (List TileRow)
  masks : List W64

/-- Row m of the tile that holds position `pos`, with the column there. -/
def Act.at (a : Act) (m pos : Nat) : TileRow × Nat :=
  ((a.tiles.getD (pos / a.x.width) []).getD m ⟨[], [], []⟩, pos % a.x.width)

/-- The integer at a position of row m. -/
def Act.int (a : Act) (m pos : Nat) : Int := let r := a.at m pos; (r.1.elem a.x r.2).1

/-- The scale byte of the group at a position of row m. -/
def Act.scale (a : Act) (m pos : Nat) : Nat := let r := a.at m pos; (r.1.elem a.x r.2).2

/-- The exact value at a position of row m, for 16-bit formats. -/
def Act.dyad (a : Act) (m pos : Nat) : Dyad :=
  let r := a.at m pos
  (finiteInput a.x.fmt (a.x.fmt.decode (r.1.codes.getD r.2 0))).dyad

/-- Whether row m is masked: its bit is 0 in every tile (R409). -/
def Act.masked (a : Act) (m : Nat) : Bool := a.masks.all (fun k => !k.getLsbD m)

/-- Whether the eight rows of row m's group below `count` are all masked (R410). -/
def Act.gated (a : Act) (count m : Nat) : Bool :=
  (List.range 8).all (fun i => let r := m / 8 * 8 + i; decide (count ≤ r) || a.masked r)

/-- A weight tile as an array holds it: for each output channel its kept elements, each with its reduction position, its
integer, scale byte and code. -/
structure WElem where
  pos : Nat
  k : Int
  e : Nat
  code : Nat
  deriving DecidableEq, Repr

/-- The elements of a weight tile, by tile row (R381, R415, R416, R525). -/
def Tensor.welems (t : Tensor) (bs : List Byte) : List (List WElem) :=
  let x := t.stored.tf
  let codes := if t.twoFour then t.slotCodes bs else []
  (unpackTile x bs).zipIdx.map (fun r =>
    let cs := codes.getD r.2 []
    (List.range x.width).map (fun q =>
      let y := r.1.elem x q
      { pos := if t.twoFour then 4 * (q / 2) + cs.getD q 0 else q
        k := y.1, e := y.2, code := r.1.codes.getD q 0 }))

/-- The group size of a pass over `depth` reduction elements (R382): the smaller of the operands' group sizes.
DEDUCED (log 80). -/
def passGroup (ga gw depth : Nat) : Nat :=
  let g := if ga = 0 then gw else if gw = 0 then ga else min ga gw
  if g = 0 then depth else min g depth

/-- Whether a format is multiplied under the 16-bit rules. -/
def Fmt.wide (f : Fmt) : Bool := f.bits = 16

/-- The partials of one row and one output channel of a pass that is not transposed (R381 to R383, R415, R416).
DEDUCED (log 80). -/
def colPartials (a : Act) (wt : Tensor) (ws : List WElem) (m depth : Nat) : List (Nat × Partial) :=
  if wt.fmt.wide then
    (chunksOf 32 (ws.length / 32 + 1) ws).map (fun g =>
      (if wt.twoFour then 64 else 32,
        group16 (g.map (fun e => (a.dyad m e.pos).mul (finiteInput wt.fmt (wt.fmt.decode e.code)).dyad))))
  else
    let gs := passGroup a.x.g wt.g depth
    let u := a.x.fmt.unit + wt.fmt.unit
    (List.range (depth / gs)).map (fun g =>
      let here := ws.filter (fun e => g * gs ≤ e.pos ∧ e.pos < (g + 1) * gs)
      let ew := (here.headD ⟨0, 0, 127, 0⟩).e
      (gs, groupExact u (a.scale m (g * gs)) ew ((here.map (fun e => a.int m e.pos * e.k)).sum)))

/-- The partials of one row and one output of a transposed pass: `chans` are the channels' weight elements at that output
(R399 to R406). DEDUCED (log 80). -/
def rowPartials (a : Act) (wt : Tensor) (chans : List (Nat × WElem)) (m depth : Nat) : List (Nat × Partial) :=
  if wt.fmt.wide then
    let span := if wt.twoFour then 64 else 32
    (List.range (depth / span)).map (fun g =>
      (span, group16 ((chans.filter (fun c => c.1 / span = g)).map (fun c =>
        (a.dyad m c.1).mul (finiteInput wt.fmt (wt.fmt.decode c.2.code)).dyad))))
  else
    let gs := passGroup a.x.g wt.g depth
    let u := a.x.fmt.unit + wt.fmt.unit
    (List.range (depth / gs)).map (fun g =>
      let here := chans.filter (fun c => c.1 / gs = g)
      (gs, groupAligned u (a.scale m (g * gs)) (here.map (fun c => ⟨a.int m c.1 * c.2.k, c.2.e⟩))))

/-- The weight elements at output `o` of the tiles of one array or of a pair, by channel. -/
def chansAt (tiles : List (List (List WElem))) (o : Nat) : List (Nat × WElem) :=
  tiles.zipIdx.flatMap (fun t => t.1.zipIdx.flatMap (fun r =>
    match r.1.find? (fun e => e.pos = o) with
    | some e => [(64 * t.2 + r.2, e)]
    | none => []))

/-- Columns of partials, group by group. -/
def joinCols (cols : List (List (Nat × Partial))) : List RowPart :=
  (List.range ((cols.headD []).length)).map (fun g =>
    { n := ((cols.headD []).getD g (0, ⟨⟨0, 0⟩, 0, false⟩)).1
      cols := cols.map (fun c => (c.getD g (0, ⟨⟨0, 0⟩, 0, false⟩)).2) })

/-! ### The outlier side path (R419 to R425) -/

/-- A listed channel of a pass: its list position, its offset in the window, the activation tile that covers it.
DEDUCED (log 87). -/
structure Listed where
  k : Nat
  off : Nat
  tile : Nat
  deriving DecidableEq, Repr

/-- The listed channels that the activation tiles of a pass cover, at most 8 (R422): (trailer, part) of each tile.
DEDUCED (log 87). -/
def listedChannels (sides : List (List Byte × Nat)) (width : Nat) : List Listed :=
  (sides.zipIdx.flatMap (fun s =>
    (listOffsets s.1.1).zipIdx.filterMap (fun o =>
      if s.1.2 ≤ o.1 ∧ o.1 < s.1.2 + width then some ⟨o.2, o.1, s.2⟩ else none))).take 8

/-- A BF16 value of a trailer at a byte offset, replaced as R177 and R178 give. DEDUCED (log 87). -/
def sideVal (tr : List Byte) (o : Nat) : Dyad := (finiteInput .bf16 (Fmt.bf16.decode (leAt tr o 2))).dyad

/-- The side path's partials of row m for the 64 columns of an array (R422 to R425).
DEDUCED (log 87). -/
def sidePart (sides : List (List Byte × Nat)) (ls : List Listed) (wside : List Byte) (m : Nat) : RowPart :=
  let good := ls.filter (fun l => (listOffsets wside)[l.k]? = some l.off)
  { n := good.length, counted := false
    cols := (List.range 64).map (fun j => group16 (good.map (fun l =>
      (sideVal (sides.getD l.tile ([], 0)).1 (16 + 16 * m + 2 * l.k)).mul (sideVal wside (16 + 2 * (64 * l.k + j)))))) }

/-- The side values that a pass takes and replaces (R177 to R179): of the activation tiles in the rows fed, and, where its
weights are new, of the weight tiles. DEDUCED (log 87). -/
def sideReplaced (sides : List (List Byte × Nat)) (ls : List Listed) (wsides : List (List Byte)) (fed : List Nat)
    (fresh : Bool) : Nat × Nat :=
  let bad (tr : List Byte) (os : List Nat) : Nat := Fmt.bf16.nonfinite (os.map (fun o => leAt tr o 2))
  let good (ws : List Byte) : List Listed := ls.filter (fun l => (listOffsets ws)[l.k]? = some l.off)
  (((ls.filter (fun l => wsides.any (fun ws => decide (l ∈ good ws)))).map (fun l =>
      bad (sides.getD l.tile ([], 0)).1 (fed.map (fun m => 16 + 16 * m + 2 * l.k)))).sum,
   if fresh then (wsides.map (fun ws => ((good ws).map (fun l =>
      bad ws ((List.range 64).map (fun j => 16 + 2 * (64 * l.k + j))))).sum)).sum else 0)

/-- List positions at which the activation's entry and a weight tile's differ, one that only the weight tile lists among them
(R425). -/
def sideMismatch (sides : List (List Byte × Nat)) (ls : List Listed) (wside : List Byte) : Nat :=
  (ls.filter (fun l => (listOffsets wside)[l.k]? ≠ some l.off)).length +
  ((List.range 8).filter (fun k => (listOffsets wside)[k]?.isSome && sides.all (fun s => (listOffsets s.1)[k]?.isNone))).length

/-! ### The pass -/

/-- The shape of a pass: arrays, transposed, 2:4, side path, no new weights (R54, R395, R396). -/
structure Shape where
  arrays : List Nat
  trans : Bool
  sparse : Bool
  side : Bool
  keep : Bool
  deriving DecidableEq, Repr

/-- The shape that PARAM gives. -/
def Plan.shape (p : Plan) (r : Rec) : Shape :=
  { arrays := p.arraysOf r, trans := 4 ≤ r.param % 8, sparse := bit (BitVec.ofNat 16 r.param) 5
    side := bit (BitVec.ofNat 16 r.param) 6, keep := bit (BitVec.ofNat 16 r.param) 7 }

/-- Reduction elements of a pass (R395). -/
def passDepth (wt : Tensor) (s : Shape) : Nat :=
  let dense := if wt.fmt.bits = 4 then 128 else 64
  if s.trans then (if wt.fmt.bits = 4 ∨ s.sparse then 128 else 64)
  else if s.sparse then 2 * dense else dense

/-- What a pass delivers for row m: for each array its group-partials. `wts` are the weight elements of each array named,
in order. -/
def passRow (a : Act) (wt : Tensor) (s : Shape) (wts : List (List (List WElem))) (m : Nat) : List (List RowPart) :=
  let depth := passDepth wt s
  if !s.trans then wts.map (fun w => joinCols ((List.range 64).map (fun j => colPartials a wt (w.getD j []) m depth)))
  else if depth = 64 then
    wts.map (fun w => joinCols ((List.range 64).map (fun o => rowPartials a wt (chansAt [w] o) m depth)))
  else
    wts.zipIdx.map (fun w =>
      let pair := [wts.getD (w.2 / 2 * 2) [], wts.getD (w.2 / 2 * 2 + 1) []]
      joinCols ((List.range 64).map (fun j => rowPartials a wt (chansAt pair (64 * (w.2 % 2) + j)) m depth)))

/-- Clk per row (R378). -/
def clkPerRow (t : Tensor) : Nat := if t.fmt.wide then 2 else 1

/-- Activation tiles of a pass (R378, R380). -/
def Plan.passTiles (p : Plan) (r : Rec) : Nat :=
  max 1 (passDepth (p.tensor r.desc) (p.shape r) / (p.tensor (r.desc + 1)).fmt.tileWidth)

/-- Weight tiles that a pass reads (R386, R391). -/
def Plan.weightTiles (p : Plan) (r : Rec) : Nat := if (p.shape r).keep then 0 else (p.shape r).arrays.length

/-- The planned rows of a core's timed passes, in clk from tick 0: the firing, and the clk of its first row (R359, R388, R391,
R430). -/
def Plan.gridPlan (p : Plan) (c : CorePlan) : List (Nat × Nat) :=
  (c.firings.zipIdx.foldl (fun (acc : List (Nat × Nat) × Nat × SMap Nat) x =>
    let r : Rec := x.1
    if r.station = 3 then
      let nw := p.weightTiles r
      let na := if r.count = 0 then 0 else p.passTiles r
      let lag (s n : Nat) : Nat := ((List.range n).map (fun j => c.slotLag s (mget acc.2.2 0 s + j))).foldl max 0
      let used := mmod (mmod acc.2.2 0 r.srcB (· + nw)) 0 r.srcA (· + na)
      if r.mode = 0 then
        let t := max (r.tick * p.tickClk + r.offset + (if (p.shape r).keep then 0 else 64 + lag r.srcB nw)) acc.2.1 + lag r.srcA na
        (acc.1 ++ [(x.2, t)], t + clkPerRow (p.tensor r.desc) * r.count, used)
      else (acc.1, acc.2.1, used)
    else acc) ([], 0, [])).1

/-- The herd time at which the first row of a timed pass of an array is planned that has not entered it, the earliest of them
(R429, R431). DEDUCED (log 90). -/
def Work.dueRow (w : Work) (p : Plan) (core array : Nat) : Option Int :=
  let c := w.core core
  let ts := (p.gridPlan (p.core core)).filterMap (fun x =>
    match p.firing? core x.1 with
    | some r => if !c.doneWith x.1 && decide (array ∈ p.arraysOf r) then
        some ((w.cad.time : Int) + x.2 - (w.run.tick.toNat * w.period : Nat)) else none
    | none => none)
  ts.foldl (fun m t => some (match m with
    | some x => min x t
    | none => t)) none

/-- Clk that an elastic pass waits for an array's ramp, its rows otherwise entering from `start` on (R429, R431 to R433): none while
the array is held for a timed row that is overdue or due within 32 clk of its last row; 32 when it has had no row in the 32 clk
before; otherwise as long as its ramp-down has run. DEDUCED (log 90). -/
def Work.rampWait (w : Work) (p : Plan) (core array start : Nat) : Nat :=
  let last := mget (w.core core).lastRow 0 array
  if last ≠ 0 ∧ start ≤ last then 0
  else
    let held : Bool := match w.dueRow p core array with
      | some t => decide (t ≤ start) || (decide (last ≠ 0) && decide (t ≤ last + 32))
      | none => false
    if held then 0 else if last = 0 ∨ last + 32 ≤ start then 32 else start - last

/-- The clk at which the activation phase of a pass would start but for a ramp (R388, R391); `wl` and `al` are the lags of its
weight and activation slots (R359). -/
def Work.passStart (w : Work) (a : At) (s : Shape) (wl al : Nat) : Nat :=
  max (a.time + (if s.keep then 0 else 64 + wl)) (w.core a.core).gridNext + al

/-- The clk by which an array's ramp delays a pass whose rows would enter from `start` on (R430, R432, R433). -/
def Work.passRamp (w : Work) (p : Plan) (a : At) (r : Rec) (start : Nat) : Nat :=
  if r.mode = 0 then 0 else (p.shape r).arrays.foldl (fun m k => max m (w.rampWait p a.core k start)) 0

/-- The deliveries of a pass of `count` rows from clk `start` on (R388, R394, R398, R402, R410, R411, R423).
DEDUCED (log 84). -/
def passRows (a : Act) (wt : Tensor) (s : Shape) (wts : List (List (List WElem))) (sides : List (List Byte × Nat))
    (wsides : List (List Byte)) (count start : Nat) (first : Bool) : List Deliver :=
  let ls := if s.side then listedChannels sides a.x.width else []
  (List.range count).flatMap (fun m =>
    let t := start + clkPerRow wt * m + 8
    if a.gated count m then s.arrays.map (fun k => ⟨t, k, m, first, true, []⟩)
    else
      let gs := passRow a wt s wts m
      s.arrays.zipIdx.map (fun k =>
        ⟨t, k.1, m, first, a.masked m,
          gs.getD k.2 [] ++ (if s.side then [sidePart sides ls (wsides.getD k.2 []) m] else [])⟩))

/-- The weights that a pass reads, loaded into the arrays' cells (R385 to R387). -/
def Work.ripple (w : Work) (a : At) (r : Rec) (t : Tensor) (s : Shape) (tiles : List Taken) : Work :=
  let w := (s.arrays.zip tiles).foldl (fun w x => w.modCore a.core (fun c =>
    { c with weights := mset c.weights none x.1 (some
        { bytes := x.2.bytes, desc := r.desc, outlier := s.side }) })) w
  tiles.foldl (fun w x =>
    let rows := unpackTile t.stored.tf x.bytes
    w.replaced (a.acc r.desc) ((rows.map (fun q => t.fmt.nonfinite q.codes)).sum) ((rows.map TileRow.badScales).sum)) w

/-- The `n` tiles of a stream from its `off`-th on, all of them full, none taken yet. -/
def Work.peekAll (w : Work) (p : Plan) (a : At) (s bytes off : Nat) : Nat → Except Stall (Work × List Taken)
  | 0 => .ok (w, [])
  | n + 1 =>
    match w.peekAll p a s bytes off n with
    | .error x => .error x
    | .ok (w1, ts) =>
      match w1.peek p a s (off + n) bytes with
      | .error x => .error x
      | .ok (w2, t) => .ok (w2, ts ++ [t])

/-- The partials of a pass reach the tallies, and stay with the firing for a CLEAR that comes before them; it does not retire
before the last of them. -/
def Work.deliverAll (w : Work) (p : Plan) (a : At) (ds : List Deliver) : Work :=
  w.modCore a.core (fun c =>
    (ds.foldl (Core.deliver p) c).modProg a.firing (fun x =>
      { x with rows := x.rows ++ ds, ends := ds.foldl (fun m d => max m d.time) x.ends }))

/-- The times of a PASS of `n` rows, in clk from `t` (R24, R388, R391): weights are read in the weight phase, activations
from `start` on, and the station is free for the next weight phase when the rows begin. -/
def Plan.passTimes (p : Plan) (r : Rec) (n t held wl start : Nat) : Times :=
  let s := p.shape r
  let cl := clkPerRow (p.tensor r.desc)
  { free := some (start - t)
    uses := (if s.keep then [] else s.arrays.map (fun _ => ⟨r.srcB, false, held, held + 64 + wl, 64⟩)) ++
      (List.range (p.passTiles r)).map (fun _ => ⟨r.srcA, false, start - t, start - t + cl * n, cl * n⟩) }

/-- The clk for which a PASS that issues waits for the self-checks of its arrays (R153). -/
def Work.checkWait (w : Work) (p : Plan) (a : At) (r : Rec) : Nat :=
  ((p.arraysOf r).map (fun k => mget (w.core a.core).checkEnd 0 k - a.time)).foldl max 0

/-- The times of `n` rows that a PASS begins at a time: they wait for a self-check (R153), and their partials for the DRAIN before
them (R445). -/
def Work.passTimesFor (w : Work) (p : Plan) (r : Rec) (a : At) (n : Nat) : Times :=
  let lag := w.lags p a.core
  let wl := lag.most r.srcB (p.weightTiles r)
  let held := w.checkWait p a r
  let st := w.passStart { a with time := a.time + held } (p.shape r) wl (lag.most r.srcA (p.passTiles r))
  let dw := w.readWait p a.core a.firing r (st + 8)
  { p.passTimes r n a.time held wl (st + dw) with waits := held + dw }

/-- The times of a PASS that issues. With COUNT 0 each slot that MERGE fills has times of its own. -/
def Work.passTimesAt (w : Work) (p : Plan) (r : Rec) (a : At) : Times :=
  if r.count = 0 then {} else w.passTimesFor p r a r.count

/-- One pass of `count` rows over the activation tiles at the front of SRC_A (R380, R386, R391, R393). What its ripple loses at a bank
moves its rows with it (R361, R388), and so does a ramp (R432, R433). DESIGN CHOICE (log 86). -/
def passUnit (p : Plan) (r : Rec) (a : At) (count : Nat) (w : Work) : UnitRes :=
  let s := p.shape r
  let wt := p.tensor r.desc
  let at_ := p.tensor (r.desc + 1)
  let nA := p.passTiles r
  if w.orderWait p a.core a.firing r then .wait w .order []
  else match w.peekAll p a r.srcA at_.slotUse 0 nA with
    | .error x => .wait w x []
    | .ok (w1, acts) =>
      match w1.peekAll p a r.srcB wt.slotUse 0 (if s.keep then 0 else s.arrays.length) with
      | .error x => .wait w x []
      | .ok (w2, tiles) =>
        let w2 := if count = 0 then w2.schedule a.core a.firing 3 a.time 0 (w2.passTimesFor p r a 64) else w2
        let w3 := if s.keep then w2 else w2.ripple a r wt s tiles
        let w3 := w3.consume p a r.srcB tiles.length
        let ramp := w3.passRamp p a r (w3.useOf a false r.srcA 0).start
        let w3 := if ramp = 0 then w3 else w3.modCore a.core (fun c => (c.postpone a.firing 3 ramp).count .gridRamp ramp)
        let u := w3.useOf a false r.srcA 0
        let e0 := (w3.progAt a).ends
        let w3 := w3.consume p a r.srcA nA
        let start := u.start + ((w3.progAt a).ends - e0)
        let c := w3.core a.core
        let held := s.arrays.map (fun k => mget c.weights none k)
        let wts := held.map (fun h => match h with
          | some x => wt.welems x.bytes
          | none => [])
        let wsides := held.map (fun h => match h with
          | some x => wt.slotSide x.bytes
          | none => [])
        let act : Act := { x := at_.tf, tiles := acts.map (fun t => unpackTile at_.tf t.bytes), masks := acts.map (·.st.mask) }
        let sides := acts.map (fun t => (at_.slotSide t.bytes, t.st.part))
        let n := if count = 0 then 64 else count
        let first := if count = 0 then (acts.headD { st := {}, bytes := [] }).st.first else r.first
        let fed := (List.range n).filter (fun m => !act.gated n m)
        let rows := act.tiles.flatMap (fun t => fed.map (fun m => t.getD m ⟨[], [], []⟩))
        let w4 := w3.replaced (a.acc (r.desc + 1)) ((rows.map (fun q => at_.fmt.nonfinite q.codes)).sum)
          ((rows.map TileRow.badScales).sum)
        let w4 := if s.side then
            let ls := listedChannels sides act.x.width
            let bad := (wsides.map (sideMismatch sides ls)).sum
            let w4 := sides.foldl (fun w x => w.badList (a.acc (r.desc + 1)) (x.1.take 16)) w4
            let w4 := wsides.foldl (fun w x => w.badList (a.acc r.desc) (x.take 16)) w4
            let lost := sideReplaced sides ls wsides fed (!s.keep)
            let w4 := (w4.replaced (a.acc r.desc) lost.2 0).replaced (a.acc (r.desc + 1)) lost.1 0
            if bad = 0 then w4 else (w4.count a.core .gridOutlierMismatch bad).formatEvent (a.acc (r.desc + 1) |>.event 0)
          else w4
        let last := start + clkPerRow wt * n
        let w4 := w4.modCore a.core (fun c =>
          { c with gridNext := last, lastRow := s.arrays.foldl (fun m k => mset m 0 k last) c.lastRow })
        let w5 := w4.deliverAll p a (passRows act wt s wts sides wsides n start first)
        if count = 0 ∧ acts.any (·.st.last) then .fin w5 else .ok w5

/-- GRID PASS: one pass, or with COUNT 0 one for each slot that MERGE fills, up to the one tagged LAST (R575). -/
def passJob (p : Plan) (r : Rec) (a : At) : Job :=
  { n := if r.count = 0 then 2 ^ 24 else 1, unit := fun w _ _ => passUnit p r a r.count w
    times := fun w => w.passTimesAt p r a }

/-- GRID PASS. -/
def execPass (core idx : Nat) (env : Env) (s : State) : Host.Outcome State Fault Refusal :=
  .next { s with w := s.w.issue core idx env 3 1 passJob }

end Sys2Proof.Machine
end

