-- ==== Sys2Proof/Machine/Gap.lean ====
section
/-!
DEFINITION. Gap-coded operands (R535 to R539, R557), and the reads of a tile step that comes in several parts.
-/

namespace Sys2Proof.Machine

/-- Read number `k` of a tile step: it is past when the step has been resumed after a later one; otherwise it is made as
`reach` makes it, and waits for refresh; a wait for data is remembered with its number. -/
def Work.reachAt (w : Work) (fab : Fab) (a : At) (acc : Acc) (k : Nat) (rs : List (Nat × Nat)) (fresh : Bool) :
    Work × Option (Stall × List Nat) :=
  let ph := (w.progAt a).phase
  if k < ph then (w, none)
  else
    let r := w.reach fab acc rs (fresh && k == ph)
    match r.2 with
    | none => (r.1.readSlip a rs, none)
    | some x => (r.1.modCore a.core (fun c => c.modProg a.firing (fun y => { y with phase := k })), some x)

/-- A tile step is over: its reads start afresh. -/
def Work.endRead (w : Work) (a : At) : Work :=
  if (w.progAt a).phase = 0 then w
  else w.modCore a.core (fun c => c.modProg a.firing (fun y => { y with phase := 0 }))

/-- A row index entry: META_OFF, VAL_OFF, NNZ (R537). -/
structure RowEnt where
  off : Nat
  val : Nat
  nnz : Nat
  deriving DecidableEq, Repr

/-- The row index entry of row `r`. -/
def rowEnt (mt : Meta) (rd : Nat → Byte) (r : Nat) : RowEnt :=
  let n := leNat ((List.range 16).map (fun k => rd (mt.rowidx + 16 * r + k)))
  ⟨n % 2 ^ 48, n / 2 ^ 64 % 2 ^ 40, n / 2 ^ 104⟩

/-- What a walk over a row's codes finds: the positions of its values, the code after the last one read, and where the
row was cut short, if it was. -/
structure Walk where
  pos : List Nat
  next : Nat
  cut : Option Nat
  deriving DecidableEq, Repr

/-- The positions of a row's values, from code `m`, position `p` and value `j` on (R538, R557). Where the fuel of
`gapBound` runs out, `p` lies beyond S_0 with values still to come: whatever codes follow, the row is cut short.
DEDUCED (log 93). -/
def gapWalk (mt : Meta) (rd : Nat → Byte) (s0 nnz : Nat) : Nat → Nat → Nat → Nat → Walk
  | 0, m, p, _ => ⟨[], m, some p⟩
  | fuel + 1, m, p, j =>
    if nnz ≤ j then ⟨[], m, none⟩
    else if mt.bytes ≤ m then ⟨[], m, some p⟩
    else
      let g := (rd (mt.base + m)).toNat
      if g = 255 then gapWalk mt rd s0 nnz fuel (m + 1) (p + 255) j
      else if s0 ≤ p + g then ⟨[], m + 1, some (p + g)⟩
      else
        let r := gapWalk mt rd s0 nnz fuel (m + 1) (p + g + 1) (j + 1)
        { r with pos := (p + g) :: r.pos }

/-- A row of a gap-coded operand: its values' positions and codes, where it was cut short, and the runs of addresses
that its codes and values take. -/
structure GapRow where
  vals : List (Nat × Nat)
  cut : Option Nat
  runs : List (Nat × Nat)
  deriving DecidableEq, Repr

/-- The longest code stream of a row of `nnz` values. -/
def gapBound (s0 nnz : Nat) : Nat := nnz + s0 / 255 + 2

/-- Row `r` of a gap-coded operand. -/
def Tensor.gapRow (t : Tensor) (mt : Meta) (rd : Nat → Byte) (r : Nat) : GapRow :=
  let e := rowEnt mt rd r
  let w := gapWalk mt rd (t.s 0) e.nnz (gapBound (t.s 0) e.nnz) e.off 0 0
  let n := w.pos.length
  { vals := w.pos.zipIdx.map (fun x => (x.1, t.codeAt rd (e.val + x.2)))
    cut := w.cut
    runs := (if e.nnz = 0 then [] else [(mt.base + e.off, w.next - e.off)]) ++
      (if n = 0 then [] else [(t.addr e.val, t.addr (e.val + n - 1) + max 1 (t.fmt.bits / 8) - t.addr e.val)]) }

/-- Rows of a gap-coded operand read by a station: the row index entries, then codes and values, each read waiting as
`reachAt` says; `k` is the number of the first read. Index errors are counted (R557, R559), of the rows whose cut lies
where `here` says. -/
def Work.gapRows (w : Work) (fab : Fab) (p : Plan) (a : At) (desc k : Nat) (rows : List Nat) (here : Nat → Bool)
    (fresh : Bool) :
    Work × Except (Stall × List Nat) (List GapRow) :=
  let t := p.tensor desc
  let mt := p.sparseMeta t
  match w.reachAt fab a (a.acc desc) k (rows.map (fun r => (mt.rowidx + 16 * r, 16))) fresh with
  | (w1, some x) => (w1, .error x)
  | (w1, none) =>
    let gs := rows.map (t.gapRow mt w1.devByte)
    match w1.reachAt fab a (a.acc desc) (k + 1) (gs.flatMap (·.runs)) fresh with
    | (w2, some x) => (w2, .error x)
    | (w2, none) =>
      let gs := rows.map (t.gapRow mt w2.devByte)
      let bad := (rows.zip gs).filterMap (fun x => if x.2.cut.any here then some x.1 else none)
      (w2.indexErrors (a.acc desc) bad, .ok gs)

end Sys2Proof.Machine
end

