-- ==== Sys2Proof/Machine/Sweep.lean ====
section
/-!
DEFINITION. SWEEP MATVEC on dense, 2:4 and gap-coded weights (R446 to R459, R592 to R594).
-/

namespace Sys2Proof.Machine

/-- Activation tiles that a SWEEP's reduction needs (R451). -/
def sweepTiles (wt at_ : Tensor) : Nat := ceilDiv (wt.s 0) at_.fmt.tileWidth

/-- The weight elements that a SWEEP has read: for each output its elements over the whole reduction, and how far a group
reaches when neither operand is scaled. -/
structure SweepW where
  rows : List (List WElem)
  span : Nat

/-- The partials of one row and one output: groups over the reduction, exact (R382, R467, R468). -/
def sweepCol (a : Act) (wt : Tensor) (span m : Nat) (ws : List WElem) : List (Nat × Partial) :=
  let gs := passGroup a.x.g (if wt.sparse = 3 then 0 else wt.g) span
  let u := a.x.fmt.unit + wt.fmt.unit
  (List.range (ceilDiv (wt.s 0) gs)).map (fun g =>
    let here := ws.filter (fun e => g * gs ≤ e.pos ∧ e.pos < (g + 1) * gs)
    (min gs (wt.s 0 - g * gs), groupExact u (a.scale m (g * gs)) (here.headD ⟨0, 0, 127, 0⟩).e
      ((here.map (fun e => a.int m e.pos * e.k)).sum)))

/-- The deliveries of a SWEEP (R449, R457). -/
def sweepRows (a : Act) (wt : Tensor) (sw : SweepW) (count time : Nat) (first : Bool) : List Deliver :=
  (List.range count).flatMap (fun m => (List.range (ceilDiv sw.rows.length 64)).map (fun k =>
    { time := time, array := k, row := m, first := first, masked := a.masked m
      groups := joinCols (((sw.rows.drop (64 * k)).take 64).map (sweepCol a wt sw.span m)) }))

/-- The elements of the weight tiles of a dense or 2:4 descriptor by output, in order of the reduction. -/
def Plan.sweepDense (p : Plan) (t : Tensor) (rd : Nat → Byte) : List Nat × List (List WElem) × List TileRow :=
  let t0 := t.stored.t0 false
  let span := t.spanPos
  let tiles := (List.range (t0 * t.stored.t1 false)).map (fun i => (i, p.loadTile { t with outlier := false } false i true rd))
  let els := tiles.map (fun x => (t.welems x.2.2.2).map (·.map (fun e => { e with pos := e.pos + x.1 % t0 * span })))
  (tiles.flatMap (·.2.1),
   (List.range (min 256 (t.s 1))).map (fun n =>
     (List.range t0).flatMap (fun k => (els.getD (n / 64 * t0 + k) []).getD (n % 64) [])),
   tiles.flatMap (fun x => unpackTile t.stored.tf x.2.2.2))

/-- The in-bounds rows of a tile, and the in-bounds columns of its row 0. -/
def Tensor.inside (t : Tensor) (tr : Bool) (i : Nat) : Nat × Nat :=
  (((List.range 64).filter (fun m => (t.tileElem tr i m 0).isSome)).length,
   ((List.range t.tf.width).filter (fun j => (t.tileElem tr i 0 j).isSome)).length)

/-- The bytes of `n` weight elements in a SWEEP's stream, with their scale areas and codes, and nothing that lies between pitched
rows or out of bounds (R453, R455, R592). DEDUCED (log 70). -/
def Tensor.streamBytes (t : Tensor) (n : Nat) : Nat :=
  let y := t.stored
  let d := ceilDiv (n * y.fmt.bits) 8
  (if y.g = 0 then d
   else d / 2048 * (2048 + y.area) + (if d % 2048 = 0 then 0 else ceilDiv (d % 2048) 64 * 64 +
     scaleArea y.fmt (d % 2048 * 8 / y.fmt.bits / y.g))) +
  (if t.twoFour then ceilDiv n 4 else 0)

/-- The weight bytes that come before tile `i` in a SWEEP's stream. -/
def Tensor.sweepAhead (t : Tensor) (i : Nat) : Nat :=
  t.streamBytes ((List.range i).map (fun k => let x := t.stored.inside false k
                                              x.1 * x.2)).sum

/-- Bytes of a SWEEP's weights, those that it reads (R455, R461, R592). -/
def Tensor.sweepBytes (t : Tensor) : Nat := t.sweepAhead (t.stored.t0 false * t.stored.t1 false)

/-- The weights of a SWEEP, read: a wait, or the state after, the elements, and the bytes read (R455). -/
def Work.sweepRead (w : Work) (fab : Fab) (p : Plan) (a : At) (r : Rec) (fresh : Bool) :
    Work × Except (Stall × List Nat) (SweepW × Nat) :=
  let t := p.tensor r.desc
  let acc := a.acc r.desc
  if t.sparse = 3 then
    match w.gapRows fab p a r.desc 0 (List.range (min 256 (t.s 1))) (fun _ => true) fresh with
    | (w1, .error x) => (w1, .error x)
    | (w1, .ok gs) =>
      let bytes := 16 * gs.length + (gs.map (fun g => (g.runs.map (·.2)).sum)).sum
      let nf := (gs.map (fun g => t.fmt.nonfinite (g.vals.map (·.2)))).sum
      (w1.replaced acc nf 0, .ok (⟨gs.map (fun g => g.vals.map (fun v => ⟨v.1, t.fmt.int v.2, 127, v.2⟩)),
        t.fmt.tileWidth⟩, bytes))
  else
    let n := t.stored.t0 false * t.stored.t1 false
    let addrs := (List.range n).flatMap (fun i => p.loadAddrs { t with outlier := false } false i true)
    match w.reach fab acc addrs fresh with
    | (w1, some x) => (w1, .error x)
    | (w1, none) =>
      let x := p.sweepDense t w1.devByte
      let w2 := w1.indexErrors acc x.1
      let w2 := w2.replaced acc ((x.2.2.map (fun q => t.fmt.nonfinite q.codes)).sum) ((x.2.2.map TileRow.badScales).sum)
      (w2, .ok (⟨x.2.1, t.spanPos⟩, t.sweepBytes))

/-- Bytes per clk of the weight stream (R455). -/
def Plan.sweepRate (p : Plan) : Nat := if p.clockSel = 0 then 156 else 186

/-- Clk from the issue of a SWEEP until its result is complete (R24, R455, R592).
DEDUCED (log 70). -/
def Plan.sweepTime (p : Plan) (r : Rec) : Nat :=
  let t := p.tensor r.desc
  let macs := r.count * t.s 0 * t.s 1 / (if t.twoFour then 2 else 1)
  max (ceilDiv macs (if t.fmt.bits = 4 then 4096 else 2048)) (520 + ceilDiv t.sweepBytes p.sweepRate)

/-- The times of a SWEEP (R24, R359, R451): its activation tiles stand in the ring for the whole of it. -/
def Plan.sweepTimes (p : Plan) (r : Rec) (lag : Lags) : Times :=
  let n := sweepTiles (p.tensor r.desc) (p.tensor (r.desc + 1))
  let len := p.sweepTime r + lag.most r.srcA n
  { free := some len, uses := (List.range n).map (fun _ => ⟨r.srcA, false, 0, len, len⟩), ends := len }

/-- The times of a SWEEP that issues: its reads wait for refresh (R149), and its partials for the DRAIN before it (R445).
Those of gap-coded weights depend on the data (R592). -/
def Work.sweepTimesAt (w : Work) (p : Plan) (r : Rec) (a : At) : Times :=
  let t := p.tensor r.desc
  if t.sparse = 3 then {}
  else
    let x := p.sweepTimes r (w.lags p a.core)
    let y : Tensor := { t with outlier := false }
    let n := t.stored.t0 false * t.stored.t1 false
    let q := p.sweepRate
    let z := w.withRefresh p r a q (fun i => p.loadAddrs y false i true)
      { uses := (List.range n).map (fun i => ⟨0, false, y.sweepAhead i / q, 0, 0⟩) }
    let len := x.ends + z.waits
    let dw := w.readWait p a.core a.firing r (a.time + len)
    { free := some (len + dw), ends := len + dw, waits := z.waits + dw
      uses := x.uses.map (fun u => { u with fin := len + dw }) }

/-- The clk of a gap-coded SWEEP's products: in each window of 32 positions of a row at least two (R594). -/
def gapMacs (t : Tensor) (count : Nat) (rows : List (List WElem)) : Nat :=
  let pairs := (rows.map (fun r => ((List.range (ceilDiv (t.s 0) 32)).map (fun k =>
    max 2 (r.filter (fun e => e.pos / 32 = k)).length)).sum)).sum
  ceilDiv (count * pairs) (if t.fmt.bits = 4 then 4096 else 2048)

/-- The whole of a SWEEP. The activation tiles stay in the ring until it retires (R451). -/
def sweepUnit (fab : Fab) (p : Plan) (r : Rec) (a : At) (w : Work) (fresh : Bool) : UnitRes :=
  let wt := p.tensor r.desc
  let at_ := p.tensor (r.desc + 1)
  if w.orderWait p a.core a.firing r then .wait w .order []
  else match w.peekAll p a r.srcA at_.slotUse 0 (sweepTiles wt at_) with
    | .error x => .wait w x []
    | .ok (w1, acts) =>
      match w1.sweepRead fab p a r fresh with
      | (w2, .error x) => .wait w2 x.1 x.2
      | (w2, .ok (sw, bytes)) =>
        let act : Act := { x := at_.tf, tiles := acts.map (fun t => unpackTile at_.tf t.bytes), masks := acts.map (·.st.mask) }
        let rows := act.tiles.flatMap (fun t => t.take r.count)
        let w3 := w2.replaced (a.acc (r.desc + 1)) ((rows.map (fun q => at_.fmt.nonfinite q.codes)).sum)
          ((rows.map TileRow.badScales).sum)
        let w3 := (w3.count a.core .sweepBytes bytes).endRead a
        let u := w3.useOf a false r.srcA 0
        let done := if wt.sparse = 3 then
            u.start + ((w3.progAt a).ends - (w1.progAt a).ends) + max (gapMacs wt r.count sw.rows) (520 + ceilDiv bytes p.sweepRate) + (w3.lags p a.core).most r.srcA (sweepTiles wt at_)
          else u.fin
        let w3 := w3.keepTiles p a r.srcA 0 (sweepTiles wt at_) u.start (some done)
        .ok (w3.deliverAll p a (sweepRows act wt sw r.count done r.first))

/-- SWEEP MATVEC. -/
def sweepJob (fab : Fab) (p : Plan) (r : Rec) (a : At) : Job :=
  { n := 1, unit := fun w _ fresh => sweepUnit fab p r a w fresh, times := fun w => w.sweepTimesAt p r a }

/-- SWEEP MATVEC. -/
def execMatvec (core idx : Nat) (env : Env) (s : State) : Host.Outcome State Fault Refusal :=
  .next { s with w := s.w.issue core idx env 4 1 (sweepJob s.fab) }

end Sys2Proof.Machine
end

