-- ==== Sys2Proof/Machine/Items.lean ====
section
/-!
DEFINITION. Elastic firings over work lists (R70, R77, R563): taking items, working through one, and what an item's
retirement does.
-/

namespace Sys2Proof.Machine

/-- The work on one item: from the plan, the record, the place, the state, the item's number and its bits. -/
abbrev ItemJob := Plan → Rec → At → Work → Nat → W512 → Job

/-- The list that PARAM names, with its next untaken and its count of retired items. -/
def SecRun.list? (s : SecRun) (l : Nat) : Option (Nat × Nat × Nat) := s.lists.find? (·.1 = l)

/-- A list's state changed. -/
def SecRun.modList (s : SecRun) (l : Nat) (f : Nat × Nat → Nat × Nat) : SecRun :=
  { s with lists := s.lists.map (fun x => if x.1 = l then (l, f x.2) else x) }

/-- The items of a list. -/
def Plan.items (p : Plan) (l : Nat) : List W512 := (p.lists.getD l ⟨0, []⟩).items

/-- The next untaken item of the list a firing works through. -/
def Work.nextItem (w : Work) (p : Plan) (core idx : Nat) (r : Rec) : Option (Nat × Nat) :=
  match (p.core core).sectionOf idx with
  | none => none
  | some n =>
    match w.run.sec? n with
    | none => none
    | some s =>
      match s.list? r.param with
      | none => none
      | some (_, next, _) => if next < (p.items r.param).length then some (n, next) else none

/-- The firing takes the next untaken item of its list; with none left its work is done (R70). -/
def Work.takeItem (w : Work) (p : Plan) (core idx : Nat) (r : Rec) : Work :=
  match w.nextItem p core idx r with
  | none => w.modCore core (fun c => c.modProg idx (fun x => { x with done := true, doneAt := w.now w.cad.offset.toNat }))
  | some (n, k) =>
    let w := { w with run := w.run.modSec n (fun s => s.modList r.param (fun x => (x.1 + 1, x.2))) }
    w.modCore core (fun c => c.modProg idx (fun x => { x with item := some (r.param, k), pos := 0 }))

/-- The item in progress of a firing has retired; the work is done when the list holds no untaken item (R70). -/
def Work.retireItem (w : Work) (p : Plan) (core idx : Nat) (r : Rec) : Work :=
  let w := match (p.core core).sectionOf idx with
    | some n => { w with run := w.run.modSec n (fun s => s.modList r.param (fun x => (x.1, x.2 + 1))) }
    | none => w
  let none? := (w.nextItem p core idx r).isNone
  w.modCore core (fun c => c.modProg idx (fun x =>
    { x with item := none, pos := 0, stall := none, cause := none, held := [], walk := [], done := none? && x.tags.isEmpty
             doneAt := w.now w.cad.offset.toNat }))

/-- A firing goes on with the item in progress; a finished item retires. -/
def Work.workItem (w : Work) (p : Plan) (r : Rec) (a : At) (ij : ItemJob) : Work :=
  match (w.core a.core).progOf a.firing with
  | none => w
  | some x =>
    match x.item with
    | none => w
    | some (l, k) =>
      let j := ij p r a w k ((p.items l).getD k 0)
      let w := w.advance a.core a.firing j
      let y := w.progAt a
      if y.stall.isNone ∧ j.n ≤ y.pos ∧ y.tags.isEmpty then w.retireItem p a.core a.firing r else w

/-- An elastic MERGE or ATTEND firing issues, when it may, takes its first item and works on it. -/
def Work.issueItems (w : Work) (core idx : Nat) (env : Env) (station op : Nat)
    (onTake : Plan → Rec → At → W512 → Work → Work) (ij : ItemJob) : Work :=
  match w.plan with
  | none => w
  | some p =>
    match p.firing? core idx with
    | none => w
    | some r =>
      let r : Rec := r
      if r.station = station ∧ r.op = op ∧ w.issuable p core idx r env.clk then
        let a : At := { core := core, firing := idx, time := w.now env.clk }
        let w := (w.start core idx r env {}).takeItem p core idx r
        let w := match (w.progAt a).item with
          | some (l, k) => onTake p r a ((p.items l).getD k 0) w
          | none => w
        w.workItem p r a ij
      else w

end Sys2Proof.Machine
end

