-- ==== Sys2Proof/Machine/Merge.lean ====
section
/-!
DEFINITION. The MERGE station: DECODE, COMPACT, LANE_MAC and INTERSECT (R562 to R590), its pieces, lane queues and
stealing.
-/

namespace Sys2Proof.Machine

/-! ### Work items (R563) -/

/-- A MERGE work item. -/
abbrev MItem := W512

/-- DESC_A. -/
def MItem.descA (i : MItem) : Nat := bits i 11 0
/-- DESC_B. -/
def MItem.descB (i : MItem) : Nat := bits i 23 12
/-- ROW0. -/
def MItem.row0 (i : MItem) : Nat := bits i 47 24
/-- The number of rows, or of tiles for DECODE. -/
def MItem.rows (i : MItem) : Nat := bits i 53 48 + 1
/-- The arrays that COMPACT gathers for: one, two or four. -/
def MItem.arrays (i : MItem) : Nat := 2 ^ bits i 55 54
/-- ARRAY. -/
def MItem.array (i : MItem) : Nat := bits i 57 56
/-- NOSTEAL. -/
def MItem.noSteal (i : MItem) : Bool := bit i 58
/-- COL0. -/
def MItem.col0 (i : MItem) : Nat := bits i 87 64
/-- The number of output columns. -/
def MItem.cols (i : MItem) : Nat := bits i 93 88 + 1
/-- KBASE. -/
def MItem.kbase (i : MItem) : Nat := bits i 127 96
/-- OUT_STREAM. -/
def MItem.out (i : MItem) : Nat := bits i 133 128

/-- Whether an item is the last of its list. DEDUCED (log 93). -/
def Plan.lastItem (p : Plan) (r : Rec) (k : Nat) : Bool := (p.items r.param).length ≤ k + 1

/-! ### DECODE (R566 to R568) -/

/-- The dense row that a kept row stands for: half h of its two dense tiles (R566, R567). -/
def denseRow (t : Tensor) (r : TileRow) (cs : List Nat) (h : Nat) : TileRow :=
  let w := t.fmt.tileWidth
  let full := (List.range w).foldl (fun (l : List Nat) q => setAt l (4 * (q / 2) + cs.getD q 0) (r.codes.getD q 0))
    (List.replicate (2 * w) 0)
  let n := t.tf.rowGroups
  let pick (l : List Nat) : List Nat := (List.range n).map (fun k => l.getD ((w * h + k * t.g) / t.g) 127)
  { codes := (full.drop (w * h)).take w, scales := if t.g = 0 then [] else pick r.scales
    zps := if t.fmt.zp then pick r.zps else [] }

/-- The dense tile of a gap-coded tile: code zero at every absent position. -/
def gapTile (t : Tensor) (t0 : Nat) (rows : List (Option GapRow)) : List TileRow :=
  let w := t.fmt.tileWidth
  rows.map (fun r => match r with
    | none => { codes := List.replicate w 0 }
    | some g => 
      let here := g.vals.filter (fun v => v.1 / w = t0)
      { codes := here.foldl (fun l v => setAt l (v.1 % w) v.2) (List.replicate w 0) })

/-- The in-bounds rows of the 64 of a tile. -/
def Tensor.rowMask (t : Tensor) (i : Nat) : W64 :=
  BitVec.ofNat 64 (((List.range 64).map (fun m => if (t.stored.tileElem false i m 0).isSome then 2 ^ m else 0)).sum)

/-- The in-bounds rows of the 64 from row number `r` on (R536, R572). -/
def Tensor.maskFrom (t : Tensor) (r : Nat) : W64 := BitVec.ofNat 64 (2 ^ min 64 (t.outputs - r) - 1)

/-- DECODE of tile `i`, dense half `h`; a gap-coded tile has one dense tile, a 2:4 tile two.
DEDUCED (log 93). -/
def decodeUnit (fab : Fab) (p : Plan) (r : Rec) (a : At) (it : MItem) (i h : Nat) (first last : Bool) (w : Work)
    (fresh : Bool) : UnitRes :=
  let t := p.tensor it.descA
  let dense := { t with sparse := 0, outlier := false }
  let part := (t.firstPos false i + t.fmt.tileWidth * h) % 128
  let st : SlotSt := { mask := t.rowMask i, first := first, last := last, part := part }
  match w.room p a r.dst 0 dense.slotUse with
  | some x => .wait w x []
  | none =>
    if t.twoFour then
      match w.reachAt fab a (a.acc it.descA) 0 (if h = 0 then p.loadAddrs { t with outlier := false } false i false else []) fresh with
      | (w1, some x) => .wait w1 x.1 x.2
      | (w1, none) =>
        let tile := t.stored.readTile false i w1.devByte
        let codes := t.readCodes (p.sparseMeta t).base false i w1.devByte
        let chk := t.checkTile codes
        let w1 := if h = 0 then w1.indexErrors (a.acc it.descA) (chk.2.map (t.stored.rowNumber false i ·)) else w1
        let rows := tile.rows.zipIdx.map (fun x =>
          denseRow t (x.1.cutRow t.stored.tf (chk.1.getD x.2 0)) (cutPos (codes.getD x.2 []) (chk.1.getD x.2 0)) h)
        .ok ((w1.endRead a).push p a r.dst st (packTile dense.tf rows))
    else
      let ms := (List.range 64).filter (fun m => (t.tileElem false i m 0).isSome)
      let t0 := i % t.t0 false
      let here (x : Nat) : Bool := min (x / t.fmt.tileWidth) (t.t0 false - 1) = t0
      match w.gapRows fab p a it.descA 0 (ms.map (t.rowNumber false i ·)) here fresh with
      | (w1, .error x) => .wait w1 x.1 x.2
      | (w1, .ok gs) =>
        let rows := (List.range 64).map (fun m => if m ∈ ms then gs[ms.idxOf m]? else none)
        .ok ((w1.endRead a).push p a r.dst st (packTile dense.tf (gapTile t t0 rows)))

/-- The work on a DECODE item. -/
def decodeItem (fab : Fab) : ItemJob := fun p r a _ k it =>
  let it : MItem := it
  let per := if (p.tensor it.descA).twoFour then 2 else 1
  let n := it.rows * per
  { n := n
    unit := fun w j fresh => decodeUnit fab p r a it (it.row0 + j / per) (j % per) (j == 0)
      (p.lastItem r k && j + 1 == n) w fresh }

/-! ### COMPACT (R569 to R574) -/

/-- A chunk of a panel: the panel's number and the chunk's positions. -/
structure Chunk where
  panel : Nat
  pos : List Nat
  deriving DecidableEq, Repr

/-- The union of two ascending lists of positions, `n` at least the sum of their lengths. -/
def mergePos : Nat → List Nat → List Nat → List Nat
  | 0, _, _ => []
  | _ + 1, [], bs => bs
  | _ + 1, as, [] => as
  | n + 1, a :: as, b :: bs =>
    if a < b then a :: mergePos n as (b :: bs)
    else if b < a then b :: mergePos n (a :: as) bs
    else a :: mergePos n as bs

/-- The union of ascending lists of positions, in ascending order (R571). -/
def unionPos (ls : List (List Nat)) : List Nat := ls.foldr (fun a r => mergePos (a.length + r.length) a r) []

/-- The chunks of an item's panels (R571); a panel with no values has none (R574). -/
def compactChunks (gs : List GapRow) : List Chunk :=
  (chunksOf 8 8 gs).zipIdx.flatMap (fun pn =>
    let u := unionPos (pn.1.map (fun g => g.vals.map (·.1)))
    (chunksOf 64 (u.length / 64 + 1) u).map (fun c => ⟨pn.2, c⟩))

/-- The rows of an item as memory holds them, without the effects of a read. -/
def Work.itemRows (w : Work) (p : Plan) (it : MItem) : List GapRow :=
  let t := p.tensor it.descA
  (List.range it.rows).map (fun i => t.gapRow (p.sparseMeta t) w.devByte (it.row0 + i))

/-- Whether no item after item `k` of the list has a value. -/
def Work.restEmpty (w : Work) (p : Plan) (r : Rec) (k : Nat) : Bool :=
  ((p.items r.param).drop (k + 1)).all (fun it => (compactChunks (w.itemRows p it)).isEmpty)

/-- The activation tile of a chunk (R572). -/
def chunkAct (gs : List GapRow) (c : Chunk) : List TileRow :=
  (List.range 64).map (fun m =>
    if m / 8 = c.panel % 8 then
      let vals := (gs.getD m ⟨[], none, []⟩).vals
      { codes := fit64 (c.pos.map (fun x => ((vals.find? (fun v => v.1 = x)).map (·.2)).getD 0)) }
    else { codes := fit64 [] })
where
  /-- Codes filled with zero codes to 64. -/
  fit64 (l : List Nat) : List Nat := l ++ List.replicate (64 - l.length) 0

/-- The weight tile of a chunk for array number `q`: `tiles` are the whole weight block (R570, R573). -/
def chunkWeights (wt : Tensor) (tiles : List Taken) (q : Nat) (c : Chunk) : List TileRow :=
  let t0 := wt.t0 false
  let rows := tiles.map (fun t => unpackTile wt.tf t.bytes)
  (List.range 64).map (fun j =>
    let l := c.pos.map (fun x => (((rows.getD (q * t0 + x / 64) []).getD j ⟨[], [], []⟩).codes.getD (x % 64) 0))
    { codes := l ++ List.replicate (64 - l.length) 0 })

/-- The tiles of B that LANE_MAC multiplies by: its columns' tiles along dimension 0, and all of them (R577). -/
def laneTiles (t : Tensor) (it : MItem) : Nat × Nat :=
  let w := t.fmt.tileWidth
  let n := (it.col0 + it.cols - 1) / w - it.col0 / w + 1
  (n, n * t.t1 false)

/-- The block of SRC_B that an item of COMPACT or LANE_MAC works from: its descriptor, its first column tile and its extent along
the columns, and its tiles (R570, R577). -/
def Plan.block (p : Plan) (op : Nat) (it : MItem) : (Nat × Nat × Nat) × Nat :=
  let t := p.tensor it.descB
  if op = 2 then ((it.descB, 0, it.arrays), t.t0 false * it.arrays)
  else ((it.descB, it.col0 / t.fmt.tileWidth, (laneTiles t it).1), (laneTiles t it).2)

/-- The blocks that stand in SRC_B for a firing's whole work list, in the order in which its items first name them.
DEDUCED (log 93). -/
def Plan.blocks (p : Plan) (r : Rec) : List ((Nat × Nat × Nat) × Nat) :=
  if r.op = 2 ∨ r.op = 4 then ((p.items r.param).map (p.block r.op)).reverse.dedup.reverse else []

/-- The tiles of SRC_B before an item's block. -/
def Plan.blockBase (p : Plan) (r : Rec) (it : MItem) : Nat :=
  (((p.blocks r).takeWhile (fun x => x ≠ p.block r.op it)).map (·.2)).sum

/-- Tiles of SRC_B that a MERGE firing keeps until it retires (R570, R577). -/
def mergeKeeps (p : Plan) (r : Rec) : Nat := ((p.blocks r).map (·.2)).sum

/-- The tiles of an item's block, which stand whole in SRC_B (R570, R577). -/
def Work.peekBlock (w : Work) (p : Plan) (a : At) (r : Rec) (it : MItem) : Except Stall (Work × List Taken) :=
  match w.peekAll p a r.srcB (p.tensor it.descB).slotUse (p.blockBase r it) (p.block r.op it).2 with
  | .error x => .error x
  | .ok (w1, ts) => .ok (w1.keepTiles p a r.srcB (p.blockBase r it) ts.length a.time none, ts)

/-- One act of a COMPACT item: the read of its rows, then for each chunk the activation tile and the weight tiles.
DEDUCED (log 93). -/
def compactUnit (fab : Fab) (p : Plan) (r : Rec) (a : At) (it : MItem) (k : Nat) (chunks : List Chunk) (w : Work) (j : Nat)
    (fresh : Bool) : UnitRes :=
  let wt := p.tensor it.descB
  if j = 0 then
    match w.peekBlock p a r it with
    | .error x => .wait w x []
    | .ok (w0, _) =>
      match w0.gapRows fab p a it.descA 0 ((List.range it.rows).map (· + it.row0)) (fun _ => true) fresh with
      | (w1, .error x) => .wait w1 x.1 x.2
      | (w1, .ok _) => .ok (w1.endRead a)
  else
    let per := 1 + it.arrays
    let n := (j - 1) / per
    let c := chunks.getD n ⟨0, []⟩
    let t := p.tensor it.descA
    let st : SlotSt := { mask := t.maskFrom it.row0, first := n == 0
                         last := n + 1 == chunks.length && w.restEmpty p r k }
    let q := (j - 1) % per
    if q = 0 then
      let dense := { t with sparse := 0, outlier := false }
      match w.room p a r.dst 0 dense.slotUse with
      | some x => .wait w x []
      | none => .ok (w.push p a r.dst st (packTile dense.tf (chunkAct (w.itemRows p it) c)))
    else
      match w.room p a it.out 0 wt.slotUse with
      | some x => .wait w x []
      | none =>
        match w.peekBlock p a r it with
        | .error x => .wait w x []
        | .ok (w1, tiles) =>
          let st := { st with mask := 0xFFFFFFFFFFFFFFFF, last := st.last && q + 1 == per }
          .ok (w1.push p a it.out st (packTile wt.tf (chunkWeights wt tiles (q - 1) c)))

/-- The work on a COMPACT item. -/
def compactItem (fab : Fab) : ItemJob := fun p r a w k it =>
  let it : MItem := it
  let chunks := compactChunks (w.itemRows p it)
  { n := 1 + chunks.length * (1 + it.arrays), unit := fun w j fresh => compactUnit fab p r a it k chunks w j fresh }

/-! ### Pieces (R580, R584) -/

/-- A run of consecutive values of a row within one piece. -/
abbrev Vals := List (Nat × Nat)

/-- The values of a row window by window: absolute positions 32w to 32w + 31. -/
def windowsOf (kbase : Nat) : Vals → List (Nat × Vals)
  | [] => []
  | v :: vs =>
    let k := (kbase + v.1) / 32
    match windowsOf kbase vs with
    | [] => [(k, [v])]
    | (x, l) :: rest => if x = k then (k, v :: l) :: rest else (k, [v]) :: (x, l) :: rest

/-- The segment of a window (R580). -/
def windowSeg (k : Nat) : Nat := 32 * k / 2 ^ 24

/-- Windows gathered into pieces, greedily: at most 256 values, within one segment (R584). `n` is the count of values of
the piece being formed, `acc` its windows. -/
def cutPieces : List (Nat × Vals) → Nat → List (Nat × Vals) → List (List (Nat × Vals))
  | [], _, acc => if acc.isEmpty then [] else [acc]
  | x :: xs, n, acc =>
    match acc.getLast? with
    | none => cutPieces xs x.2.length [x]
    | some y =>
      if n + x.2.length ≤ 256 ∧ windowSeg y.1 = windowSeg x.1 then cutPieces xs (n + x.2.length) (acc ++ [x])
      else acc :: cutPieces xs x.2.length [x]

/-- A value widened to BF16, infinities and NaN replaced (R177, R178, R576). -/
def laneVal (f : Fmt) (c : Nat) : Dyad := (finiteInput f (f.decode c)).dyad

/-- A piece's fields but for its number. -/
def mkPiece (a : At) (it : MItem) (row : Nat) (ws : List (Nat × Vals)) (parts : List LanePart) (products : Nat) : Piece :=
  { num := 0, firing := a.firing, row := rowKey it.array row, seg := windowSeg (ws.headD (0, [])).1
    noSteal := it.noSteal, parts := parts, products := products }

/-- The lane partials of a window: for each output column the products of its values (R580). -/
def windowParts (it : MItem) (row k : Nat) (prods : Nat → List Dyad) : List LanePart :=
  (List.range it.cols).filterMap (fun n =>
    let ps := prods n
    if ps.isEmpty then none
    else some { key := 64 * rowKey it.array row + n, p := group16 ps, n := 32, seg := windowSeg k })

/-- The pieces of a LANE_MAC item (R577, R579, R580, R584). -/
def lanePieces (p : Plan) (a : At) (it : MItem) (gs : List GapRow) (tiles : List Taken) : List Piece :=
  let fa := (p.tensor it.descA).fmt
  let tb := p.tensor it.descB
  let w := tb.fmt.tileWidth
  let nt := (laneTiles tb it).1
  let rows := tiles.map (fun t => unpackTile tb.tf t.bytes)
  let bAt (k n : Nat) : Dyad :=
    let c := it.col0 + n
    laneVal tb.fmt (((rows.getD (k / 64 * nt + (c / w - it.col0 / w)) []).getD (k % 64) ⟨[], [], []⟩).codes.getD (c % w) 0)
  gs.zipIdx.flatMap (fun g => (cutPieces (windowsOf it.kbase g.1.vals) 0 []).map (fun ws =>
    mkPiece a it g.2 ws
      (ws.flatMap (fun x => windowParts it g.2 x.1 (fun n => x.2.map (fun v => (laneVal fa v.2).mul (bAt v.1 n)))))
      (it.cols * ((ws.map (fun x => x.2.length)).sum))))

/-- The pieces of an INTERSECT item: in row order, then B-row order (R578, R584, R585). -/
def crossPieces (p : Plan) (a : At) (it : MItem) (gs bs : List GapRow) : List Piece :=
  let fa := (p.tensor it.descA).fmt
  let fb := (p.tensor it.descB).fmt
  gs.zipIdx.flatMap (fun g => bs.zipIdx.flatMap (fun b => (cutPieces (windowsOf it.kbase g.1.vals) 0 []).map (fun ws =>
    let hits (x : Nat × Vals) : List Dyad := x.2.filterMap (fun v =>
      (b.1.vals.find? (fun u => u.1 = v.1)).map (fun u => (laneVal fa v.2).mul (laneVal fb u.2)))
    mkPiece a it g.2 ws
      (ws.flatMap (fun x => windowParts it g.2 x.1 (fun n => if n = b.2 then hits x else [])))
      ((ws.map (fun x => (hits x).length)).sum))))

/-! ### Queues, lanes and stealing (R585 to R587) -/

/-- The queue of a lane. -/
def Core.queue (c : Core) (l : Nat) : List Piece := mget c.queues [] l

/-- The piece a lane works on. -/
def Core.lane (c : Core) (l : Nat) : Option Piece := mget c.lanes none l

/-- Every piece of the core that has not retired. -/
def Core.pieces (c : Core) : List Piece := c.dispatch ++ c.queues.flatMap (·.2) ++ c.lanes.filterMap (·.2)

/-- Whether a lane may start a piece: no unretired piece of its firing and tally row has a lower segment (R587). -/
def Core.mayStart (c : Core) (x : Piece) : Bool :=
  c.pieces.all (fun y => !(y.firing = x.firing ∧ y.row = x.row ∧ y.seg < x.seg))

/-- A lane without a piece starts the one at the front of its queue, when it may. -/
def Core.startLane (c : Core) (l : Nat) : Core :=
  match c.lane l, c.queue l with
  | none, x :: rest =>
    if c.mayStart x then { c with lanes := mset c.lanes none l (some x), queues := mset c.queues [] l rest } else c
  | _, _ => c

/-- The dispatcher places its next piece into the queue of lane i mod 64, unless that holds 16 (R585). -/
def Core.placeNext (c : Core) : Core :=
  match c.dispatch with
  | [] => c
  | x :: rest =>
    let l := x.num % 64
    if (c.queue l).length < 16 then { c with dispatch := rest, queues := mset c.queues [] l (c.queue l ++ [x]) } else c

/-- The dispatcher and the lanes run until nothing moves; `n` bounds the rounds.
DESIGN CHOICE (log 94). -/
def Core.pump : Nat → Core → Core
  | 0, c => (List.range 64).foldl Core.startLane c
  | n + 1, c => Core.pump n ((List.range 64).foldl Core.startLane c).placeNext

/-- Pieces handed to the dispatcher, numbered on from those of the firing before (R585). -/
def Core.dispatchAll (c : Core) (base : Nat) (ps : List Piece) : Core :=
  Core.pump ps.length { c with dispatch := c.dispatch ++ ps.zipIdx.map (fun x => { x.1 with num := base + x.2 }) }

/-- The neighbours whose queues an idle lane examines, in order (R586). -/
def neighbours (l : Nat) : List Nat := [l + 1, l + 63, l + 2, l + 62, l + 3, l + 61, l + 4, l + 60].map (· % 64)

/-- The newest piece of a queue that may be stolen, when at least two may. -/
def stealable (q : List Piece) : Option Piece :=
  let l := q.filter (fun x => !x.noSteal)
  if 2 ≤ l.length then l.getLast? else none

/-- A steal by an idle lane (R586). DESIGN CHOICE (log 94). -/
def Core.steal (c : Core) (l : Nat) : Option Core :=
  if (c.lane l).isSome ∨ !(c.queue l).isEmpty then none
  else (neighbours l).findSome? (fun n => (stealable (c.queue n)).map (fun x =>
    let c := { c with queues := mset c.queues [] n ((c.queue n).erase x) }
    Core.pump c.dispatch.length { c with queues := mset c.queues [] l [x] }))

/-- A lane's piece retires: its partials reach the tally, its products count (R583, R587). -/
def Core.retirePiece (p : Plan) (c : Core) (l : Nat) (x : Piece) : Core :=
  let c := x.parts.foldl (Core.addLane p) c
  let c := { c with lanes := mset c.lanes none l none }
  Core.pump c.dispatch.length (c.count .mergeProducts x.products)

/-! ### LANE_MAC and INTERSECT items -/

/-- The pieces of a firing's earlier items number on; the count is kept as the firing's tile steps. -/
def Work.pieceBase (w : Work) (a : At) : Nat := (w.progAt a).tokens

/-- An item's pieces handed to the lanes. -/
def Work.handOut (w : Work) (a : At) (ps : List Piece) : Work :=
  let base := w.pieceBase a
  w.modCore a.core (fun c => (c.dispatchAll base ps).modProg a.firing (fun x => { x with tokens := base + ps.length }))

/-- The wait for the pieces of a firing. -/
def waitPieces (a : At) (w : Work) : UnitRes :=
  if (w.core a.core).pieces.any (fun x => x.firing = a.firing) then .wait w .engine [] else .ok w

/-- Replaced values of gap-coded rows (R179). -/
def Work.replacedRows (w : Work) (acc : Acc) (f : Fmt) (gs : List GapRow) : Work :=
  w.replaced acc ((gs.map (fun g => f.nonfinite (g.vals.map (·.2)))).sum) 0

/-- LANE_MAC of an item: its rows read and cut into pieces, then the wait for them; B's values are met with the first item
that names the block. DEDUCED (log 93); DESIGN CHOICE (log 86). -/
def laneUnit (fab : Fab) (p : Plan) (r : Rec) (a : At) (k : Nat) (it : MItem) (w : Work) (j : Nat) (fresh : Bool) : UnitRes :=
  if j = 0 then
    let tb := p.tensor it.descB
    match w.peekBlock p a r it with
    | .error x => .wait w x []
    | .ok (w0, tiles) =>
      match w0.gapRows fab p a it.descA 0 ((List.range it.rows).map (· + it.row0)) (fun _ => true) fresh with
      | (w1, .error x) => .wait w1 x.1 x.2
      | (w1, .ok gs) =>
        let w1 := w1.replacedRows (a.acc it.descA) (p.tensor it.descA).fmt gs
        let bs := tiles.flatMap (fun t => unpackTile tb.tf t.bytes)
        let again := ((p.items r.param).take k).any (fun x => p.block r.op x = p.block r.op it)
        let w1 := if again then w1 else w1.replaced (a.acc it.descB) ((bs.map (fun q => tb.fmt.nonfinite q.codes)).sum) 0
        .ok ((w1.endRead a).handOut a (lanePieces p a it gs tiles))
  else waitPieces a w

/-- INTERSECT of an item: the rows of both operands read and cut into pieces, then the wait for them.
DEDUCED (log 93). -/
def crossUnit (fab : Fab) (p : Plan) (a : At) (it : MItem) (w : Work) (j : Nat) (fresh : Bool) : UnitRes :=
  if j = 0 then
    match w.gapRows fab p a it.descA 0 ((List.range it.rows).map (· + it.row0)) (fun _ => true) fresh with
    | (w1, .error x) => .wait w1 x.1 x.2
    | (w1, .ok gs) =>
      match w1.gapRows fab p a it.descB 2 ((List.range it.cols).map (· + it.col0)) (fun _ => true) fresh with
      | (w2, .error x) => .wait w2 x.1 x.2
      | (w2, .ok bs) =>
        let w2 := w2.replacedRows (a.acc it.descA) (p.tensor it.descA).fmt gs
        let w2 := w2.replacedRows (a.acc it.descB) (p.tensor it.descB).fmt bs
        .ok ((w2.endRead a).handOut a (crossPieces p a it gs bs))
  else waitPieces a w

/-- The work on a LANE_MAC item. -/
def laneItem (fab : Fab) : ItemJob := fun p r a _ k it => { n := 2, unit := fun w j fresh => laneUnit fab p r a k it w j fresh }

/-- The work on an INTERSECT item. -/
def crossItem (fab : Fab) : ItemJob := fun p _ a _ _ it => { n := 2, unit := fun w j fresh => crossUnit fab p a it w j fresh }

/-- MERGE takes an item without more ado. -/
def noTake : Plan → Rec → At → W512 → Work → Work := fun _ _ _ _ w => w

/-- MERGE DECODE. -/
def execDecode (core idx : Nat) (env : Env) (s : State) : Host.Outcome State Fault Refusal :=
  .next { s with w := s.w.issueItems core idx env 2 1 noTake (decodeItem s.fab) }

/-- MERGE COMPACT. -/
def execCompact (core idx : Nat) (env : Env) (s : State) : Host.Outcome State Fault Refusal :=
  .next { s with w := s.w.issueItems core idx env 2 2 noTake (compactItem s.fab) }

/-- MERGE INTERSECT. -/
def execIntersect (core idx : Nat) (env : Env) (s : State) : Host.Outcome State Fault Refusal :=
  .next { s with w := s.w.issueItems core idx env 2 3 noTake (crossItem s.fab) }

/-- MERGE LANE_MAC. -/
def execLaneMac (core idx : Nat) (env : Env) (s : State) : Host.Outcome State Fault Refusal :=
  .next { s with w := s.w.issueItems core idx env 2 4 noTake (laneItem s.fab) }

/-- MERGE_PIECE_STEAL: an idle lane steals (R586). DESIGN CHOICE (log 94). -/
def execMergePieceSteal (core lane : Nat) (s : State) : Host.Outcome State Fault Refusal :=
  .next { s with w := s.w.modCore core (fun c => match c.steal lane with
    | some c1 => c1.count .mergeSteal 1
    | none => c) }

end Sys2Proof.Machine
end

