-- ==== Sys2Proof/Machine/Attend.lean ====
section
/-!
DEFINITION. ATTEND: FORWARD and BACKWARD over work items (R598 to R651): the page walk, the masks, the online softmax,
the gradients, and what it leaves in the tallies.
-/

namespace Sys2Proof.Machine

/-! ### Items (R601 to R606) -/

/-- An ATTEND item. -/
abbrev AItem := W512

/-- Q_DESC. -/
def AItem.q (x : AItem) : Nat := bits x 11 0
/-- OUT_DESC: the output, or dO. -/
def AItem.out (x : AItem) : Nat := bits x 23 12
/-- KV_DESC. -/
def AItem.kv (x : AItem) : Nat := bits x 35 24
/-- STAT_DESC. -/
def AItem.stat (x : AItem) : Nat := bits x 47 36
/-- SEQ_SLOT, a batch position (R671). -/
def AItem.seq (x : AItem) : Nat := bits x 63 48
/-- Query heads. -/
def AItem.heads (x : AItem) : Nat := bits x 69 64 + 1
/-- Query tokens. -/
def AItem.toks (x : AItem) : Nat := bits x 75 70 + 1
/-- Rows R (R602). -/
def AItem.rows (x : AItem) : Nat := x.heads * x.toks
/-- KV_HEAD. -/
def AItem.kvHead (x : AItem) : Nat := bits x 83 76
/-- HEAD0. -/
def AItem.head0 (x : AItem) : Nat := bits x 91 84
/-- TOK0. -/
def AItem.tok0 (x : AItem) : Nat := bits x 115 92
/-- QPOS0. -/
def AItem.pos0 (x : AItem) : Nat := bits x 147 116
/-- MASS_EN. -/
def AItem.mass (x : AItem) : Bool := bit x 151
/-- PAGED. -/
def AItem.paged (x : AItem) : Bool := bit x 152
/-- SCALE. -/
def AItem.scale (x : AItem) : FVal := fp32 (BitVec.ofNat 32 (bits x 191 160))
/-- BS_BITS. -/
def AItem.bsBits (x : AItem) : Nat := bits x 255 232
/-- BS_BASE. -/
def AItem.bsBase (x : AItem) : Nat := bits x 311 256
/-- MASS_BASE. -/
def AItem.massBase (x : AItem) : Nat := bits x 375 320
/-- LEN. -/
def AItem.len (x : AItem) : Nat := bits x 415 384
/-- GRAD_DESC. -/
def AItem.grad (x : AItem) : Nat := bits x 427 416
/-- O_DESC. -/
def AItem.o (x : AItem) : Nat := bits x 439 428
/-- QBLOCKS. -/
def AItem.blocks (x : AItem) : Nat := bits x 455 440
/-- PAGE0. -/
def AItem.page0 (x : AItem) : Nat := bits x 479 456

/-- The index of element `d` of row `r` of query block `b` in a descriptor of rank 3 (R604, R647). -/
def AItem.at (x : AItem) (b r d : Nat) : List Nat :=
  [d, x.head0 + r % x.heads, x.tok0 + b * x.toks + r / x.heads, 0, 0, 0]

/-- The index of row `r` of query block `b` in the row statistic. -/
def AItem.statAt (x : AItem) (b r : Nat) : List Nat :=
  [x.head0 + r % x.heads, x.tok0 + b * x.toks + r / x.heads, 0, 0, 0, 0]

/-- The query position of row `r` of block `b` (R602, R647). -/
def AItem.qpos (x : AItem) (b r : Nat) : Nat := x.pos0 + b * x.toks + r / x.heads

/-- Whether an index is in bounds. -/
def Tensor.inb (t : Tensor) (i : List Nat) : Bool := (List.range 6).all (fun k => decide (i.getD k 0 < t.s k))

/-! ### Reading rows -/

/-- A row read: its codes, and the scale byte of its group. -/
structure KRow where
  codes : List Nat
  scale : Nat := 127
  deriving DecidableEq, Repr

/-- The code at an index, the fill code when it is out of bounds (R606). -/
def Tensor.readAt (t : Tensor) (rd : Nat → Byte) (i : List Nat) : Nat :=
  if t.inb i then t.codeAt rd (t.elem i) else t.fillCode

/-- The 128 elements of a row, `f` giving each element's index. -/
def Tensor.readRow (t : Tensor) (rd : Nat → Byte) (f : Nat → List Nat) : KRow :=
  { codes := (List.range 128).map (fun d => t.readAt rd (f d))
    scale := if t.g ≠ 0 ∧ t.inb (f 0) then (rd (t.scaleAddr (t.elem (f 0))).1).toNat else 127 }

/-- The addresses that a row is read from. -/
def Tensor.rowRuns (t : Tensor) (f : Nat → List Nat) : List (Nat × Nat) :=
  let b := t.fmt.bits / 8
  runs (((List.range 128).filter (fun d => t.inb (f d))).flatMap (fun d =>
      (List.range (max 1 b)).map (fun k => t.addr (t.elem (f d)) + k))) ++
    (if t.g ≠ 0 ∧ t.inb (f 0) then [((t.scaleAddr (t.elem (f 0))).1, 1)] else [])

/-- An element widened to BF16: infinities and NaN replaced, the scale applied, zero under scale byte 0xFF (R177, R178,
R184, R611). -/
def widen (f : Fmt) (scale c : Nat) : Dyad :=
  if scale = 255 then ⟨0, 0⟩
  else
    let v := finiteInput f (f.decode c)
    if f = .bf16 then v.dyad
    else (Fmt.bf16.decode (Fmt.bf16.conv (v.shift ((scale : Int) - 127))).code).dyad

/-- A row as GRID takes it. -/
def KRow.dyads (r : KRow) (f : Fmt) : List Dyad := r.codes.map (widen f r.scale)

/-- A row of zeros. -/
def zeroRow : List Dyad := List.replicate 128 ⟨0, 0⟩

/-- The counts of replaced inputs of rows of a descriptor (R633). DESIGN CHOICE (log 86). -/
def Work.replacedK (w : Work) (acc : Acc) (f : Fmt) (rs : List KRow) : Work :=
  w.replaced acc ((rs.map (fun r => if r.scale = 255 then 0 else f.nonfinite r.codes)).sum)
    ((rs.filter (fun r => r.scale = 255)).length)

/-! ### Pages -/

/-- A page of a walk: its ordinal, its first position, the layouts of its keys and values, and the head's index in them
(none in a Cumulus page). `ok` is false for an index error (R617, R668), `here` false while it is not resident. -/
structure PageSrc where
  ord : Nat
  first : Nat
  k : Tensor
  v : Tensor
  head : Option Nat
  ok : Bool := true
  here : Bool := true
  deriving DecidableEq, Repr

/-- The index of element `d` of token row `j` of a page (R608, R610). -/
def PageSrc.at (s : PageSrc) (j d : Nat) : List Nat :=
  match s.head with
  | some h => [d, h, s.first + j, 0, 0, 0]
  | none => [d, j, 0, 0, 0, 0]

/-- The page of an unpaged item. -/
def AItem.flatPage (x : AItem) (p : Plan) (n : Nat) : PageSrc :=
  { ord := n, first := 64 * n, k := p.tensor x.kv, v := p.tensor (x.kv + 1), head := some x.kvHead }

/-- The page of a paged item: logical page `k`, the `n`-th of its walk (R657, R666 to R668). -/
def Work.cumPage (w : Work) (c : Policy) (x : AItem) (s : Nat) (n k : Nat) : PageSrc :=
  let l := x.kvHead / c.heads
  let h := x.kvHead % c.heads
  let e := w.ent c s l k
  let st := entState e
  let base := c.pool (entPage e) + h * (2 * c.blockBytes)
  { ord := n, first := 64 * k, k := c.block base, v := c.block (base + c.blockBytes), head := none
    ok := !(w.entAt c s l k == EntAt.bad || st = 6 || st = 7 || ((st = 1 || st = 3) && decide (c.poolPages ≤ entPage e)))
    here := st = 1 || st = 3 }

/-- The logical pages that a walk visits: those that are held, and those behind a bad pointer (R666). -/
def Work.walkOf (w : Work) (c : Policy) (s l : Nat) : List Nat :=
  (List.range (pagesOf (w.tokens c s l))).filter (fun k =>
    w.entAt c s l k == EntAt.bad || entState (w.ent c s l k) != 0)

/-- The 64-byte lines that the walker reads for a layer of a slot: its root, the pointer words and the entries of the pages that
its tokens reach (R665, R669). -/
def Work.walkRuns (w : Work) (c : Policy) (s l : Nat) : List (Nat × Nat) :=
  let root := c.root s l
  let n := pagesOf (w.tokens c s l)
  let word (a : Nat) : List Nat := [a / 64]
  let found (e : EntAt) : List Nat := match e with
    | .found a => word a
    | _ => []
  let tops := if n ≤ 528 then [] else word (root + 0x90) ++ (List.range (ceilDiv (n - 528) 512)).flatMap (fun i =>
    found (c.follow (w.cumNum (root + 0x90) 8) i))
  let ptrs := if n ≤ 16 then tops else word (root + 0x88) ++ tops
  ((word root ++ ptrs ++ (List.range n).flatMap (fun k => found (w.entAt c s l k))).dedup).map (fun k => (64 * k, 64))

/-! ### Which keys a row may see (R618 to R620) -/

/-- Whether key position `k` of the page of ordinal `n` is allowed for query position `q` (R618). -/
def AItem.allowed (x : AItem) (rd : Nat → Byte) (len q n k : Nat) : Bool :=
  decide (k < len) &&
  (!bit x 148 || decide (k ≤ q)) &&
  (!bit x 149 || decide ((q : Int) - k < bits x 215 192 ∨ k < bits x 231 216)) &&
  (!bit x 150 || decide (x.bsBits ≤ n) || (rd (x.bsBase + n / 8)).getLsbD (n % 8))

/-- Whether a page is fed for query block `b`: some key of it is allowed for some row (R619, R620).
DEDUCED (log 95). -/
def AItem.fed (x : AItem) (rd : Nat → Byte) (len b : Nat) (s : PageSrc) : Bool :=
  s.ok && (List.range x.rows).any (fun r => (List.range 64).any (fun j =>
    x.allowed rd len (x.qpos b r) s.ord (s.first + j)))

/-! ### Products through GRID and TALLY (R625, R626) -/

/-- Elements drained with OVER, with INEXACT, and saturated. -/
structure AttCnt where
  ovr : Nat := 0
  inexact : Nat := 0
  sat : Nat := 0
  deriving DecidableEq, Repr

/-- Counts added. -/
def AttCnt.add (a b : AttCnt) : AttCnt := ⟨a.ovr + b.ovr, a.inexact + b.inexact, a.sat + b.sat⟩

/-- One element of a page product: its group-partials of 32 products, its window placed at fl_max − 32, its sum rounded
once to FP32 (R469, R504, R625, R626). DEDUCED (log 95). -/
def attDot (xs ys : List Dyad) : FVal × AttCnt :=
  let ps := (chunksOf 32 4 (List.zipWith Dyad.mul xs ys)).map group16
  let nz := ps.filter (fun p => p.v.n ≠ 0)
  let fl : Int := match nz with
    | [] => 0
    | p :: rest => rest.foldl (fun m q => max m (q.c + 56)) (p.c + 56)
  let c := ps.foldl (fun (x : Cell) p => x.place 32 p) { top := BitVec.ofInt 10 (fl - 32), got := true }
  let y := Fmt.fp32.conv (if c.ovf then .nan else c.value.val)
  (Fmt.fp32.decode y.code, { ovr := b2n c.ovf, inexact := b2n c.inexact, sat := y.sat })

/-- A row times each of several rows. -/
def attRow (xs : List Dyad) (ys : List (List Dyad)) : List FVal × AttCnt :=
  let r := ys.map (attDot xs)
  (r.map (·.1), r.foldl (fun a x => a.add x.2) {})

/-- The columns of rows of 128. -/
def columns (rows : List (List Dyad)) : List (List Dyad) :=
  (List.range 128).map (fun d => rows.map (fun r => r.getD d ⟨0, 0⟩))

/-- Neighbours added. -/
def addPairs : List FVal → List FVal
  | a :: b :: r => saddF a b :: addPairs r
  | l => l

/-- The fixed pairwise tree over 2^n values in ascending order (R628, R644). -/
def addTree : Nat → List FVal → FVal
  | 0, l => l.headD .zero
  | n + 1, l => addTree n (addPairs l)

/-- A value rounded to BF16. -/
def toBf16 (x : FVal) : FVal := Fmt.bf16.decode (Fmt.bf16.conv x).code

/-- −∞. -/
def negInf : FVal := .inf true

/-! ### The forward pass (R623 to R632) -/

/-- The running maximum, sum and output accumulator of a row. -/
structure SoftRow where
  m : FVal := .inf true
  l : FVal := .zero
  o : List FVal := List.replicate 128 .zero
  deriving DecidableEq, Repr

/-- The base-2 logits of a row for the 64 keys of a page (R621, R627). No FP32 operation of the chain overflows to infinity: each
saturates (R199, R200, R624, R632). -/
def logits (scale : FVal) (allow : List Bool) (s : List FVal) : List FVal :=
  (s.zip allow).map (fun x => if x.2 && !x.1.isNan then smulF x.1 scale else negInf)

/-- One page's visit of a row: the new row, λ and the counts (the pseudocode under R628).
DEDUCED (log 95). -/
def SoftRow.visit (x : SoftRow) (scale : FVal) (allow : List Bool) (q : List Dyad) (ks vcols : List (List Dyad)) :
    SoftRow × FVal × AttCnt :=
  let s := attRow q ks
  let t := logits scale allow s.1
  let mp := t.foldl fmax negInf
  if mp = negInf then (x, negInf, s.2.add (attRow (List.replicate 64 ⟨0, 0⟩) vcols).2)
  else
    let mn := fmax x.m mp
    let a := if x.m = negInf then .zero else fexp2 (saddF x.m (fneg mn))
    let ws := t.map (fun y => if y = negInf then .zero else toBf16 (fexp2 (saddF y (fneg mn))))
    let ps := addTree 6 ws
    let v := attRow (ws.map (·.dyad)) vcols
    ({ m := mn, l := saddF (smulF x.l a) ps, o := (x.o.zip v.1).map (fun y => saddF (smulF y.1 a) y.2) },
     saddF mn (flog2 ps), s.2.add v.2)

/-- x / y rounded once into an element format. -/
def Fmt.convDiv (f : Fmt) (x y : FVal) : Conv :=
  match f.float, x, y with
  | some (eb, mb, bias, special), .fin s m e, .fin s' n e' =>
    if m = 0 ∨ n = 0 then f.conv (fdiv x y)
    else
      let c := floatCode mb bias m n (e - e')
      let top := if special then (2 ^ eb - 1) * 2 ^ mb - 1 else 2 ^ (eb + mb) - 1
      if c = 0 then { code := 0 } else { code := b2n (s != s') * 2 ^ (eb + mb) + min c top, sat := b2n (top < c) }
  | _, _, _ => f.conv (fdiv x y)

/-- The output and the statistic of a finished row (R629 to R631). -/
def SoftRow.finish (x : SoftRow) (f : Fmt) : List Conv × FVal :=
  if x.m = negInf then (List.replicate 128 { code := 0 }, negInf)
  else (x.o.map (fun y => f.convDiv y x.l), saddF x.m (flog2 x.l))

/-! ### The backward pass (R642 to R649) -/

/-- What a BACKWARD item holds of a row: q, dO, the statistic, D. DEDUCED (log 97). -/
structure GradRow where
  q : List Dyad
  dO : List Dyad
  st : FVal
  d : FVal
  deriving DecidableEq, Repr

/-- D of a row (R644). DEDUCED (log 97). -/
def rowD (dO o : List FVal) : FVal := addTree 7 (List.zipWith smulF dO o)

/-- The weights p and score gradients g of a row for the keys of a page (R643, R645). The exponential saturates as well: R632 has
no operation of the chain overflow. DEDUCED (log 95). -/
def GradRow.visit (x : GradRow) (scale big : FVal) (allow : List Bool) (ks vs : List (List Dyad)) :
    List FVal × List FVal × AttCnt :=
  let s := attRow x.q ks
  let t := logits scale allow s.1
  let dp := attRow x.dO vs
  let p := t.map (fun y => if y = negInf ∨ x.st = negInf then FVal.zero else (fexp2 (saddF y (fneg x.st))).held)
  let g := ((p.zip dp.1).zip t).map (fun y =>
    if y.2 = negInf ∨ x.st = negInf then FVal.zero else smulF (smulF y.1.1 (saddF y.1.2 (fneg x.d))) big)
  (p, g, s.2.add dp.2)

/-- Contributions added into an FP32 accumulator (R646). -/
def accumulate (acc : List (List FVal)) (new : List (List FVal)) : List (List FVal) :=
  (acc.zip new).map (fun x => (x.1.zip x.2).map (fun y => saddF y.1 y.2))

/-- An accumulator of `n` rows. -/
def zeroAcc (n : Nat) : List (List FVal) := List.replicate n (List.replicate 128 .zero)

/-! ### Writes -/

/-- The stores of a row of codes at indices of a descriptor; out of bounds nothing is written (R606). -/
def Tensor.rowPuts (t : Tensor) (f : Nat → List Nat) (cs : List Nat) : List Put :=
  cs.zipIdx.flatMap (fun x =>
    if t.inb (f x.2) then
      (toLE (t.fmt.bits / 8) x.1).zipIdx.map (fun b => ⟨t.addr (t.elem (f x.2)) + b.2, 0xFF, b.1.toNat⟩)
    else [])

/-- The counts of an item's products and conversions (R506, R511, R1091), and their report. -/
def Work.attCounts (w : Work) (acc : Acc) (n : AttCnt) (cs : List Conv) : Work :=
  let w := if n.ovr = 0 then w else (w.count acc.core .tallyOver n.ovr).formatEvent (acc.event 0)
  let w := if n.inexact = 0 then w else (w.count acc.core .tallyInexact n.inexact).inexactEvent (acc.event 0)
  let w := w.count acc.core .fmtSat (n.sat + (cs.map (·.sat)).sum)
  w.count acc.core .fmtConvNonfinite (n.ovr + (cs.map (·.nonfinite)).sum)

/-! ### An item -/

/-- The pages of an item's walk. -/
def Work.itemPages (w : Work) (p : Plan) (a : At) (x : AItem) : List PageSrc :=
  if x.paged then
    match p.policy, w.batchAt x.seq with
    | some c, some s => (w.progAt a).walk.zipIdx.map (fun k => w.cumPage c x s k.2 k.1)
    | _, _ => []
  else (List.range (pagesOf x.len)).map (x.flatPage p)

/-- The sequence length of an item (R613). -/
def Work.itemLen (w : Work) (a : At) (x : AItem) : Nat := if x.paged then (w.progAt a).tokens else x.len

/-- The pages of a BACKWARD PART 1 item: the one it names (R648). -/
def AItem.part1 (x : AItem) : Bool := bit x 153

/-- The query blocks of an item. -/
def AItem.nblocks (x : AItem) : Nat := if x.part1 then x.blocks else 1

/-- The addresses of an item's queries, and for BACKWARD its gradients, outputs and statistics, and of its bitmap. -/
def AItem.inputRuns (x : AItem) (p : Plan) (back : Bool) (pages : Nat) : List (Nat × Nat) :=
  (List.range x.nblocks).flatMap (fun b => (List.range x.rows).flatMap (fun r =>
    (p.tensor x.q).rowRuns (x.at b r) ++
    (if back then
      (p.tensor x.out).rowRuns (x.at b r) ++ (p.tensor x.o).rowRuns (x.at b r) ++
      (let t := p.tensor x.stat
       if t.inb (x.statAt b r) then [(t.addr (t.elem (x.statAt b r)), 4)] else [])
     else []))) ++
  (if bit x 150 ∧ min pages x.bsBits ≠ 0 then [(x.bsBase, ceilDiv (min pages x.bsBits) 8)] else [])

/-- Rows of a page below the sequence length. -/
def PageSrc.live (s : PageSrc) (len : Nat) : List Nat := (List.range 64).filter (fun j => s.first + j < len)

/-- The addresses of a page's keys and values. -/
def PageSrc.runs (s : PageSrc) (len : Nat) : List (Nat × Nat) :=
  (s.live len).flatMap (fun j => s.k.rowRuns (s.at j)) ++ (s.live len).flatMap (fun j => s.v.rowRuns (s.at j))

/-- A page's key rows or value rows: zeros at or beyond the sequence length (R612). -/
def PageSrc.read (s : PageSrc) (t : Tensor) (rd : Nat → Byte) (len : Nat) : List KRow :=
  (List.range 64).map (fun j => if s.first + j < len then t.readRow rd (s.at j) else { codes := List.replicate 128 0 })

/-- The pages an item feeds: for a PART 1 item its page when some block feeds it. -/
def AItem.fedPages (x : AItem) (rd : Nat → Byte) (len : Nat) (ps : List PageSrc) : List PageSrc :=
  ps.filter (fun s => (List.range x.nblocks).any (fun b => x.fed rd len b s))

/-- The walk that an item makes: PART 1 visits one page. -/
def Work.visitPages (w : Work) (p : Plan) (a : At) (x : AItem) : List PageSrc :=
  let ps := w.itemPages p a x
  if x.part1 then ps.filter (·.ord = x.page0) else ps

/-- The pages staged through the ring of SRC_A (R600): each passes through a slot. -/
def Work.stage (w : Work) (p : Plan) (r : Rec) (a : At) (s : PageSrc) (ks vs : List KRow) : Work :=
  let raw (t : Tensor) (rows : List KRow) : List Byte :=
    if t.fmt = .bf16 then rows.flatMap (fun k => packCodes t.fmt k.codes)
    else (chunksOf 16 4 rows).flatMap (fun q => q.flatMap (fun k => packCodes t.fmt k.codes) ++
      fit 64 (q.map (fun k => BitVec.ofNat 8 k.scale)))
  let bs := raw s.k ks ++ raw s.v vs
  let w := w.push p a r.srcA {} bs
  match w.pull p a r.srcA bs.length with
  | .ok (w1, _) => w1
  | .error _ => w

/-- FORWARD: the rows after every page, λ by page, and the counts. -/
def AItem.forward (x : AItem) (rd : Nat → Byte) (len : Nat) (q : List (List Dyad))
    (pages : List (PageSrc × Bool × List (List Dyad) × List (List Dyad))) : List SoftRow × List (List FVal) × AttCnt :=
  pages.foldl (fun (acc : List SoftRow × List (List FVal) × AttCnt) pg =>
    if pg.2.1 then
      let cols := columns pg.2.2.2
      let rs := acc.1.zipIdx.map (fun y =>
        y.1.visit x.scale ((List.range 64).map (fun j => x.allowed rd len (x.qpos 0 y.2) pg.1.ord (pg.1.first + j)))
          (q.getD y.2 []) pg.2.2.1 cols)
      (rs.map (·.1), acc.2.1 ++ [rs.map (·.2.1)], (rs.map (·.2.2)).foldl AttCnt.add acc.2.2)
    else (acc.1, acc.2.1 ++ [List.replicate x.rows negInf], acc.2.2))
    (List.replicate x.rows {}, [], {})

/-- One page and query block of a BACKWARD item: the weights and gradients of every row, as BF16. -/
def AItem.gradBlock (x : AItem) (rd : Nat → Byte) (len b : Nat) (big : FVal) (rows : List GradRow) (s : PageSrc)
    (ks vs : List (List Dyad)) : List (List Dyad) × List (List Dyad) × AttCnt :=
  let rs := rows.zipIdx.map (fun y =>
    y.1.visit x.scale big ((List.range 64).map (fun j => x.allowed rd len (x.qpos b y.2) s.ord (s.first + j))) ks vs)
  (rs.map (fun y => y.1.map (fun v => (toBf16 v).dyad)), rs.map (fun y => y.2.1.map (fun v => (toBf16 v).dyad)),
   (rs.map (·.2.2)).foldl AttCnt.add {})

/-- BACKWARD PART 0: dQ over the pages fed. -/
def AItem.backward0 (x : AItem) (rd : Nat → Byte) (len : Nat) (big : FVal) (rows : List GradRow)
    (pages : List (PageSrc × List (List Dyad) × List (List Dyad))) : List (List FVal) × AttCnt :=
  pages.foldl (fun (acc : List (List FVal) × AttCnt) pg =>
    let g := x.gradBlock rd len 0 big rows pg.1 pg.2.1 pg.2.2
    let cols := columns pg.2.1
    let dq := g.2.1.map (fun y => attRow y cols)
    (accumulate acc.1 (dq.map (·.1)), (dq.map (·.2)).foldl AttCnt.add (acc.2.add g.2.2))) (zeroAcc x.rows, {})

/-- BACKWARD PART 1: dK and dV of a page over the query blocks that feed it. -/
def AItem.backward1 (x : AItem) (rd : Nat → Byte) (len : Nat) (big : FVal) (blocks : List (Nat × List GradRow))
    (s : PageSrc) (ks vs : List (List Dyad)) : List (List FVal) × List (List FVal) × AttCnt :=
  blocks.foldl (fun (acc : List (List FVal) × List (List FVal) × AttCnt) bl =>
    let g := x.gradBlock rd len bl.1 big bl.2 s ks vs
    let pad (l : List Dyad) : List Dyad := l ++ List.replicate (64 - l.length) ⟨0, 0⟩
    let col (m : List (List Dyad)) (j : Nat) : List Dyad := pad (m.map (fun y => y.getD j ⟨0, 0⟩))
    let qc := (columns (bl.2.map (·.q))).map pad
    let oc := (columns (bl.2.map (·.dO))).map pad
    let dk := (List.range 64).map (fun j => attRow (col g.2.1 j) qc)
    let dv := (List.range 64).map (fun j => attRow (col g.1 j) oc)
    (accumulate acc.1 (dk.map (·.1)), accumulate acc.2.1 (dv.map (·.1)),
     (dv.map (·.2)).foldl AttCnt.add ((dk.map (·.2)).foldl AttCnt.add (acc.2.2.add g.2.2))))
    (zeroAcc 64, zeroAcc 64, {})

/-- A page read, staged and widened. Values that it replaces are reported under KV_DESC for keys and KV_DESC + 1 for values; in
a Cumulus page, which has no descriptor, under the item's KV_DESC field (R180, R633). DESIGN CHOICE (log 157). -/
def Work.readPage (w : Work) (p : Plan) (r : Rec) (a : At) (x : AItem) (len : Nat) (s : PageSrc) :
    Work × List (List Dyad) × List (List Dyad) :=
  let ks := s.read s.k w.devByte len
  let vs := s.read s.v w.devByte len
  let live := s.live len
  let pick (l : List KRow) : List KRow := live.map (fun j => l.getD j { codes := [] })
  let w := w.stage p r a s ks vs
  let w := (w.replacedK (a.acc x.kv) s.k.fmt (pick ks)).replacedK (a.acc (if s.head.isSome then x.kv + 1 else x.kv)) s.v.fmt (pick vs)
  (w, ks.map (fun k => k.dyads s.k.fmt), vs.map (fun k => k.dyads s.v.fmt))

/-- The pages of a walk, those fed read. DEDUCED (log 95). -/
def Work.readPages (w : Work) (p : Plan) (r : Rec) (a : At) (x : AItem) (len : Nat) (ps : List PageSrc) (fed : List Nat) :
    Work × List (PageSrc × Bool × List (List Dyad) × List (List Dyad)) :=
  ps.foldl (fun (acc : Work × List (PageSrc × Bool × List (List Dyad) × List (List Dyad))) s =>
    if s.ord ∈ fed then
      let y := acc.1.readPage p r a x len s
      (y.1, acc.2 ++ [(s, true, y.2.1, y.2.2)])
    else (acc.1, acc.2 ++ [(s, false, [], [])])) (w, [])

/-- Whether a row of a block is present: its token index lies within Q_DESC (R606). -/
def AItem.present (x : AItem) (q : Tensor) (b r : Nat) : Bool := decide (x.tok0 + b * x.toks + r / x.heads < q.s 2)

/-- FORWARD of an item whose inputs and pages are at hand. An absent row is converted as any other, and what saturates in it
counts, though nothing of it is written (R606, R1091). DESIGN CHOICE (log 158). -/
def Work.finishForward (w : Work) (fab : Fab) (p : Plan) (r : Rec) (a : At) (x : AItem) (len : Nat) (ps : List PageSrc)
    (fed : List Nat) : Work :=
  let rd := w.devByte
  let tq := p.tensor x.q
  let qs := (List.range x.rows).map (fun i => tq.readRow rd (x.at 0 i))
  let w := w.replacedK (a.acc x.q) tq.fmt qs
  let y := w.readPages p r a x len ps fed
  let res := x.forward rd len (qs.map (fun k => k.dyads tq.fmt)) y.2
  let tOut := p.tensor x.out
  let ts := p.tensor x.stat
  let outs := res.1.map (fun row => row.finish tOut.fmt)
  let w := y.1.attCounts (a.acc x.out) res.2.2 (outs.flatMap (·.1))
  let w := w.count a.core .attEmpty (res.1.filter (fun row => row.m = negInf)).length
  let puts := outs.zipIdx.flatMap (fun z =>
    if x.present tq 0 z.2 then
      tOut.rowPuts (x.at 0 z.2) (z.1.1.map (·.code)) ++
      (if ts.inb (x.statAt 0 z.2) then
        (toLE 4 z.1.2.code32.toNat).zipIdx.map (fun b => ⟨ts.addr (ts.elem (x.statAt 0 z.2)) + b.2, 0xFF, b.1.toNat⟩)
       else [])
    else [])
  let mass := if x.mass then res.2.1.zipIdx.flatMap (fun lam => lam.1.zipIdx.flatMap (fun z =>
      if !x.present tq 0 z.2 then [] else (toLE 4 z.1.code32.toNat).zipIdx.map (fun b => ⟨x.massBase + 4 * (x.rows * lam.2 + z.2) + b.2, 0xFF, b.1.toNat⟩)))
    else []
  let z := w.devPuts fab (a.acc x.out) puts
  let z2 := z.1.devPuts fab (a.acc x.out) mass
  z2.1.awaits a (z.2 ++ z2.2)

/-- The rows of a query block of a BACKWARD item. -/
def Work.gradRows (w : Work) (p : Plan) (a : At) (x : AItem) (b : Nat) : Work × List GradRow :=
  let rd := w.devByte
  let tq := p.tensor x.q
  let td := p.tensor x.out
  let tOut := p.tensor x.o
  let ts := p.tensor x.stat
  let qs := (List.range x.rows).map (fun i => tq.readRow rd (x.at b i))
  let ds := (List.range x.rows).map (fun i => td.readRow rd (x.at b i))
  let os := (List.range x.rows).map (fun i => tOut.readRow rd (x.at b i))
  let w := ((w.replacedK (a.acc x.q) tq.fmt qs).replacedK (a.acc x.out) td.fmt ds).replacedK (a.acc x.o) tOut.fmt os
  (w, (List.range x.rows).map (fun i =>
    let dO := ((ds.getD i { codes := [] }).codes.map (fun c => finiteInput td.fmt (td.fmt.decode c)))
    let o := ((os.getD i { codes := [] }).codes.map (fun c => finiteInput tOut.fmt (tOut.fmt.decode c)))
    { q := (qs.getD i { codes := [] }).dyads tq.fmt, dO := dO.map (·.dyad)
      st := fp32 (BitVec.ofNat 32 (ts.readAt rd (x.statAt b i))), d := rowD dO o }))

/-- ln 2 as R645 takes it. -/
def ln2 : FVal := fp32 0x3F317218

/-- An accumulator's rows written, each rounded once (R649). DEDUCED (log 95). -/
def Work.writeGrad (w : Work) (fab : Fab) (a : At) (desc : Nat) (t : Tensor) (n : AttCnt)
    (rows : List (Option (Nat → List Nat) × List FVal)) : Work :=
  let cs := rows.map (fun x => (x.1, x.2.map t.fmt.conv))
  let w := w.attCounts (a.acc desc) n (cs.flatMap (·.2))
  let z := w.devPuts fab (a.acc desc) (cs.flatMap (fun x => match x.1 with
    | some f => t.rowPuts f (x.2.map (·.code))
    | none => []))
  z.1.awaits a z.2

/-- BACKWARD of an item whose inputs and pages are at hand. -/
def Work.finishBackward (w : Work) (fab : Fab) (p : Plan) (r : Rec) (a : At) (x : AItem) (len : Nat) (ps : List PageSrc)
    (fed : List Nat) : Work :=
  let rd := w.devByte
  let big := smulF x.scale ln2
  let tq := p.tensor x.q
  let y := w.readPages p r a x len ps fed
  let pages := (y.2.filter (·.2.1)).map (fun z => (z.1, z.2.2.1, z.2.2.2))
  if x.part1 then
    match pages with
    | [] =>
      let none' := (List.range 64).map (fun j => (some (fun d => [d, x.kvHead, 64 * x.page0 + j, 0, 0, 0]), List.replicate 128 FVal.zero))
      (y.1.writeGrad fab a x.grad (p.tensor x.grad) {} none').writeGrad fab a (x.grad + 1) (p.tensor (x.grad + 1)) {} none'
    | (s, ks, vs) :: _ =>
      let bl := ((List.range x.nblocks).filter (fun b => x.fed rd len b s)).foldl
        (fun (acc : Work × List (Nat × List GradRow)) b =>
          let g := acc.1.gradRows p a x b
          (g.1, acc.2 ++ [(b, g.2)])) (y.1, [])
      let res := x.backward1 rd len big bl.2 s ks vs
      let at_ (m : List (List FVal)) : List (Option (Nat → List Nat) × List FVal) :=
        m.zipIdx.map (fun z => (some (fun d => [d, x.kvHead, 64 * x.page0 + z.2, 0, 0, 0]), z.1))
      (bl.1.writeGrad fab a x.grad (p.tensor x.grad) res.2.2 (at_ res.1)).writeGrad fab a (x.grad + 1)
        (p.tensor (x.grad + 1)) {} (at_ res.2.1)
  else
    let g := y.1.gradRows p a x 0
    let res := x.backward0 rd len big g.2 pages
    g.1.writeGrad fab a x.grad (p.tensor x.grad) res.2
      (res.1.zipIdx.map (fun z => (if x.present tq 0 z.2 then some (x.at 0 z.2) else none, z.1)))

/-- Pages fed and never fed, counted: for PART 1 by blocks. DEDUCED (log 95). -/
def Work.countPages (w : Work) (core : Nat) (x : AItem) (rd : Nat → Byte) (len : Nat) (ps : List PageSrc) : Work :=
  let visits := ps.flatMap (fun s => (List.range x.nblocks).map (fun b => x.fed rd len b s))
  (w.count core .attFed (visits.filter (·)).length).count core .attSkipped (visits.filter (!·)).length

/-- Whether a page of a sequence cannot be fetched: no pool page is free and no spill will free one (R711). -/
def Work.noFetch (w : Work) (c : Policy) : Bool :=
  w.freePages c = 0 && w.spillsComing = 0 && ((w.candidates c).isEmpty || w.freeTier c = 0)

/-- The wait for a page (R616, R705), or the stall of its sequence (R711). -/
def Work.awaitPage (w : Work) (p : Plan) (a : At) (x : AItem) (s : PageSrc) : UnitRes :=
  match p.policy, w.batchAt x.seq with
  | some c, some slot =>
    let l := x.kvHead / c.heads
    let k := s.first / 64
    let w := w.demandFetch c slot l k
    if w.unfetched c slot l k ∧ w.noFetch c then
      .fin (w.stallSeq x.seq slot l (if (w.candidates c).isEmpty then stNoPage else stTierFull))
    else .wait (w.modCore a.core (fun d => d.modProg a.firing (fun y => { y with page := k, phase := 1 }))) .page []
  | _, _ => .fin w

/-- Whether an item that is taken now has nothing to do: a paged one whose position holds no sequence, or a sequence that has
stalled before (R672, R710). -/
def Work.itemVoid (w : Work) (x : AItem) : Bool :=
  x.paged && (match w.batchAt x.seq with
    | some s => w.stalled s
    | none => true)

/-- The work on one item: inputs read, pages walked, results written. -/
def attUnit (fab : Fab) (p : Plan) (r : Rec) (a : At) (back : Bool) (x : AItem) (w : Work) (fresh : Bool) : UnitRes :=
  if (w.progAt a).void then .fin w
  else
    let ps := w.visitPages p a x
    let len := w.itemLen a x
    match w.reachAt fab a (a.acc x.q) 0 (x.inputRuns p back (w.itemPages p a x).length) fresh with
    | (w1, some y) => .wait w1 y.1 y.2
    | (w1, none) =>
      let fed := x.fedPages w1.devByte len ps
      match fed.find? (fun s => !s.here) with
      | some s => w1.awaitPage p a x s
      | none =>
        let blk := if fed.isEmpty then none else w1.room p a r.srcA 0 (p.stream a.core r.srcA).slotBytes
        match blk with
        | some y => .wait w1 y []
        | none =>
          match w1.reachAt fab a (a.acc x.kv) 1 (fed.flatMap (fun s => s.runs len)) fresh with
          | (w2, some y) => .wait w2 y.1 y.2
          | (w2, none) =>
            let bad := (ps.filter (fun s => !s.ok)).map (·.ord)
            let slot := ((w2.batchAt x.seq).getD 0)
            let w3 := w2.indexErrors (a.acc slot) bad
            let w3 := w3.countPages a.core x w3.devByte len ps
            .ok ((if back then w3.finishBackward fab p r a x len ps (fed.map (·.ord))
                  else w3.finishForward fab p r a x len ps (fed.map (·.ord))).endRead a)

/-- The item job of ATTEND. Its second step, once its writes are acknowledged, is the item's retirement: it counts, and a MASS_EN item is
kept for the commit (R651, R687). -/
def attItem (fab : Fab) (back : Bool) : ItemJob := fun p r a _ k it =>
  { n := 2
    unit := fun w j fresh =>
      if j = 0 then
        match attUnit fab p r a back it w fresh with
        | .fin w1 => .fin (w1.count a.core .attItems 1)
        | x => x
      else if !(w.progAt a).tags.isEmpty then .wait w .peer (w.progAt a).tags
      else
        let x : AItem := it
        let w := w.count a.core .attItems 1
        if x.mass ∧ !back then
          let n := ((p.core a.core).sectionOf a.firing).getD 0
          .ok { w with run.mass := w.run.mass ++ [{ number := n, list := r.param, pos := k, item := it
                                                    slot := (w.batchAt x.seq).getD 0, walk := (w.progAt a).walk }] }
        else .ok w }

/-- What happens when an item is taken: the core's tallies are ATTEND's (R599), and for a paged item the token count and
the walk of its layer are fixed (R613, R688). -/
def attTake : Plan → Rec → At → W512 → Work → Work := fun p _ a it w =>
  let x : AItem := it
  let nothing := w.itemVoid x
  let w := w.modCore a.core (fun c => { c with attHold := true }.modProg a.firing (fun y => { y with void := nothing }))
  match p.policy, w.batchAt x.seq with
  | some c, some s =>
    if x.paged ∧ !nothing then
      let l := x.kvHead / c.heads
      let w := (w.walkRuns c s l).foldl (fun w r => w.readRun (a.acc x.kv) r) w
      let n := w.tokens c s l
      let ks := w.walkOf c s l
      w.modCore a.core (fun d => d.modProg a.firing (fun y => { y with tokens := n, walk := ks }))
    else w
  | _, _ => w

/-! ### After the section (R599) -/

/-- A tally cell whose contents are undefined. DESIGN CHOICE (log 96). -/
def undefCell (draw i : Nat) : Cell :=
  let t := Config.freeTally draw i
  let x := Config.freeTally draw (i + 16384)
  { t := t, top := Config.freeTallyTop draw i, hi := BitVec.ofNat 32 (bits x 31 0), lo := BitVec.ofNat 32 (bits x 63 32)
    seg := BitVec.ofNat 8 (bits x 71 64), inexact := bit x 72, ovf := bit x 73, res := BitVec.ofNat 3 (t.toInt % 7).toNat
    got := true }

/-- The tallies and the weights of a core that ATTEND held, undefined after the section's close.
DESIGN CHOICE (log 96). -/
def Core.afterAttend (draw : Nat) (c : Core) : Core :=
  if c.attHold then
    let rows := (List.range 256).map (fun i => let x := Config.freeTally draw (i + 32768)
      (i, ({ valid := bit x 0, kpos := BitVec.ofNat 32 (bits x 63 32) } : TRow)))
    let cells := (List.range 16384).map (fun i => (i, undefCell draw i))
    let weights : SMap (Option WTile) := (List.range 4).map (fun k =>
      (k, some { bytes := (List.range 16384).map (fun i => Config.freeByte draw (16384 * k + i)), desc := 0
                 outlier := false }))
    { c with attHold := false, cells := cells.filter (fun x => x.2 ≠ {}), rows := rows.filter (fun x => x.2 ≠ {})
             weights := weights }
  else c

/-! ### The commands -/

/-- ATTEND FORWARD. -/
def execForward (core idx : Nat) (env : Env) (s : State) : Host.Outcome State Fault Refusal :=
  .next { s with w := s.w.issueItems core idx env 6 1 attTake (attItem s.fab false) }

/-- ATTEND BACKWARD. -/
def execBackward (core idx : Nat) (env : Env) (s : State) : Host.Outcome State Fault Refusal :=
  .next { s with w := s.w.issueItems core idx env 6 2 attTake (attItem s.fab true) }

/-- Whether the page that an item waits for has come, or can no longer come (R616, R711). -/
def Work.pageCame (w : Work) (p : Plan) (x : Prog) : Bool :=
  match p.policy, p.itemSlot x with
  | some c, some b =>
    match w.batchAt b with
    | some s =>
      let it : AItem := match x.item with
        | some (l, k) => (p.items l).getD k 0
        | none => 0
      let st := entState (w.ent c s (it.kvHead / c.heads) x.page)
      decide (x.stall = some .page) && ((st != 2 && st != 4 && st != 5) ||
        (w.unfetched c s (it.kvHead / c.heads) x.page && w.noFetch c))
    | none => false
  | _, _ => false

/-- ATTEND_PAGE_READY: the page that an item waits for is resident again, and its walk goes on (R616). -/
def execAttendPageReady (core idx waitClk : Nat) (env : Env) (s : State) : Host.Outcome State Fault Refusal :=
  .next { s with w :=
    match s.w.plan with
    | none => s.w
    | some p =>
      match p.firing? core idx, (s.w.core core).progOf idx with
      | some r, some x =>
        if Rec.station r = 6 ∧ s.w.pageCame p x then
          let w := (s.w.observe core env).count core .attWait waitClk
          w.workItem p r { core := core, firing := idx, time := w.now env.clk } (attItem s.fab (decide (Rec.op r = 2)))
        else s.w
      | _, _ => s.w }

end Sys2Proof.Machine
end

