-- ==== Sys2Proof/Machine/Crypto.lean ====
section
/-!
DEFINITION. SHA-384 and ECDSA over NIST P-384, which the manual names and does not spell out (R81, R1004, R1028, R1034);
PRESUMED: FIPS 180-4 and FIPS 186. Integers of keys and signatures are 48 bytes, little-endian (R1005).
-/

namespace Sys2Proof.Machine

/-! ### SHA-384 -/

/-- Round constants 0 to 9 (FIPS 180-4). -/
def shaK0 : List Nat :=
    [0x428A2F98D728AE22, 0x7137449123EF65CD, 0xB5C0FBCFEC4D3B2F, 0xE9B5DBA58189DBBC, 0x3956C25BF348B538,
   0x59F111F1B605D019, 0x923F82A4AF194F9B, 0xAB1C5ED5DA6D8118, 0xD807AA98A3030242, 0x12835B0145706FBE]

/-- Round constants 10 to 19 (FIPS 180-4). -/
def shaK1 : List Nat :=
    [0x243185BE4EE4B28C, 0x550C7DC3D5FFB4E2, 0x72BE5D74F27B896F, 0x80DEB1FE3B1696B1, 0x9BDC06A725C71235,
   0xC19BF174CF692694, 0xE49B69C19EF14AD2, 0xEFBE4786384F25E3, 0x0FC19DC68B8CD5B5, 0x240CA1CC77AC9C65]

/-- Round constants 20 to 29 (FIPS 180-4). -/
def shaK2 : List Nat :=
    [0x2DE92C6F592B0275, 0x4A7484AA6EA6E483, 0x5CB0A9DCBD41FBD4, 0x76F988DA831153B5, 0x983E5152EE66DFAB,
   0xA831C66D2DB43210, 0xB00327C898FB213F, 0xBF597FC7BEEF0EE4, 0xC6E00BF33DA88FC2, 0xD5A79147930AA725]

/-- Round constants 30 to 39 (FIPS 180-4). -/
def shaK3 : List Nat :=
    [0x06CA6351E003826F, 0x142929670A0E6E70, 0x27B70A8546D22FFC, 0x2E1B21385C26C926, 0x4D2C6DFC5AC42AED,
   0x53380D139D95B3DF, 0x650A73548BAF63DE, 0x766A0ABB3C77B2A8, 0x81C2C92E47EDAEE6, 0x92722C851482353B]

/-- Round constants 40 to 49 (FIPS 180-4). -/
def shaK4 : List Nat :=
    [0xA2BFE8A14CF10364, 0xA81A664BBC423001, 0xC24B8B70D0F89791, 0xC76C51A30654BE30, 0xD192E819D6EF5218,
   0xD69906245565A910, 0xF40E35855771202A, 0x106AA07032BBD1B8, 0x19A4C116B8D2D0C8, 0x1E376C085141AB53]

/-- Round constants 50 to 59 (FIPS 180-4). -/
def shaK5 : List Nat :=
    [0x2748774CDF8EEB99, 0x34B0BCB5E19B48A8, 0x391C0CB3C5C95A63, 0x4ED8AA4AE3418ACB, 0x5B9CCA4F7763E373,
   0x682E6FF3D6B2B8A3, 0x748F82EE5DEFB2FC, 0x78A5636F43172F60, 0x84C87814A1F0AB72, 0x8CC702081A6439EC]

/-- Round constants 60 to 69 (FIPS 180-4). -/
def shaK6 : List Nat :=
    [0x90BEFFFA23631E28, 0xA4506CEBDE82BDE9, 0xBEF9A3F7B2C67915, 0xC67178F2E372532B, 0xCA273ECEEA26619C,
   0xD186B8C721C0C207, 0xEADA7DD6CDE0EB1E, 0xF57D4F7FEE6ED178, 0x06F067AA72176FBA, 0x0A637DC5A2C898A6]

/-- Round constants 70 to 79 (FIPS 180-4). -/
def shaK7 : List Nat :=
    [0x113F9804BEF90DAE, 0x1B710B35131C471B, 0x28DB77F523047D84, 0x32CAAB7B40C72493, 0x3C9EBE0A15C9BEBC,
   0x431D67C49C100D4C, 0x4CC5D4BECB3E42B6, 0x597F299CFC657E2A, 0x5FCB6FAB3AD6FAEC, 0x6C44198C4A475817]

/-- The 80 round constants. -/
def shaK : List Nat := shaK0 ++ shaK1 ++ shaK2 ++ shaK3 ++ shaK4 ++ shaK5 ++ shaK6 ++ shaK7

/-- The initial hash value of SHA-384. -/
def shaInit : List Nat :=
  [0xCBBB9D5DC1059ED8, 0x629A292A367CD507, 0x9159015A3070DD17, 0x152FECD8F70E5939, 0x67332667FFC00B31,
   0x8EB44A8768581511, 0xDB0C2E0D64F98FA7, 0x47B5481DBEFA4FA4]

/-- Rotation right of a 64-bit word. -/
def rotr (n x : Nat) : Nat := (x >>> n) ||| ((x <<< (64 - n)) % 2 ^ 64)

/-- The number that bytes spell, the first the most significant. -/
def beNat (bs : List Byte) : Nat := bs.foldl (fun a b => 256 * a + b.toNat) 0

/-- The message schedule, newest word first: `k` words more. -/
def shaSchedule : Nat → List Nat → List Nat
  | 0, w => w
  | k + 1, w =>
    let x := w.getD 1 0
    let y := w.getD 14 0
    let s1 := (rotr 19 x ^^^ rotr 61 x) ^^^ (x >>> 6)
    let s0 := (rotr 1 y ^^^ rotr 8 y) ^^^ (y >>> 7)
    shaSchedule k ((s1 + w.getD 6 0 + s0 + w.getD 15 0) % 2 ^ 64 :: w)

/-- One round over the eight working variables. -/
def shaRound (v : List Nat) (kw : Nat × Nat) : List Nat :=
  let a := v.getD 0 0
  let b := v.getD 1 0
  let c := v.getD 2 0
  let e := v.getD 4 0
  let f := v.getD 5 0
  let g := v.getD 6 0
  let s1 := (rotr 14 e ^^^ rotr 18 e) ^^^ rotr 41 e
  let ch := (e &&& f) ^^^ ((2 ^ 64 - 1 - e) &&& g)
  let t1 := v.getD 7 0 + s1 + ch + kw.1 + kw.2
  let s0 := (rotr 28 a ^^^ rotr 34 a) ^^^ rotr 39 a
  let maj := ((a &&& b) ^^^ (a &&& c)) ^^^ (b &&& c)
  [(t1 + s0 + maj) % 2 ^ 64, a, b, c, (v.getD 3 0 + t1) % 2 ^ 64, e, f, g]

/-- One block of 128 bytes. -/
def shaBlock (h : List Nat) (block : List Byte) : List Nat :=
  let w := (shaSchedule 64 ((chunksOf 8 16 block).map beNat).reverse).reverse
  let v := (shaK.zip w).foldl shaRound h
  (h.zip v).map (fun x => (x.1 + x.2) % 2 ^ 64)

/-- The padded message. -/
def shaPad (bs : List Byte) : List Byte :=
  let n := bs.length
  bs ++ [0x80] ++ zeros ((239 - n % 128) % 128) ++ toBE 16 (8 * n)

/-- SHA-384 of a message: 48 bytes. PRESUMED (log 138). -/
def sha384 (bs : List Byte) : List Byte :=
  let m := shaPad bs
  (((chunksOf 128 (m.length / 128) m).foldl shaBlock shaInit).take 6).flatMap (toBE 8)

/-! ### P-384 -/

/-- The field's prime. -/
def p384 : Nat := 2 ^ 384 - 2 ^ 128 - 2 ^ 96 + 2 ^ 32 - 1

/-- The order of the base point. -/
def p384n : Nat :=
  0xFFFFFFFFFFFFFFFFFFFFFFFFFFFFFFFFFFFFFFFFFFFFFFFFC7634D81F4372DDF581A0DB248B0A77AECEC196ACCC52973

/-- The coefficient b of y² = x³ − 3x + b. -/
def p384b : Nat :=
  0xB3312FA7E23EE7E4988E056BE3F82D19181D9C6EFE8141120314088F5013875AC656398D8A2ED19D2A85C8EDD3EC2AEF

/-- A point in Jacobian coordinates; z = 0 is the point at infinity. -/
structure JPoint where
  x : Nat
  y : Nat
  z : Nat
  deriving DecidableEq, Repr

/-- The base point. -/
def p384g : JPoint :=
  { x := 0xAA87CA22BE8B05378EB1C71EF320AD746E1D3B628BA79B9859F741E082542A385502F25DBF55296C3A545E3872760AB7
    y := 0x3617DE4A96262C6F5D9E98BF9292DC29F8F41DBD289A147CE9DA3113B5F0B8C00A60B1CE1D7E819D7A431D7C90EA0E5F
    z := 1 }

/-- The point at infinity. -/
def JPoint.inf : JPoint := { x := 1, y := 1, z := 0 }

/-- Difference modulo the prime. -/
def fsub384 (a b : Nat) : Nat := (a + p384 - b % p384) % p384

/-- Twice a point. -/
def JPoint.dbl (q : JPoint) : JPoint :=
  if q.z = 0 ∨ q.y = 0 then .inf
  else
    let yy := q.y * q.y % p384
    let s := 4 * q.x * yy % p384
    let zz := q.z * q.z % p384
    let m := 3 * fsub384 q.x zz * (q.x + zz) % p384
    let x := fsub384 (m * m) (2 * s)
    { x := x, y := fsub384 (m * fsub384 s x) (8 * yy * yy), z := 2 * q.y * q.z % p384 }

/-- The sum of two points. -/
def JPoint.add (q r : JPoint) : JPoint :=
  if q.z = 0 then r
  else if r.z = 0 then q
  else
    let qz := q.z * q.z % p384
    let rz := r.z * r.z % p384
    let u1 := q.x * rz % p384
    let u2 := r.x * qz % p384
    let s1 := q.y * rz * r.z % p384
    let s2 := r.y * qz * q.z % p384
    if u1 = u2 then (if s1 = s2 then q.dbl else .inf)
    else
      let h := fsub384 u2 u1
      let t := fsub384 s2 s1
      let hh := h * h % p384
      let hhh := h * hh % p384
      let v := u1 * hh % p384
      let x := fsub384 (t * t) (hhh + 2 * v)
      { x := x, y := fsub384 (t * fsub384 v x) (s1 * hhh), z := h * q.z * r.z % p384 }

/-- A multiple of a point, over the low `n` bits of `k` from the top down. -/
def JPoint.mulBits (q : JPoint) (k : Nat) : Nat → JPoint → JPoint
  | 0, acc => acc
  | n + 1, acc =>
    let d := acc.dbl
    q.mulBits k n (if k.testBit n then d.add q else d)

/-- A multiple of a point. -/
def JPoint.times (q : JPoint) (k : Nat) : JPoint := q.mulBits k 384 .inf

/-- A power modulo `m`, over the low `n` bits of the exponent. -/
def powMod (m : Nat) : Nat → Nat → Nat → Nat
  | 0, _, _ => 1
  | n + 1, b, e => (if e % 2 = 1 then b else 1) * powMod m n (b * b % m) (e / 2) % m

/-- Whether (x, y) is a point of the curve. PRESUMED (log 138). -/
def onCurve (x y : Nat) : Bool :=
  decide (x < p384) && decide (y < p384) && decide (y * y % p384 = (x * x % p384 * x + (p384 - 3) * x + p384b) % p384)

/-- Whether (r, s) is a signature of a digest under the public key (x, y). PRESUMED (log 138). -/
def ecdsaOk (key : Nat × Nat) (digest : List Byte) (r s : Nat) : Bool :=
  if r = 0 ∨ s = 0 ∨ p384n ≤ r ∨ p384n ≤ s ∨ !onCurve key.1 key.2 then false
  else
    let i := powMod p384n 384 s (p384n - 2)
    let q := (p384g.times (beNat digest * i % p384n)).add (JPoint.times { x := key.1, y := key.2, z := 1 } (r * i % p384n))
    if q.z = 0 then false
    else
      let zi := powMod p384 384 q.z (p384 - 2)
      decide (q.x * zi % p384 * zi % p384 % p384n = r)

/-- Whether 96 bytes (r, s) are a signature of a digest under a key. PRESUMED (log 138). -/
def sigOk (key : Nat × Nat) (digest sig : List Byte) : Bool := ecdsaOk key digest (leAt sig 0 48) (leAt sig 48 48)

end Sys2Proof.Machine
end

