-- ==== Sys2Proof/Machine/Fabric.lean ====
section
/-!
DEFINITION. The fabric's work: SEND PUT and COLLECTIVE, RECV TAKE (R748, R756, R760, R772 to R789, R821), arriving flits
(R744 to R757, R766 to R769), lanes, ports and links (R735 to R743), and uplink frames (R790 to R794).
-/

namespace Sys2Proof.Machine

/-! ### Routes -/

/-- The route set that a firing keeps from its issue on (R821). DEDUCED (log 115). -/
def Work.setOf (w : Work) (a : At) : Nat :=
  match w.run.sets.find? (fun x => x.1 = a.core ∧ x.2.1 = a.firing) with
  | some x => x.2.2
  | none => w.run.activeSet.toNat

/-- The active set noted for a firing, once. -/
def Work.pin (w : Work) (a : At) : Work :=
  if w.run.sets.any (fun x => x.1 = a.core ∧ x.2.1 = a.firing) then w
  else { w with run.sets := w.run.sets ++ [(a.core, a.firing, w.run.activeSet.toNat)] }

/-- A flit sent towards a member on a bond index: on the port that serves it, or, when none does, not at all, and the
peer is lost (R739, R754, R771). A flit for this member is not sent. -/
def Work.sendFlit (w : Work) (fab : Fab) (e : StepEvent) (bond idx : Nat) (f : Flit) : Work :=
  match fab.portFor bond idx with
  | some p => { w with out := w.out ++ [Out.flit p f] }
  | none => { w with run := w.run.blame stPeerLost { e with which := fab.neighbourOf fab.member.toNat bond } }

/-! ### The arbiters of the outputs (R766 to R768) -/

/-- An input of an output port is granted: it drops to the lowest priority, and holds the output until the last flit of its
packet (R768). -/
def Arb.grant (x : Arb) (input : Nat) (f : Flit) : Arb :=
  { x with granted := if bit f.hdr 33 then x.granted.filter (· ≠ input) ++ [input] else x.granted
           holder := if bit f.hdr 34 then none else some input }

/-- The input that an output serves next: the one whose packet holds it, or else the first in priority of those that wait, the
inputs never granted before those that were, each in ascending order and in order of their grants (R768).
DESIGN CHOICE (log 72). -/
def Arb.next (x : Arb) : Option Nat :=
  let want (i : Nat) : Bool := x.waiting.any (fun y => y.1 = i)
  match x.holder with
  | some i => if want i then some i else none
  | none => ((List.range 256).filter (fun i => i ∉ x.granted) ++ x.granted).find? want

/-- The flits that leave an output while one that waits may go; `n` bounds their number. -/
def Arb.drain : Nat → Arb → List Flit × Arb
  | 0, x => ([], x)
  | n + 1, x =>
    match x.next with
    | none => ([], x)
    | some i =>
      match x.waiting.find? (fun y => y.1 = i) with
      | none => ([], x)
      | some y =>
        let r := Arb.drain n ({ x with waiting := x.waiting.erase y }.grant i y.2)
        (y.2 :: r.1, r.2)

/-- An unscheduled flit comes to an output: it waits while the packet of another input holds the output (R768). A scheduled flit
does not pass here: it goes before any that waits (R766). DESIGN CHOICE (log 72, 166). -/
def Work.unscheduledFlit (w : Work) (port input : Nat) (f : Flit) : Work :=
  let x := mget w.net.arbs {} port
  let r := Arb.drain (x.waiting.length + 1) { x with waiting := x.waiting ++ [(input, f)] }
  { w with net.arbs := mset w.net.arbs {} port r.2, out := w.out ++ r.1.map (Out.flit port) }

/-- The payload of the flits of a stream of bytes. -/
def payloads (bs : List Byte) : List (List Byte) := chunksOf 248 (bs.length / 248 + 1) bs

/-! ### SEND PUT -/

/-- The header of a flit (R746): the fields from bit 0 up. -/
def flitHdr (type dest core stream order neg : Nat) (first last : Bool) (len : Nat) : Nat :=
  pack [(type, 4), (dest, 10), (core, 7), (stream, 6), (0, 0), (order, 3), (neg, 3), (b2n first, 1), (b2n last, 1),
    (len - 1, 8)]

/-- Bytes that arrive for a stream of a core. -/
def Net.arrive (n : Net) (core stream : Nat) (bs : List Byte) (tiles : List (W64 × List Byte)) : Net :=
  if n.rx.any (fun x => x.core = core ∧ x.stream = stream) then
    { n with rx := n.rx.map (fun x => if x.core = core ∧ x.stream = stream
        then { x with bytes := x.bytes ++ bs, tiles := x.tiles ++ tiles } else x) }
  else { n with rx := n.rx ++ [{ core := core, stream := stream, bytes := bs, tiles := tiles }] }

/-- Flit `k` of a data transfer goes on its way by its route slot (R754, R756, R759). -/
def Work.putFlit (w : Work) (fab : Fab) (e : StepEvent) (s : W128) (k : Nat) (last : Bool) (pl : List Byte) : Work :=
  let dest := slotDest s
  let core := bits s 27 21
  let stream := bits s 33 28
  let f := mkFlit (flitHdr 1 dest core stream (slotOrder s) (slotNeg s) (k == 0) last pl.length) pl
  if slotKind s = 1 then
    { w with net.upq := w.net.upq ++ [{ uplink := bits s 43 42, herd := bits s 41 34, member := dest, flit := f, link := slotLink s }] }
  else match fab.nextBond fab.member.toNat dest (slotOrder s) (slotNeg s) with
    | none => { w with net := w.net.arrive core stream pl [] }
    | some b => w.sendFlit fab e b (k % slotPorts s) f

/-- The tiles of `n` bytes that a stream of a core holds at a herd time or that wait for its RECV, the last of which may have come
in part: the credits of its ring in use (R79). -/
def Work.credits (w : Work) (p : Plan) (core stream n t : Nat) : Nat :=
  let c := w.core core
  ((List.range (p.stream core stream).slots).filter (fun k =>
      decide ((c.slot stream k).phase ≠ .empty ∨ t < (c.slot stream k).since))).length +
    match w.net.rx.find? (fun x => x.core = core ∧ x.stream = stream) with
    | some x => x.tiles.length + ceilDiv x.bytes.length n
    | none => 0

/-- Whether a data transfer that stays on this module finds no credit for a tile of `n` bytes at a herd time (R79). -/
def Work.noCredit (w : Work) (fab : Fab) (p : Plan) (s : W128) (n t : Nat) : Bool :=
  let core := bits s 27 21
  let stream := bits s 33 28
  slotKind s ≠ 1 && (fab.nextBond fab.member.toNat (slotDest s) (slotOrder s) (slotNeg s)).isNone &&
  decide ((p.stream core stream).slots ≤ w.credits p core stream n t)

/-- SEND PUT moves one tile, while its RECV ring has a credit for it (R79): its row mask and bytes join what is left of the tiles
before, and whole payloads leave; the last tile's remainder is the transfer's last flit (R748). -/
def putUnit (fab : Fab) (p : Plan) (r : Rec) (a : At) (w : Work) (k : Nat) : UnitRes :=
  let w := w.pin a
  match (p.route (w.setOf a)).slots[r.param]? with
  | none => .ok w
  | some s =>
    if w.noCredit fab p s (8 + (p.tensor r.desc).slotUse) (w.useOf a false r.srcA 0).start then .wait w .credit []
    else match w.pull p a r.srcA (p.tensor r.desc).slotUse with
    | .error x => .wait w x []
    | .ok (w1, t) =>
      let old := (w1.progAt a).held.headD { id := 0, mask := 0, bytes := [] }
      let bs := old.bytes ++ toLE 8 t.st.mask.toNat ++ t.bytes
      let final := k + 1 = r.count
      let cut := if final then bs.length else bs.length / 248 * 248
      let ps := payloads (bs.take cut)
      let e := (a.acc r.desc).event 0
      let w2 := ps.zipIdx.foldl (fun w x =>
        w.putFlit fab e s (old.id + x.2) (final && decide (x.2 + 1 = ps.length)) x.1) w1
      .ok (w2.modCore a.core (fun c => c.modProg a.firing (fun y =>
        { y with held := [{ id := old.id + ps.length, mask := 0, bytes := bs.drop cut }] })))

/-- Bytes per clk at which a SEND reads its stream (R764). -/
def Plan.sendRate (p : Plan) (ports : Nat) : Nat := min 128 ((if p.clockSel = 0 then 55 else 66) * ports)

/-- The times of a SEND of tiles of `b` bytes, prefixes counted, at `q` bytes per clk (R24, R359, R763, R764): its last byte leaves 64
clk after it is read. -/
def sendTimes (r : Rec) (b q : Nat) (lag : Lags) : Times :=
  let at_ (j : Nat) : Nat := ceilDiv (j * b) q
  { free := some (at_ r.count)
    uses := (List.range r.count).map (fun j => ⟨r.srcA, false, j * b / q, at_ (j + 1), at_ (j + 1) - j * b / q⟩)
    ends := at_ r.count + 64 + lag.most r.srcA r.count }

/-- The times of a PUT that issues. -/
def Work.putTimesAt (w : Work) (p : Plan) (r : Rec) (a : At) : Times :=
  match (p.route (w.setOf a)).slots[r.param]? with
  | none => {}
  | some s => sendTimes r (8 + (p.tensor r.desc).slotUse) (p.sendRate (slotPorts s)) (w.lags p a.core)

/-- SEND PUT. -/
def putJob (fab : Fab) (p : Plan) (r : Rec) (a : At) : Job :=
  { n := r.count, unit := fun w k _ => putUnit fab p r a w k, times := fun w => w.putTimesAt p r a }

/-! ### Collective entries (R772 to R775) -/

/-- A collective entry. -/
abbrev CollEnt := W512

/-- OP. -/
def CollEnt.op (x : CollEnt) : Nat := bits x 2 0
/-- FORM. -/
def CollEnt.form (x : CollEnt) : Nat := bits x 4 3
/-- RING. -/
def CollEnt.ring (x : CollEnt) : Nat := bits x 7 5
/-- Group members along dimension k. -/
def CollEnt.n (x : CollEnt) (k : Nat) : Nat :=
  (match k with | 0 => bits x 11 8 | 1 => bits x 14 12 | _ => bits x 17 15) + 1
/-- Stride along dimension k. -/
def CollEnt.stride (x : CollEnt) (k : Nat) : Nat :=
  match k with | 0 => bits x 21 18 | 1 => bits x 24 22 | _ => bits x 27 25
/-- ROOT. -/
def CollEnt.root (x : CollEnt) : Nat := bits x 37 28
/-- DEST_CORE. -/
def CollEnt.core (x : CollEnt) : Nat := bits x 44 38
/-- DEST_STREAM. -/
def CollEnt.stream (x : CollEnt) : Nat := bits x 50 45
/-- HALF. -/
def CollEnt.half (x : CollEnt) : Bool := bit x 51
/-- HSTAGE. -/
def CollEnt.hstage (x : CollEnt) : Bool := bit x 52
/-- SWAP_BASE. -/
def CollEnt.swapBase (x : CollEnt) : Nat := bits x 119 64
/-- Herds of the herd stage. -/
def CollEnt.herds (x : CollEnt) : Nat := bits x 127 120 + 1
/-- MAP_BASE. -/
def CollEnt.mapBase (x : CollEnt) : Nat := bits x 183 128

/-- The coordinates along dimension k of the group that member `m` is in, from its lowest one on, stride by stride
(R773). -/
def CollEnt.line (x : CollEnt) (fab : Fab) (m k : Nat) : List Nat :=
  let size := fab.dims.getD k 1
  let c := (fab.coords m).getD k 0
  let all := (List.range (x.n k)).map (fun i => (c + i * x.stride k) % size)
  let base := all.foldl min c
  (List.range (x.n k)).map (fun i => (base + i * x.stride k) % size)

/-- The ring position of member `m` along dimension k. DEDUCED (log 111). -/
def CollEnt.pos (x : CollEnt) (fab : Fab) (m k : Nat) : Nat := (x.line fab m k).idxOf ((fab.coords m).getD k 0)

/-- The member at ring position j of the ring of `m` along dimension k. DEDUCED (log 111). -/
def CollEnt.memberAt (x : CollEnt) (fab : Fab) (m k j : Nat) : Nat :=
  fab.memberAt (setAt (fab.coords m) k ((x.line fab m k).getD (j % x.n k) 0))

/-- The dimensions that have stages, in RING order (R775). -/
def CollEnt.dims (x : CollEnt) : List Nat := (orderDims x.ring).filter (fun k => 1 < x.n k)

/-- A stage: a reduce-scatter, an all-gather or a broadcast along a dimension, or over herds. `cuts` counts the
dimensions whose shards are already taken. -/
structure CollStage where
  reduce : Bool
  bcast : Bool := false
  /-- the dimension, or none for the herd stage -/
  dim : Option Nat
  cuts : Nat
  deriving DecidableEq, Repr

/-- The stages of an entry in order (R775, R780, R785). DEDUCED (log 111). -/
def CollEnt.stages (x : CollEnt) : List CollStage :=
  let ds := x.dims.zipIdx
  let rs := ds.map (fun d => { reduce := true, dim := some d.1, cuts := d.2 : CollStage })
  let ag := ds.reverse.map (fun d => { reduce := false, dim := some d.1, cuts := d.2 : CollStage })
  let hs : List CollStage := if x.hstage then [{ reduce := true, dim := none, cuts := ds.length },
    { reduce := false, dim := none, cuts := ds.length }] else []
  match x.op with
  | 0 => rs ++ hs ++ ag
  | 1 => rs ++ hs
  | 2 => ag
  | 3 => ds.map (fun d => { reduce := false, bcast := true, dim := some d.1, cuts := 0 })
  | _ => []

/-- Shard j of n of a range of units (R774). -/
def cutShard (r : Nat × Nat) (n j : Nat) : Nat × Nat := (r.1 + j * (r.2 - r.1) / n, r.1 + (j + 1) * (r.2 - r.1) / n)

/-- The range of units that member `m` holds after the first `cuts` stages, of `total`. -/
def CollEnt.region (x : CollEnt) (fab : Fab) (m cuts total : Nat) : Nat × Nat :=
  (x.dims.take cuts).foldl (fun r k => cutShard r (x.n k) (x.pos fab m k)) (0, total)

/-- The units of a shard that travel on a ring: the lower half on the positive one (0), the upper on the negative one
(R774). DEDUCED (log 111). -/
def ringHalf (r : Nat × Nat) (ring : Nat) : Nat × Nat :=
  let mid := r.1 + (r.2 - r.1) / 2
  if ring = 0 then (r.1, mid) else (mid, r.2)

/-- The herds of a herd stage, in ring order (R772). -/
def Work.herdList (w : Work) (x : CollEnt) : List Nat := (List.range x.herds).map (fun i => (w.devByte (x.mapBase + i)).toNat)

/-- Members of a stage's ring and this member's position in it. -/
def Work.ringOf (w : Work) (fab : Fab) (x : CollEnt) (s : CollStage) : Nat × Nat :=
  match s.dim with
  | some k => (x.n k, x.pos fab fab.member.toNat k)
  | none => (x.herds, (w.herdList x).idxOf fab.herd.toNat)

/-- The units that a part (stage, ring, shard) covers. DEDUCED (log 111). -/
def Work.partRange (w : Work) (fab : Fab) (x : CollEnt) (s : CollStage) (total ring shard : Nat) : Nat × Nat :=
  if s.bcast then ringHalf (0, total) ring
  else ringHalf (cutShard (x.region fab fab.member.toNat s.cuts total) (w.ringOf fab x s).1 shard) ring

/-- The ring position that a part starts from (R776, R780). -/
def Work.partOrigin (w : Work) (fab : Fab) (x : CollEnt) (s : CollStage) (ring shard : Nat) : Nat :=
  let n := (w.ringOf fab x s).1
  if s.bcast then (match s.dim with
    | some k => x.pos fab x.root k
    | none => 0)
  else if s.reduce then (if ring = 0 then (shard + 1) % n else (shard + n - 1) % n)
  else shard % n

/-- The parts of a stage that this member treats: those that carry units. DEDUCED (log 111). -/
def Work.stageParts (w : Work) (fab : Fab) (x : CollEnt) (s : CollStage) (total : Nat) : List (Nat × Nat) :=
  let n := if s.bcast then 1 else (w.ringOf fab x s).1
  ((List.range 2).flatMap (fun g => (List.range n).map (fun j => (g, j)))).filter (fun y =>
    let r := w.partRange fab x s total y.1 y.2
    decide (r.1 < r.2))

/-! ### Reduction (R776 to R779) -/

/-- An exact sum of two values: infinities and NaN as IEEE 754 has them. -/
def exactSum : FVal → FVal → FVal
  | .nan, _ => .nan
  | _, .nan => .nan
  | .inf a, .inf b => if a = b then .inf a else .nan
  | .inf a, .fin _ _ _ => .inf a
  | .fin _ _ _, .inf b => .inf b
  | x, y => (x.dyad.add y.dyad).val

/-- Two units of FP32 or BF16 elements added, each sum rounded once (R777). -/
def addUnits (f : Fmt) (a b : List Byte) : List Byte :=
  packCodes f (List.zipWith (fun x y => (f.conv (exactSum (f.decode x) (f.decode y))).code) (unpackCodes f a) (unpackCodes f b))

/-- An element of a packed half-tile: dropped, OVER, or its T. -/
inductive PackedEl where
  | drop
  | ovr
  | val (t : BitVec 160)
  deriving DecidableEq, Repr

/-- The elements of a packed half-tile from its tags and records (R514 to R516). -/
def unpackEls : List Nat → List Byte → List PackedEl
  | [], _ => []
  | 0 :: ts, bs =>
    let m := leAt bs 0 8
    let v : Int := if m < 2 ^ 63 then m else (m : Int) - 2 ^ 64
    .val (BitVec.ofInt 160 (v * (2 ^ leAt bs 8 2 : Nat))) :: unpackEls ts (bs.drop 12)
  | 1 :: ts, bs => .val (BitVec.ofNat 160 (leAt bs 0 20)) :: unpackEls ts (bs.drop 20)
  | 2 :: ts, bs => .ovr :: unpackEls ts bs
  | _ :: ts, bs => .drop :: unpackEls ts bs

/-- The elements of a packed half-tile. -/
def halfEls (bs : List Byte) : List PackedEl := unpackEls (unpackPos ((bs.drop 16).take 512)) (bs.drop 528)

/-- Two packed elements added (R520, R778). -/
def PackedEl.add : PackedEl → PackedEl → PackedEl
  | .ovr, _ => .ovr
  | _, .ovr => .ovr
  | .drop, y => y
  | x, .drop => x
  | .val a, .val b => .val (a + b)

/-- The tag and record of a packed element (R515 to R517). -/
def PackedEl.code : PackedEl → Nat × List Byte
  | .drop => (3, [])
  | .ovr => (2, [])
  | .val t => packCell { t := t }

/-- A packed half-tile from its header and elements. -/
def encodeHalf (top flags array : Nat) (els : List PackedEl) : List Byte :=
  let cs := els.map PackedEl.code
  let body := packPos (cs.map (·.1)) ++ cs.flatMap (·.2)
  let n := ceilDiv (16 + body.length) 64 * 64
  fit n (toLE 2 top ++ toLE 1 flags ++ toLE 1 array ++ toLE 4 n ++ zeros 8 ++ body)

/-- Two packed half-tiles added; with different TOP fields every element is OVER (R778, R779).
DEDUCED (log 112). -/
def addHalves (a b : List Byte) : List Byte :=
  let fa := leAt a 2 1
  let flags := if leAt b 2 1 % 2 = 1 then fa ||| 1 else fa
  let els := if leAt a 0 2 = leAt b 0 2 then List.zipWith PackedEl.add (halfEls a) (halfEls b)
    else List.replicate 2048 .ovr
  encodeHalf (leAt a 0 2) flags (leAt a 3 1) els

/-- Two units added, by the entry's form; the mask of the sum is the OR (R777, R778).
DEDUCED (log 112). -/
def CollEnt.add (x : CollEnt) (a b : W64 × List Byte) : W64 × List Byte :=
  (a.1 ||| b.1, match x.form with
    | 0 => addHalves a.2 b.2
    | 1 => addUnits .fp32 a.2 b.2
    | 2 => addUnits .bf16 a.2 b.2
    | _ => a.2)

/-- Half-tiles of a sum whose TOP fields differ (R779). -/
def CollEnt.mismatches (x : CollEnt) (as bs : List (W64 × List Byte)) : Nat :=
  if x.form = 0 then ((as.zip bs).filter (fun y => leAt y.1.2 0 2 ≠ leAt y.2.2 0 2)).length else 0

/-! ### A collective on this module -/

/-- A unit as it travels: its row mask and its bytes. -/
def unitBytes (u : W64 × List Byte) : List Byte := toLE 8 u.1.toNat ++ u.2

/-- A unit from the bytes that travelled. -/
def unitOf (bs : List Byte) : W64 × List Byte := (BitVec.ofNat 64 (leAt bs 0 8), bs.drop 8)

/-- The entry of a collective in progress. -/
def Plan.coll (p : Plan) (c : Coll) : CollEnt := (p.route c.set).colls.getD c.entry 0

/-- The route slot of the firing that a collective belongs to: its PORTS (R759). -/
def Plan.collPorts (p : Plan) (c : Coll) : Nat :=
  match p.firing? c.core c.firing with
  | some r => ((p.route c.set).slots[Rec.param r]?).elim 6 slotPorts
  | none => 6

/-- Units sent to the next member of a ring, or of the herd ring. -/
def Work.sendPart (w : Work) (fab : Fab) (p : Plan) (c : Coll) (s : CollStage) (ring step : Nat)
    (us : List (W64 × List Byte)) : Work :=
  let x := p.coll c
  let e : StepEvent := { time := w.cad.time, core := c.core, firing := c.firing }
  let ps := payloads (us.flatMap unitBytes)
  let n := ps.length
  let mk (dest neg : Nat) (y : List Byte × Nat) : Flit :=
    mkFlit (flitHdr 2 dest (c.entry % 128) (c.entry / 128 % 2 + 2 * (step % 32)) x.ring neg (y.2 == 0)
      (decide (y.2 + 1 = n)) y.1.length) y.1
  let here := w.ringOf fab x s
  match s.dim with
  | some k =>
    let dest := x.memberAt fab fab.member.toNat k (if ring = 0 then here.2 + 1 else here.2 + here.1 - 1)
    let neg := if ring = 0 then 0 else 2 ^ k
    ps.zipIdx.foldl (fun w y => w.sendFlit fab e (2 * k + ring) (y.2 % p.collPorts c) (mk dest neg y)) w
  | none =>
    let next := if ring = 0 then here.2 + 1 else here.2 + here.1 - 1
    let herd := (w.herdList x).getD (next % here.1) 0
    { w with net.upq := w.net.upq ++ ps.zipIdx.map (fun y =>
        { uplink := bits x 185 184, herd := herd, member := fab.member.toNat, flit := mk fab.member.toNat 0 y,
          link := (Config.peerLink (bits x 185 184) herd fab.member.toNat).toNat }) }

/-- The result of a finished collective lands in the stream that its entry names (R772, R775, R780). -/
def Work.land (w : Work) (fab : Fab) (p : Plan) (c : Coll) : Work :=
  let x := p.coll c
  let us := if x.op = 1 then
      let r := x.region fab fab.member.toNat x.dims.length c.units.length
      (c.units.drop r.1).take (r.2 - r.1)
    else c.units
  { w with net := { (w.net.arrive x.core x.stream [] us) with colls := w.net.colls.filter (· ≠ c) } }

/-- Whether every part of the first `n` stages has been treated. -/
def Work.stagesDone (w : Work) (fab : Fab) (x : CollEnt) (c : Coll) (n : Nat) : Bool :=
  (x.stages.take n).zipIdx.all (fun s => (w.stageParts fab x s.1 c.units.length).all (fun y => (s.2, y.1, y.2) ∈ c.parts))

/-- The contribution of this member set up as a collective: for an all-gather at its place among all contributions
(R774, R780). -/
def Work.startColl (w : Work) (fab : Fab) (p : Plan) (c : Coll) : Work :=
  let x := p.coll c
  let n := c.units.length
  let total := if x.op = 2 then (x.dims.map x.n).prod * n else n
  let us := if x.op = 2 then
      let r := x.region fab fab.member.toNat x.dims.length total
      (List.range total).map (fun i => if r.1 ≤ i ∧ i < r.2 then c.units.getD (i - r.1) (0, []) else (0, []))
    else c.units
  let c := { c with units := us }
  let w := { w with net.colls := w.net.colls ++ [c] }
  if w.stagesDone fab x c x.stages.length then w.land fab p c else w

/-- SEND COLLECTIVE takes one unit of its contribution: a packed half-tile, or a tile of its form (R772, R774). -/
def collUnit (fab : Fab) (p : Plan) (r : Rec) (a : At) (w : Work) (k : Nat) : UnitRes :=
  let w := w.pin a
  let set := w.setOf a
  match (p.route set).slots[r.param]? with
  | none => .ok w
  | some s =>
    let x : CollEnt := (p.route set).colls.getD (slotColl s) 0
    let size := match x.form with
      | 1 => 16384
      | 2 => 8192
      | _ => (p.tensor r.desc).slotUse
    let n := if x.half && (x.form == 0 || x.form == 3) then
        (match w.peek p a r.srcA 0 16 with
         | .ok (_, t) => leAt t.bytes 4 4
         | .error _ => 16)
      else size
    match w.pull p a r.srcA n with
    | .error y => .wait w y []
    | .ok (w1, t) =>
      let held := (w1.progAt a).held ++ [{ id := k, mask := t.st.mask, bytes := t.bytes }]
      if k + 1 = r.count then
        let c : Coll := { set := set, entry := slotColl s, core := a.core, firing := a.firing
                          units := held.map (fun h => (h.mask, h.bytes)) }
        .ok ((w1.modCore a.core (fun c => c.modProg a.firing (fun y => { y with held := [] }))).startColl fab p c)
      else .ok (w1.modCore a.core (fun c => c.modProg a.firing (fun y => { y with held := held })))

/-! ### Permute (R786 to R789) -/

/-- Bytes of a chunk. -/
def chunkBytes : Nat := 4 * 2 ^ 20

/-- Members of the group of a member, in ring-position order, the first dimension of RING slowest.
DEDUCED (log 116). -/
def CollEnt.group (x : CollEnt) (fab : Fab) (m : Nat) : List Nat :=
  (x.line fab m 2).flatMap (fun z => (x.line fab m 1).flatMap (fun y => (x.line fab m 0).map (fun c => fab.memberAt [c, y, z])))

/-- The member that this member's shard goes to (R786). -/
def Work.target (w : Work) (fab : Fab) (x : CollEnt) : Nat :=
  let k := (x.group fab fab.member.toNat).idxOf fab.member.toNat
  leNat [w.devByte (x.mapBase + 2 * k), w.devByte (x.mapBase + 2 * k + 1)]

/-- The bytes of chunk k of a shard: start and length. -/
def Tensor.chunk (t : Tensor) (k : Nat) : Nat × Nat := (t.base + chunkBytes * k, min chunkBytes (t.extent - chunkBytes * k))

/-- Chunks of a shard. -/
def Tensor.chunks (t : Tensor) : Nat := ceilDiv t.extent chunkBytes

/-- COLLECTIVE with OP 4: the permute starts, and waits until every chunk is sent and copied; a member that is its own
target copies nothing. DEDUCED (log 116). -/
def permuteUnit (fab : Fab) (p : Plan) (r : Rec) (a : At) (w : Work) : UnitRes :=
  let w := w.pin a
  let set := w.setOf a
  match (p.route set).slots[r.param]? with
  | none => .ok w
  | some s =>
    let x : CollEnt := (p.route set).colls.getD (slotColl s) 0
    let n := (p.tensor r.desc).chunks
    match w.net.colls.find? (fun c => c.core = a.core ∧ c.firing = a.firing) with
    | none =>
      if w.target fab x = fab.member.toNat then .ok w
      else .wait { w with net.colls := w.net.colls ++ [{ set := set, entry := slotColl s, core := a.core, firing := a.firing }] }
        .engine []
    | some c =>
      if n ≤ c.sent ∧ n ≤ c.copied then .ok { w with net.colls := w.net.colls.filter (· ≠ c) }
      else .wait w .engine []

/-- Bytes of one unit of a collective's contribution (R781, R784). -/
def Plan.unitBytes (p : Plan) (x : CollEnt) (r : Rec) : Nat := if x.half then 41536 else (p.tensor r.desc).slotUse

/-- The times of a COLLECTIVE that issues; half-tiles count in full, as in R784. DEDUCED (log 70). -/
def Work.collTimesAt (w : Work) (p : Plan) (r : Rec) (a : At) : Times :=
  let set := p.route (w.setOf a)
  match set.slots[r.param]? with
  | none => {}
  | some s =>
    let x : CollEnt := set.colls.getD (slotColl s) 0
    if x.op = 4 then {} else sendTimes r (8 + p.unitBytes x r) (p.sendRate (slotPorts s)) (w.lags p a.core)

/-- SEND COLLECTIVE: the contribution, or the permute. -/
def collJob (fab : Fab) (p : Plan) (r : Rec) (a : At) : Job :=
  let op (w : Work) : Nat :=
    match (p.route (w.setOf a)).slots[r.param]? with
    | some s => CollEnt.op ((p.route (w.setOf a)).colls.getD (slotColl s) 0)
    | none => 0
  { n := max 1 r.count
    unit := fun w k _ => if op w = 4 then
        (match permuteUnit fab p r a w with
         | .ok w1 => .fin w1
         | y => y)
      else collUnit fab p r a w k
    times := fun w => w.collTimesAt p r a }

/-- A permute goes on after a chunk was sent or copied: the firing ends when all are. -/
def Work.permuteOn (w : Work) (fab : Fab) (p : Plan) (c : Coll) : Work :=
  match p.firing? c.core c.firing with
  | none => w
  | some r => w.advance c.core c.firing (collJob fab p r { core := c.core, firing := c.firing, time := w.now w.cad.offset.toNat })

/-! ### RECV TAKE -/

/-- The unit of a data transfer that stands whole at the front of the bytes received: its row mask, its bytes, the
rest. -/
def cutUnit (n : Nat) (bs : List Byte) : Option ((W64 × List Byte) × List Byte) :=
  if 8 + n ≤ bs.length then some ((BitVec.ofNat 64 (leAt bs 0 8), (bs.drop 8).take n), bs.drop (8 + n)) else none

/-- RECV TAKE moves one tile that has arrived into its stream (R24, R748, R772). -/
def takeUnit (p : Plan) (r : Rec) (a : At) (w : Work) (k : Nat) : UnitRes :=
  let w := w.pin a
  let t := p.tensor r.desc
  let y := (w.net.rx.find? (fun x => x.core = a.core ∧ x.stream = r.dst)).getD { core := a.core, stream := r.dst }
  let set (z : RxStream) (w : Work) : Work :=
    { w with net.rx := w.net.rx.map (fun x => if x.core = a.core ∧ x.stream = r.dst then z else x) }
  let land (u : W64 × List Byte) (z : RxStream) : UnitRes :=
    match w.room p a r.dst 0 u.2.length with
    | some x => .wait w x []
    | none => .ok ((set z w).push p a r.dst { mask := u.1, part := t.firstPos t.innerT k % 128 } u.2)
  match y.tiles with
  | u :: us => land u { y with tiles := us }
  | [] =>
    match cutUnit t.slotUse y.bytes with
    | some x => land x.1 { y with bytes := x.2 }
    | none => .wait w .peer []

/-- RECV TAKE. -/
def takeJob (p : Plan) (r : Rec) (a : At) : Job := { n := r.count, unit := fun w k _ => takeUnit p r a w k }

/-! ### Uplinks (R790 to R794) -/

/-- The number of a peer module in the tables of an uplink. -/
def peerKey (herd member : Nat) : Nat := 1024 * herd + member

/-- Whether an uplink can send: it is up, not paused, and a key is in use (R790, R792). -/
def Uplink.ready (u : Uplink) : Bool := u.linkUp && !u.paused && u.txUse.isSome

/-- The flits at the front of an uplink's queue that one frame carries: up to 34 for one module (R791). -/
def frameFlits (q : List UpFlit) (h m : Nat) : List Flit := ((q.filter (fun x => x.herd = h ∧ x.member = m)).take 34).map (·.flit)

/-- The association in use for transmit spends a packet number: each frame sent has its own (R1039). -/
def Uplink.spend (u : Uplink) : Uplink :=
  { u with tx := u.tx.map (fun a => if some a.an = u.txUse then { a with nextPn := a.nextPn + 1 } else a) }

/-- The bytes of a frame that come before its flits (R791): the Ethernet header, with its tag where VLAN_EN is 1, the SecTAG of IEEE
802.1AE and the EtherType in network byte order, and the uplink header in the A960's (R4). DESIGN CHOICE (log 120). -/
def Fab.frameHead (f : Fab) (k h m seq ack link flits : Nat) : List Byte :=
  let u := f.uplink k
  let a := (u.tx.find? (fun a => some a.an = u.txUse)).getD { sci := 0, an := 0, ssci := 0, key := [] }
  toBE 6 (link % 2 ^ 48) ++ toBE 6 (Config.uplinkMac k).toNat ++
  (if f.vlanEn then toBE 2 0x8100 ++ toBE 2 (8192 * f.pcp.toNat + link / 2 ^ 48 % 4096) else []) ++
  toBE 2 0x88E5 ++ toBE 1 (0x2C + a.an % 4) ++ toBE 1 0 ++ toBE 4 a.nextPn ++ toBE 8 a.sci ++
  toBE 2 f.etherType.toNat ++
  toLE 1 f.herd.toNat ++ toLE 1 h ++ toLE 2 f.member.toNat ++ toLE 2 m ++ toLE 4 seq ++ toLE 4 ack ++ toLE 1 flits ++ toLE 1 0

/-- A frame sent: numbered, protected, and kept until it is acknowledged (R792, R793).
DEDUCED (log 112). -/
def Fab.sendFrame (f : Fab) (k h m link : Nat) (fs : List Flit) : Fab × Out :=
  let u := f.uplink k
  let key := peerKey h m
  let seq := mget u.nextSeq 0 key
  let fr : TxFrame := { herd := h, member := m, seq := seq, flits := fs, link := link }
  let ack := mget u.expect 0 key
  (f.modUplink k (fun u => { u.spend with nextSeq := mset u.nextSeq 0 key (seq + 1), unacked := u.unacked ++ [fr] }),
   Out.frame k h m seq ack fs (f.frameHead k h m seq ack link fs.length))

/-- Frames sent until nothing that can leave waits; `n` bounds their number. -/
def State.flush : Nat → State → State
  | 0, s => s
  | n + 1, s =>
    match s.w.net.upq.find? (fun x => (s.fab.uplink x.uplink).ready) with
    | none => s
    | some x =>
      let mine (y : UpFlit) : Bool := y.uplink = x.uplink ∧ y.herd = x.herd ∧ y.member = x.member
      let q := s.w.net.upq
      let fs := (q.filter mine).take 34
      let r := s.fab.sendFrame x.uplink x.herd x.member x.link (fs.map (·.flit))
      State.flush n { s with fab := r.1
                             w := { s.w with net.upq := (q.filter mine).drop 34 ++ q.filter (fun y => !mine y)
                                             out := s.w.out ++ [r.2] } }

/-- The uplink queues sent on as far as they can be. -/
def State.uplinks (s : State) : State := s.flush s.w.net.upq.length

/-- A frame whose protection or EtherType fails is discarded and counted (R792).
DESIGN CHOICE (log 120). -/
def Fab.frameOk (f : Fab) (k : Nat) (x : Frame) : Bool :=
  x.icvOk && decide (x.etherType = f.etherType.toNat) &&
  (f.uplink k).rx.any (fun s => s.sci = x.sci ∧ s.an = x.an ∧ s.nextPn ≤ x.pn)

/-- The frames of a peer that are next in order, at most `n` (R793). -/
def takeEarly : Nat → List Frame → Nat → List Frame × Nat
  | 0, _, e => ([], e)
  | n + 1, fs, e =>
    match fs.find? (·.seq = e) with
    | none => ([], e)
    | some f => let r := takeEarly n fs (e + 1); (f :: r.1, r.2)

/-! ### Arriving flits -/

/-- The payload bytes that a flit uses. DEDUCED (log 112). -/
def flitData (f : Flit) : List Byte := f.payload.take (bits f.hdr 42 35 + 1)

/-- A collective flit for this member: a permute's chunk goes into the swap slot (R787); others wait for their ring
step. DEDUCED (log 112). -/
def Work.collFlit (w : Work) (f : Flit) : Work :=
  let entry := bits f.hdr 21 14
  match w.plan with
  | none => w
  | some p =>
    match w.net.colls.find? (fun c => c.entry = entry ∧ (p.coll c).op = 4) with
    | none => { w with net.inbox := w.net.inbox ++ [f] }
    | some c =>
      let bs := flitData f
      let w := (w.devWrite {} { core := c.core, firing := c.firing, desc := 0, time := w.cad.time }
        ((p.coll c).swapBase + c.fill) bs).1
      let c' := if bit f.hdr 34 then { c with fill := 0, arrived := c.arrived + 1, swap := some c.arrived }
        else { c with fill := c.fill + bs.length }
      { w with net.colls := w.net.colls.map (fun y => if y = c then c' else y) }

/-- A flit whose CRC is right, at this router, having come in by an input on a bond index: delivered, or forwarded on the same
bond index of its next bond (R754, R755, R757), an unscheduled one by the arbiter of the output (R768). -/
def Work.route (w : Work) (fab : Fab) (input idx : Nat) (f : Flit) : Work :=
  let me := fab.member.toNat
  let dest := bits f.hdr 13 4
  let type := bits f.hdr 3 0
  let bond := if type = 1 ∨ type = 2 then fab.nextBond me dest (bits f.hdr 29 27) (bits f.hdr 32 30)
    else fab.nextUnscheduled me dest
  match bond with
  | some b =>
    let e : StepEvent := { time := w.cad.time, core := 0, firing := 0 }
    match fab.portFor b idx with
    | some p => if type = 1 ∨ type = 2 then w.sendFlit fab e b idx f else w.unscheduledFlit p input f
    | none => w.sendFlit fab e b idx f
  | none =>
    match type with
    | 1 => { w with net := w.net.arrive (bits f.hdr 20 14) (bits f.hdr 26 21) (flitData f) [] }
    | 2 => w.collFlit f
    | _ => w

/-- The beats that a requester withdraws for in `k` consecutive losses (R769).
DESIGN CHOICE (log 72); DEDUCED (log 113). -/
def backoff (k : Nat) : Nat := ((List.range k).map (fun i => 2 ^ (min (i + 1) 9 - 1))).sum

/-- The key of a lane. -/
def laneKey (part port lane : Nat) : Nat := (part * 64 + port) * 32 + lane

/-- Corrected symbols of a lane in its window, the present ones counted; true when their rate is above the limit: a lane
carries 224 Gb/s, 22,400,000 symbols of 10 bits in a millisecond (R731, R745, R923).
DEDUCED (log 114). -/
def Rel.laneRate (r : Rel) (part port lane n : Nat) : Rel × Bool :=
  let key := laneKey part port lane
  let th := r.threshold part 1
  let ts := (mget r.laneRates [] key).filter (fun x => r.runMs < x.1 + th.w) ++ (if n = 0 then [] else [(r.runMs, n)])
  if 22400000 * th.w < (ts.map (·.2)).sum * 10 ^ th.rate then
    ({ r with laneRates := mset r.laneRates [] key [] }, true)
  else ({ r with laneRates := mset r.laneRates [] key ts }, false)

/-- A lasting fault of a lane: its spare lane's turn, or, with that in use, a lasting fault of the port (R923).
DEDUCED (log 114). -/
def Work.laneLasting (w : Work) (fab : Fab) (port lane : Nat) : Work :=
  if (fab.port port).spareUsed then w.lasting 6 port lane 0 else w.lasting 5 port lane 0

/-- The FEC events of a port's lane: uncorrectable codewords, and corrected symbols (R745, R923).
DEDUCED (log 114). -/
def Work.laneEvents (w : Work) (fab : Fab) (port lane symbols uncorr : Nat) : Work :=
  let r := w.rel.countEvent 5 0 port lane 0 uncorr
  let w1 := if uncorr = 0 then w else { w with rel := r.1 }
  let w1 := if uncorr ≠ 0 ∧ r.2 then w1.laneLasting fab port lane else w1
  let q := w1.rel.laneRate 5 port lane symbols
  let w2 := { w1 with rel := q.1 }
  if q.2 then w2.laneLasting fab port lane else w2

/-- FLIT_RECEIVE: the codewords it came in are counted; one that cannot be corrected, or a wrong CRC, asks for
retransmission (R745, R747); a good flit is delivered or forwarded. An unscheduled flit's lost arbitrations are the
back-off of R769. A masked port's input makes no request (R771).
DESIGN CHOICE (log 72, 74); DEDUCED (log 113). -/
def execFlitReceive (port lane : Nat) (flit : Flit) (corrected symbols uncorrectable lostBeats : Nat) (s : State) :
    Host.Outcome State Fault Refusal :=
  .next (
    if (s.fab.port port).masked then s
    else
      let bad := if flitOk flit then uncorrectable else max 1 uncorrectable
      let fab := s.fab.modPort port (fun p => { p with fecCorr := p.fecCorr + BitVec.ofNat 64 corrected
                                                       fecUncorr := p.fecUncorr + BitVec.ofNat 64 bad })
      let w := s.w.laneEvents fab port lane symbols bad
      if 0 < bad then
        { s with fab := { fab with retrans := fab.retrans + 1 }, w := { w with out := w.out ++ [Out.retransmit port] } }
      else
        let type := bits flit.hdr 3 0
        let fab := if type = 4 ∨ type = 5 then { fab with backoff := fab.backoff + BitVec.ofNat 64 (backoff lostBeats) } else fab
        { s with fab := fab, w := w.route fab port (fab.port port).bondIndex.toNat flit })

/-! ### Ring steps -/

/-- The units of a collective with a range replaced. -/
def putUnits (us : List (W64 × List Byte)) (lo : Nat) (new : List (W64 × List Byte)) : List (W64 × List Byte) :=
  us.zipIdx.map (fun u => if lo ≤ u.2 ∧ u.2 < lo + new.length then new.getD (u.2 - lo) u.1 else u.1)

/-- The flits of the first packet whose flits satisfy a test, taken out of a queue. -/
def dropPacket (mine : Flit → Bool) : List Flit → List Flit
  | [] => []
  | f :: fs => if mine f then (if bit f.hdr 34 then fs else dropPacket mine fs) else f :: dropPacket mine fs

/-- Whether a flit carries, for a collective entry, the part that a member at distance `hop` from the part's origin takes from a
ring: sent one hop before, on that ring's direction (R774, R776). -/
def ringFlit (entry : Nat) (s : CollStage) (ring hop : Nat) (f : Flit) : Bool :=
  decide (bits f.hdr 21 14 = entry) && decide (bits f.hdr 26 22 = (hop + 31) % 32) &&
  (match s.dim with
   | some k => decide (bits f.hdr 32 30 = if ring = 0 then 0 else 2 ^ k)
   | none => true)

/-- COLLECTIVE_RING_STEP: the part of a ring's shard that has come from upstream meets the local part, or a part starts
here; it is kept, and goes on unless this member is its last (R776 to R780, R782, R785). A step that cannot begin
changes nothing. -/
def Work.ringStep (w : Work) (fab : Fab) (p : Plan) (c : Coll) (stage ring shard : Nat)
    (up : List (W64 × List Byte)) (waitClk : Nat) : Work :=
  let x := p.coll c
  match x.stages[stage]? with
  | none => w
  | some s =>
    let total := c.units.length
    let here := w.ringOf fab x s
    let r := w.partRange fab x s total ring shard
    let len := r.2 - r.1
    let origin := w.partOrigin fab x s ring shard
    let start := here.2 = origin
    if (ring, shard) ∉ w.stageParts fab x s total ∨ (stage, ring, shard) ∈ c.parts ∨ !w.stagesDone fab x c stage ∨
        (!start ∧ up.length ≠ len) ∨ (start ∧ !up.isEmpty) then w
    else
      let old := (c.units.drop r.1).take len
      let new := if start then old else if s.reduce then List.zipWith x.add up old else up
      let bad := if start ∨ !s.reduce then 0 else x.mismatches up old
      let last := if ring = 0 then (origin + here.1 - 1) % here.1 else (origin + 1) % here.1
      let hop := if ring = 0 then (here.2 + here.1 - origin) % here.1 else (origin + here.1 - here.2) % here.1
      let c' := { c with units := if s.reduce ∧ here.2 ≠ last then c.units else putUnits c.units r.1 new
                         parts := c.parts ++ [(stage, ring, shard)] }
      let w := if waitClk = 0 then w else (w.count c.core .slip waitClk).count c.core .idlePeer waitClk
      let w := if bad = 0 then w else
        ({ w with net.mismatch := w.net.mismatch + BitVec.ofNat 64 bad }).formatEvent
          { time := w.cad.time, core := c.core, firing := c.firing }
      let w := { w with net.colls := w.net.colls.map (fun y => if y = c then c' else y)
                        net.inbox := if start then w.net.inbox else dropPacket (ringFlit c.entry s ring hop) w.net.inbox }
      let w := if here.2 = last then w else w.sendPart fab p c s ring hop new
      if w.stagesDone fab x c' x.stages.length then w.land fab p c' else w

/-- COLLECTIVE_RING_STEP. -/
def execCollectiveRingStep (entry stage ring shard : Nat) (upstream : List (List Byte)) (waitClk : Nat) (s : State) :
    Host.Outcome State Fault Refusal :=
  .next (State.uplinks { s with w :=
    match s.w.plan with
    | none => s.w
    | some p =>
      match s.w.net.colls.find? (fun c => c.entry = entry ∧ (p.coll c).op ≠ 4) with
      | none => s.w
      | some c => s.w.ringStep s.fab p c stage ring shard (upstream.map unitOf) waitClk })

/-- The permute in progress of an entry, with its firing's record. DEDUCED (log 116). -/
def Work.permute? (w : Work) (entry : Nat) : Option (Plan × Coll × Rec) :=
  match w.plan with
  | none => none
  | some p =>
    match w.net.colls.find? (fun c => c.entry = entry ∧ (p.coll c).op = 4) with
    | none => none
    | some c => (p.firing? c.core c.firing).map (fun r => (p, c, r))

/-- A chunk of a permute read out and sent to its target: its flits leave towards the next member of the entry's RING
order, and the collective has one more chunk sent (R786 to R789). DEDUCED (log 116). -/
def Work.sendChunk (w : Work) (fab : Fab) (p : Plan) (c : Coll) (r : Rec) (chunk : Nat) (env : Env) : Work :=
  let t := p.tensor r.desc
  let k := t.chunk chunk
  let w := w.observe c.core env
  let w := (cutRuns [k]).foldl (fun w q => match w.permit q.1 false with
    | some (_, g) => if Reg.target g = 0 then w.readEffects 0 (Reg.target! g q.1) q.2 else w
    | none => w) w
  let x := p.coll c
  let dest := w.target fab x
  let me := fab.member.toNat
  let ps := payloads ((List.range k.2).map (fun i => w.devByte (k.1 + i)))
  let e : StepEvent := { time := w.now env.clk, core := c.core, firing := c.firing }
  let w := ps.zipIdx.foldl (fun w y =>
    match fab.nextBond me dest x.ring 0 with
    | some b => w.sendFlit fab e b (y.2 % p.collPorts c)
        (mkFlit (flitHdr 2 dest (c.entry % 128) (c.entry / 128 % 2 + 2 * (chunk % 32)) x.ring 0 (y.2 == 0)
          (decide (y.2 + 1 = ps.length)) y.1.length) y.1)
    | none => w) w
  { w with net.colls := w.net.colls.map (fun y => if y = c then { c with sent := chunk + 1 } else y) }

/-- PERMUTE_CHUNK_SEND: the next chunk of the shard is read out and sent to its target (R786 to R789). -/
def execPermuteChunkSend (entry chunk : Nat) (env : Env) (s : State) : Host.Outcome State Fault Refusal :=
  .next { s with w :=
    match s.w.permute? entry with
    | none => s.w
    | some (p, c, r) =>
      if chunk ≠ c.sent ∨ (p.tensor r.desc).chunks ≤ chunk then s.w
      else (s.w.sendChunk s.fab p c r chunk env).permuteOn s.fab p { c with sent := chunk + 1 } }

/-- The chunk in the swap slot of a permute copied over the member's own, and the slot empty again (R787, R788).
DEDUCED (log 116). -/
def Work.copyChunk (w : Work) (fab : Fab) (p : Plan) (c : Coll) (r : Rec) (chunk : Nat) (env : Env) : Work :=
  let k := (p.tensor r.desc).chunk chunk
  let w := w.observe c.core env
  let base := (p.coll c).swapBase
  let bs := (List.range k.2).map (fun i => w.devByte (base + i))
  let w := (w.devWrite fab { core := c.core, firing := c.firing, desc := r.desc, time := w.now env.clk } k.1 bs).1
  { w with net.colls := w.net.colls.map (fun y => if y = c then { c with swap := none, copied := chunk + 1 } else y) }

/-- PERMUTE_CHUNK_COPY: the chunk in the swap slot is copied over the member's own, which has been read out, and the
slot is empty again (R787, R788). -/
def execPermuteChunkCopy (entry chunk : Nat) (env : Env) (s : State) : Host.Outcome State Fault Refusal :=
  .next { s with w :=
    match s.w.permute? entry with
    | none => s.w
    | some (p, c, r) =>
      if c.swap ≠ some chunk ∨ c.sent ≤ chunk then s.w
      else (s.w.copyChunk s.fab p c r chunk env).permuteOn s.fab p { c with swap := none, copied := chunk + 1 } }

/-! ### Firings -/

/-- The dead clk of a core's injection arbiter count when its firing issues (R770). DESIGN CHOICE (log 74). -/
def State.injected (s : State) (core : Nat) (env : Env) (w : Work) : State :=
  let issued := decide ((w.core core).issued ≠ (s.w.core core).issued)
  { s with w := w, fab := if issued ∧ env.dead ≠ 0 then { s.fab with dead := s.fab.dead + BitVec.ofNat 64 env.dead } else s.fab }

/-- SEND PUT. -/
def execPut (core idx : Nat) (env : Env) (s : State) : Host.Outcome State Fault Refusal :=
  .next (State.uplinks (s.injected core env (s.w.issue core idx env 8 1 (putJob s.fab))))

/-- SEND COLLECTIVE. -/
def execCollective (core idx : Nat) (env : Env) (s : State) : Host.Outcome State Fault Refusal :=
  .next (s.injected core env (s.w.issue core idx env 8 2 (collJob s.fab)))

/-- RECV TAKE. -/
def execTake (core idx : Nat) (env : Env) (s : State) : Host.Outcome State Fault Refusal :=
  .next { s with w := s.w.issue core idx env 9 1 takeJob }

/-! ### Lanes, ports and links -/

/-- A port that carries less than two lanes is down; another state is an event (R737, R955).
DEDUCED (log 114). -/
def State.portState (s : State) (port : Nat) (st : PortSt) : State :=
  if (s.fab.port port).st = st then s
  else
    let code : PortSt → Nat
      | .down => 0 | .training => 1 | .up => 2 | .absent => 3 | .tooLong => 4 | .miswired => 5 | .idleSpare => 6
    { s with fab := s.fab.modPort port (fun p => { p with st := st })
             w := s.w.event 0x000C 0 port 0 0 0 (code st) }

/-- The ports from which the beat may be taken: on a shortest path to the bellwether, the lowest-numbered first (R103);
`skip` leaves one out. -/
def State.beatPorts (s : State) (skip : Nat) : List Nat :=
  let f := s.fab
  let me := f.member.toNat
  let b := s.w.cad.bellIndex.toNat
  (List.range 40).filter (fun p =>
    let x := f.port p
    p ≠ skip && x.working && decide (x.bond.toNat < 6) &&
    (let k := x.bond.toNat / 2
     let n := f.dims.getD k 1
     let d (m : Nat) : Nat :=
       let a := (f.coords m).getD k 0
       let z := (f.coords b).getD k 0
       min ((z + n - a) % n) ((a + n - z) % n)
     decide (d (f.neighbourOf me x.bond.toNat) < d me)))

/-- A beat port that fails gives way to the next one (R104). -/
def State.beatFrom (s : State) (port : Nat) : State :=
  if s.w.cad.beatPort = some port then { s with w := { s.w with cad.beatPort := (s.beatPorts port).head? } } else s

/-- LANE_FAILURE: the codewords in flight are sent again (R738); the spare lane starts its training where it is free
(R736); with fewer than two lanes the port is down (R737). -/
def execLaneFailure (port lane : Nat) (s : State) : Host.Outcome State Fault Refusal :=
  .next (
    let p := s.fab.port port
    if p.st ≠ .up ∨ 4 < lane ∨ lane ∈ p.failed ∨ (lane = 4 ∧ p.spareBad) then s
    else
      let fab := s.fab.modPort port (fun p =>
        if lane = 4 ∧ !p.spareUsed then { p with spareBad := true, takeover := none }
        else { p with failed := p.failed ++ [lane]
                      takeover := if p.spareUsed ∨ p.spareBad ∨ p.takeover.isSome then p.takeover else some lane })
      let s1 := { s with fab := { fab with retrans := fab.retrans + 1 }
                         w := { s.w with out := s.w.out ++ [Out.retransmit port] } }
      if (s1.fab.port port).lanes < 2 then (s1.portState port .down).beatFrom port else s1)

/-- SPARE_LANE_TAKEOVER: the trained spare lane replaces the failed one at a tick boundary (R736). -/
def Fab.takeover (f : Fab) (port : Nat) : Fab :=
  f.modPort port (fun p => match p.takeover with
    | some l => { p with takeover := none, spareUsed := true, spareFor := BitVec.ofNat 2 l }
    | none => p)

/-- SPARE_LANE_TAKEOVER. -/
def execSpareLaneTakeover (port : Nat) (s : State) : Host.Outcome State Fault Refusal :=
  .next { s with fab := s.fab.takeover port }

/-- Whether every port has finished training (R801). -/
def Fab.allTrained (f : Fab) : Bool := (List.range 40).all (fun p =>
  let st := (f.port p).st; st ≠ .down && st ≠ .training)

/-- LINK_TRAINED: a port finishes training and takes its latency class; a port above 400 ns is not used; a spare port
stands idle; LINKED_N is driven low (R731, R740 to R742, R1072). The lane and port spares of the repair record apply (R952).
DESIGN CHOICE (log 20). -/
def execLinkTrained (port rawNs neighbour neighbourPort : Nat) (s : State) : Host.Outcome State Fault Refusal :=
  .next (
    if 40 ≤ port ∨ (s.fab.port port).st ≠ .training then s
    else
      let rel := s.w.rel
      let home := (rel.portSpares.find? (fun x => x.2 = port)).map (·.1)
      let replaced : Bool := rel.portSpares.any (fun x => decide (x.1 = port))
      let bond := if replaced then 7 else portBond (home.getD port)
      let lane := (rel.laneSpares.find? (fun x => x.1 = port)).map (·.2)
      let st : PortSt := if 400 < rawNs then .tooLong else if bond = 6 then .idleSpare else .up
      let s := s.portState port st
      let fab := s.fab.modPort port (fun p =>
        { p with rawNs := BitVec.ofNat 16 rawNs, cabled := decide (200 < rawNs), linkedN := false
                 neighbour := BitVec.ofNat 10 neighbour, neighbourPort := BitVec.ofNat 6 neighbourPort
                 bond := if rawNs ≤ 400 then BitVec.ofNat 3 bond else 7
                 bondIndex := if rawNs ≤ 400 ∧ bond ≠ 7 then BitVec.ofNat 3 (portIndex (home.getD port)) else 0
                 spareUsed := p.spareUsed || lane.isSome
                 spareFor := match lane with
                   | some l => BitVec.ofNat 2 l
                   | none => p.spareFor
                 failed := match lane with
                   | some l => if l ∈ p.failed then p.failed else p.failed ++ [l]
                   | none => p.failed })
      { s with fab := { fab with trained := fab.allTrained } })

/-- The bonds that the armed plan's active route set uses: those whose member lies elsewhere. -/
def State.usedBond (s : State) (bond : Nat) : Bool := decide (bond < 6) && decide (1 < s.fab.dims.getD (bond / 2) 1)

/-- SIDEBAND_CHANGE: the incoming ALIVE_N and LINKED_N of a port after 2 µs of steady level. A port that becomes masked
is ABSENT, and when its bond is used during a step the peer is lost (R771, R1074 to R1077); a port whose sideband is no
longer asserted may train (R1075). DESIGN CHOICE (log 20, 147). -/
def execSidebandChange (port : Nat) (aliveN linkedN : Bool) (s : State) : Host.Outcome State Fault Refusal :=
  .next (
    if 40 ≤ port then s
    else
      let p := s.fab.port port
      let s := { s with fab := s.fab.modPort port (fun p => { p with aliveIn := aliveN, linkedIn := linkedN }) }
      if aliveN then
        let s := if p.st = .tooLong ∨ p.st = .miswired then s else s.portState port .absent
        let s := s.beatFrom port
        if s.w.stepping ∧ s.usedBond p.bond.toNat ∧ p.st = .up then
          let e : StepEvent := { time := s.w.cad.time, core := 0, firing := 0, which := p.neighbour.toNat }
          { s with w := { s.w with run := s.w.run.blame stPeerLost e } }
        else s
      else
        let s := if (s.fab.port port).working then s else s.beatFrom port
        if p.st = .absent ∨ p.st = .down then s.portState port .training else s)

/-! ### The uplink events -/

/-- UPLINK_FRAME_RECEIVE: a frame that fails is discarded and counted (R792); otherwise its ACK clears frames sent, and
its flits are delivered in SEQ order, none twice (R793). The acknowledgement goes back.
DESIGN CHOICE (log 120). -/
def execUplinkFrameReceive (uplink : Nat) (frame : Frame) (s : State) : Host.Outcome State Fault Refusal :=
  .next (
    if 4 ≤ uplink ∨ !(s.fab.uplink uplink).linkUp then s
    else if !s.fab.frameOk uplink frame then
      { s with fab := s.fab.modUplink uplink (fun u => { u with discarded := u.discarded + 1 }) }
    else
      let key := peerKey frame.srcHerd frame.srcMember
      let u := s.fab.uplink uplink
      let e := mget u.expect 0 key
      let held := u.early.filter (fun f => peerKey f.srcHerd f.srcMember = key)
      let pool := if frame.seq < e ∨ held.any (·.seq = frame.seq) then held else held ++ [frame]
      let got := takeEarly pool.length pool e
      let fab := s.fab.modUplink uplink (fun u =>
        { u.spend with
                 rx := u.rx.map (fun a => if a.sci = frame.sci ∧ a.an = frame.an then { a with nextPn := frame.pn + 1 } else a)
                 unacked := u.unacked.filter (fun t => ¬(t.herd = frame.srcHerd ∧ t.member = frame.srcMember ∧ t.seq < frame.ack))
                 early := u.early.filter (fun f => peerKey f.srcHerd f.srcMember ≠ key) ++ pool.filter (fun f => got.2 ≤ f.seq)
                 expect := mset u.expect 0 key got.2 })
      let w := (got.1.flatMap (·.flits)).foldl (fun w f => w.route fab (40 + uplink) 0 f) s.w
      State.uplinks { s with fab := fab
                             w := { w with out := w.out ++ [Out.frame uplink frame.srcHerd frame.srcMember
                                       (mget u.nextSeq 0 key) got.2 []
                                       (s.fab.frameHead uplink frame.srcHerd frame.srcMember (mget u.nextSeq 0 key) got.2
                                         (Config.peerLink uplink frame.srcHerd frame.srcMember).toNat 0)] } })

/-- UPLINK_RESEND_TIMEOUT: a frame not acknowledged in 8 µs is sent again; after four sends the peer is lost (R794). -/
def execUplinkResendTimeout (uplink peer seq : Nat) (s : State) : Host.Outcome State Fault Refusal :=
  .next (
    let here (t : TxFrame) : Bool := peerKey t.herd t.member = peer ∧ t.seq = seq
    match (s.fab.uplink uplink).unacked.find? here with
    | none => s
    | some t =>
      if t.sends < 4 then
        let fab := s.fab.modUplink uplink (fun u =>
          { u.spend with unacked := u.unacked.map (fun y => if here y then { y with sends := y.sends + 1 } else y) })
        let ack := mget (s.fab.uplink uplink).expect 0 peer
        let again := Out.frame uplink t.herd t.member t.seq ack t.flits
          (s.fab.frameHead uplink t.herd t.member t.seq ack t.link t.flits.length)
        { s with fab := { fab with uplRetry := fab.uplRetry + 1 }, w := { s.w with out := s.w.out ++ [again] } }
      else
        let e : StepEvent := { time := s.w.cad.time, core := 0, firing := 0, which := t.member }
        let w := if s.w.stepping then { s.w with run := s.w.run.blame stPeerLost e } else s.w
        { s with fab := s.fab.modUplink uplink (fun u => { u with unacked := u.unacked.filter (fun y => !here y) }), w := w })

/-- UPLINK_LINK_CHANGE (R805). -/
def execUplinkLinkChange (uplink : Nat) (up : Bool) (s : State) : Host.Outcome State Fault Refusal :=
  .next (if 4 ≤ uplink then s
    else State.uplinks { s with fab := s.fab.modUplink uplink (fun u => { u with linkUp := up }) })

/-- PRIORITY_PAUSE_FRAME: honoured while PFC_EN is 1 (R790, R805). -/
def execPriorityPauseFrame (uplink : Nat) (paused : Bool) (s : State) : Host.Outcome State Fault Refusal :=
  .next (if 4 ≤ uplink ∨ !s.fab.pfcEn then s
    else State.uplinks { s with fab := s.fab.modUplink uplink (fun u => { u with paused := paused }) })

end Sys2Proof.Machine
end

