-- ==== Sys2Proof/Machine/Maint.lean ====
section
/-!
DEFINITION. Maintenance (R929 to R948): what each activity does, its completion, the changes that come in between steps,
self-checks (R440 to R442), scrubs (R943, R944) and row remaps (R331 to R337).
-/

namespace Sys2Proof.Machine

/-! ### Self-checks -/

/-- The row (0 to 63), column (64 to 127) or spare line (128 and 129 rows, 130 and 131 columns) whose window a self-check mismatch
advances: a spare in use counts for the line it replaces, an idle one for itself (R441). DESIGN CHOICE (log 122). -/
def Core.checkedLine (c : Core) (m : Mismatch) : Nat :=
  if m.line < 64 then 64 * b2n m.column + m.line
  else
    let a := mget c.spares {} m.array
    let u := if m.column then (if m.line = 64 then a.col0 else a.col1) else (if m.line = 64 then a.row0 else a.row1)
    if u.used then 64 * b2n m.column + u.part.toNat else 128 + 2 * b2n m.column + (m.line - 64)

/-- A self-check mismatch (R441, R442): counted, logged, its line's window advanced, a detection.
DESIGN CHOICE (log 122). -/
def Work.mismatch (w : Work) (m : Mismatch) : Work :=
  if m.core < w.rel.cls ∧ m.array < 4 ∧ m.line < 66 then
    let w := w.count m.core .gridCheckMismatch 1
    let w := w.event 0x0004 2 m.core m.array m.line 0 (256 * m.array + 128 * b2n m.column + m.line)
    let w := w.partEvent 3 0 m.core m.array ((w.core m.core).checkedLine m) 1
    w.detect m.core .selfCheck
  else w

/-- The self-check of a core's arrays begins: at the start of the check slot, or of an array that is still streaming when its
pass ends, and it lasts as long as the slot (R150, R153). DEDUCED (log 154). -/
def Core.startCheck (start : Nat) (c : Core) : Core :=
  { c with checkEnd := (List.range 4).foldl (fun m k => mset m 0 k (max start (mget c.lastRow 0 k) + 256)) c.checkEnd }

/-- CHECK_SLOT: the arrays' self-check in a check slot of a running step (R150, R153). -/
def execCheckSlot (found : List Mismatch) (s : State) : Host.Outcome State Fault Refusal :=
  .next { s with w :=
    if s.w.stepping ∧ s.w.dev.state = .running ∧ s.w.run.tick.toNat % 1024 = 1023 then
      (List.range s.w.rel.cls).foldl (fun w c => w.modCore c (Core.startCheck w.cad.time)) (found.foldl Work.mismatch s.w)
    else s.w }

/-- IDLE_SELF_CHECK: the self-check outside a running step (R151, R900). -/
def execIdleSelfCheck (found : List Mismatch) (s : State) : Host.Outcome State Fault Refusal :=
  .next { s with w :=
    if s.w.dev.state ∈ started ∧ !s.w.stepping ∧ s.w.cad.tickCount.toNat % 1024 = 1023 then found.foldl Work.mismatch s.w
    else s.w }

/-! ### Scrubs -/

/-- Whether the channel of an access is in its refresh window at an offset (R322, R323). -/
def State.refreshing (s : State) (channel clk : Nat) : Bool := (refreshEnd s.w.period s.pwr.clockSel (channel / 32) clk).isSome

/-- Whether a firing in progress reads or writes memory at a herd time: while one does, every channel counts as claimed.
DESIGN CHOICE (log 162). -/
def Work.memClaimed (w : Work) (t : Nat) : Bool :=
  w.cores.any (fun c => c.2.prog.any (fun x => decide ((w.plan.map (·.stationOf c.1 x.idx)).getD 15 ∈ [0, 1, 2, 4, 6]) &&
    (!x.done || decide (t < x.ends))))

/-- Whether a firing of a core uses its local store at a herd time. -/
def Core.lsClaimed (c : Core) (t : Nat) : Bool := c.board.any (fun e => e.reach.any (fun x => x.1 = t) || e.stop.isNone)

/-- Whether rows of a firing pass through an array of a core at a herd time. -/
def Core.gridClaimed (c : Core) (t : Nat) : Bool := (List.range 4).any (fun k => decide (t ≤ mget c.lastRow 0 k))

/-- Whether an offset of the present tick is a cycle that a firing of a running step claims on a channel, a core's local store or
its arrays (R155): `part` 0, 1 or 2. DESIGN CHOICE (log 162). -/
def Work.claimed (w : Work) (part core clk : Nat) : Bool :=
  let t := w.now clk
  w.stepping && decide (w.dev.state = .running) &&
  (match part with
   | 0 => w.memClaimed t
   | 1 => (w.core core).lsClaimed t
   | _ => (w.core core).gridClaimed t)

/-- Whether maintenance advances at an offset of the present tick: in a running step only in the maintenance slot of a step tick
whose number mod 64 is 32 (R154, R155), otherwise at any time (R157), in HELD as between steps. DESIGN CHOICE (log 162). -/
def Work.maintTime (w : Work) (clk : Nat) : Bool :=
  !(w.stepping && decide (w.dev.state = .running)) || (decide (w.run.tick.toNat % 64 = 32) && decide (clk < w.period / 2))

/-- Whether a channel grants maintenance an access at an offset: no access of another class waits there, it is not in its refresh
window, and no firing claims the cycle (R155, R322, R347). -/
def State.quiet (s : State) (stack ch clk : Nat) : Bool :=
  !s.w.mem.waiting.any (fun a => a.channel = 32 * stack + ch) && !s.refreshing (32 * stack + ch) clk && !s.w.claimed 0 0 clk

/-- PATROL_SCRUB: one channel of each stack, the stacks where an activity needs it or it grants no access left for later (R322, R347,
R943, R944), when maintenance advances (R155). -/
def execPatrolScrub (channel : Nat) (env : Env) (s : State) : Host.Outcome State Fault Refusal :=
  .next { s with w :=
    if s.w.dev.state ∈ started ∧ channel < 32 ∧ !s.pwr.paused ∧ s.w.maintTime env.clk then
      let w := { s.w with mem := s.w.mem.see env, rel.patrol := channel + 1 }
      (List.range 12).foldl (fun w st =>
        if w.rel.acts.any (fun a => Resource.channel st channel ∈ w.rel.resources a.code a.args) ||
            !({ s with w := w } : State).quiet st channel env.clk then w
        else w.scrubChannel st channel) w
    else s.w }

/-- LS_SCRUB reads a core's local store; each word whose parity fails counts (R368, R369).
DESIGN CHOICE (log 126). -/
def Work.scrubLs (w : Work) (core : Nat) : Work := ((w.core core).lsBad).foldl (fun w x => w.parityFailure core x.1) w

/-! ### Row remaps (R331 to R337) -/

/-- The lines with errors that lie in a row. -/
def MemSys.errsInRow (m : MemSys) (stack ch row : Nat) : List Nat :=
  (m.errs.map (·.line)).filter (fun l =>
    let p := m.place (64 * l); p.stack = stack ∧ p.channel = ch ∧ p.row = row)

/-- A row's copy, through the decoder: the lines that it cannot read are zeros in the spare row (R333, R336).
DEDUCED (log 105). -/
def Work.copyRow (w : Work) (stack ch row : Nat) : Work :=
  let ls := w.mem.errsInRow stack ch row
  let zeroed := ls.filter (fun l => w.mem.line l = .lost)
  let w := ls.foldl (fun w l => w.readLine 4 l) w
  { w with mem.remaps := w.mem.remaps.map (fun r =>
      if r.stack = stack ∧ r.channel = ch ∧ r.row = row ∧ !r.inEffect then
        { r with copied := true, due := false, zeroed := zeroed } else r) }

/-- A line as the rewrite leaves it: a corrected one is fresh; an uncorrectable one is zeros, and is listed (R336, R343,
R921). -/
def Work.freshLine (w : Work) (l : Nat) : Work :=
  let lost := w.mem.line l = .lost
  let w := { w with mem.errs := w.mem.errs.filter (fun e => e.line ≠ l) }
  if lost then ({ w with mem.hbm := w.mem.hbm.write (64 * l) (zeros 64) }).listLost l else w

/-- A row remap begins: an entry is taken, or, with the stack's entries all in use, the fault is one of the channel
(R333, R337). DEDUCED (log 105). -/
def Work.remapBegins (w : Work) (stack ch row : Nat) : Work :=
  if 4096 ≤ w.mem.remapsUsed stack then w.lasting 1 stack ch 0
  else if w.mem.remaps.any (fun r => r.stack = stack ∧ r.channel = ch ∧ r.row = row) then w
  else { w with mem.remaps := w.mem.remaps ++ [{ stack := stack, channel := ch, row := row }] }

/-- A line of a spare row that its copy wrote as zeros, listed (R336, R921). -/
def Work.zeroLine (w : Work) (l : Nat) : Work := ({ w with mem.hbm := w.mem.hbm.write (64 * l) (zeros 64) }).listLost l

/-- The spare row serves from now on: it holds what the copy read, and no error of the old row (R334, R336). -/
def Work.remapEffect (w : Work) (r : Remap) : Work :=
  let ls := w.mem.errsInRow r.stack r.channel r.row
  let w := { w with mem.remaps := w.mem.remaps.map (fun x => if x = r then { x with inEffect := true } else x)
                    mem.errs := w.mem.errs.filter (fun e => e.line ∉ ls) }
  r.zeroed.foldl Work.zeroLine w

/-- ROW_REMAP_EFFECT: a remap takes effect at offset 0 of the first tick after its copy is complete; one that a write started
again is copied once more, when maintenance advances (R155, R333 to R336). DEDUCED (log 105). -/
def execRowRemapEffect (stack channel row : Nat) (s : State) : Host.Outcome State Fault Refusal :=
  .next { s with w :=
    match s.w.mem.remaps.find? (fun r => r.stack = stack ∧ r.channel = channel ∧ r.row = row ∧ !r.inEffect) with
    | none => s.w
    | some r =>
      if r.copied then (if r.due ∧ s.w.cad.offset = 0 then s.w.remapEffect r else s.w)
      else if s.w.maintTime s.w.cad.offset.toNat ∧ s.quiet stack channel s.w.cad.offset.toNat then s.w.copyRow stack channel row
      else s.w }

/-! ### Channel retirement (R338 to R343) -/

/-- Where the home-stack pool of a stack starts (R311). -/
def MemSys.homeStart (m : MemSys) (stack : Nat) : Nat :=
  12 * (m.splitX.toNat * gib) + stack * (80 * gib - m.splitX.toNat * gib)

/-- Bytes of a stack's capacity (R306, R341). -/
def MemSys.capacity (m : MemSys) (stack : Nat) : Nat := 5 * gib / 2 * (m.activeList stack).length

/-- A channel is retired: every line of its stack is rewritten through the decoder, the stack's last 2.5 GiB are
discarded and logged, and X is lowered where it no longer fits, which leaves the interleaved pool undefined (R335, R340 to
R344). DEDUCED (log 104). -/
def Work.retireChannel (w : Work) (stack ch : Nat) : Work :=
  let bad := (w.mem.errs.map (·.line)).filter (fun l => decide ((w.mem.place (64 * l)).stack = stack))
  let w := bad.foldl (fun w l => (w.readLine 4 l).freshLine l) w
  let w := { w with mem.hbmStacks := mmod w.mem.hbmStacks {} stack (fun x =>
                      { x with active := x.active &&& ~~~(BitVec.ofNat 32 (2 ^ ch))
                               pending := x.pending.filter (· ≠ BitVec.ofNat 5 ch) })
                    mem.remaps := w.mem.remaps.map (fun (r : Remap) => if r.stack = stack then r.again else r)
                    rel.retired := w.rel.retired ++ [32 * stack + ch] }
  let x := w.mem.splitX.toNat * gib
  let cap := w.mem.capacity stack
  let lo := w.mem.homeStart stack + (cap - x)
  let hi := w.mem.homeStart stack + (cap + 5 * gib / 2 - x)
  let w := { w with mem.hbm := w.mem.hbm.undef lo hi w.mem.draws, mem.draws := w.mem.draws + 1 }
  let w := w.event 0x0007 4 stack ch 0 lo 0
  if x ≤ cap then w
  else
    let w := { w with mem.splitX := BitVec.ofNat 7 w.mem.minGib }
    let w := { w with mem.hbm := w.mem.hbm.undef 0 (12 * x) w.mem.draws, mem.draws := w.mem.draws + 1 }
    w.event 0x0007 4 stack ch 0 0 0

/-! ### Spares -/

/-- A spare bank comes in, its pad set so that with the spare's own 5 clk it has the latency of the bank that it replaces (R365,
R366, R375). What it holds is not said: from here to the next step, which carries no local store over (R367), the bytes of its
pair of banks are free values, and no parity of its own fails. DESIGN CHOICE (log 126). -/
def Core.spareBank (c : Core) (bank draw : Nat) : Core :=
  let u : SpareUse := { part := BitVec.ofNat 6 bank, used := true, pad := BitVec.ofNat 3 (bankLatency bank - 5) }
  let lo := 262144 * (bank / 2)
  let c := { c with lsBad := c.lsBad.filter (fun x => lsBank (8 * x.1) ≠ bank), ls := c.ls.undef lo (lo + 262144) draw }
  if !c.bank0.used then { c with bank0 := u } else if !c.bank1.used then { c with bank1 := u } else c

/-- A spare bank of a core comes in. -/
def Work.bankIn (w : Work) (core bank : Nat) : Work :=
  let x := w.modCore core (·.spareBank bank w.mem.draws)
  { x with mem.draws := x.mem.draws + 1 }

/-- A spare row or column of an array comes in (R434, R460); `line` has bit 6 set for a column (R945). -/
def ArraySpares.use (a : ArraySpares) (line : Nat) : ArraySpares :=
  let u : SpareUse := { part := BitVec.ofNat 6 (line % 64), used := true }
  if line / 64 = 0 then
    if !a.row0.used then { a with row0 := u } else if !a.row1.used then { a with row1 := u } else a
  else
    if !a.col0.used then { a with col0 := u } else if !a.col1.used then { a with col1 := u } else a

/-- Good physical cores of a quadrant, in order. -/
def Rel.goodList (r : Rel) (q : Nat) : List Nat := ((List.range 36).map (36 * q + ·)).filter (· ∉ r.badCores)

/-- The physical cores that serve logical cores of a quadrant. -/
def Rel.inUse (r : Rel) (q : Nat) : List Nat := (List.range (r.cls / 4)).map (fun i => r.phys (r.cls / 4 * q + i))

/-- What belongs to the physical core that serves a logical core. -/
def Core.hw (c : Core) : CoreHw := { bank0 := c.bank0, bank1 := c.bank1, spares := c.spares, lsBad := c.lsBad }

/-- A logical core served by a physical core. -/
def Core.withHw (c : Core) (h : CoreHw) : Core :=
  { c with bank0 := h.bank0, bank1 := h.bank1, spares := h.spares, lsBad := h.lsBad }

/-- A spare core of the logical core's quadrant takes its place (R930, R931): it starts with its own spares and with
clear tallies. DEDUCED (log 124). -/
def Work.spareCore (w0 : Work) (core : Nat) : Work :=
  let w := w0
  let q := w.rel.quadrant core
  let old := w.rel.phys core
  match (w.rel.goodList q).find? (· ∉ w.rel.inUse q) with
  | none => w
  | some new =>
    let w := { w with rel.coreMap := mset w.rel.coreMap (36 * q + core % (w.rel.cls / 4)) core new
                      rel.badCores := w.rel.badCores ++ [old]
                      rel.parked := mset w.rel.parked {} new {} }
    w.modCore core (fun c => { (c.withHw (mget w0.rel.parked {} new)) with cells := [], rows := []
                                                                           ls := c.ls.undef 0 8388608 w.mem.draws })

/-- The class that the good cores allow (R933, R937). -/
def Rel.classOf (r : Rel) : Nat :=
  let k := ((List.range 4).map r.goodCores).foldl min 36
  4 * ((([32, 30, 28, 24] : List Nat).find? (· ≤ k)).getD 0)

/-- What belongs to each physical core (R932). -/
def Work.allHw (w : Work) : SMap CoreHw :=
  (List.range w.rel.cls).foldl (fun m c => mset m {} (w.rel.phys c) (w.core c).hw) w.rel.parked

/-- A pending class change (R934, R935): the faulty cores leave service, logical cores are laid out afresh (R932), and the spares of
a physical core go with it (R460). -/
def Work.changeClass (w : Work) : Work :=
  let rel := { w.rel with badCores := w.rel.badCores ++ w.rel.dying, dying := [], classPending := false }
  let cls := rel.classOf
  let n := cls / 4
  let map := (List.range 4).foldl (fun m q => (List.range n).foldl (fun m i =>
    let p := (rel.goodList q).getD i 0
    if p = 36 * q + i then m else mset m (36 * q + i) (n * q + i) p) m) []
  let rel := { rel with cls := cls, coreMap := map }
  let hw := w.allHw
  let used := (List.range cls).map rel.phys
  let w := (List.range cls).foldl (fun w c => w.modCore c (·.withHw (mget hw {} (rel.phys c))))
    { w with rel := { rel with parked := hw.filter (fun x => x.1 ∉ used) } }
  let w := w.event 0x000A 3 0xFFFF 0 0 0 cls
  { w with out := w.out ++ [Out.pldmEvent 22 cls] }

/-- A spare port takes over a failed port's bond index (R735). -/
def Fab.sparePort (f : Fab) (bad spare : Nat) : Fab :=
  let b := f.port bad
  let f := f.modPort spare (fun p => { p with st := .up, bond := b.bond, bondIndex := b.bondIndex })
  f.modPort bad (fun p => { p with bond := 7, bondIndex := 0 })

/-- A spare lane of a port begins its training (R736). -/
def Fab.spareLane (f : Fab) (port lane : Nat) : Fab :=
  f.modPort port (fun p => if p.spareUsed || p.spareBad then p else { p with takeover := some lane })

/-! ### What an activity does -/

/-- The effect of an activity that comes in between steps (R929), or at its end: a scrub reads its channel or its core's local
store then (R944). DEDUCED (log 105); DESIGN CHOICE (log 126). -/
def State.perform (s : State) (code : Nat) (m : MaintArgs) : State :=
  match code with
  | 0x01 => { s with w := s.w.scrubChannel m.unit m.sub }
  | 0x02 => { s with w := s.w.scrubLs m.unit }
  | 0x04 => { s with w := (s.w.remapBegins m.unit m.sub m.index).copyRow m.unit m.sub m.index }
  | 0x05 => { s with w := s.w.retireChannel m.unit m.sub }
  | 0x06 => { s with w := s.w.bankIn m.unit m.sub }
  | 0x07 => { s with w := s.w.modCore m.unit (fun c => { c with spares := mmod c.spares {} m.sub (·.use m.index) }) }
  | 0x08 => { s with w := s.w.spareCore m.unit }
  | 0x09 =>
    if m.unit = 0xFFFF then { s with w := { s.w with dev.zSpares := min 2 (s.w.dev.zSpares + 1)
                                                     rel.laneSpares := s.w.rel.laneSpares ++ [(m.unit, m.sub)] } }
    else { s with fab := (s.fab.spareLane m.unit m.sub).takeover m.unit, w := { s.w with rel.laneSpares := s.w.rel.laneSpares ++ [(m.unit, m.sub)] } }
  | 0x0A => State.beatFrom { s with fab := s.fab.sparePort m.unit m.sub
                                    w := { s.w with rel.portSpares := s.w.rel.portSpares ++ [(m.unit, m.sub)] } } m.unit
  | _ => s

/-- What begins when an activity starts to run: a row remap takes its entry, a spare lane is trained (R333, R736). -/
def State.begins (s : State) (code : Nat) (m : MaintArgs) : State :=
  match code with
  | 0x04 => { s with w := s.w.remapBegins m.unit m.sub m.index }
  | 0x05 => { s with w := { s.w with mem := s.w.mem.retirePending m.unit m.sub } }
  | 0x09 => if m.unit = 0xFFFF then s else { s with fab := s.fab.spareLane m.unit m.sub }
  | _ => s

/-- The body of a finished activity's record (R947). -/
def actBody (a : Activity) (outcome ms : Nat) : List Byte :=
  [BitVec.ofNat 8 a.code, BitVec.ofNat 8 (b2n a.auto), BitVec.ofNat 8 outcome, 0] ++ toLE 8 ms

/-- The image of the slot that the A960 did not boot from, replaced (R1011); a raise that waits for the image it held is
gone with it. DEDUCED (log 144). -/
def Sec.setOther (x : Sec) (img : Option FwImage) : Sec :=
  let raise := match x.raise with
    | some (b, v) => if b = x.bootB then some (b, v) else none
    | none => none
  if x.bootB then { x with slotA := img, raise := raise } else { x with slotB := img, raise := raise }

/-- The activity kept with its finished record (R948). -/
def Work.keepAct (w : Work) (slot : Nat) (a : Activity) : Work :=
  { w with dev.results := mmod w.dev.results none slot (fun r => r.map (fun x => { x with maint := some a })) }

/-- An activity is done (R947, R955): its result slot is ready, an event is logged. -/
def State.actDone (s : State) (a : Activity) (status outcome : Nat) : State :=
  let s := { s with w := { s.w with rel.acts := s.w.rel.acts.erase a } }
  let s := { s with w := s.w.event 0x0009 0 a.args.unit a.args.sub (if a.code = 0x04 then a.args.index else a.code) 0 outcome }
  match a.slot with
  | some k =>
    let s := s.finish k status (actBody a outcome s.w.rel.runMs)
    { s with w := s.w.keepAct k a }
  | none => s

/-- Whether a change waits for the next entry to LOADED or STANDBY (R929, R934). -/
def Work.changeWaits (w : Work) : Bool := w.rel.acts.any (fun a => a.state = .pending) || w.rel.classPending

/-- Every change that waits, carried out in the order in which they were accepted, the class change last. -/
def State.carryOut (s : State) : State :=
  let s := (s.w.rel.acts.filter (fun a => a.state = .pending)).foldl (fun s a => (s.perform a.code a.args).actDone a stOk 0) s
  if s.w.rel.classPending then { s with w := s.w.changeClass } else s

/-- An entry to LOADED or STANDBY: changes that wait are carried out in MAINT first (R859, R929). -/
def State.enter (s : State) (st : DevState) (cause : Cause) : State :=
  if s.w.changeWaits then
    let s := { s with w := s.w.setState .maint .maintenance }
    let s := s.carryOut
    { s with w := s.w.setState st cause }
  else { s with w := s.w.setState st cause }

/-! ### Starting and finishing -/

/-- MAINT_ACTIVITY_START: the first waiting activity that conflicts with none before it starts (R941). -/
def execMaintActivityStart (s : State) : Host.Outcome State Fault Refusal :=
  let acts := s.w.rel.acts
  let free (a : Activity) : Bool := acts.all (fun b =>
    decide (b.state = .waiting) || decide (b = a) || !s.w.rel.conflict a.code a.args b)
  match acts.find? (fun a => decide (a.state = .waiting) && free a) with
  | none => .next s
  | some a =>
    let b := { a with state := startState a.code }
    let s := { s with w := { s.w with rel.acts := acts.map (fun x => if x = a then b else x) } }
    .next (s.begins a.code a.args)

/-- The activities in progress (R948). -/
def Rel.inProgress (r : Rel) (ordinal : Nat) : Option Activity := r.acts[ordinal]?

/-- Whether a running activity advances now (R938): a scrub, a check and a row copy when maintenance does, where no firing claims
the resource and the channel grants it an access (R155, R322, R347); a spare lane at a tick boundary; an image at once. -/
def State.advances (s : State) (a : Activity) : Bool :=
  if a.code = 0x09 then decide (s.w.cad.offset = 0)
  else if a.code = 0x0B then true
  else
    let clk := s.w.cad.offset.toNat
    s.w.maintTime clk &&
    (match a.code with
     | 1 => s.quiet a.args.unit a.args.sub clk
     | 4 => s.quiet a.args.unit a.args.sub clk
     | 2 => !s.w.claimed 1 a.args.unit clk
     | 3 => !s.w.claimed 2 a.args.unit clk
     | _ => true)

/-- A running activity has finished its work (R947); an image that failed leaves its slot empty and completes with
ST_AUTH_FAIL (R1011). DEDUCED (log 143). -/
def State.finishAct (s : State) (a : Activity) : State :=
  if a.state = .running ∧ !s.pwr.paused ∧ s.advances a then
    if a.code = 0x0B then
      let s := { s with sec := { (s.sec.setOther (if a.good then s.sec.staged else none)) with staged := none } }
      s.actDone a (if a.good then stOk else stAuthFail) 0
    else
      let s := if a.code = 0x03 then { s with w := a.found.foldl Work.mismatch s.w } else s
      (s.perform a.code a.args).actDone a stOk 0
  else s

/-- MAINT_ACTIVITY_DONE. -/
def execMaintActivityDone (ordinal : Nat) (s : State) : Host.Outcome State Fault Refusal :=
  match s.w.rel.inProgress ordinal with
  | none => .next s
  | some a => .next (s.finishAct a)

/-! ### MAINT_START (R940, R945 to R947) -/

/-- The states in which MAINT_START is allowed (R861). -/
def maintStates : List DevState := [.standby, .joined, .loaded, .running, .held]

/-- Whether a channel exists and is active. -/
def MemSys.channelOk (m : MemSys) (stack ch : Nat) : Bool :=
  decide (stack < 12) && decide (ch < 32) && (m.stack stack).active.getLsbD ch

/-- Whether an activity's target exists and a spare of its kind is left (R946). -/
def State.targetOk (s : State) (code : Nat) (m : MaintArgs) : Bool :=
  let core := decide (m.unit < s.w.rel.cls)
  match code with
  | 0x01 => s.w.mem.channelOk m.unit m.sub
  | 0x02 => core
  | 0x03 => core
  | 0x04 => s.w.mem.channelOk m.unit m.sub && decide (m.index < 5 * gib / 2 / Config.hbmRowBytes)
  | 0x05 => s.w.mem.channelOk m.unit m.sub
  | 0x06 => core && decide (m.sub < 64) && s.w.hasSpare 2 m.unit m.sub 0
  | 0x07 => core && decide (m.sub < 4) && decide (m.index < 128) && s.w.hasSpare 3 m.unit m.sub m.index
  | 0x08 => core && decide (0 < s.w.rel.sparesLeft (s.w.rel.quadrant m.unit))
  | 0x09 =>
    if m.unit = 0xFFFF then decide (m.sub < 18) && decide (s.w.dev.zSpares < 2)
    else
      let p := s.fab.port m.unit
      decide (m.unit < 40) && decide (m.sub < 4) && !p.spareUsed && !p.spareBad
  | 0x0A =>
    let p := s.fab.port m.sub
    decide (m.unit < 40) && decide (portBond m.unit < 6) && decide (m.sub < 40) && decide (p.st = .idleSpare) &&
    decide (m.unit / 20 = m.sub / 20) && decide (p.neighbour = (s.fab.port m.unit).neighbour)
  | _ => true

/-- The description of the activity in the way (R940). -/
def wayBytes (a : Activity) : List Byte :=
  [BitVec.ofNat 8 a.code, BitVec.ofNat 8 (b2n a.auto)] ++ toLE 2 (a.slot.getD 0xFFFF) ++ toLE 2 a.args.unit ++
  toLE 2 a.args.sub ++ toLE 4 a.args.index

/-- MAINT_START of an activity: refused for a bad target or a conflict, otherwise it takes a result slot and starts;
`work` is what it does at once, `good` whether a staged image verified, `found` what a check will find.
DEDUCED (log 57). -/
def State.maintStart (s : State) (ring code : Nat) (m : MaintArgs) (good : Bool) (work : State → State)
    (found : List Mismatch := []) : State :=
  s.command ring maintStates (fun s =>
    if !s.targetOk code m then s.refuse stBadParam
    else match s.w.rel.inTheWay code m with
      | some a => { s := s, status := stMaintConflict, result := wayBytes a }
      | none =>
        if code = 0x0B ∧ s.sec.pldmBusy then s.refuse stMaintConflict
        else s.withSlot ring 0x0500 (fun s k =>
          let a : Activity := { code := code, auto := false, slot := some k, args := m, state := startState code
                                good := good, found := found }
          work ({ s with w := { s.w with rel.acts := s.w.rel.acts ++ [a] } }.begins code m)))

/-- MAINT_START HBM_SCRUB (R944). -/
def execHbmScrub (ring : Nat) (m : MaintArgs) (env : Env) (s : State) : Host.Outcome State Fault Refusal :=
  .next (s.maintStart ring 0x01 m true (fun s => { s with w := { s.w with mem := s.w.mem.see env } }))

/-- MAINT_START LS_SCRUB. DESIGN CHOICE (log 126). -/
def execLsScrub (ring : Nat) (m : MaintArgs) (env : Env) (s : State) : Host.Outcome State Fault Refusal :=
  .next (s.maintStart ring 0x02 m true (fun s =>
    { s with w := { (s.w.observe m.unit { words := env.words, clk := s.w.cad.offset.toNat }) with cad := s.w.cad } }))

/-- MAINT_START ARRAY_CHECK. -/
def execArrayCheck (ring : Nat) (m : MaintArgs) (found : List Mismatch) (s : State) : Host.Outcome State Fault Refusal :=
  .next (s.maintStart ring 0x03 m true id (found.filter (fun x => x.core = m.unit)))

/-- MAINT_START ROW_REMAP. -/
def execRowRemap (ring : Nat) (m : MaintArgs) (env : Env) (s : State) : Host.Outcome State Fault Refusal :=
  .next (s.maintStart ring 0x04 m true (fun s => { s with w := { s.w with mem := s.w.mem.see env } }))

/-- MAINT_START CHANNEL_RETIRE. -/
def execChannelRetire (ring : Nat) (m : MaintArgs) (s : State) : Host.Outcome State Fault Refusal :=
  .next (s.maintStart ring 0x05 m true id)

/-- MAINT_START SPARE_BANK. -/
def execSpareBank (ring : Nat) (m : MaintArgs) (s : State) : Host.Outcome State Fault Refusal :=
  .next (s.maintStart ring 0x06 m true id)

/-- MAINT_START SPARE_ARRAY_LINE. -/
def execSpareArrayLine (ring : Nat) (m : MaintArgs) (s : State) : Host.Outcome State Fault Refusal :=
  .next (s.maintStart ring 0x07 m true id)

/-- MAINT_START SPARE_CORE. -/
def execSpareCore (ring : Nat) (m : MaintArgs) (s : State) : Host.Outcome State Fault Refusal :=
  .next (s.maintStart ring 0x08 m true id)

/-- MAINT_START SPARE_LANE. -/
def execSpareLane (ring : Nat) (m : MaintArgs) (s : State) : Host.Outcome State Fault Refusal :=
  .next (s.maintStart ring 0x09 m true id)

/-- MAINT_START SPARE_PORT. -/
def execSparePort (ring : Nat) (m : MaintArgs) (s : State) : Host.Outcome State Fault Refusal :=
  .next (s.maintStart ring 0x0A m true id)

/-! ### MAINT_QUERY, THRESHOLD_SET -/

/-- The fields of a query's result (R948). -/
def queryBytes (a : Activity) (state progress count : Nat) : List Byte :=
  [BitVec.ofNat 8 a.code, BitVec.ofNat 8 (b2n a.auto), BitVec.ofNat 8 state, 0] ++ toLE 2 a.args.unit ++
  toLE 2 a.args.sub ++ toLE 4 a.args.index ++ toLE 2 progress ++ toLE 2 count

/-- The answer about an activity in progress. DESIGN CHOICE (log 125). -/
def Work.queryAct (w : Work) (a : Activity) : List Byte :=
  let n := w.rel.acts.length
  match a.state with
  | .waiting => queryBytes a 0 0 n
  | .running => queryBytes a 1 (Config.freeProgress a.code w.cad.tickCount.toNat).toNat n
  | .pending => queryBytes a 2 0 n

/-- The answer of MAINT_QUERY: by result slot, or by ordinal; none when it names no activity (R948). -/
def Work.query (w : Work) (slot ordinal : Nat) : Option (List Byte) :=
  if slot = 0xFFFF then (w.rel.inProgress ordinal).map w.queryAct
  else match w.rel.acts.find? (fun a => a.slot = some slot) with
    | some a => some (w.queryAct a)
    | none => ((mget w.dev.results none slot).bind (·.maint)).map (fun a => queryBytes a 3 1024 w.rel.acts.length)

/-- MAINT_QUERY. -/
def execMaintQuery (ring slot ordinal : Nat) (s : State) : Host.Outcome State Fault Refusal :=
  .next (s.command ring started (fun s => match s.w.query slot ordinal with
    | some bs => { s := s, status := stOk, result := bs }
    | none => s.refuse stBadParam))

/-- The limits of a threshold (R923): T, W in seconds; a lane's rate limit. DEDUCED (log 114). -/
def thresholdOk (part crit t w rate : Nat) : Bool :=
  let hours (lo hi : Nat) : Bool := decide (3600 * lo ≤ w) && decide (w ≤ 3600 * hi)
  let upTo (n : Nat) : Bool := decide (1 ≤ t) && decide (t ≤ n)
  match part, crit with
  | 0, 0 => upTo 16 && hours 1 720
  | 1, 0 => decide (16 ≤ t) && decide (t ≤ 4096) && hours 1 720
  | 1, 1 => upTo 16 && hours 1 720
  | 2, 0 => upTo 16 && decide (60 ≤ w) && decide (w ≤ 86400)
  | 3, 0 => upTo 16 && hours 1 720
  | 4, 0 => upTo 16 && decide (60 ≤ w) && decide (w ≤ 86400)
  | 5, 0 => upTo 64 && decide (1 ≤ w) && decide (w ≤ 60)
  | 7, 0 => upTo 64 && decide (1 ≤ w) && decide (w ≤ 60)
  | 5, 1 => decide (3 ≤ rate) && decide (rate ≤ 8) && decide (1 ≤ w) && decide (w ≤ 60)
  | 7, 1 => decide (3 ≤ rate) && decide (rate ≤ 8) && decide (1 ≤ w) && decide (w ≤ 60)
  | 6, 0 => decide (t = 1)
  | _, _ => false

/-- THRESHOLD_SET (R949, R950). -/
def execThresholdSet (ring part criterion t w rateExp : Nat) (s : State) : Host.Outcome State Fault Refusal :=
  .next (s.command ring [.standby, .joined, .loaded] (fun s =>
    if thresholdOk part criterion t w rateExp then
      let th : Threshold := { t := t, w := 1000 * w, rate := rateExp }
      let rel := { s.w.rel with thresholds := mset s.w.rel.thresholds none (2 * part + criterion) (some th) }
      { s := { s with w := { s.w with rel := rel } }, status := stOk }
    else s.refuse stBadParam))

end Sys2Proof.Machine
end

