-- ==== Sys2Proof/Machine/Regs.lean ====
section
/-!
DEFINITION. The control window (R830, R834 to R845): what each register reads as, and what a write of it does.
-/

namespace Sys2Proof.Machine

/-! ### The device block -/

/-- DEV_STATE (R836). -/
def State.devState (s : State) : Nat :=
  let d := s.w.dev
  pack [(d.state.code, 4), (d.prev.code, 4), (d.cause.code, 8), (b2n d.load.isSome, 1), (b2n s.w.run.queued.isSome, 1),
    (b2n (decide (d.state = .held) && d.held), 1), (b2n s.w.policy?.isSome, 1)]

/-- DEV_CAPACITY (R837). -/
def State.devCapacity (s : State) : Nat :=
  let r := s.w.rel
  pack [(r.cls, 8), (((List.range 4).map r.goodCores).sum, 8), (r.sparesLeft 0, 4), (r.sparesLeft 1, 4),
    (r.sparesLeft 2, 4), (r.sparesLeft 3, 4), (b2n s.pwr.clockSel, 1)]

/-- RESULT_READYk: the ready bits of result slots 64k to 64k + 63. -/
def Dev.readyBits (d : Dev) (k : Nat) : Nat :=
  ((List.range 64).map (fun b => match mget d.results none (64 * k + b) with
    | some r => if r.ready then 2 ^ b else 0
    | none => 0)).sum

/-- A register of the device block (R835). -/
def State.readDev (s : State) (o : Nat) : Nat :=
  let d := s.w.dev
  match o with
  | 0x000 => 0xA960 + 2 * 2 ^ 16
  | 0x008 => s.devState
  | 0x010 => s.devCapacity
  | 0x018 => d.notify.toNat
  | 0x020 => d.notifyMask.toNat
  | 0x028 => d.intAddr.toNat
  | 0x030 => d.intData.toNat
  | 0x038 => d.noteBase.toNat
  | 0x040 => pack [(d.noteLog2.toNat, 8), (b2n d.noteEnable, 1)]
  | 0x050 => pack [(d.noteTail.toNat, 16), (b2n d.notePhase, 1)]
  | 0x058 => d.noteLost.toNat
  | 0x060 => d.flockSelf.toNat
  | 0x068 => d.counterSelect.toNat
  | 0x080 => d.readyBits 0
  | 0x088 => d.readyBits 1
  | 0x090 => d.readyBits 2
  | 0x098 => d.readyBits 3
  | _ => if 0x100 ≤ o ∧ o < 0x300 then (mget d.flockMap 0 ((o - 0x100) / 8)).toNat else 0

/-! ### Cadence, memory, Cumulus -/

/-- The module's sum of a per-core counter (R161). -/
def Work.sumCtr (w : Work) (k : Ctr) : Nat := ((List.range w.rel.cls).map (fun c => (mget (w.core c).counts 0 k.off).toNat)).sum

/-- A register of the cadence block (R163 to R168). DEDUCED (log 21). -/
def Work.readCad (w : Work) (o : Nat) : Nat :=
  let c := w.cad
  match o with
  | 0x00 => c.tickCount.toNat
  | 0x08 => pack [(if w.stepping then w.run.tick.toNat else 0, 32), (c.offset.toNat, 17)]
  | 0x10 => pack [(c.tickClk.toNat, 24), (c.slackClk.toNat, 16), (c.stretchMax.toNat, 7)]
  | 0x18 => pack [(c.lock.toNat, 2), (b2n c.bellwether, 1), (b2n c.ppsOk, 1), (b2n c.ptpOk, 1), (b2n c.beatLost, 1),
      (b2n c.configReject, 1), (b2n c.stopPending, 1), (c.holdLead.toNat, 8), (c.bellIndex.toNat, 10)]
  | 0x20 => pack [(c.herdErr.toNat, 16), (c.beatDelay.toNat, 16), (c.dmax.toNat, 16),
      (if c.bellwether then c.xherdErr.toNat else 0, 16)]
  | 0x28 => c.stretchCount.toNat
  | 0x30 => c.stretchClk.toNat
  | 0x38 => c.holdCount.toNat
  | 0x40 => c.lagMax.toNat
  | 0x48 => w.sumCtr .idlePeer
  | 0x50 => w.sumCtr .idleCadence
  | 0x58 => w.sumCtr .idleHost
  | 0x60 => w.sumCtr .idleSlip
  | 0x68 => w.sumCtr .elasticIdle
  | 0x70 => w.sumCtr .idleMaint
  | 0x78 => w.sumCtr .idleReplay
  | _ => 0

/-- Whether a channel is retire-pending. -/
def MemSys.anyPending (m : MemSys) : Bool := (List.range 12).any (fun s => !(m.stack s).pending.isEmpty)

/-- MEM_STACK_STATUS of a stack (R373). -/
def MemSys.stackStatus (m : MemSys) (s : Nat) : Nat :=
  let x := m.stack s
  pack [(x.active.toNat, 32), (m.remapsUsed s, 13), (b2n (!x.pending.isEmpty), 1), ((x.pending.headD 0).toNat, 10), (x.temp.toNat, 8)]

/-- A register of the memory block (R370 to R374). -/
def MemSys.readMem (m : MemSys) (o : Nat) : Nat :=
  match o with
  | 0x00 => m.splitX.toNat
  | 0x08 => pack [(b2n m.trained, 1), (b2n m.configReject, 1), (b2n m.anyPending, 1), (m.activeCount, 9), (m.minGib, 7)]
  | 0x10 => m.ce.toNat
  | 0x18 => m.ue.toNat
  | 0x20 => m.odc.toNat
  | 0x28 => m.hostReads.toNat
  | 0x30 => m.hostWrites.toNat
  | 0x38 => m.waitMax.toNat
  | _ => if 0x40 ≤ o ∧ o < 0xA0 then m.stackStatus ((o - 0x40) / 8) else 0

/-- A register of the Cumulus block (R726 to R729); without an armed policy there are no pages. -/
def Work.readCum (w : Work) (o : Nat) : Nat :=
  let c := w.cum
  match o with
  | 0x00 =>
    let low := match w.policy? with
      | some p => decide (w.freePages p < p.low)
      | none => false
    pack [(b2n w.policy?.isSome, 1), (b2n low, 1), (b2n w.tierFullNow, 1), (b2n c.tierFullSeen, 1), (b2n c.next.isSome, 1),
      (b2n (!c.fetchQueue.isEmpty || !c.fetching.isEmpty), 1)]
  | 0x08 => match w.policy? with
    | some p => w.freePages p
    | none => 0
  | 0x10 => match w.policy? with
    | some p => w.freeTier p
    | none => 0
  | 0x18 => c.openSlots.length
  | 0x20 => c.stepCount.toNat
  | 0x28 => c.appends.toNat
  | 0x30 => c.deferredCount.toNat
  | 0x38 => c.evictions.toNat
  | 0x40 => c.spills.toNat
  | 0x48 => c.fetches.toNat
  | 0x50 => c.demand.toNat
  | 0x58 => c.stallCount.toNat
  | _ => 0

/-! ### Fabric, mapping, reliability -/

/-- The codes of a port's states (R803). -/
def PortSt.code : PortSt → Nat
  | .down => 0 | .training => 1 | .up => 2 | .absent => 3 | .tooLong => 4 | .miswired => 5 | .idleSpare => 6

/-- FAB_PORT_STATUS (R803). -/
def Port.status (p : Port) : Nat :=
  pack [(p.st.code, 3), (b2n p.cabled, 1), (p.rateCode, 2), (b2n p.spareUsed, 1), (p.spareFor.toNat, 2), (p.bond.toNat, 3),
    (p.bondIndex.toNat, 3), (p.neighbour.toNat, 10), (p.neighbourPort.toNat, 7), (p.rawNs.toNat, 16)]

/-- UPL_CONFIG (R804). -/
def Fab.uplConfig (f : Fab) : Nat := pack [(f.etherType.toNat, 16), (b2n f.vlanEn, 1), (f.pcp.toNat, 3), (b2n f.pfcEn, 1)]

/-- A register of the fabric block (R800 to R806). DEDUCED (log 118). -/
def State.readFab (s : State) (o : Nat) : Nat :=
  let f := s.fab
  match o with
  | 0x00 => pack [(b2n f.trained, 1), (b2n f.joined, 1), (s.w.run.activeSet.toNat, 3), (b2n f.degraded, 1),
      (b2n (!s.w.net.colls.isEmpty), 1), (((List.range 40).filter (fun p => (f.port p).st = .up)).length, 6)]
  | 0x08 => pack [(f.xM1.toNat, 4), (f.yM1.toNat, 3), (f.zM1.toNat, 3), (f.member.toNat, 10), (f.herd.toNat, 8)]
  | 0x10 => f.retrans.toNat
  | 0x18 => f.backoff.toNat
  | 0x20 => f.dead.toNat
  | 0x28 => s.w.net.mismatch.toNat
  | 0x30 => f.eventLost.toNat
  | 0x38 => f.uplRetry.toNat
  | 0x40 => f.uplConfig
  | _ =>
    if 0x48 ≤ o ∧ o < 0x68 then
      let u := f.uplink ((o - 0x48) / 8)
      pack [(b2n u.linkUp, 1), (b2n (!u.tx.isEmpty), 1), (b2n u.paused, 14), (u.discarded.toNat, 32)]
    else if 0x100 ≤ o ∧ o < 0x240 then (f.port ((o - 0x100) / 8)).status
    else if 0x300 ≤ o ∧ o < 0x440 then (f.port ((o - 0x300) / 8)).fecCorr.toNat
    else if 0x500 ≤ o ∧ o < 0x640 then (f.port ((o - 0x500) / 8)).fecUncorr.toNat
    else 0

/-- A register of the mapping block (R818 to R820). -/
def StageMap.readMap (m : StageMap) (o : Nat) : Nat :=
  if o = 0 then pack [(b2n m.unreleased, 1), (b2n m.underflow, 1), (m.underflowStage.toNat, 4), (m.unreleasedMask.toNat, 16)]
  else if 0x40 ≤ o ∧ o < 0xC0 then (mget m.live 0 ((o - 0x40) / 8)).toNat
  else if 0xC0 ≤ o ∧ o < 0x140 then (mget m.peak 0 ((o - 0xC0) / 8)).toNat
  else 0

/-- A register of the reliability block (R958 to R961). -/
def Work.readRel (w : Work) (o : Nat) : Nat :=
  let r := w.rel
  match o with
  | 0x00 => pack [(b2n r.replayActive, 1), (b2n r.classPending, 1), (b2n w.changeWaits, 1), (b2n r.lostListFull, 1),
      (b2n r.recordError, 4), (r.acts.length, 8), (r.replaysThisStep.toNat, 4)]
  | 0x08 => pack [(r.replayLimit.toNat, 4), (b2n r.autoSpare, 4), (r.patrolHours.toNat, 8)]
  | 0x10 => r.replayCount.toNat
  | 0x18 => r.dataLost.toNat
  | 0x20 => r.lasting.toNat
  | 0x28 => r.tableCe.toNat
  | 0x30 => r.eventLost.toNat
  | 0x38 => w.mem.lost.length
  | 0x40 => r.rowOverflow.toNat
  | _ => 0

/-! ### Rings, power, security, the counter window -/

/-- A register of a ring pair (R844); the doorbells are write-only and read as zero.
DESIGN CHOICE (log 53). -/
def Ring.readRing (r : Ring) (o : Nat) : Nat :=
  match o with
  | 0x00 => r.sqBase.toNat
  | 0x08 => r.cqBase.toNat
  | 0x10 => pack [(r.log2.toNat, 8), (b2n r.enable, 1)]
  | 0x28 => pack [(r.sqHead.toNat, 16), (r.cqTail.toNat, 16), (b2n r.phase, 1), (b2n r.error, 1)]
  | _ => 0

/-- The cap in force at a step tick (R983). -/
def Plan.capAt (p : Plan) (tick : Nat) : Nat :=
  ((p.caps.filter (fun e => bits e 23 0 ≤ tick)).map (fun e => bits e 35 24)).getLastD 3000

/-- The cap in force now: 3,000 W outside a step. -/
def Work.cap (w : Work) : Nat :=
  match w.plan with
  | some p => if w.stepping then p.capAt w.run.tick.toNat else 3000
  | none => 3000

/-- A register of the power and thermal block (R997 to R1003). -/
def State.readPwr (s : State) (o : Nat) : Nat :=
  let p := s.pwr
  match o with
  | 0x00 => pack [(b2n p.powerGood, 1), (p.lastReset.toNat, 2), (b2n (decide (s.w.cap < 3000)), 13), (s.w.cap, 16), (p.lastTickW.toNat, 12)]
  | 0x08 => pack [(p.voltMv.toNat, 16), (p.current.toNat, 16)]
  | 0x10 => pack [(b2n p.warn, 1), (b2n p.emergency, 1), (b2n p.emergencySeen, 1), (b2n p.inletHigh, 1)]
  | 0x18 => p.dies.toNat
  | 0x20 => p.bootTimes.toNat
  | 0x28 => p.capTicks.toNat
  | 0x30 => p.capHolds.toNat
  | 0x38 => p.emergencies.toNat
  | _ => 0

/-- The image of the slot booted from, and of the other slot. -/
def Sec.booted (x : Sec) : Option FwImage := if x.bootB then x.slotB else x.slotA
/-- The image of the other slot. -/
def Sec.other (x : Sec) : Option FwImage := if x.bootB then x.slotA else x.slotB

/-- VERSION and SVN of an image (R1058). -/
def fwReg : Option FwImage → Nat
  | some i => pack [(i.version.toNat, 32), (i.svn.toNat, 6)]
  | none => 0

/-- The codes of the debug states (R1057). -/
def Debug.code : Debug → Nat
  | .locked => 1 | .unlocked => 2 | .sealed => 3

/-- Whether FW_STAGE or a PLDM update holds the inactive slot (R1057). -/
def State.slotHeld (s : State) : Bool := s.sec.pldmBusy || s.w.rel.acts.any (fun a => a.code = 0x0B)

/-- A register of the security block (R1056 to R1058, R1046). -/
def State.readSec (s : State) (o : Nat) : Nat :=
  let x := s.sec
  match o with
  | 0x00 => pack [(b2n x.bootB, 1), (b2n x.activeB, 1), (b2n x.fallback, 1), (b2n x.other.isSome, 1), ((x.debug).code, 2),
      (b2n x.ownerRequire, 1), (((List.range 4).map (fun k => if (mget x.keys none k).isSome then 2 ^ k else 0)).sum, 4),
      (x.minSvn.toNat, 6), (b2n s.slotHeld, 1)]
  | 0x08 => fwReg x.booted
  | 0x10 => fwReg x.other
  | 0x18 => x.ownerNonce.toNat
  | 0x20 => x.debugNonce.toNat
  | 0x28 => x.authFails.toNat
  | 0x30 => s.w.trace.ptr.toNat
  | 0x38 => s.w.trace.lost.toNat
  | _ => 0

/-- LS_STATUS (R375). -/
def Core.lsStatus (c : Core) : Nat :=
  pack [(c.parityCount.toNat, 32), (c.bank0.part.toNat, 6), (b2n c.bank0.used, 1), (c.bank1.part.toNat, 6), (b2n c.bank1.used, 1)]

/-- GRID_SPARE_Ak (R460). -/
def ArraySpares.status (a : ArraySpares) : Nat :=
  pack [(a.row0.part.toNat, 6), (b2n a.row0.used, 1), (a.row1.part.toNat, 6), (b2n a.row1.used, 1),
    (a.col0.part.toNat, 6), (b2n a.col0.used, 1), (a.col1.part.toNat, 6), (b2n a.col1.used, 1)]

/-- A register of the counter window (R840, R841). -/
def Core.readWindow (c : Core) (o : Nat) : Nat :=
  if o = 0x68 then c.lsStatus
  else if 0x70 ≤ o ∧ o < 0x90 then (mget c.spares {} ((o - 0x70) / 8)).status
  else if 0x200 ≤ o ∧ o < 0x280 then (mget c.taskBase 0 ((o - 0x200) / 8)).toNat
  else if 0x280 ≤ o ∧ o < 0x300 then (mget c.taskBound 0 ((o - 0x280) / 8)).toNat
  else (mget c.counts 0 o).toNat

/-- The core that COUNTER_SELECT names; a logical core beyond the class shows zeros. -/
def Work.shownCore (w : Work) : Core :=
  if w.dev.counterSelect.toNat < w.rel.cls then w.core w.dev.counterSelect.toNat else {}

/-- What an aligned 8-byte read of the control window returns; a reserved offset reads zero (R830).
DESIGN CHOICE (log 53, 54). -/
def State.readReg (s : State) (o : Nat) : W64 :=
  BitVec.ofNat 64 (
    if o % 8 ≠ 0 then 0
    else if o < 0x0400 then s.readDev o
    else if o < 0x0800 then s.w.readCad (o - 0x0400)
    else if o < 0x0C00 then s.w.mem.readMem (o - 0x0800)
    else if o < 0x1000 then s.w.readCum (o - 0x0C00)
    else if o < 0x1800 then s.readFab (o - 0x1000)
    else if o < 0x1C00 then s.w.stages.readMap (o - 0x1800)
    else if o < 0x2000 then s.w.readRel (o - 0x1C00)
    else if o < 0x3000 then (mget s.w.dev.rings {} ((o - 0x2000) / 64)).readRing ((o - 0x2000) % 64)
    else if o < 0x3400 then s.readPwr (o - 0x3000)
    else if o < 0x3800 then s.readSec (o - 0x3400)
    else if 0x4000 ≤ o ∧ o < 0x4400 then s.w.shownCore.readWindow (o - 0x4000)
    else 0)

/-! ### Reads that clear -/

/-- CAD_LAG_MAX_READ: the largest lag since the last read, cleared (R162, R168). -/
def execCadLagMaxRead (s : State) : Host.Outcome State Fault Refusal :=
  .next { s with w := { s.w with dev.readData := toLE 8 s.w.cad.lagMax.toNat, cad.lagMax := 0 } }

/-- MEM_UNSCHED_WAIT_MAX_READ: the longest wait since the last read, cleared (R374). -/
def execMemUnschedWaitMaxRead (s : State) : Host.Outcome State Fault Refusal :=
  .next { s with w := { s.w with dev.readData := toLE 8 s.w.mem.waitMax.toNat, mem.waitMax := 0 } }

/-! ### Rings -/

/-- A ring changed. -/
def Dev.modRing (d : Dev) (n : Nat) (f : Ring → Ring) : Dev := { d with rings := mmod d.rings {} n f }

/-- A ring enters its error state (R849). -/
def Work.ringError (w : Work) (ring : Nat) : Work :=
  ({ w with dev := w.dev.modRing ring (fun r => { r with error := true }) }).raise 5

/-- Whether a doorbell value sets the ring's error state (R849). -/
def Ring.badIndex (r : Ring) (v : Nat) : Bool := !r.enable || decide (2 ^ r.log2.toNat ≤ v)

/-- SQ_DOORBELL (R844, R849). -/
def execSqDoorbell (ring : Nat) (value : W64) (s : State) : Host.Outcome State Fault Refusal :=
  let v := bits value 11 0
  let r := mget s.w.dev.rings {} ring
  .next (if 64 ≤ ring then s
    else if r.badIndex v then { s with w := s.w.ringError ring }
    else { s with w := { s.w with dev := s.w.dev.modRing ring (fun r => { r with tail := BitVec.ofNat 12 v }) } })

/-- The replies that a HEAD value reads; a value that passes replies not yet written changes nothing.
DEDUCED (log 52). -/
def Ring.readTo (r : Ring) (v : Nat) : Ring :=
  let n := 2 ^ r.log2.toNat
  let k := (v + n - r.head.toNat) % n
  if k ≤ r.unread then { r with head := BitVec.ofNat 12 v, unread := r.unread - k } else r

/-- CQ_DOORBELL (R844, R849). -/
def execCqDoorbell (ring : Nat) (value : W64) (s : State) : Host.Outcome State Fault Refusal :=
  let v := bits value 11 0
  let r := mget s.w.dev.rings {} ring
  .next (if 64 ≤ ring then s
    else if r.badIndex v then { s with w := s.w.ringError ring }
    else { s with w := { s.w with dev := s.w.dev.modRing ring (·.readTo v) } })

/-- LOG2_ENTRIES after a write of RING_CONFIG: it changes only while ENABLE is 0 (R845), and to a value from 4 to 12.
DEDUCED (log 51). -/
def Ring.newLog2 (r : Ring) (value : W64) : BitVec 4 :=
  let v := bits value 3 0
  if r.enable ∨ v < 4 ∨ 12 < v then r.log2 else BitVec.ofNat 4 v

/-- A write of RING_CONFIG with ENABLE at 1 (R845). -/
def Ring.start (r : Ring) (value : W64) : Ring :=
  { r with log2 := r.newLog2 value, enable := true, sqHead := 0, cqTail := 0, tail := 0, head := 0, phase := true
           error := false, unread := 0 }

/-- RING_ENABLE (R845). -/
def execRingEnable (ring : Nat) (value : W64) (s : State) : Host.Outcome State Fault Refusal :=
  .next (if 64 ≤ ring ∨ !bit value 8 then s
    else { s with w := { s.w with dev := s.w.dev.modRing ring (·.start value) } })

/-- RING_DISABLE (R846): a command already taken stays, and its reply is written. -/
def execRingDisable (ring : Nat) (value : W64) (s : State) : Host.Outcome State Fault Refusal :=
  .next (if 64 ≤ ring ∨ bit value 8 then s
    else { s with w := { s.w with dev := s.w.dev.modRing ring (fun r => { r with log2 := r.newLog2 value, enable := false }) } })

/-! ### The other writes -/

/-- NOTIFY_CLEAR: bits written as 1 are cleared, and their messages may be sent again (R838, R839). -/
def execNotifyClear (value : W64) (s : State) : Host.Outcome State Fault Refusal :=
  .next { s with w := { s.w with dev.notify := s.w.dev.notify &&& ~~~(BitVec.ofNat 6 (bits value 5 0)) } }

/-- COUNTER_SELECT (R840). -/
def execCounterSelect (value : W64) (s : State) : Host.Outcome State Fault Refusal :=
  .next { s with w := { s.w with dev.counterSelect := BitVec.ofNat 7 (bits value 6 0) } }

/-- Whether TICK_CLK, SLACK_CLK and STRETCH_MAX obey R95, R131, R135 and R136; `slow` is the 1.5 GHz clock. -/
def cadOk (tick slack stretch : Nat) (slow : Bool) : Bool :=
  decide (tick % 8 = 0) && decide ((if slow then 1500 else 1800) ≤ tick) && decide (tick ≤ (if slow then 96000 else 115200)) &&
  decide (slack % 64 = 0) && decide (64 ≤ slack) && decide (slack ≤ 2048) && decide (4 * slack ≤ tick) &&
  decide (1 ≤ stretch) && decide (stretch ≤ 64) && decide (stretch * slack ≤ 8192)

/-- CAD_CONFIG with new values. -/
def Cad.config (c : Cad) (tick slack stretch : Nat) : Cad :=
  { c with tickClk := BitVec.ofNat 17 tick, slackClk := BitVec.ofNat 12 slack, stretchMax := BitVec.ofNat 7 stretch }

/-- CAD_CONFIG_WRITE (R96, R137). A value that breaks R95 or R135 alone, of which R137 does not speak, is refused in the same way.
DEDUCED (log 31); DESIGN CHOICE (log 165). -/
def execCadConfigWrite (value : W64) (s : State) : Host.Outcome State Fault Refusal :=
  let t := bits value 16 0
  let k := bits value 35 24
  let m := bits value 46 40
  .next (if s.w.dev.state = .standby ∧ cadOk t k m s.pwr.clockSel then { s with w := { s.w with cad := s.w.cad.config t k m } }
    else { s with w := { s.w with cad.configReject := true } })

/-- A new MEM_SPLIT.X: the contents of all HBM are undefined (R314). -/
def Work.split (w : Work) (x : Nat) : Work :=
  { w with mem.splitX := BitVec.ofNat 7 x, mem.hbm := w.mem.hbm.undef 0 hbmBytes w.mem.draws, mem.draws := w.mem.draws + 1 }

/-- MEM_SPLIT_WRITE (R313 to R315). -/
def execMemSplitWrite (value : W64) (s : State) : Host.Outcome State Fault Refusal :=
  let x := bits value 6 0
  .next (if s.w.dev.state = .standby ∧ x ≤ s.w.mem.minGib then { s with w := s.w.split x }
    else { s with w := { s.w with mem.configReject := true } })

/-- UPL_CONFIG with new values (R804). -/
def Fab.setUpl (f : Fab) (v : Nat) : Fab :=
  { f with etherType := BitVec.ofNat 16 v, vlanEn := v / 2 ^ 16 % 2 = 1, pcp := BitVec.ofNat 3 (v / 2 ^ 17)
           pfcEn := v / 2 ^ 20 % 2 = 1 }

/-- UPL_CONFIG_WRITE (R804). -/
def execUplConfigWrite (value : W64) (s : State) : Host.Outcome State Fault Refusal :=
  .next (if s.w.dev.state = .standby then { s with fab := s.fab.setUpl value.toNat } else s)

/-- REL_CONFIG_WRITE (R960): a write in RUNNING changes nothing, nor does one whose PATROL_HOURS lies outside 1 to
168. DEDUCED (log 50). -/
def execRelConfigWrite (value : W64) (s : State) : Host.Outcome State Fault Refusal :=
  let h := bits value 15 8
  .next (if s.w.dev.state = .running ∨ h < 1 ∨ 168 < h then s
    else { s with w := { s.w with rel.replayLimit := BitVec.ofNat 4 (bits value 3 0), rel.autoSpare := bit value 4
                                  rel.patrolHours := BitVec.ofNat 8 h } })

/-- NOTE_RING_CONFIG written (R835): LOG2_ENTRIES takes a value from 4 to 12.
DESIGN CHOICE (log 11); DEDUCED (log 51). -/
def Dev.noteConfig (d : Dev) (v : W64) : Dev :=
  let k := bits v 3 0
  { d with noteLog2 := if 4 ≤ k ∧ k ≤ 12 then BitVec.ofNat 4 k else d.noteLog2, noteEnable := bit v 8 }

/-- NOTE_RING_HEAD written: the entries before it are read. DEDUCED (log 52). -/
def Dev.noteRead (d : Dev) (v : W64) : Dev :=
  let n := d.noteEntries
  let h := bits v 11 0 % n
  let back := (d.noteTail.toNat + n - h) % n
  { d with noteHead := BitVec.ofNat 12 h, noteCount := if back = 0 ∧ h = d.noteHead.toNat then d.noteCount else back }

/-- A ring base written: a multiple of 4,096, and only while the ring is out of service (R844, R845).
DEDUCED (log 51). -/
def Dev.ringBase (d : Dev) (ring : Nat) (cq : Bool) (v : W64) : Dev :=
  let b := BitVec.ofNat 64 (v.toNat / 4096 * 4096)
  d.modRing ring (fun r => if r.enable then r else if cq then { r with cqBase := b } else { r with sqBase := b })

/-- A write of another RW or W1C register of the window; RO registers and reserved offsets take nothing (R830).
DEDUCED (log 51); DESIGN CHOICE (log 54). -/
def State.writeReg (s : State) (o : Nat) (v : W64) : State :=
  let dev (f : Dev → Dev) : State := { s with w := { s.w with dev := f s.w.dev } }
  match o with
  | 0x0020 => dev (fun d => { d with notifyMask := BitVec.ofNat 6 v.toNat })
  | 0x0028 => dev (fun d => { d with intAddr := v })
  | 0x0030 => dev (fun d => { d with intData := BitVec.ofNat 32 v.toNat })
  | 0x0038 => dev (fun d => { d with noteBase := BitVec.ofNat 64 (v.toNat / 4096 * 4096) })
  | 0x0040 => dev (·.noteConfig v)
  | 0x0048 => dev (·.noteRead v)
  | 0x0060 => dev (fun d => { d with flockSelf := BitVec.ofNat 6 v.toNat })
  -- CAD_STATUS, MEM_STATUS, CUM_STATUS, MAP_STATUS, REL_STATUS, THERM_STATUS: their W1C bits
  | 0x0418 => { s with w := { s.w with cad.beatLost := s.w.cad.beatLost && !bit v 5
                                       cad.configReject := s.w.cad.configReject && !bit v 6 } }
  | 0x0808 => { s with w := { s.w with mem.configReject := s.w.mem.configReject && !bit v 1 } }
  | 0x0C00 => { s with w := { s.w with cum.tierFullSeen := s.w.cum.tierFullSeen && !bit v 3 } }
  | 0x1800 => { s with w := { s.w with stages.unreleased := s.w.stages.unreleased && !bit v 0
                                       stages.underflow := s.w.stages.underflow && !bit v 1 } }
  | 0x1C00 => { s with w := { s.w with rel.lostListFull := s.w.rel.lostListFull && !bit v 3 } }
  | 0x3010 => { s with pwr := { s.pwr with emergencySeen := s.pwr.emergencySeen && !bit v 2 } }
  | _ =>
    if 0x0100 ≤ o ∧ o < 0x0300 then
      dev (fun d => { d with flockMap := mset d.flockMap 0 ((o - 0x100) / 8) (BitVec.ofNat 64 (bits v 9 0 + 2 ^ 63 * bits v 63 63)) })
    else if 0x2000 ≤ o ∧ o < 0x3000 ∧ o % 64 = 0 then dev (·.ringBase ((o - 0x2000) / 64) false v)
    else if 0x2000 ≤ o ∧ o < 0x3000 ∧ o % 64 = 8 then dev (·.ringBase ((o - 0x2000) / 64) true v)
    else s

/-- REGISTER_WRITE: an access that is not an aligned 8-byte write writes nothing (R830).
DESIGN CHOICE (log 54). -/
def execRegisterWrite (offset size : Nat) (value : W64) (s : State) : Host.Outcome State Fault Refusal :=
  .next (if size = 8 ∧ offset % 8 = 0 then s.writeReg offset value else s)

end Sys2Proof.Machine
end

