-- ==== Sys2Proof/Machine/Commands.lean ====
section
/-!
DEFINITION. The commands of the rings that need no herd time: taking packets (R847, R848, R854, R884 to R886), DEV_NOP,
DEV_INFO, plans (R92, R93, R862), STEP_RUN and STEP_HOLD (R863, R867, R870, R936), scales (R213 to R215), copies (R278 to
R286, R551 to R553), results (R871 to R877), the event log, telemetry and trace (R957, R1044, R1055).
-/

namespace Sys2Proof.Machine

/-! ### Packets -/

/-- The opcodes of the opcode table (R866). -/
def opcodes : List Nat :=
  [0x0000, 0x0001, 0x0002, 0x0100, 0x0101, 0x0200, 0x0201, 0x0202, 0x0203, 0x0204, 0x0205, 0x0206, 0x0300, 0x0301, 0x0302,
   0x0303, 0x0400, 0x0401, 0x0402, 0x0403, 0x0404, 0x0500, 0x0501, 0x0502, 0x0600, 0x0601, 0x0602, 0x0603, 0x0604, 0x0700,
   0x0701, 0x0702]

/-- The packet at the head of a ring. -/
def Work.headPacket (w : Work) (ring : Nat) : List Byte :=
  let r := mget w.dev.rings {} ring
  w.mem.companion.readN (r.sqBase.toNat + 64 * r.sqHead.toNat) 64

/-- Whether every earlier result-producing command of a ring has its result ready (R852). -/
def Dev.fenceMet (d : Dev) (ring : Nat) : Bool :=
  (List.range 256).all (fun k => match mget d.results none k with
    | some r => r.ready || decide (r.ring ≠ ring)
    | none => true)

/-- Whether the next packet of a ring can be taken (R846, R847, R849, R852). -/
def Work.takable (w : Work) (ring : Nat) : Bool :=
  let r := mget w.dev.rings {} ring
  r.enable && !r.error && decide (r.sqHead ≠ r.tail) && r.taken.isNone && decide (r.unread < 2 ^ r.log2.toNat) &&
  (leAt (w.headPacket ring) 2 1 % 2 = 0 || w.dev.fenceMet ring)

/-- The ring that is served next: in ascending order, starting after the ring last served (R848). -/
def Work.nextRing (w : Work) : Option Nat :=
  ((List.range 64).map (fun i => (w.dev.lastRing + 1 + i) % 64)).find? w.takable

/-- The packet at the head of a ring taken. -/
def Work.pop (w : Work) (ring : Nat) : Work :=
  let pk := w.headPacket ring
  { w with dev := { (w.dev.modRing ring (fun r =>
      { r with sqHead := BitVec.ofNat 12 ((r.sqHead.toNat + 1) % 2 ^ r.log2.toNat), taken := some pk })) with lastRing := ring } }

/-- A packet for another module forwarded, or refused (R884, R885); a path that meets a masked port loses the peer
(R771). DEDUCED (log 58). -/
def State.forward (s : State) (ring target : Nat) (pk : List Byte) : State :=
  let e : W64 := mget s.w.dev.flockMap 0 target
  let m := bits e 9 0
  if !bit e 63 then s.reply ring stBadParam []
  else if !s.fab.joined then s.reply ring stStateConflict []
  else if !s.fab.reachable m 0 then s.reply ring stPeerLost []
  else { s with w := { s.w with out := s.w.out ++ [Out.forward m pk] } }

/-- The first parameter byte of a packet; at or beyond PLEN it is zero (R854). -/
def firstParam (pk : List Byte) : Nat := if leAt pk 8 1 = 0 then 0 else leAt pk 16 1

/-- For a packet whose opcode has rows by its first parameter byte, and none for this byte (R938, R1033): the states in
which the opcode is allowed (R861). DEDUCED (log 56). -/
def noRow (pk : List Byte) : Option (List DevState) :=
  if leAt pk 0 2 = 0x0500 ∧ (firstParam pk = 0 ∨ 0x0B < firstParam pk) then some [.standby, .joined, .loaded, .running, .held]
  else if leAt pk 0 2 = 0x0603 ∧ 2 < firstParam pk then some [.standby]
  else none

/-- PACKET_TAKE: the packet of the ring that is served next is taken; one for another module is forwarded, one with an
unknown opcode, too many parameter bytes, or an activity or operation that does not exist is refused, and any other waits
for its command. DESIGN CHOICE (log 4); DEDUCED (log 56). -/
def execPacketTake (ring : Nat) (s : State) : Host.Outcome State Fault Refusal :=
  .next (
    if s.w.dev.state = .off ∨ s.w.nextRing ≠ some ring then s
    else
      let pk := s.w.headPacket ring
      let s := { s with w := s.w.pop ring }
      let target := leAt pk 3 1 % 64
      if target ≠ s.w.dev.flockSelf.toNat then s.forward ring target pk
      else if leAt pk 0 2 ∉ opcodes then s.reply ring stBadOpcode []
      else if 48 < leAt pk 8 1 then s.reply ring stBadParam []
      else
        match noRow pk with
        | some allowed => s.command ring allowed (fun s => s.refuse stBadParam)
        | none => s)

/-- FORWARDED_REPLY: the reply of a forwarded packet goes into the completion ring of the ring that held it, with the
STATE of the target (R886). -/
def execForwardedReply (ring status state : Nat) (result : List Byte) (s : State) : Host.Outcome State Fault Refusal :=
  .next (
    if ring < 64 ∧ (mget s.w.dev.rings {} ring).taken.isSome ∧
        leAt (s.w.dev.taken ring) 3 1 % 64 ≠ s.w.dev.flockSelf.toNat then
      { s with w := s.w.replyAs ring status state result }
    else s)

/-! ### The device -/

/-- DEV_NOP. -/
def execDevNop (ring : Nat) (s : State) : Host.Outcome State Fault Refusal :=
  .next (s.command ring powered (fun s => { s := s, status := stOk }))

/-- DEV_INFO (R866). -/
def execDevInfo (ring : Nat) (s : State) : Host.Outcome State Fault Refusal :=
  .next (s.command ring powered (fun s =>
    { s := s, status := stOk
      result := toLE 8 (s.readReg 0).toNat ++ toLE 8 Config.moduleSerial.toNat ++
        toLE 4 (match s.sec.booted with
          | some i => i.version.toNat
          | none => 0) ++
        toLE 2 s.w.rel.cls ++ toLE 1 (b2n s.pwr.clockSel) }))

/-! ### The step completion record (R879, R880) -/

/-- A step completion record's body. DESIGN CHOICE (log 26); DEDUCED (log 28). -/
def recordBody (status data outcome replays step start stretch : Nat) (e : Option StepEvent) (stalls : Nat) : List Byte :=
  let loc := match e with
    | some e => pack [(e.core, 16), (e.task, 8), (0, 8), (e.which, 16), (0, 16), (e.addr, 64), (e.row, 32)]
    | none => 0xFFFF
  toLE 1 status ++ toLE 1 data ++ toLE 1 outcome ++ toLE 1 0 ++ toLE 4 replays ++ toLE 8 step ++ toLE 8 start ++
  toLE 8 stretch ++ toLE 20 loc ++ toLE 4 stalls ++ zeros 8

/-- The result slot of a step that never began, ready with OUTCOME 3 (R864).
DEDUCED (log 24); DESIGN CHOICE (log 26). -/
def Work.discardStep (w : Work) (q : StepReq) (status : Nat) : Work :=
  w.finish q.slot status (recordBody status 0 3 0 w.run.begun 0 0 none 0)

/-! ### Plans -/

/-- PLAN_LOAD (R92, R862, R935): the image is read and its verification begins; a class change that waits is carried out
first. DEDUCED (log 64). -/
def execPlanLoad (ring addr bytes space : Nat) (s : State) : Host.Outcome State Fault Refusal :=
  .next (s.command ring [.joined, .loaded] (fun s =>
    if s.w.dev.load.isSome then s.refuse stBusy
    else if 1 < space ∨ (space = 1 ∧ hbmBytes < addr + bytes) then s.refuse stBadParam
    else s.withSlot ring 0x0200 (fun s k =>
      let w := if s.w.rel.classPending then s.w.changeClass else s.w
      let img := if space = 0 then s.w.compRead ring addr bytes else s.w.mem.hbmRead addr bytes
      let w := if space = 0 then w else w.readEffects 5 addr bytes
      { s with w := { w with dev.load := some { slot := k, declared := bytes, image := img } } })))

/-- The plan disarmed: no plan, no accepted step. A step accepted and not begun is given up. -/
def Work.disarm (w : Work) (event : Nat) : Work :=
  let st := (Config.freeStatus event).toNat
  let w := match w.run.accepted with
    | some q => w.discardStep q st
    | none => w
  let w := match w.run.queued with
    | some q => w.discardStep q st
    | none => w
  { w with plan := none, run := { w.run with accepted := none, queued := none }, cum.tierFull := false }

/-- PLAN_UNLOAD (R859, R862). DESIGN CHOICE (log 25). -/
def execPlanUnload (ring : Nat) (s : State) : Host.Outcome State Fault Refusal :=
  .next (s.command ring [.loaded] (fun s =>
    if s.w.dev.load.isSome then s.refuse stBusy
    else { s := { s with w := (s.w.disarm 0).setState .joined .command }, status := stOk }))

/-! ### Steps -/

/-- STEP_RUN (R862, R863, R867, R936): the step is accepted, or queued behind the one accepted or running. A bellwether without
IEEE 1588 lock takes any START as 0 (R119).
DEDUCED (log 23, 49). -/
def execStepRun (ring start : Nat) (s : State) : Host.Outcome State Fault Refusal :=
  .next (s.command ring [.loaded, .running] (fun s =>
    let bad := match s.w.plan with
      | some p => decide (p.cls ≠ s.w.rel.cls)
      | none => true
    if s.w.dev.load.isSome then s.refuse stBusy
    else if bad then s.refuse stBadParam
    else if s.w.run.queued.isSome then s.refuse stBusy
    else s.withSlot ring 0x0202 (fun s k =>
      let q : StepReq := { slot := k, start := if s.w.cad.bellwether ∧ !s.w.cad.ptpOk then 0 else start, since := s.w.cad.tickCount.toNat }
      if s.w.run.accepted.isNone ∧ s.w.run.step.isNone then { s with w := { s.w with run.accepted := some q } }
      else { s with w := { s.w with run.queued := some q } })))

/-- STEP_HOLD (R142, R870): a stop is raised at the next tick. -/
def execStepHold (ring : Nat) (s : State) : Host.Outcome State Fault Refusal :=
  .next (s.command ring [.loaded, .running] (fun s =>
    { s := { s with w := { s.w with run.wantStop := true, run.holdCmd := true } }, status := stOk }))

/-! ### Scales -/

/-- The slot that a scale command names, when its channels are in range (R215). -/
def Work.scaleSlot (w : Work) (slot first count : Nat) : Option SlotEnt :=
  match w.plan with
  | none => none
  | some p =>
    match p.slots[slot]? with
    | none => none
    | some e => if count = 0 ∨ SlotEnt.channels e < first + count then none else some e

/-- Exponents and zero points of a scale slot's channels written into the bank in force (R213, R214). -/
def Scales.write (s : Scales) (e : SlotEnt) (first : Nat) (tab : List Byte) : Scales :=
  (List.range (tab.length / 2)).foldl (fun s k =>
    let r := e.base + first + k
    s.put r (leAt tab (2 * k) 1) (if e.fmt.zp then e.fmt.ownZp (leAt tab (2 * k + 1) 1) else (s.chan r).2)) s

/-- SCALE_WRITE (R213 to R215). -/
def execScaleWrite (ring slot first count addr : Nat) (s : State) : Host.Outcome State Fault Refusal :=
  .next (s.command ring [.loaded] (fun s =>
    match s.w.scaleSlot slot first count with
    | none => s.refuse stBadParam
    | some e =>
      let tab := s.w.compRead ring addr (2 * count)
      if (List.range count).any (fun k => leAt tab (2 * k) 1 = 255) then s.refuse stBadParam
      else s.withSlot ring 0x0205 (fun s k =>
        { s with w := { s.w with scales := s.w.scales.write e first tab } }.finish k stOk [])))

/-- The table that SCALE_READ writes (R214). -/
def Scales.table (s : Scales) (e : SlotEnt) (first count : Nat) : List Byte :=
  (List.range count).flatMap (fun k =>
    let x := s.chan (e.base + first + k)
    [BitVec.ofNat 8 x.1, BitVec.ofNat 8 (if e.fmt.zp then x.2 else 0)])

/-- SCALE_READ (R214, R215). -/
def execScaleRead (ring slot first count addr : Nat) (s : State) : Host.Outcome State Fault Refusal :=
  .next (s.command ring [.loaded, .running, .held] (fun s =>
    match s.w.scaleSlot slot first count with
    | none => s.refuse stBadParam
    | some e => s.withSlot ring 0x0206 (fun s k =>
      { s with w := s.w.compWrite ring addr (s.w.scales.table e first count) }.finish k stOk [])))

/-! ### MEM_COPY (R278 to R286) -/

/-- The scale slot through which a scaled destination is written: of the armed plan, with the destination's format
(R280). -/
def Work.copySlot (w : Work) (t : Tensor) : Option SlotEnt :=
  match w.plan with
  | none => none
  | some p =>
    match p.slots[t.slot]? with
    | none => none
    | some e => if t.slotEn ∧ SlotEnt.fmt e = t.fmt then some e else none

/-- Whether two extents share a byte (R281). -/
def overlaps (a b : Tensor) : Bool := decide (a.base < b.base + b.extent) && decide (b.base < a.base + a.extent)

/-- Two descriptors that are equal except in INNER_T, with equal innermost sizes (R283). -/
def swapsInPlace (a b : W512) : Bool :=
  let flip := BitVec.ofNat 512 (2 ^ 77)
  decide (a ^^^ b = flip) && decide ((tensor a).s 0 = (tensor a).s 1)

/-- Whether a copy is refused with ST_BAD_DESCRIPTOR (R278, R280, R285, R293). -/
def Work.copyBad (w : Work) (sd dd : W512) : Bool :=
  let s := tensor sd
  let d := tensor dd
  let conv := s.fmt ≠ d.fmt ∨ s.g ≠ d.g
  !tensorOk sd {} || !tensorOk dd { written := true } || s.sparse ≠ 0 || d.sparse ≠ 0 || s.outlier || d.outlier ||
  s.view s.innerT ≠ d.view d.innerT || (decide conv && decide (d.g ≠ 0) && (w.copySlot d).isNone) ||
  (overlaps s d && !swapsInPlace sd dd && decide (2 ^ 29 < s.extent))

/-- The element offset of a tensor at the view position of an element of another. -/
def Tensor.elemAt (t : Tensor) (x y : Nat) (hi : List Nat) : Nat := t.elem (if t.innerT then y :: x :: hi else x :: y :: hi)

/-- What a copy writes at one element: its code, and at the start of a group the scale and zero-point bytes; with its
saturations. -/
def Work.copyElem (w : Work) (rd : Nat → Byte) (s d : Tensor) (slot : SlotEnt) (b m es : Nat) : Nat × Nat × Nat × Nat :=
  let code := s.codeAt rd es
  let sc := if s.g = 0 then 127 else (rd (s.scaleAddr es).1).toNat
  let zp := if s.fmt.zp then s.fmt.ownZp (rd (s.scaleAddr es).2).toNat else 0
  if s.fmt = d.fmt ∧ s.g = d.g then (code, sc, zp, 0)
  else
    let v := if s.g = 0 then s.fmt.decode code else if sc = 255 then .zero else scaledValue s.fmt code sc zp
    if d.g = 0 then let c := d.fmt.conv v; (c.code, 127, 0, c.sat)
    else
      let ez := w.scales.chan (slot.reg b m)
      let c := quantise d.fmt ez.1 ez.2 v
      (c.code, ez.1, ez.2, c.sat)

/-- The stores of one tile of a copy's destination and its saturations. -/
def Work.copyTile (w : Work) (s d : Tensor) (slot : SlotEnt) (i : Nat) : List Put × Nat :=
  let rd := w.cmdByte
  let x := d.tf
  match d.tilePos d.innerT i with
  | none => ([], 0)
  | some (a, b, hi) =>
    let row (m : Nat) : TileRow × Nat :=
      let els := (List.range x.width).map (fun j =>
        if (d.tileElem d.innerT i m j).isSome then
          w.copyElem rd s d slot (d.rowBlock d.innerT i) m (s.elemAt (a * x.width + j) (64 * b + m) hi)
        else (0, 127, 0, 0))
      ({ codes := els.map (·.1)
         scales := (List.range x.rowGroups).map (fun k => (els.getD (k * x.g) (0, 127, 0, 0)).2.1)
         zps := if d.fmt.zp then (List.range x.rowGroups).map (fun k => (els.getD (k * x.g) (0, 127, 0, 0)).2.2.1) else [] },
       (els.map (·.2.2.2)).sum)
    let rows := (List.range 64).map row
    (d.writeTile d.innerT i (rows.map (·.1)), (rows.map (·.2)).sum)

/-- Stores by a command. -/
def Work.cmdPuts (w : Work) (ps : List Put) : Work :=
  (putRuns w.cmdHeld ps).foldl (fun w r => w.cmdWrite r.1 r.2) w

/-- Whether all the addresses of a command's operand lie in regions that permit the access (R299, R857).
DEDUCED (log 60). -/
def Work.reaches (w : Work) (rs : List (Nat × Nat)) (wr : Bool) : Bool :=
  rs.all (fun r => decide (r.2 = 0) || w.cmdExtentOk r.1 r.2 wr)

/-- The local store of logical cores 0 to 63, through which a copy has been staged, with undefined contents (R284).
DESIGN CHOICE (log 161). -/
def Work.bounce (w : Work) : Work :=
  let d := w.mem.draws
  let w := (List.range 64).foldl (fun w k => w.modCore k (fun c => { c with ls := c.ls.undef 0 8388608 (d + k) })) w
  { w with mem.draws := d + 64 }

/-- A copy from a snapshot of its source (R282): the state, and the number of saturations (R280).
DESIGN CHOICE (log 61). -/
def Work.copy (w : Work) (s d : Tensor) : Work × Nat :=
  let slot := (w.copySlot d).getD 0
  let tiles := (List.range (d.tiles d.innerT)).map (w.copyTile s d slot)
  let w1 := w.cmdReads [(s.base, s.extent)]
  ((tiles.foldl (fun w t => w.cmdPuts t.1) w1).spoil d.base d.extent, (tiles.map (·.2)).sum)

/-- A descriptor that a command points to (R855), its LINK ignored (R856). -/
def Work.cmdDesc (w : Work) (ring addr : Nat) : W512 :=
  let d := leNat (w.compRead ring addr 64)
  BitVec.ofNat 512 (d - (d / 2 ^ 94 % 2 ^ 12) * 2 ^ 94)

/-- A memory command whose paced copy is under way: its record, to be ready when it ends (R280, R553, R987). -/
def Work.job (w : Work) (slot status : Nat) (body : List Byte) : Work :=
  { w with dev.jobs := w.dev.jobs ++ [{ slot := slot, status := BitVec.ofNat 8 status, body := body }] }

/-- MEM_COPY. DEDUCED (log 60); DESIGN CHOICE (log 61). -/
def execMemCopy (ring src dst : Nat) (env : Env) (s : State) : Host.Outcome State Fault Refusal :=
  .next (s.command ring [.standby, .joined, .loaded] (fun s =>
    let sd := s.w.cmdDesc ring src
    let dd := s.w.cmdDesc ring dst
    if s.w.copyBad sd dd then s.refuse stBadDescriptor
    else s.withSlot ring 0x0300 (fun s k =>
      let a := tensor sd
      let b := tensor dd
      let ok := s.w.reaches [(a.base, a.extent)] false && s.w.reaches [(b.base, b.extent)] true
      let r := ({ s.w with mem := s.w.mem.see env }).copy a b
      let staged := overlaps a b && !swapsInPlace sd dd
      { s with w := (if staged then r.1.bounce else r.1).job k (if ok then stOk else stXlateFault) (toLE 8 r.2) })))

/-! ### SPARSE_PACK (R551 to R553) -/

/-- A row of a dense source's view as positions and codes of its nonzero values (R249, R545, R551). -/
def Work.nonzeros (w : Work) (s : Tensor) (r : Nat) : List (Nat × Nat) :=
  let v0 := (s.view s.innerT).getD 0 1
  let v1 := (s.view s.innerT).getD 1 1
  let hi := [r / v1 % s.s 2, r / v1 / s.s 2 % s.s 3, r / v1 / s.s 2 / s.s 3 % s.s 4, r / v1 / s.s 2 / s.s 3 / s.s 4]
  (List.range v0).filterMap (fun i =>
    let c := s.codeAt w.cmdByte (s.elem (if s.innerT then r % v1 :: i :: hi else i :: r % v1 :: hi))
    let x : TileRow := { codes := [c] }
    if magZero (x.mag { fmt := s.fmt, g := 0 } 0) then none else some (i, c))

/-- The gap codes of a row's positions, from position `p` on (R538). DESIGN CHOICE (log 62). -/
def gapCodes : Nat → List Nat → List Byte
  | _, [] => []
  | p, x :: xs => List.replicate ((x - p) / 255) 255 ++ [BitVec.ofNat 8 ((x - p) % 255)] ++ gapCodes (x + 1) xs

/-- A gap-coded tensor: codes, row index entries and values, the rows one behind the other (R537 to R539). -/
structure GapOut where
  codes : List Byte := []
  index : List Byte := []
  vals : List Nat := []

/-- The gap-coded form of a dense source. DESIGN CHOICE (log 62). -/
def Work.gapOut (w : Work) (s : Tensor) : GapOut :=
  (List.range ((s.view s.innerT).getD 1 1 * s.s 2 * s.s 3 * s.s 4 * s.s 5)).foldl (fun (g : GapOut) r =>
    let nz := w.nonzeros s r
    { codes := g.codes ++ gapCodes 0 (nz.map (·.1))
      index := g.index ++ toLE 16 (pack [(g.codes.length, 64), (g.vals.length, 40), (nz.length, 24)])
      vals := g.vals ++ nz.map (·.2) }) {}

/-- A view tile of a 2:4 destination, packed in claim mode from the two dense tiles that it covers (R540, R542 to R547):
its stores, groups pruned and values written. -/
def Work.packTile24 (w : Work) (s d : Tensor) (mb i : Nat) : List Put × Nat × Nat :=
  let p : DensePair := { x := d.tf, a := (s.readTile s.innerT (2 * i) w.cmdByte).rows
                         b := (s.readTile s.innerT (2 * i + 1) w.cmdByte).rows }
  let pairs := p.claim (d.sparse = 2)
  let inb (m : Nat) : Bool := (d.stored.tileElem false i m 0).isSome
  let full := List.replicate 64 (d.fmt.tileWidth / 2)
  ((packPuts d i p pairs full (d.codePuts mb i pairs)).flatten, p.pruned pairs inb,
   ((List.range 64).filter inb).length * d.fmt.tileWidth)

/-- Whether the operands of a packing are refused with ST_BAD_DESCRIPTOR (R288, R293, R551). -/
def packBad (sd dd ext : W512) : Bool :=
  let s := tensor sd
  let d := tensor dd
  !tensorOk sd {} || !tensorOk dd { written := true } || s.sparse ≠ 0 || s.outlier || d.sparse = 0 || d.outlier || !d.sparseOk ||
  s.fmt ≠ d.fmt || s.g ≠ d.g || s.view s.innerT ≠ d.view false || descKind ext ≠ 2 || !extensionOk ext || !d.metaFits ext

/-- SPARSE_PACK: it measures its output first, and packs when the values, the metadata and the row index table fit (R552). The groups
pruned count on core 0 (R546). DEDUCED (log 60); DESIGN CHOICE (log 61, 62). -/
def execSparsePack (ring src dst ext : Nat) (env : Env) (s : State) : Host.Outcome State Fault Refusal :=
  .next (s.command ring [.standby, .joined, .loaded] (fun s =>
    let sd := s.w.cmdDesc ring src
    let dd := s.w.cmdDesc ring dst
    let xd := s.w.cmdDesc ring ext
    let a := tensor sd
    let d := tensor dd
    let mt := metaOf xd
    if packBad sd dd xd then s.refuse stBadDescriptor
    else
      let w := { s.w with mem := s.w.mem.see env }
      if d.sparse = 3 then
        let g := w.gapOut a
        if mt.bytes < g.codes.length ∨ w.reaches [(mt.base, g.codes.length), (mt.rowidx, g.index.length),
            (d.base, d.fmt.dataOff g.vals.length)] true = false then s.refuse stBadDescriptor
        else s.withSlot ring 0x0301 (fun s k =>
          let w := { s.w with mem := s.w.mem.see env }
          let ok := w.reaches [(a.base, a.extent)] false
          let w := w.cmdReads [(a.base, a.extent)]
          let w := (w.cmdWrite mt.base g.codes).cmdWrite mt.rowidx g.index
          let w := w.cmdPuts (g.vals.zipIdx.flatMap (fun v =>
            let at_ := d.addr v.2
            if d.fmt.bits = 4 then (if v.2 % 2 = 0 then [⟨at_, 0x0F, v.1 % 16⟩] else [⟨at_, 0xF0, v.1 % 16 * 16⟩])
            else (toLE (d.fmt.bits / 8) v.1).zipIdx.map (fun b => ⟨at_ + b.2, 0xFF, b.1.toNat⟩)))
          let body := toLE 8 0 ++ toLE 8 g.vals.length ++ toLE 8 g.codes.length
          let w := ((w.spoil d.base (d.fmt.dataOff g.vals.length)).spoil mt.base g.codes.length).spoil mt.rowidx g.index.length
          { s with w := w.job k (if ok then stOk else stXlateFault) body })
      else
        let need := d.stored.maxElem / 4 + 1
        if mt.bytes < need ∨ w.reaches [(mt.base, need), (d.base, d.stored.extent)] true = false then s.refuse stBadDescriptor
        else s.withSlot ring 0x0301 (fun s k =>
          let w := { s.w with mem := s.w.mem.see env }
          let ok := w.reaches [(a.base, a.extent)] false
          let tiles := (List.range (d.stored.tiles false)).map (w.packTile24 a d mt.base)
          let pruned := (tiles.map (·.2.1)).sum
          let w := tiles.foldl (fun w t => w.cmdPuts t.1) (w.cmdReads [(a.base, a.extent)])
          let w := ((w.spoil d.base d.stored.extent).spoil mt.base need).count 0 .spPruned pruned
          let body := toLE 8 pruned ++ toLE 8 (tiles.map (·.2.2)).sum ++ toLE 8 need
          { s with w := w.job k (if !ok then stXlateFault else if pruned = 0 then stOk else stOkPruned) body })))

/-- MEMORY_COMMAND_DONE: the paced copy ends and its slot is ready; not while an emergency pauses it (R994).
DESIGN CHOICE (log 61). -/
def execMemoryCommandDone (slot : Nat) (s : State) : Host.Outcome State Fault Refusal :=
  .next (
    if s.pwr.paused then s
    else match s.w.dev.jobs.find? (fun j => j.slot = slot) with
      | none => s
      | some j => { s with w := { s.w with dev.jobs := s.w.dev.jobs.erase j } }.finish slot j.status.toNat j.body)

/-! ### Results (R873 to R877) -/

/-- A result record: its header and its body (R873). -/
def RSlot.record (r : RSlot) : List Byte :=
  toLE 2 r.opcode.toNat ++ [r.status, 0] ++ toLE 4 r.tag.toNat ++ toLE 4 r.body.length ++ zeros 4 ++ r.body

/-- READ_RESULT (R874 to R877). -/
def execReadResult (ring slot addr : Nat) (s : State) : Host.Outcome State Fault Refusal :=
  .next (s.command ring started (fun s =>
    match (if slot < 256 then mget s.w.dev.results none slot else none) with
    | none => s.refuse stBadParam
    | some r =>
      if !r.ready then s.refuse stNotReady
      else
        let w := if addr = 0 then s.w else s.w.compWrite ring addr r.record
        { s := { s with w := { w with dev.results := mset w.dev.results none slot (some { r with read := true }) } }
          status := if r.read then stOkRepeat else stOk
          result := [r.status, 0] ++ toLE 2 r.opcode.toNat ++ toLE 4 r.body.length ++ r.body.take 16 }))

/-- RELEASE_RESULT (R876 to R878). -/
def execReleaseResult (ring slot : Nat) (s : State) : Host.Outcome State Fault Refusal :=
  .next (s.command ring started (fun s =>
    match (if slot < 256 then mget s.w.dev.results none slot else none) with
    | none => s.refuse stBadParam
    | some r =>
      if !r.ready then s.refuse stNotReady
      else { s := { s with w := { s.w with dev.results := mset s.w.dev.results none slot none } }, status := stOk }))

/-! ### Event log, telemetry, trace -/

/-- EVENT_LOG_READ (R957). DEDUCED (log 129). -/
def execEventLogRead (ring first entries addr : Nat) (s : State) : Host.Outcome State Fault Refusal :=
  .next (s.command ring started (fun s => s.withSlot ring 0x0700 (fun s k =>
    let d := s.w.dev
    let oldest := d.logNext.toNat - d.log.length
    let from_ := max first oldest
    let es := (d.log.drop (from_ - oldest)).take entries
    { s with w := s.w.compWrite ring addr (es.flatMap (fun (e : W512) => toLE 64 e.toNat)) }.finish k stOk
      (toLE 4 from_ ++ toLE 4 es.length ++ toLE 4 d.logNext.toNat))))

/-- The telemetry record (R1055). -/
def State.telemetry (s : State) : List Byte :=
  toLE 8 s.w.rel.runMs ++
  ([0x0400, 0x3008, 0x3000, 0x3018, 0x3010, 0x0008, 0x0010, 0x0808, 0x1000, 0x1C00, 0x0C00, 0x3400] : List Nat).flatMap
    (fun o => toLE 8 (s.readReg o).toNat) ++ zeros 24

/-- TELEMETRY_READ (R1055). -/
def execTelemetryRead (ring addr : Nat) (s : State) : Host.Outcome State Fault Refusal :=
  .next (s.command ring started (fun s => s.withSlot ring 0x0701 (fun s k =>
    let t := s.telemetry
    (if addr = 0 then s else { s with w := s.w.compWrite ring addr t }).finish k stOk t)))

/-- TRACE_CONFIG (R6, R1044). DEDUCED (log 130). -/
def execTraceConfig (ring addr bytes enable : Nat) (s : State) : Host.Outcome State Fault Refusal :=
  .next (s.command ring [.standby, .joined, .loaded] (fun s =>
    if addr % 4096 ≠ 0 ∨ bytes < 65536 ∨ 2 ^ 30 < bytes ∨ 2 ^ Nat.log2 bytes ≠ bytes ∨ hbmBytes < addr + bytes ∨ 1 < enable then
      s.refuse stBadParam
    else
      let t : Trace := { base := BitVec.ofNat 64 addr, bytes := BitVec.ofNat 32 bytes, on := enable = 1
                         lost := s.w.trace.lost }
      { s := { s with w := { s.w with trace := t } }, status := stOk }))

end Sys2Proof.Machine
end

