-- ==== Sys2Proof/Machine/Vec.lean ====
section
/-!
DEFINITION. The vector station: MAP, NORM, REDUCE, OPTIMISE and CONVERT (R28 to R43, R1088, R1089), tile by tile.
-/

namespace Sys2Proof.Machine

/-! ### The VEC constant table (R34, R35) -/

/-- An entry of the VEC constant table. -/
abbrev VecEnt := BitVec 1024

/-- KIND. -/
def VecEnt.kind (v : VecEnt) : Nat := bits v 7 0
/-- STEPS. -/
def VecEnt.steps (v : VecEnt) : Nat := bits v 15 8
/-- FLAGS. -/
def VecEnt.flags (v : VecEnt) : Nat := bits v 31 16
/-- ROWBLK0. -/
def VecEnt.rowblk0 (v : VecEnt) : Nat := bits v 63 32
/-- Operation word i. -/
def VecEnt.opWord (v : VecEnt) (i : Nat) : Nat := bits v (64 + 32 * i + 31) (64 + 32 * i)
/-- Constant c_i as a value. -/
def VecEnt.const (v : VecEnt) (i : Nat) : FVal := Fmt.fp32.decode (bits v (576 + 32 * i + 31) (576 + 32 * i))
/-- T_BASE. -/
def VecEnt.tBase (v : VecEnt) : Nat := bits v 895 832
/-- TPB. -/
def VecEnt.tpb (v : VecEnt) : Nat := bits v 927 896

/-! ### Values in FP32 -/

/-- An element decoded to FP32, its scale and zero point applied, and whether that saturated; a zero keeps its sign.
DEDUCED (log 82). -/
def decode32 (v : FVal) : FVal × Nat :=
  match v with
  | .fin s m e =>
    if m = 0 then (.fin s 0 0, 0)
    else let c := Fmt.fp32.conv (.fin s m e); (Fmt.fp32.decode c.code, c.sat)
  | v => (v, 0)

/-- The FP32 values of a tile, row by row. -/
def Tensor.values (t : Tensor) (bs : List Byte) : List (List FVal) :=
  let x := t.stored.tf
  (unpackTile x bs).map (fun r => (List.range x.width).map (fun j => (decode32 (r.value x j)).1))

/-- Saturations in decoding a tile to FP32. DEDUCED (log 82). -/
def Tensor.decodeSat (t : Tensor) (bs : List Byte) : Nat :=
  let x := t.stored.tf
  if x.g = 0 then 0
  else (((unpackTile x bs).map (fun r => ((List.range x.width).map (fun j => (decode32 (r.value x j)).2)).sum)).sum)

/-- Groups of a tile with the invalid scale byte (R184). -/
def Tensor.badGroups (t : Tensor) (bs : List Byte) : Nat :=
  ((unpackTile t.stored.tf bs).map TileRow.badScales).sum

/-! ### Lanes -/

/-- Elements added into 256 lanes: element i, in increasing order, into lane i mod 256 (R28); an element that takes no
part is none. -/
def lanes (op : FVal → FVal → FVal) (unit : FVal) (xs : List (Option FVal)) : List FVal :=
  (chunksOf 256 (xs.length / 256 + 1) xs).foldl (fun acc c => acc.zipIdx.map (fun a =>
    match c.getD a.2 none with
    | some x => op a.1 x
    | none => a.1)) (List.replicate 256 unit)

/-- One level of the pairwise tree in lane order. DEDUCED (log 78). -/
def pairUp (op : FVal → FVal → FVal) : List FVal → List FVal
  | a :: b :: l => op a b :: pairUp op l
  | l => l

/-- The lanes combined by the pairwise tree (R28). DEDUCED (log 78). -/
def tree (op : FVal → FVal → FVal) (l : List FVal) : FVal :=
  ((List.range 8).foldl (fun l _ => pairUp op l) l).headD .zero

/-- A reduction in the lane order and tree of R28. DEDUCED (log 78). -/
def laneReduce (op : FVal → FVal → FVal) (unit : FVal) (xs : List (Option FVal)) : FVal := tree op (lanes op unit xs)

/-! ### Element functions -/

/-- A map function (R36). -/
def mapFn (fn : Nat) (x y z : FVal) : FVal :=
  match fn with
  | 0x01 => fadd x y
  | 0x02 => fsub x y
  | 0x03 => fmul x y
  | 0x04 => ffma x y z
  | 0x05 => fmax x y
  | 0x06 => fmin x y
  | 0x07 => fabs x
  | 0x08 => fneg x
  | 0x09 => fdiv .one x
  | 0x0A => fdiv x y
  | 0x0B => fsqrt x
  | 0x0C => frsqrt x
  | 0x0D => fexp2 x
  | 0x0E => flog2 x
  | 0x0F => if flt .zero x then y else z
  | 0x10 => ffloor x
  | 0x11 => if flt y x then .one else .zero
  | _ => x

/-- An operand of a map operation: a register, a, b or a constant (R35). -/
def mapOperand (v : VecEnt) (regs : List FVal) (a b : FVal) (code : Nat) : FVal :=
  if code < 6 then regs.getD code .zero else if code = 6 then a else if code = 7 then b else v.const (code - 8)

/-- MAP of one element: every register zero, then the operations in order; the result is r0 (R36). -/
def mapElem (v : VecEnt) (a b : FVal) : FVal :=
  let regs := (List.range v.steps).foldl (fun regs i =>
    let o := v.opWord i
    let arg (k : Nat) := mapOperand v regs a b (o / 2 ^ k % 16)
    setAt regs (o / 256 % 8) (mapFn (o % 256) (arg 12) (arg 16) (arg 20))) (List.replicate 6 FVal.zero)
  regs.getD 0 .zero

/-- Whether a map reads b. -/
def VecEnt.usesB (v : VecEnt) : Bool :=
  (List.range v.steps).any (fun i =>
    let o := v.opWord i
    let n := match o % 256 with
      | 0x04 => 3 | 0x0F => 3
      | 0x07 => 1 | 0x08 => 1 | 0x09 => 1 | 0x0B => 1 | 0x0C => 1 | 0x0D => 1 | 0x0E => 1 | 0x10 => 1
      | _ => 2
    (List.range n).any (fun k => o / 2 ^ (12 + 4 * k) % 16 = 7))

/-- NORM of one row: its mean (0 in mode 1) and the factor r (R38). DEDUCED (log 83). -/
def normStats (v : VecEnt) (xs : List FVal) : FVal × FVal :=
  let s2 := laneReduce fadd .zero (xs.map (fun x => some (fmul x x)))
  let c0 := v.const 0
  let c1 := v.const 1
  if v.flags % 2 = 0 then
    let s1 := laneReduce fadd .zero (xs.map some)
    let mu := fmul s1 c1
    let q := fmul s2 c1
    let var := fmax .zero (ffma (fneg mu) mu q)
    (mu, frsqrt (fadd var c0))
  else (.zero, frsqrt (ffma s2 c1 c0))

/-- NORM of one element (R38). DEDUCED (log 83). -/
def normElem (v : VecEnt) (st : FVal × FVal) (x : FVal) : FVal :=
  if v.flags % 2 = 0 then fmul (fsub x st.1) st.2 else fmul x st.2

/-- OPTIMISE of one element: the new weight, m and v (R40). -/
def optElem (e : VecEnt) (k1 k2 w m v b : FVal) : FVal × FVal × FVal :=
  let g := fmul b (e.const 5)
  let t1 := fsub m g
  let m' := ffma (e.const 0) t1 g
  let gg := fmul g g
  let t2 := fsub v gg
  let v' := ffma (e.const 1) t2 gg
  let mh := fmul m' k1
  let vh := fmul v' k2
  let d := fadd (fsqrt vh) (e.const 3)
  let u := fdiv mh d
  let s := ffma (e.const 4) w u
  (ffma (fneg (e.const 2)) s w, m', v')

/-- A bias-correction factor 1 / (1 − exp2(t × log2(c))) (R41). -/
def biasFactor (t : Nat) (c : FVal) : FVal := fdiv .one (fsub .one (fexp2 (fmul (.ofInt t) (flog2 c))))

/-- The bias-correction factors of a step: s is the number of steps committed since plan load, plus one (R41). -/
def Plan.vecFactors (p : Plan) (s : Nat) : SMap (W32 × W32) :=
  p.vec.zipIdx.filterMap (fun v =>
    let e : VecEnt := v.1
    if e.kind = 4 ∧ e.flags % 2 = 1 then
      let t := e.tBase + s
      some (v.2, ((biasFactor t (e.const 0)).code32, (biasFactor t (e.const 1)).code32))
    else none)

/-! ### The tiles of a firing in order -/

/-- One act of a VEC firing: the next tile of a stream taken for an operand, an output tile written (its operand, its
first column in the block, its number for R1087), or the operands of the block given up. -/
inductive VAct where
  | read (b : Bool) (id : Nat)
  | put (id col num : Nat)
  | clear

/-- The acts of one run of positions: `s` columns, in steps of the main operand's width `ww` (R1088, R1089). Sources
are (from SRC_B, operand, width), outputs (operand, width); `num` numbers an output. -/
def vecBlock (s ww : Nat) (srcs : List (Bool × Nat × Nat)) (outs : List (Nat × Nat)) (num : Nat → Nat → Nat → Nat) :
    List VAct :=
  (List.range (s / ww)).flatMap (fun q =>
    srcs.flatMap (fun x =>
      if x.2.2 ≤ ww then List.replicate (ww / x.2.2) (VAct.read x.1 x.2.1)
      else if q = 0 then [VAct.read x.1 x.2.1] else []) ++
    outs.flatMap (fun o =>
      if o.2 ≤ ww then (List.range (ww / o.2)).map (fun k => VAct.put o.1 (ww * q + o.2 * k) (num q (ww * q + o.2 * k) o.2))
      else if q + 1 = s / ww then [VAct.put o.1 0 (num q 0 o.2)] else [])) ++ [.clear]

/-- The columns of a run of positions: 128 when some tile of it is of a 4-bit format. -/
def vecSpan (ws : List Nat) : Nat := if 128 ∈ ws then 128 else 64

/-- The tiles held for an operand. -/
def Prog.tiles (x : Prog) (id : Nat) : List Held := x.held.filter (·.id = id)

/-- The values held for an operand, tile by tile. -/
def Prog.vals (x : Prog) (t : Tensor) (id : Nat) : List (List (List FVal)) := (x.tiles id).map (fun h => t.values h.bytes)

/-- The value at row m and column c of the tiles held. -/
def valAt (vs : List (List (List FVal))) (width m c : Nat) : FVal := ((vs.getD (c / width) []).getD m []).getD (c % width) .zero

/-- The row mask of an output tile of columns `col` to `col + wo − 1`: the OR over an operand's tiles there
(R33, R1088). -/
def Prog.maskOver (x : Prog) (id width col wo : Nat) : W64 :=
  ((x.tiles id).zipIdx.filter (fun h => col < (h.2 + 1) * width ∧ h.2 * width < col + wo)).foldl
    (fun m h => m ||| h.1.mask) 0

/-- A tile taken for an operand: its slot is empty again, its bad scales and saturations are counted. -/
def vecRead (p : Plan) (r : Rec) (a : At) (desc : Nat → Nat) (w : Work) (b : Bool) (id : Nat) : UnitRes :=
  let t := p.tensor (desc id)
  match w.pull p a (if b then r.srcB else r.srcA) t.stored.tf.bytes with
  | .error x => .wait w x []
  | .ok (w1, tk) =>
    let sat := t.decodeSat tk.bytes
    let w1 := if sat = 0 then w1 else w1.count a.core .fmtSat sat
    let w1 := w1.replaced (a.acc (desc id)) 0 (t.badGroups tk.bytes)
    .ok (w1.modCore a.core (fun c => c.modProg a.firing (fun x =>
      { x with held := x.held ++ [{ id := id, mask := tk.st.mask, bytes := tk.bytes }] })))

/-- A row of results in FP32 of MAP, NORM or REDUCE: VEC arithmetic keeps the sign of a zero (R204), and the result is stored
as it is. DEDUCED (log 82). -/
def rawRow (ys : List FVal) : TileRow := { codes := ys.map (fun y => y.code32.toNat) }

/-- An output tile written: its rows of values, its row mask (R29, R40, R42). CONVERT and OPTIMISE write by R197 to R204
whatever their target; of the other operations, a result in FP32 is not converted again. DEDUCED (log 82). -/
def vecWrite (p : Plan) (r : Rec) (a : At) (w : Work) (desc rowblk : Nat) (mask : W64) (rows : List (List FVal)) :
    UnitRes :=
  let t := p.tensor desc
  match w.room p a r.dst 0 t.stored.tf.bytes with
  | some x => .wait w x []
  | none =>
    let res := rows.zipIdx.foldl (fun (acc : Work × List TileRow) row =>
      if t.fmt = .fp32 ∧ r.op ≠ 4 ∧ r.op ≠ 5 then (acc.1, acc.2 ++ [rawRow row.1])
      else
        let e := acc.1.encodeRow p a.core t (t.g ≠ 0) rowblk row.2 row.1 (fun _ => false)
        (e.1, acc.2 ++ [e.2])) (w, [])
    .ok (res.1.push p a r.dst { mask := mask } (packTile t.stored.tf res.2))

/-- The tiles held given up. -/
def vecClear (a : At) (w : Work) : UnitRes :=
  .ok (w.modCore a.core (fun c => c.modProg a.firing (fun x => { x with held := [] })))

/-- The entry of the VEC constant table that a firing names. -/
def Plan.vecEnt (p : Plan) (r : Rec) : VecEnt := p.vec.getD r.param 0

/-- The width of the tiles of a descriptor. -/
def Plan.tw (p : Plan) (d : Nat) : Nat := (p.tensor d).fmt.tileWidth

/-! ### When tiles are read and full (R24, R32, R1089) -/

/-- The share and the cost of a VEC firing (R24, R32, R1089): clk of one SRC_A tile's share before the factor of the
operation, the share, and the cost. DEDUCED (log 70). -/
def Plan.vecCost (p : Plan) (r : Rec) : Nat × Nat × Nat :=
  let e := p.vecEnt r
  let main := if r.op = 4 then r.desc + 3 else r.desc + 1
  let s := p.tw main / 4
  match r.op with
  | 1 => (s, e.steps * s, e.steps * s * r.count)
  | 2 => (s, s, 2 * s * r.count + 48)
  | 3 => (s, s, s * r.count + 40)
  | 4 => (s, 6 * s, 6 * s * r.count)
  | _ => (s, s, s * r.count)

/-- A walk over the acts of a firing: main tiles of SRC_A and tiles of SRC_B taken; tiles of SRC_A, of SRC_B and of DST used;
the largest lag of the tiles that the next output is formed from; the uses so far. -/
structure VecWalk where
  na : Nat := 0
  nb : Nat := 0
  read : Nat := 0
  made : Nat := 0
  lag : Nat := 0
  uses : List TUse := []
  deriving DecidableEq, Repr

/-- One act: its use of a slot in clk from issue (R1089), the output later by the lag of its own slot and of those that it is
formed from (R359). A tile that two shares use is read in the first of them. DESIGN CHOICE (log 172). -/
def VecWalk.act (r : Rec) (k : Nat × Nat × Nat) (lag : Lags) (v : VecWalk) : VAct → VecWalk
  | .clear => { v with lag := 0 }
  | .read b id =>
    let na := if !b ∧ id = 0 then v.na + 1 else v.na
    let lo := if r.op = 2 ∧ b then r.count * k.1 + 48 + v.nb * k.1 else (na - 1) * k.2.1
    let hi := if r.op = 2 ∧ b then lo + k.1 else na * k.2.1
    { v with
      na := na, nb := if b then v.nb + 1 else v.nb, read := if b then v.read else v.read + 1
      lag := max v.lag (if b then lag false r.srcB v.nb else lag false r.srcA v.read)
      uses := v.uses ++ [⟨if b then r.srcB else r.srcA, false, lo, hi, hi - lo⟩] }
  | .put _ _ _ =>
    let n := v.lag + lag true r.dst v.made
    let x : Nat × Nat := match r.op with
      | 2 => (r.count * k.1 + 48 + (v.nb - 1) * k.1, r.count * k.1 + 48 + v.nb * k.1 + 12)
      | 3 => (k.2.2, k.2.2 + 12)
      | _ => ((v.na - 1) * k.2.1, v.na * k.2.1 + 12)
    { v with made := v.made + 1, uses := v.uses ++ [⟨r.dst, true, x.1, x.2 + n, k.1⟩] }

/-- The times of a VEC firing (R24, R1089). -/
def Plan.vecTimes (p : Plan) (r : Rec) (lag : Lags) (acts : List VAct) : Times :=
  let k := p.vecCost r
  let v := acts.foldl (VecWalk.act r k lag) {}
  { free := some k.2.2, uses := v.uses
    ends := ((v.uses.filter (·.write)).map (·.fin - 1)).foldl max k.2.2 }

/-- A job from acts: `out` gives an output tile's descriptor, row block, row mask and rows. -/
def vecJob (p : Plan) (r : Rec) (a : At) (desc : Nat → Nat) (acts : List VAct)
    (out : Work → Prog → Nat → Nat → Nat → Nat × Nat × W64 × List (List FVal)) : Job :=
  { n := acts.length
    unit := fun w k _ => match acts.getD k .clear with
      | .read b id => vecRead p r a desc w b id
      | .put id col num =>
        let o := out w (w.progAt a) id col num
        vecWrite p r a w o.1 o.2.1 o.2.2.1 o.2.2.2
      | .clear => vecClear a w
    times := fun w => p.vecTimes r (w.lags p a.core) acts }

/-- Columns `col` to `col + wo − 1` of 64 rows. -/
def grid64 (col wo : Nat) (f : Nat → Nat → FVal) : List (List FVal) :=
  (List.range 64).map (fun m => (List.range wo).map (fun j => f m (col + j)))

/-- The acts of a MAP (R29, R36): operand 0 is a, operand 1 is b. -/
def Plan.mapActs (p : Plan) (r : Rec) : List VAct :=
  let e := p.vecEnt r
  let wa := p.tw (r.desc + 1)
  let wb := p.tw (r.desc + 2)
  let wo := p.tw r.desc
  let s := vecSpan (if e.usesB then [wa, wb, wo] else [wa, wo])
  let srcs := (false, 0, wa) :: (if e.usesB then [(true, 1, wb)] else [])
  (List.range (r.count / (s / wa))).flatMap (fun _ => vecBlock s wa srcs [(0, wo)] (fun _ _ _ => 0))

/-- MAP. -/
def mapJob (p : Plan) (r : Rec) (a : At) : Job :=
  let e := p.vecEnt r
  let wa := p.tw (r.desc + 1)
  let wb := p.tw (r.desc + 2)
  let wo := p.tw r.desc
  vecJob p r a (fun id => r.desc + 1 + id) (p.mapActs r)
    (fun _ x _ col _ =>
      let va := x.vals (p.tensor (r.desc + 1)) 0
      let vb := if e.usesB then x.vals (p.tensor (r.desc + 2)) 1 else []
      (r.desc, 0, x.maskOver 0 wa col wo,
        grid64 col wo (fun m c => mapElem e (valAt va wa m c) (valAt vb wb m c))))

/-- The acts of a CONVERT (R42). -/
def Plan.convertActs (p : Plan) (r : Rec) : List VAct :=
  let wa := p.tw (r.desc + 1)
  let wo := p.tw r.desc
  let s := vecSpan [wa, wo]
  (List.range (r.count / (s / wa))).flatMap (fun k =>
    vecBlock s wa [(false, 0, wa)] [(0, wo)] (fun _ col w => k * (s / w) + col / w))

/-- CONVERT (R42, R1087). -/
def convertJob (p : Plan) (r : Rec) (a : At) : Job :=
  let e := p.vecEnt r
  let wa := p.tw (r.desc + 1)
  let wo := p.tw r.desc
  vecJob p r a (fun _ => r.desc + 1) (p.convertActs r)
    (fun _ x _ col num =>
      let va := x.vals (p.tensor (r.desc + 1)) 0
      (r.desc, e.rowblk0 + (if e.tpb = 0 then 0 else num / e.tpb), x.maskOver 0 wa col wo,
        grid64 col wo (fun m c => valAt va wa m c)))

/-- The acts of a NORM (R37): operand 0 is SRC_A, read whole, the others its second copy block by block.
DEDUCED (log 83). -/
def Plan.normActs (p : Plan) (r : Rec) : List VAct :=
  let wa := p.tw (r.desc + 1)
  let wo := p.tw r.desc
  let s := vecSpan [wa, wo]
  let blocks := (List.range (r.count / (s / wa))).flatMap (fun k =>
    (vecBlock s wa [(true, k + 1, wa)] [(k + 1, wo)] (fun _ _ _ => 0)).filter (fun x => match x with
      | .clear => false
      | _ => true))
  List.replicate r.count (.read false 0) ++ blocks ++ [.clear]

/-- NORM (R37, R38). The row masks are those of the SRC_A tiles (R33). -/
def normJob (p : Plan) (r : Rec) (a : At) : Job :=
  let e := p.vecEnt r
  let t := p.tensor (r.desc + 1)
  let wa := p.tw (r.desc + 1)
  let wo := p.tw r.desc
  let len := (t.stored.view t.innerT).getD 0 1
  vecJob p r a (fun _ => r.desc + 1) (p.normActs r)
    (fun _ x id col _ =>
      let va := x.vals t 0
      let vb := x.vals t id
      (r.desc, 0, x.maskOver 0 wa ((id - 1) * vecSpan [wa, wo] + col) wo,
        (List.range 64).map (fun m =>
          let st := normStats e ((List.range len).map (fun i => valAt va wa m i))
          (List.range wo).map (fun j => normElem e st (valAt vb wa m (col + j))))))

/-- The operation of a REDUCE and its identity (R39). -/
def reduceOp (flags : Nat) : (FVal → FVal → FVal) × FVal :=
  match flags % 4 with
  | 1 => (fmax, .inf true)
  | 2 => (fmin, .inf false)
  | _ => (fadd, .zero)

/-- An element as REDUCE takes it: squared, rounded once, for a sum of squares. -/
def reduceIn (flags : Nat) (x : FVal) : FVal := if flags % 4 = 3 then fmul x x else x

/-- The row mask and the values of the output tile of a REDUCE over the tiles read (R39). -/
def reduceRows (flags wo : Nat) (tiles : List Held) (vals : List (List (List FVal))) : W64 × List (List FVal) :=
  let op := reduceOp flags
  let rowOf (k m : Nat) (f : List FVal) : List (Option FVal) :=
    if (tiles.getD k ⟨0, 0, []⟩).mask.getLsbD m then f.map (fun x => some (reduceIn flags x)) else f.map (fun _ => none)
  let pad (v : FVal) : List FVal := v :: List.replicate (wo - 1) .zero
  if flags / 4 % 2 = 0 then
    let xs := vals.zipIdx.flatMap (fun t => t.1.zipIdx.flatMap (fun row => rowOf t.2 row.2 row.1))
    (if tiles.any (fun t => t.mask ≠ 0) then 1 else 0,
     pad (laneReduce op.1 op.2 xs) :: List.replicate 63 (List.replicate wo .zero))
  else
    (tiles.foldl (fun m t => m ||| t.mask) 0,
     (List.range 64).map (fun m => pad (laneReduce op.1 op.2
       (vals.zipIdx.flatMap (fun t => rowOf t.2 m (t.1.getD m []))))))

/-- The acts of a REDUCE (R39). -/
def reduceActs (r : Rec) : List VAct := List.replicate r.count (.read false 0) ++ [.put 0 0 0, .clear]

/-- REDUCE (R39). -/
def reduceJob (p : Plan) (r : Rec) (a : At) : Job :=
  let e := p.vecEnt r
  vecJob p r a (fun _ => r.desc + 1) (reduceActs r)
    (fun _ x _ _ _ =>
      let o := reduceRows e.flags (p.tw r.desc) (x.tiles 0) (x.vals (p.tensor (r.desc + 1)) 0)
      (r.desc, 0, o.1, o.2))

/-- The acts of an OPTIMISE (R40, R1088): operands 0 to 2 are the weight, m and v, operand 3 the gradient. -/
def Plan.optimiseActs (p : Plan) (r : Rec) : List VAct :=
  let win (i : Nat) := p.tw (r.desc + 3 + i)
  let wout (i : Nat) := p.tw (r.desc + i)
  let ww := win 0
  let s := vecSpan ((List.range 4).map win ++ (List.range 3).map wout)
  let srcs := [(false, 0, win 0), (false, 1, win 1), (false, 2, win 2), (true, 3, win 3)]
  (List.range (r.count / (s / ww))).flatMap (fun k =>
    vecBlock s ww srcs ((List.range 3).map (fun i => (i, wout i))) (fun q _ w => k * (s / ww) + (if w ≤ ww then q else 0)))

/-- OPTIMISE (R40, R1087, R1088). Each output carries the row mask of the tile that it renews (R33). -/
def optimiseJob (p : Plan) (r : Rec) (a : At) : Job :=
  let e := p.vecEnt r
  let win (i : Nat) := p.tw (r.desc + 3 + i)
  let wout (i : Nat) := p.tw (r.desc + i)
  vecJob p r a (fun id => r.desc + 3 + id) (p.optimiseActs r)
    (fun w x id col num =>
      let k := mget w.run.factors (0x3F800000, 0x3F800000) r.param
      let v (i : Nat) := x.vals (p.tensor (r.desc + 3 + i)) i
      let vs := (List.range 4).map v
      let elem (m c : Nat) : FVal :=
        let y := optElem e (fp32 k.1) (fp32 k.2) (valAt (vs.getD 0 []) (win 0) m c) (valAt (vs.getD 1 []) (win 1) m c)
          (valAt (vs.getD 2 []) (win 2) m c) (valAt (vs.getD 3 []) (win 3) m c)
        if id = 0 then y.1 else if id = 1 then y.2.1 else y.2.2
      (r.desc + id, e.rowblk0 + (if e.tpb = 0 then 0 else num / e.tpb), x.maskOver id (win id) col (wout id),
        grid64 col (wout id) elem))

/-- The acts of a VEC firing. -/
def Plan.vecActs (p : Plan) (r : Rec) : List VAct :=
  match r.op with
  | 1 => p.mapActs r
  | 2 => p.normActs r
  | 3 => reduceActs r
  | 4 => p.optimiseActs r
  | _ => p.convertActs r

/-- VEC MAP. -/
def execMap (core idx : Nat) (env : Env) (s : State) : Host.Outcome State Fault Refusal :=
  .next { s with w := s.w.issue core idx env 7 1 mapJob }

/-- VEC NORM. -/
def execNorm (core idx : Nat) (env : Env) (s : State) : Host.Outcome State Fault Refusal :=
  .next { s with w := s.w.issue core idx env 7 2 normJob }

/-- VEC REDUCE. -/
def execReduce (core idx : Nat) (env : Env) (s : State) : Host.Outcome State Fault Refusal :=
  .next { s with w := s.w.issue core idx env 7 3 reduceJob }

/-- VEC OPTIMISE. -/
def execOptimise (core idx : Nat) (env : Env) (s : State) : Host.Outcome State Fault Refusal :=
  .next { s with w := s.w.issue core idx env 7 4 optimiseJob }

/-- VEC CONVERT. -/
def execConvert (core idx : Nat) (env : Env) (s : State) : Host.Outcome State Fault Refusal :=
  .next { s with w := s.w.issue core idx env 7 5 convertJob }

end Sys2Proof.Machine
end

