-- ==== Sys2Proof/Machine/Run.lean ====
section
/-!
DEFINITION. Firings in progress: which job a record names, how a firing that waits goes on, the CONTROL firings (R55,
R67, R809 to R813), elastic sections (R70 to R74), MERGE pieces (R587), peers' responses (R749, R920), and retirement
(R24, R881).
-/

namespace Sys2Proof.Machine

/-! ### The job that a record names -/

/-- The tile job of a record of a station other than MERGE, ATTEND and CONTROL (R24). -/
def jobOf (fab : Fab) (p : Plan) (r : Rec) (a : At) : Option Job :=
  match r.station, r.op with
  | 0, 1 => some (loadJob fab false p r a)
  | 0, 2 => some (loadJob fab true p r a)
  | 1, 1 => some (storeJob fab p r a)
  | 3, 1 => some (passJob p r a)
  | 4, 1 => some (sweepJob fab p r a)
  | 5, 1 => some (drainJob fab p r a)
  | 5, 2 => some (clearJob p r a)
  | 5, 3 => some (packOutJob p r a)
  | 7, 1 => some (mapJob p r a)
  | 7, 2 => some (normJob p r a)
  | 7, 3 => some (reduceJob p r a)
  | 7, 4 => some (optimiseJob p r a)
  | 7, 5 => some (convertJob p r a)
  | 8, 1 => some (putJob fab p r a)
  | 8, 2 => some (collJob fab p r a)
  | 9, 1 => some (takeJob p r a)
  | _, _ => none

/-- The item job of a MERGE or ATTEND record. -/
def itemJobOf (fab : Fab) (r : Rec) : Option ItemJob :=
  match r.station, r.op with
  | 2, 1 => some (decodeItem fab)
  | 2, 2 => some (compactItem fab)
  | 2, 3 => some (crossItem fab)
  | 2, 4 => some (laneItem fab)
  | 6, 1 => some (attItem fab false)
  | 6, 2 => some (attItem fab true)
  | _, _ => none

/-- What a firing does when it takes an item. -/
def onTakeOf (r : Rec) : Plan → Rec → At → W512 → Work → Work := if r.station = 6 then attTake else noTake

/-- A firing in progress goes on with its job or its item. -/
def Work.goOn (w : Work) (fab : Fab) (p : Plan) (r : Rec) (a : At) : Work :=
  match itemJobOf fab r with
  | some ij => w.workItem p r a ij
  | none =>
    match jobOf fab p r a with
    | some j => w.advance a.core a.firing j
    | none => w

/-- What is done with a firing in progress: its plan, record and prog. -/
def Work.withProg (w : Work) (core idx : Nat) (f : Plan → Rec → Prog → Work) : Work :=
  match w.plan with
  | none => w
  | some p =>
    match p.firing? core idx, (w.core core).progOf idx with
    | some r, some x => f p r x
    | _, _ => w

/-! ### Stalls -/

/-- The counter under which a stall on a tile counts beside SLIP_CLK (R64). -/
def stallCtr : Stall → Option Ctr
  | .notFull => some .sbStall
  | .notEmpty => some .sbStall
  | .overlap => some .sbStall
  | .noEntry => some .sbFull
  | _ => none

/-- Whether a stall ends by itself, once what it waits for is released: not a wait for a page, for a lane, or for a
peer's response. -/
def Prog.released (x : Prog) : Bool :=
  match x.stall with
  | none => false
  | some .page => false
  | some .engine => false
  | some _ => x.tags.isEmpty

/-- Clk of a stall counted: as a slip, and those on a tile under their counter and towards the lag (R23, R64, R79, R127). -/
def Work.countStall (w : Work) (core idx : Nat) (why : Stall) (n : Nat) : Work :=
  w.modCore core (fun c =>
    let c := c.count .slip n
    match stallCtr why with
    | some k => (c.modProg idx (fun x => { x with stalled := x.stalled + n })).count k n
    | none => c)

/-- Whether a firing has moved on between two moments. -/
def Prog.moved (x : Prog) (y : Option Prog) : Bool :=
  match y with
  | none => true
  | some y => decide (y.pos ≠ x.pos) || decide (y.stall ≠ x.stall) || decide (y.item ≠ x.item) ||
      (y.done && !x.done)

/-- SCOREBOARD_STALL_RELEASE: a stalled tile access proceeds, and all that is to come of its firing comes later by the clk of the
stall, which count under its first cause (R59 to R66, R79, R80); the clk that a SEND has spent retransmitting are noted (R129).
Where the cause still holds at that clk nothing happens. DESIGN CHOICE (log 6). -/
def Work.releaseStall (w : Work) (fab : Fab) (core idx stallClk : Nat) (env : Env) : Work :=
  w.withProg core idx (fun p r x =>
    match x.stall with
    | none => w
    | some why =>
      if x.released then
        let w1 := w.observe core env
        let w2 := w1.modCore core (fun c =>
          ((w1.idleUp core (w1.now env.clk) c).postpone idx (Rec.station r) stallClk).modProg idx (fun y =>
            { y with resent := if Rec.station r = 8 then y.resent + env.wait else y.resent }))
        let w3 := w2.goOn fab p r { core := core, firing := idx, time := w1.now env.clk }
        if x.moved ((w3.core core).progOf idx) then w3.countStall core idx (x.cause.getD why) stallClk else w
      else w)

/-- SCOREBOARD_STALL_RELEASE. -/
def execScoreboardStallRelease (core idx stallClk : Nat) (env : Env) (s : State) : Host.Outcome State Fault Refusal :=
  .next (State.uplinks { s with w := s.w.releaseStall s.fab core idx stallClk env })

/-! ### Elastic work -/

/-- The firing takes its next item, when it works through a list and has none in progress (R70). -/
def Work.takeNext (w : Work) (fab : Fab) (core idx : Nat) : Work :=
  w.withProg core idx (fun p r x =>
    match itemJobOf fab r with
    | none => w
    | some ij =>
      if x.item.isSome ∨ x.done then w
      else
        let a : At := { core := core, firing := idx, time := w.now w.cad.offset.toNat }
        let w := w.takeItem p core idx r
        let w := match (w.progAt a).item with
          | some (l, k) => onTakeOf r p r a ((p.items l).getD k 0) w
          | none => w
        w.workItem p r a ij)

/-- ELASTIC_ITEM_TAKE. -/
def execElasticItemTake (core idx : Nat) (s : State) : Host.Outcome State Fault Refusal :=
  .next { s with w := s.w.takeNext s.fab core idx }

/-- Whether a piece's partials wait: an earlier DRAIN or PACK_OUT has still to read the rows of the piece's array (R443, R445).
DEDUCED (log 85). -/
def Work.pieceWaits (w : Work) (p : Plan) (core : Nat) (x : Piece) : Bool :=
  match p.firing? core x.firing with
  | none => false
  | some r => w.orderWait p core x.firing r || decide (w.readWait p core x.firing r (w.now w.cad.offset.toNat) ≠ 0)

/-- A lane's piece retires, and the firing goes on when it was the last it waited for (R583, R587). -/
def Work.pieceDone (w : Work) (fab : Fab) (core lane waitClk fullClk : Nat) : Work :=
  match w.plan, (w.core core).lane lane with
  | some p, some x =>
    if w.pieceWaits p core x then w
    else
    let w := w.modCore core (fun c =>
      ((Core.retirePiece p c lane x).count .mergeTallyWait waitClk).count .mergeQueueFull fullClk)
    match p.firing? core x.firing, (w.core core).progOf x.firing with
    | some r, some y =>
      if y.stall = some .engine then
        w.goOn fab p r { core := core, firing := x.firing, time := w.now w.cad.offset.toNat }
      else w
    | _, _ => w
  | _, _ => w

/-- MERGE_PIECE_RETIRE. DESIGN CHOICE (log 94). -/
def execMergePieceRetire (core lane waitClk fullClk : Nat) (s : State) : Host.Outcome State Fault Refusal :=
  .next { s with w := s.w.pieceDone s.fab core lane waitClk fullClk }

/-- The member cores of a section. -/
def ESection.cores (e : ESection) : List Nat := (List.range 128).filter (fun c => e.members.getLsbD c)

/-- Whether the elastic firings of a section on a core have all retired. -/
def Work.sectionRetired (w : Work) (p : Plan) (n core : Nat) : Bool :=
  (p.core core).firings.zipIdx.all (fun x =>
    Rec.mode x.1 = 0 || Rec.isClose x.1 || decide ((p.core core).sectionOf x.2 ≠ some n) ||
    decide (x.2 ∈ (w.core core).retired))

/-- Whether a section may close (R71): open on every member core, every item retired, every elastic firing retired.
DESIGN CHOICE (log 1). -/
def Work.mayClose (w : Work) (p : Plan) (n : Nat) : Bool :=
  match p.section? n, w.run.sec? n with
  | some e, some s =>
    !s.closed && e.cores.all (fun c => s.opened.getLsbD c) &&
    s.lists.all (fun l => decide (l.2.2 = (p.items l.1).length)) && e.cores.all (w.sectionRetired p n)
  | _, _ => false

/-- A section closes on all its member cores (R71): the clk beyond its declared end count as overrun (R74), and tallies
that ATTEND held are undefined (R599). -/
def Work.closeSection (w : Work) (n clk : Nat) : Work :=
  match w.plan with
  | none => w
  | some p =>
    if w.mayClose p n then
      let cores := match p.section? n with
        | some e => e.cores
        | none => []
      let due := match w.run.sec? n with
        | some s => s.due
        | none => 0
      let beyond := (w.lateBy (due / w.period) (due % w.period) clk).getD 0
      let w := { w with run := w.run.modSec n (fun s => { s with closed := true, closedAt := w.now clk }) }
      let w := { w with cad.offset := w.clkOf clk }
      cores.foldl (fun w c =>
        let att := (w.core c).attHold
        let w := w.modCore c (fun x => (x.count .elasticOverrun beyond).afterAttend w.mem.draws)
        if att then { w with mem.draws := w.mem.draws + 1 } else w) w
    else w

/-- SECTION_CLOSE. -/
def execSectionClose (number clk : Nat) (s : State) : Host.Outcome State Fault Refusal :=
  .next { s with w := s.w.closeSection number clk }

/-! ### CONTROL firings -/

/-- A CONTROL firing of an operation issues, has its effect and retires at once; it uses no station time. -/
def Work.control (w : Work) (core idx : Nat) (env : Env) (op : Nat) (fits : Rec → Bool)
    (act : Plan → Rec → Work → Work) : Work :=
  match w.plan with
  | none => w
  | some p =>
    match p.firing? core idx with
    | none => w
    | some r =>
      if Rec.station r = 15 ∧ Rec.op r = op ∧ fits r ∧ w.issuable p core idx r env.clk then
        (act p r (w.begin core idx r env)).retire core idx r (w.now env.clk)
      else w

/-- CONTROL NOP (R1084). -/
def execNop (core idx : Nat) (env : Env) (s : State) : Host.Outcome State Fault Refusal :=
  .next { s with w := s.w.control core idx env 0 (fun _ => true) (fun _ _ w => w) }

/-- A section opens on a core (R67); its declared end is the plan time of the SECTION_OPEN plus its declared length, and where the
SECTION_OPENs of its member cores give different ends, the latest of them. DESIGN CHOICE (log 153). -/
def Work.openSection (w : Work) (p : Plan) (core : Nat) (r : Rec) : Work :=
  let n := r.section
  let due := r.tick * w.period + r.offset + r.declared
  let w := match w.run.sec? n with
    | some _ => w
    | none =>
      let ls := match p.section? n with
        | some e => e.lists
        | none => []
      let x : SecRun := { number := n, lists := ls.map (fun l => (l, 0, 0)) }
      { w with run.sections := w.run.sections ++ [x] }
  { w with run := w.run.modSec n (fun s =>
      { s with opened := s.opened ||| BitVec.ofNat 128 (2 ^ core), due := max s.due due }) }

/-- CONTROL SECTION_OPEN. -/
def execSectionOpen (core idx : Nat) (env : Env) (s : State) : Host.Outcome State Fault Refusal :=
  .next { s with w := s.w.control core idx env 1 (fun _ => true) (fun p r w => w.openSection p core r) }

/-- STAGE of a MARK (R809). -/
def Rec.stage (r : Rec) : Nat := r.param % 16
/-- ACTION of a MARK (R809). -/
def Rec.action (r : Rec) : Nat := r.param / 16 % 4

/-- A stash adds the extent of a descriptor to the live count of a stage (R811, R812). -/
def StageMap.stash (m : StageMap) (stage n : Nat) : StageMap :=
  let v : BitVec 56 := mget m.live 0 stage + BitVec.ofNat 56 n
  { m with live := mset m.live 0 stage v
           high := mset m.high 0 stage (if mget m.high 0 stage < v then v else mget m.high 0 stage) }

/-- A release subtracts it; a count that would fall below zero becomes zero and is flagged (R813). -/
def StageMap.release (m : StageMap) (stage n : Nat) : StageMap :=
  let v := (mget m.live 0 stage).toNat
  if n ≤ v then { m with live := mset m.live 0 stage (BitVec.ofNat 56 (v - n)) }
  else { m with live := mset m.live 0 stage 0
                underflow := true
                underflowStage := if m.underflow then m.underflowStage else BitVec.ofNat 4 stage }

/-- CONTROL MARK, ACTION 0: a trace event that carries STAGE (R810). DEDUCED (log 131). -/
def execMarkMarker (core idx : Nat) (env : Env) (s : State) : Host.Outcome State Fault Refusal :=
  .next { s with w := s.w.control core idx env 3 (fun r => r.action = 0) (fun _ r w =>
    if r.trace then w.traceRecord 3 (Rec.stage r) core idx env.clk else w) }

/-- CONTROL MARK, ACTION 1. -/
def execMarkStash (core idx : Nat) (env : Env) (s : State) : Host.Outcome State Fault Refusal :=
  .next { s with w := s.w.control core idx env 3 (fun r => r.action = 1) (fun p r w =>
    { w with stages := w.stages.stash (Rec.stage r) (p.tensor r.desc).extent }) }

/-- CONTROL MARK, ACTION 2. -/
def execMarkRelease (core idx : Nat) (env : Env) (s : State) : Host.Outcome State Fault Refusal :=
  .next { s with w := s.w.control core idx env 3 (fun r => r.action = 2) (fun p r w =>
    { w with stages := w.stages.release (Rec.stage r) (p.tensor r.desc).extent }) }

/-! ### Responses of peers -/

/-- The access that a request serves. -/
def Req.acc (q : Req) (time : Nat) : Acc := { core := q.core, firing := q.firing, desc := 0, time := time }

/-- What a peer's response brings: the bytes read; an uncorrectable line of the peer is this module's own uncorrectable
read of the region (R920); a peer that is absent is lost (R771). -/
def Work.response (w : Work) (q : Req) (status : Nat) (data : List Byte) (clk : Nat) : Work :=
  let acc := q.acc (w.now clk)
  let w := { w with mem.reqs := w.mem.reqs.filter (fun x => x.tag ≠ q.tag) }
  let w := if q.write then w
    else { w with mem.peers := mmod w.mem.peers {} q.peer (·.write q.addr (fit q.len data)) }
  if status = stDataLost then w.judgeLost acc q.region (q.addr / 64)
  else if status = stOk then w
  else { w with run := w.run.blame stPeerLost { (acc.event 0) with which := q.peer % 1024 } }

/-- A firing that waited for a response goes on when it was the last, later by the clk of the wait. -/
def Work.answered (w : Work) (fab : Fab) (q : Req) (clk : Nat) : Work :=
  let w := w.modCore q.core (fun c =>
    c.modProg q.firing (fun x => { x with tags := x.tags.filter (· ≠ q.tag) }))
  w.withProg q.core q.firing (fun p r x =>
    if x.tags.isEmpty ∧ (x.stall = some .peer ∨ x.stall = none) ∧ !x.done then
      let now := w.now clk
      (w.modCore q.core (fun c => c.postpone q.firing (Rec.station r) (if x.stall.isSome then now - x.stallFrom else 0))).goOn
        fab p r { core := q.core, firing := q.firing, time := now }
    else w)

/-- PEER_ACCESS_RESPONSE: a response to no request changes nothing. -/
def execPeerAccessResponse (tag status : Nat) (data : List Byte) (env : Env) (s : State) :
    Host.Outcome State Fault Refusal :=
  match s.w.mem.reqs.find? (fun q => q.tag = tag) with
  | none => .next s
  | some q =>
    .next (State.uplinks { s with w := (((s.w.observe q.core env).response q status data env.clk).answered s.fab q env.clk) })

/-! ### Retirement -/

/-- The tiles that a firing keeps in its streams until it retires, now consumed: the activation tiles of a SWEEP (R451),
the SRC_B tiles of COMPACT and LANE_MAC (R570, R577). -/
def Work.releaseTiles (w : Work) (p : Plan) (r : Rec) (a : At) : Work :=
  match r.station with
  | 4 => w.vacate p a r.srcA (sweepTiles (p.tensor r.desc) (p.tensor (r.desc + 1)))
  | 2 => if mergeKeeps p r = 0 then w else w.vacate p a r.srcB (mergeKeeps p r)
  | _ => w

/-- A firing whose work is done retires in the clk in which its last effect is due, whenever after it the row comes (R24, R70,
R881). DESIGN CHOICE (log 6). -/
def Work.retireFiring (w : Work) (core idx : Nat) (env : Env) : Work :=
  w.withProg core idx (fun p r x =>
    let t := max x.ends x.doneAt
    if x.done && decide (t ≤ w.now env.clk) then
      ((w.observe core env).releaseTiles p r { core := core, firing := idx, time := t }).retire core idx r t
    else w)

/-- FIRING_RETIRE. -/
def execFiringRetire (core idx : Nat) (env : Env) (s : State) : Host.Outcome State Fault Refusal :=
  .next { s with w := s.w.retireFiring core idx env }

end Sys2Proof.Machine
end

