-- ==== Sys2Proof/Machine/Cadence.lean ====
section
/-!
DEFINITION. Herd time in a running step: tick boundaries, lag, holds and caps (R94 to R100, R127 to R141, R984 to R986),
the start of a step (R100, R109, R113, R118, R119, R867), stops and their decision (R142 to R146, R908 to R914, R991), the
abandonment of a step (R52, R302, R880) and its commit (R905 to R907), route-set switches (R761) and refresh windows (R147).
-/

namespace Sys2Proof.Machine

/-! ### Clk and nanoseconds -/

/-- `⌈ns / P⌉` for a time in ns and the period P in clk: 1.8 or 1.5 clk per ns (R95, R968). -/
def State.ticksOf (s : State) (ns : Nat) : Nat :=
  if s.pwr.clockSel then ceilDiv (3 * ns) (2 * s.w.period) else ceilDiv (9 * ns) (5 * s.w.period)

/-- `⌈DMAX / P⌉` (R133). -/
def State.decisionLag (s : State) : Nat := s.ticksOf s.w.cad.dmax.toNat

/-- The hold lead H (R107). DEDUCED (log 49). -/
def Work.lead (w : Work) : Nat := w.cad.holdLead.toNat

/-- Clk in a millisecond. -/
def Pwr.clkPerMs (p : Pwr) : Nat := if p.clockSel then 1500000 else 1800000

/-- Sends a timing block on towards the bellwether, or from the bellwether along the beat ports (R752). -/
def Work.timing (w : Work) (kind tick value source : Nat) : Work :=
  let b := mkBlock kind tick value source
  { w with out := w.out ++ [Out.timing (if w.cad.bellwether then none else w.cad.beatPort) b] }

/-! ### Idle clk -/

/-- The logical cores changed together. -/
def Work.mapCores (w : Work) (f : Nat → Core → Core) : Work :=
  let xs := (List.range w.rel.cls).map (fun c => (c, f c (w.core c)))
  { w with cores := xs.filter (fun x => x.2 ≠ {}) ++ w.cores.filter (fun x => w.rel.cls ≤ x.1) }

/-- Idle clk of every logical core counted up to a herd time (R158). DESIGN CHOICE (log 73). -/
def Work.idleAll (w : Work) (hi : Nat) : Work := w.mapCores (fun c x => w.idleUp c hi x)

/-! ### Lag (R127 to R130) -/

/-- The lag of a core's station at offset 0 of the present step tick, its links' retransmissions left out: that of a firing due
and not issued, or else of the last of its timed firings that is in progress (R127). DEDUCED (log 32). -/
def Work.firingLag (w : Work) (p : Plan) (core station : Nat) : Nat :=
  let c := w.core core
  let mine := (p.core core).firings.zipIdx.filter (fun x => Rec.station x.1 = station ∧ Rec.mode x.1 = 0 ∧ !Rec.isClose x.1)
  let due := (mine.filter (fun x => x.2 ∉ c.issued)).filterMap (fun x => w.lateBy (Rec.tick x.1) (Rec.offset x.1) 0)
  match due with
  | d :: _ => d
  | [] =>
    match (c.prog.filter (fun y => mine.any (fun x => x.2 = y.idx))).getLast? with
    | none => 0
    | some y =>
      let waits : Bool := match y.stall with
        | some k => (stallCtr k).isSome
        | none => false
      y.late + y.stalled + (if waits then w.cad.time - y.stallFrom else 0)

/-- The lag of a core's station: the clk that its SEND firings in progress have spent retransmitting are added (R127, R129).
DEDUCED (log 32). -/
def Work.stationLag (w : Work) (p : Plan) (core station : Nat) : Nat :=
  w.firingLag p core station +
    (if station = 8 then (((w.core core).prog.filter (fun x => p.stationOf core x.idx = 8)).map (·.resent)).sum else 0)

/-- How far the open elastic sections of a core that have a station in their mask stand past their declared ends (R128).
DEDUCED (log 32). -/
def Work.sectionLag (w : Work) (p : Plan) (core : Nat) : Nat :=
  (w.run.sections.filter (fun s => s.opened.getLsbD core && !s.closed &&
    (List.range 16).any (fun k => (p.core core).inMask s.number k))).foldl
    (fun a s => max a ((w.lateBy (s.due / w.period) (s.due % w.period) 0).getD 0)) 0

/-- The lag L of the module (R130), a late CONTROL record counted as that of a station. DEDUCED (log 32). -/
def Work.lag (w : Work) (p : Plan) : Nat :=
  (List.range w.rel.cls).foldl (fun a c =>
    (List.range 16).foldl (fun a st => max a (w.stationLag p c st)) (max a (w.sectionLag p c))) 0

/-! ### Holds (R132, R985, R986) -/

/-- The request of R132 for a lag beyond the slack. -/
def lagRequest (applied lag slack : Nat) : Option Nat :=
  if slack < lag then some (applied + ceilDiv (lag - slack) slack * slack) else none

/-- X of R984: the clk that a tick of `d` clk and energy `e` nJ lacks under cap `c` W.
DEDUCED (log 33). -/
def capExcess (slow : Bool) (e c d : Nat) : Nat := (if slow then ceilDiv (3 * e) (2 * c) else ceilDiv (9 * e) (5 * c)) - d

/-- The request QP of R985. DEDUCED (log 33). -/
def capRequest (applied x slack : Nat) : Option Nat := if 0 < x then some (applied + ceilDiv x slack * slack) else none

/-- A hold raised: counted and held at the bellwether or sent to it (R132, R752).
DEDUCED (log 34). -/
def Work.raiseHold (w : Work) (q : Nat) : Work :=
  let t := w.run.tick.toNat
  let w := { w with cad.holdCount := w.cad.holdCount + 1 }
  if w.cad.bellwether then { w with run.holds := w.run.holds ++ [(t, q)] }
  else w.timing 1 t q 0

/-- The lag at the start of a tick, of a running step or of one that is held (R168). -/
def Work.sampleLag (w : Work) : Work :=
  match w.plan with
  | some p => if w.run.step.isSome then
      { w with cad.lagMax := BitVec.ofNat 64 (max w.cad.lagMax.toNat (w.lag p)) } else w
  | none => w

/-- What a member does at offset 0 of a tick of a running step: lag, holds and caps. `d` is the length of the tick before
and `energy` its input energy in nJ. DEDUCED (log 34). -/
def State.stepTick (s : State) (p : Plan) (energy d : Nat) : State :=
  let w := s.w
  let l := w.lag p
  let slack := w.cad.slackClk.toNat
  let x := capExcess s.pwr.clockSel energy (p.capAt (w.run.tick.toNat - 1)) d
  let q := lagRequest w.run.applied l slack
  let qp := capRequest w.run.applied x slack
  let pwr := if 0 < x then { s.pwr with capTicks := s.pwr.capTicks + 1 } else s.pwr
  let larger : Bool := match q, qp with
    | some a, some b => decide (a < b)
    | none, some _ => true
    | _, none => false
  let w := match q, qp with
    | none, none => w
    | _, _ => w.raiseHold (max (q.getD 0) (qp.getD 0))
  { s with w := w, pwr := if larger then { pwr with capHolds := pwr.capHolds + 1 } else pwr }

/-! ### The tick boundary -/

/-- The run-time clock advanced (R927). DEDUCED (log 127). -/
def Rel.advance (r : Rel) (clk perMs : Nat) : Rel :=
  { r with runMs := r.runMs + (r.runClk + clk) / perMs, runClk := (r.runClk + clk) % perMs }

/-- A stop raised at offset 0 of the present tick, or learnt of: the earliest origin counts (R142), and the idle clk since it are
held aside (R1093). DEDUCED (log 36). -/
def Work.stopFrom (w : Work) (origin : Nat) : Work :=
  let w : Work := { w with cad.stopPending := true
                           run.stopOrigin := some (match w.run.stopOrigin with
                             | some o => min o origin
                             | none => origin) }
  match w.heldSince with
  | some t => w.mapCores (fun _ c => c.pullBack t)
  | none => w

/-- The stop that a member owes, raised at offset 0 of a tick, whether or not another one is under way (R142).
DEDUCED (log 36, 42). -/
def State.raiseStop (s : State) : State :=
  if s.w.run.wantStop then
    let t := s.w.cad.tickCount.toNat
    let w := ({ s.w with run.wantStop := false }.stopFrom t).timing 3 t 0 s.fab.member.toNat
    { s with w := w }
  else s

/-- Whether the tick t + H of a stop has ended (R143). -/
def Work.stopDue (w : Work) : Bool :=
  match w.run.stopOrigin with
  | some o => decide (o + w.lead ≤ w.cad.tickCount.toNat)
  | none => false

/-- Whether tick t + H of a stop lies behind. -/
def Work.stopOver (w : Work) : Bool :=
  match w.run.stopOrigin with
  | some o => decide (o + w.lead < w.cad.tickCount.toNat)
  | none => false

/-- The tick that ends: its stretch enters APPLIED and the counts of stretches, and its clk the herd time (R94, R139).
DEDUCED (log 33). -/
def State.endTick (s : State) : State :=
  let st := s.w.run.stretch
  let d := s.w.period + st
  let w := s.w.idleAll (s.w.cad.time + d)
  let one := if st = 0 then 0 else 1
  let cad := { w.cad with tickCount := w.cad.tickCount + 1, offset := 0, time := w.cad.time + d, drift := w.cad.drift + st
                          stretchCount := w.cad.stretchCount + BitVec.ofNat 64 one
                          stretchClk := w.cad.stretchClk + BitVec.ofNat 64 st }
  let run := { w.run with applied := w.run.applied + st
                          step := w.run.step.map (fun x => { x with stretchClk := x.stretchClk + st }) }
  { s with w := { w with cad := cad, run := run, rel := w.rel.advance d s.pwr.clkPerMs } }

/-- The step tick of the tick that begins: it counts while a step runs (R100, R145). -/
def Work.nextTick (w : Work) : Work :=
  if w.dev.state = .running ∧ w.run.step.isSome then
    { w with run := { w.run with tick := w.run.tick + 1, counting := true } }
  else { w with run := { w.run with counting := false } }

/-- PWR_STATUS.LAST_TICK_W: the average power of a tick of `d` clk and `e` nJ.
DESIGN CHOICE (log 35). -/
def tickWatts (slow : Bool) (e d : Nat) : Nat := min 4095 (if slow then 3 * e / (2 * d) else 9 * e / (5 * d))

/-- Row remaps whose copy is complete when a tick begins: they take effect in it (R334). -/
def MemSys.remapsDue (m : MemSys) : MemSys :=
  if m.remaps.isEmpty then m else { m with remaps := m.remaps.map (fun r => if r.copied then { r with due := true } else r) }

/-- A module without cadence lock runs ticks of P clk of its own, which are no herd ticks: its refresh windows follow them, and
its run-time clock and the count of clk that carries its IEEE 1588 time on until cadence lock (R118, R324, R927).
DEDUCED (log 127). -/
def State.ownTick (s : State) : State :=
  { s with w := { s.w with cad.offset := 0, cad.time := s.w.cad.time + s.w.period, mem := s.w.mem.remapsDue, rel := s.w.rel.advance s.w.period s.pwr.clkPerMs } }

/-- TICK_BOUNDARY: a tick ends and the next one opens at offset 0: a herd tick, or a tick of a module's own clk.
DEDUCED (log 45); DESIGN CHOICE (log 137). -/
def execTickBoundary (energyNj : Nat) (s : State) : Host.Outcome State Fault Refusal :=
  .next (
    if s.w.dev.state = .off then s
    else if s.w.cad.lock.toNat < 2 then s.ownTick
    else
      let s := { s with w := { s.w with mem := s.w.mem.remapsDue } }
      let d := s.w.period + s.w.run.stretch
      let due := s.w.stopDue
      let s := s.endTick
      let w := if due then { s.w with run.counting := false } else s.w.nextTick
      let s := { s with w := w.sampleLag, pwr.lastTickW := BitVec.ofNat 12 (tickWatts s.pwr.clockSel energyNj d) }
      let s := match s.w.plan with
        | some p => if s.w.run.counting then s.stepTick p energyNj d else s
        | none => s
      s.raiseStop)

/-! ### Stretches (R133, R134, R138) -/

/-- STRETCH_DECISION: the bellwether sets the stretch of tick t + H from the holds of origin t (R133), each origin once and
in order. -/
def execStretchDecision (origin : Nat) (s : State) : Host.Outcome State Fault Refusal :=
  .next (
    if s.w.cad.bellwether ∧ s.w.run.step.isSome ∧ s.w.run.counting ∧ s.w.run.nextDecision ≤ origin ∧
        s.w.run.tick.toNat = origin + s.decisionLag then
      let r := s.w.run
      let q := ((r.holds.filter (fun x => x.1 = origin)).map (·.2)).foldl max 0
      let st := min (q - r.decided) (s.w.cad.stretchMax.toNat * s.w.cad.slackClk.toNat)
      let run := { r with decided := r.decided + st, nextDecision := origin + 1
                          stretches := if st = 0 then r.stretches else r.stretches ++ [(origin + s.w.lead, st)] }
      { s with w := { s.w with run := run }.timing 2 (origin + s.w.lead) st s.fab.member.toNat }
    else s)

/-! ### The start of a step -/

/-- Where the boundaries of a step's start belong, in clk after the grid of the anchor: at the bellwether where its last edge
since the anchor says, at another member where the beat says (R102, R111). DESIGN CHOICE (log 164). -/
def Work.aim (w : Work) : Int := if w.cad.bellwether then w.cad.trim else Config.freeShift w.cad.tickCount.toNat

/-- The clk by which the tick before tick 0 of a step is lengthened (R111, R113).
DESIGN CHOICE (log 38). -/
def Work.lengthening (w : Work) : Nat := ((w.aim - w.cad.drift) % (w.period : Int)).toNat

/-- The tick boundary moved onto the grid; the inserted clk are idle (R113). -/
def Work.lengthen (w : Work) : Work :=
  let n := w.lengthening
  let w := w.idleAll (w.cad.time + n)
  { w with cad := { w.cad with time := w.cad.time + n, drift := w.cad.drift + n } }

/-- A range made undefined in a memory that a region lies in (R903, R911). DEDUCED (log 109). -/
def Work.undefRegion (w : Work) (r : Reg) : Work :=
  let lo := Reg.tbase r
  let hi := lo + Reg.size r
  let m := w.mem
  match Reg.target r with
  | 0 => { w with mem := { m with hbm := m.hbm.undef lo hi m.draws, draws := m.draws + 1 } }
  | 2 => { w with mem := { m with companion := m.companion.undef lo hi m.draws, draws := m.draws + 1 } }
  | _ => w

/-- The scratch regions of a plan, undefined (R903). DEDUCED (log 109). -/
def Work.undefScratch (w : Work) (p : Plan) : Work :=
  (p.commits.filter (fun e => (commitFields e).2.2 = 2)).foldl
    (fun w e => w.undefRegion (p.regions.getD (commitFields e).1 0)) w

/-- The write versions of a plan, discarded (R911). DEDUCED (log 109). -/
def Work.undefWritten (w : Work) (p : Plan) : Work :=
  (p.commits.filter (fun e => (commitFields e).2.2 = 0)).foldl
    (fun w e => w.undefRegion (p.regions.getD (commitFields e).2.1 0)) w

/-- A core at tick 0: streams empty (R46), tallies clear, so that no run takes up another's sums (R10, R11), and loaded from
drain table 0 (R483), no firing issued, local store not carried over (R367). DEDUCED (log 84). -/
def Core.fresh (draw : Nat) (c0 : Core) : Core :=
  let c := (c0.afterAttend draw).loadTables
  { c with ls := { cells := [], holes := [⟨0, 8388608, draw⟩] }, prog := [], issued := [], retired := [], slots := []
           made := [], used := [], board := [], queues := [], lanes := [], dispatch := [], cells := [], rows := []
           retiredAt := [], free := [] }

/-- Lines of step-owned regions that the companion caches, recalled and written back at tick 0 (R352, R353, R829): what a
modified one holds has reached HBM with its store. DEDUCED (log 106). -/
def Work.recall (w : Work) (p : Plan) : Work := { w with mem.cached := w.mem.cached.filter (fun x => x ∉ w.recalls p) }

/-- Collectives, streams and requests under way given up. -/
def Net.clear (n : Net) : Net := { n with rx := [], colls := [], inbox := [] }

/-- What an attempt at a step starts from (R41, R46, R141, R761, R814, R903).
DEDUCED (log 27, 84). -/
def Work.attempt (w : Work) (p : Plan) : Work :=
  let w := (w.recall p).undefScratch p
  let d := w.mem.draws
  let w := w.mapCores (fun c x => x.fresh (d + c))
  let r := w.run
  let run : Run :=
    { accepted := r.accepted, queued := r.queued, step := r.step, begun := r.begun, commits := r.commits
      wantStop := r.wantStop, stopOrigin := r.stopOrigin, thermalStop := r.thermalStop, holdCmd := r.holdCmd
      discarded := r.discarded, counting := true, factors := p.vecFactors (r.commits + 1) }
  { w with mem := { w.mem with draws := d + w.rel.cls, reqs := [] }
           run := run, net := w.net.clear
           stages := { w.stages with live := [], high := [] }
           cum := { w.cum with treated := [], journal := [] } }

/-- Whether START of a step has come (R118, R119, R867): the herd time `t` in clk of the boundary.
DEDUCED (log 22, 49). -/
def State.startReached (s : State) (q : StepReq) (t : Nat) : Bool :=
  decide (q.start = 0) || !s.w.cad.bellwether ||
  (match s.w.cad.epochNs with
   | none => true
   | some e => if s.pwr.clockSel then decide (3 * q.start ≤ 3 * e + 2 * t) else decide (9 * q.start ≤ 9 * e + 5 * t))

/-- Whether the step accepted may begin at the present tick boundary: the first one after its acceptance (R867), not while
a stop is under way (R143), after the commit of the step before it (R906).
DESIGN CHOICE (log 1); DEDUCED (log 22). -/
def State.mayStart (s : State) (q : StepReq) : Bool :=
  (decide (s.w.dev.state = .loaded) || decide (s.w.dev.state = .running)) && s.w.run.step.isNone && !s.w.run.counting &&
  !s.w.stopOver && !s.w.run.stopped && decide (2 ≤ s.w.cad.lock.toNat) && decide (s.w.cad.offset = 0) &&
  decide (q.since < s.w.cad.tickCount.toNat) && s.startReached q (s.w.cad.time + s.w.lengthening)

/-- A step begins: the present tick is its tick 0 (R100). DEDUCED (log 44, 99). -/
def State.beginStep (s : State) (p : Plan) (q : StepReq) : State :=
  let w := s.w.lengthen
  let x : StepSt := { req := q, number := w.run.begun, startTick := w.cad.tickCount.toNat }
  let w := { w with run := { w.run with accepted := none, step := some x, begun := w.run.begun + 1 }
                    cum := { w.cum with batch := w.cum.next.getD w.cum.batch, next := none }
                    rel := { w.rel with replaysThisStep := 0 } }
  { s with w := (w.attempt p).setState .running .command }

/-- STEP_START. DEDUCED (log 22). -/
def execStepStart (s : State) : Host.Outcome State Fault Refusal :=
  .next (match s.w.plan, s.w.run.accepted with
    | some p, some q => if s.mayStart q then s.beginStep p q else s
    | _, _ => s)

/-! ### Giving up an attempt -/

/-- A core without the work of an attempt. DESIGN CHOICE (log 73). -/
def Core.idleWork (c : Core) : Core := { c with prog := [], board := [], queues := [], lanes := [], dispatch := [] }

/-- The work of an attempt discarded (R225, R233, R718, R817): Cumulus as at tick 0, no statistics, no stage counts. -/
def Work.dropAttempt (w : Work) : Work :=
  let w := (w.mapCores (fun _ x => x.idleWork)).cumUndo
  let run := { w.run with counting := false, sections := [], mass := [], chanStats := [], slotStats := [], sets := [], landed := [] }
  { w with run := run, net := w.net.clear, mem := { w.mem with reqs := [] }
           stages := { w.stages with live := [], high := [] } }

/-- The idle clk that cores held aside, counted: as replay when the step rolls back, otherwise under their causes (R1093). -/
def Core.settle (rolled : Bool) (c : Core) : Core :=
  { c with aside := []
           counts := c.aside.foldl (fun m x =>
             mmod m 0 (if rolled then Ctr.off .idleReplay else x.1) (· + BitVec.ofNat 64 x.2)) c.counts }

/-- The steps discarded behind a step, ready with its status (R864). DEDUCED (log 24). -/
def Work.settleDiscarded (w : Work) (status : Nat) : Work :=
  let w1 := w.run.discarded.foldl (fun w q => w.discardStep q status) w
  { w1 with run := { w1.run with discarded := [] } }

/-- The completion record of the step that is given up, and of the steps discarded behind it (R879, R880, R864). -/
def Work.abandonWith (w : Work) (status : Nat) (e : Option StepEvent) : Work :=
  match (match w.run.step with
    | some x => some x
    | none => w.run.ended) with
  | none => w
  | some x =>
    let w := if w.run.step.isSome then w.dropAttempt else w
    let w := if status = stDataLost then { w with rel := { w.rel with dataLost := w.rel.dataLost + 1 } } else w
    let w := w.finish x.req.slot status (recordBody status 0 2 x.replays x.number x.startTick x.stretchClk e 0)
    let w := { w with run := { w.run with step := none, ended := none, abandon := none, faulted := false, detections := [], rerun := false }
                      rel := { w.rel with replayActive := false, replaysThisStep := 0 }
                      dev := { w.dev with held := false } }
    w.settleDiscarded status

/-- A step queued behind one that is held or abandoned is discarded (R864). DEDUCED (log 24). -/
def Run.discardQueued (r : Run) : Run :=
  match r.queued with
  | some q => { r with queued := none, discarded := r.discarded ++ [q] }
  | none => r

/-- STEP_ABANDON: at the tick boundary after a fault (R52, R302) or a lost peer (R771) the step is abandoned and the module
enters HELD, which raises a stop (R142); the record waits for the herd's decision on the status (R880, R910). A fault met
by work that ended after the herd stopped abandons the held step once the decision is made. -/
def execStepAbandon (s : State) : Host.Outcome State Fault Refusal :=
  .next (match s.w.run.abandon, s.w.run.step with
    | some (st, e), some x =>
      if !s.w.run.faulted ∨ s.w.cad.offset ≠ 0 then s
      else if s.w.dev.state = .running then
        let w := s.w.dropAttempt
        let run := { w.run with ended := some x, step := none, wantStop := true }
        { s with w := { w with run := run.discardQueued }.setState .held .abandonment }
      else if s.w.dev.state = .held ∧ !s.w.run.stopped ∧ s.w.run.resumeAt.isNone then
        { s with w := s.w.abandonWith st.toNat (some e) }
      else s
    | _, _ => s)

/-! ### Stops -/

/-- The herd stops at the end of tick t + H (R143): the module enters HELD; a queued step is discarded (R864). A member that has
entered HELD by itself still owes the stop of R142.
DEDUCED (log 40, 42, 43). -/
def Work.halt (w : Work) : Work :=
  let cause := if w.run.thermalStop then Cause.thermal else if w.run.holdCmd then .command else .herdStop
  let run := { w.run with stopOrigin := none, stopped := true, wantStop := w.run.wantStop && w.run.ended.isSome }
  let dev := { w.dev with held := w.run.step.isSome }
  let w : Work := { w with run := run.discardQueued, cad := { w.cad with stopPending := false }, dev := dev }
  if w.dev.state = .held then w else w.setState .held cause

/-- The report that this member gives (R909). -/
def State.ownReport (s : State) : StopReport :=
  let r := s.w.run
  let m := s.fab.member.toNat
  match r.abandon with
  | some (st, e) => { member := m, kind := .abandonment st.toNat, time := e.time, which := e.which, addr := e.addr }
  | none =>
    if !r.detections.isEmpty then { member := m, kind := .detection, time := r.since }
    else if r.holdCmd ∨ r.thermalStop then { member := m, kind := .hold, time := s.w.cad.time }
    else { member := m, kind := .none, time := s.w.cad.time }

/-- HERD_STOP. -/
def execHerdStop (s : State) : Host.Outcome State Fault Refusal :=
  .next (
    if s.w.stopDue then
      if s.w.dev.state = .loaded ∨ s.w.dev.state = .running ∨ s.w.dev.state = .held then
        let w := s.w.halt
        if w.cad.bellwether then { s with w := w } else { s with w := { w with out := w.out ++ [Out.report s.ownReport] } }
      else { s with w := { (s.w.mapCores (fun _ x => x.settle false)) with
                                    run := { s.w.run with stopOrigin := none, wantStop := false }
                                    cad := { s.w.cad with stopPending := false } } }
    else s)

/-! ### The decision (R910) -/

/-- The abandonment whose event came first in herd time, with the event its record names: this member's own with its
place, another's with its WHICH and ADDR (R910 row 1, R879); of two in one clk this member's own, then the earlier report.
DEDUCED (log 92, 128). -/
def State.firstAbandon (s : State) (reports : List StopReport) : Option (Nat × StepEvent) :=
  let others := reports.filterMap (fun r => match r.kind with
    | .abandonment st => some (st, ({ time := r.time, core := 0xFFFF, firing := 0, which := r.which, addr := r.addr } : StepEvent))
    | _ => none)
  let own := match s.w.run.abandon with
    | some (st, e) => [(st.toNat, e)]
    | none => []
  (own ++ others).foldl (fun (a : Option (Nat × StepEvent)) x => match a with
    | none => some x
    | some y => if x.2.time < y.2.time then some x else some y) none

/-- The first opted-out region of a step, as the event of row 2. DEDUCED (log 128). -/
def Work.optedOut (w : Work) (p : Plan) : Option StepEvent :=
  ((p.commits.find? (fun e => (commitFields e).2.2 = 1)).map (fun e =>
    let k := (commitFields e).1
    { time := w.run.since, core := (w.run.detections.head?.map (·.core)).getD 0xFFFF, firing := 0, which := k
      addr := Reg.vbase (p.regions.getD k 0) }))

/-- A rollback (R911): write versions and scratch regions discarded, the step tick, APPLIED and DECIDED back to 0. -/
def Work.rollback (w : Work) (p : Plan) : Work :=
  let w := (((w.undefWritten p).undefScratch p).dropAttempt).mapCores (fun _ x => x.settle true)
  { w with run := { w.run with tick := 0, applied := 0, decided := 0, nextDecision := 0, stretches := [], holds := []
                               detections := [], abandon := none, faulted := false, rerun := true } }

/-- A step rolled back and held at its tick 0 (R910 rows 3 and 4). -/
def Work.holdAtZero (w : Work) : Work :=
  { w with rel := { w.rel with replayActive := false }, dev := { w.dev with held := true } }

/-- Row 5: the bellwether names the herd tick of the rerun (R912). DESIGN CHOICE (log 38). -/
def State.orderRerun (s : State) : State :=
  if s.w.cad.bellwether then
    let t := s.w.cad.tickCount.toNat + s.w.lead + Config.freeLead s.w.cad.tickCount.toNat
    { s with w := ({ s.w with run.resumeAt := some t }).timing 4 t 0 s.fab.member.toNat }
  else s

/-- The step rolled back under row 3, 4 or 5 of R910. DEDUCED (log 43). -/
def State.replayRow (s : State) (p : Plan) (hold : Bool) : State :=
  let limit : Bool := match s.w.run.step with
    | some x => decide (s.w.rel.replayLimit.toNat ≤ x.sinceResume)
    | none => false
  let w := s.w.rollback p
  if limit then { s with w := { (w.holdAtZero) with dev := { w.dev with held := true, cause := .maintenance } } }
  else if hold then { s with w := w.holdAtZero }
  else State.orderRerun { s with w := w }

/-- What the herd does once every report is in (R910). DEDUCED (log 37, 40). -/
def State.decideStop (s : State) (reports : List StopReport) : State :=
  let det := !s.w.run.detections.isEmpty || reports.any (fun r => decide (r.kind = .detection))
  let hold := s.w.run.holdCmd || s.w.run.thermalStop || reports.any (fun r => decide (r.kind = .hold))
  let calm (s : State) : State := { s with w := s.w.mapCores (fun _ x => x.settle false) }
  let closed : State := { s with w := { s.w with run :=
    { s.w.run with stopped := false, holdCmd := false, thermalStop := false, wantStop := s.w.run.wantStop && s.w.run.ended.isSome } } }
  match s.firstAbandon reports with
  | some (st, e) =>
    let s := calm closed
    let w := s.w.abandonWith st (some e)
    { s with w := { w with run := { w.run with abandon := none, faulted := false, detections := [] } } }
  | none =>
    match s.w.plan, det && s.w.run.step.isSome with
    | some p, true =>
      match s.w.optedOut p with
      | some e => let s := calm closed; { s with w := s.w.abandonWith stDataLost (some e) }
      | none => closed.replayRow p hold
    | _, _ => calm closed

/-- Whether a report of every other member of the herd is in. DEDUCED (log 37). -/
def State.allReported (s : State) (reports : List StopReport) : Bool :=
  (List.range s.fab.herdSize).all (fun m => decide (m = s.fab.member.toNat) || reports.any (fun r => decide (r.member = m)))

/-- STOP_DECISION. DEDUCED (log 37). -/
def execStopDecision (reports : List StopReport) (s : State) : Host.Outcome State Fault Refusal :=
  .next (if s.w.run.stopped ∧ s.w.dev.state = .held ∧ s.allReported reports then s.decideStop reports else s)

/-! ### Reruns and resumption (R146, R912, R913) -/

/-- The step starts again at tick 0 in the present herd tick. DEDUCED (log 28, 39, 43). -/
def State.restart (s : State) (p : Plan) (f : StepSt → StepSt) : State :=
  let w := s.w.lengthen
  let w := w.attempt p
  let t := w.cad.tickCount.toNat
  let w := { w with run := { w.run with step := w.run.step.map (fun (x : StepSt) => f { x with startTick := t }) }
                    rel := { w.rel with replayActive := false }
                    dev := { w.dev with held := false } }
  { s with w := w.setState .running .command }

/-- RERUN_START: the rerun that R912 names begins (R955 KIND 6). -/
def execRerunStart (s : State) : Host.Outcome State Fault Refusal :=
  .next (match s.w.plan, s.w.run.resumeAt, s.w.run.step with
    | some p, some t, some x =>
      if s.w.dev.state = .held ∧ s.w.run.rerun ∧ s.w.rel.replayActive ∧ t ≤ s.w.cad.tickCount.toNat then
        let s := s.restart p (fun x => { x with replays := x.replays + 1, sinceResume := x.sinceResume + 1 })
        let rel := { s.w.rel with replayCount := s.w.rel.replayCount + 1
                                  replaysThisStep := BitVec.ofNat 4 (x.replays + 1) }
        { s with w := ({ s.w with rel := rel } : Work).event 0x0006 2 0xFFFF 0 0 0 (x.replays + 1) }
      else s
    | _, _, _ => s)

/-- HERD_RESUME: at the herd tick named, a held step counts on, a step held at its tick 0 restarts there (R913), and a herd
without a step is LOADED again (R146, R859). The tick at which the step counts on is one at whose start a lag beyond the slack
raises a hold (R132). DEDUCED (log 34, 43). -/
def execHerdResume (s : State) : Host.Outcome State Fault Refusal :=
  .next (match s.w.run.resumeAt with
    | none => s
    | some t =>
      if s.w.dev.state ≠ .held ∨ s.w.cad.tickCount.toNat < t ∨ s.w.rel.replayActive then s
      else
        let s := { s with w := { s.w with run := { s.w.run with resumeAt := none, wantStop := false } } }
        match s.w.run.step, s.w.plan with
        | some _, some p =>
          if s.w.run.rerun then s.restart p (fun x => { x with sinceResume := 0 })
          else
            let run := { s.w.run with tick := s.w.run.tick + 1, counting := true
                                      step := s.w.run.step.map (fun x => { x with sinceResume := 0 }) }
            let w : Work := { s.w with run := run, dev := { s.w.dev with held := false } }
            let w := (w.setState .running .command).sampleLag
            { s with w := match lagRequest w.run.applied (w.lag p) w.cad.slackClk.toNat with
              | some q => w.raiseHold q
              | none => w }
        | _, _ => s.enter .loaded .command)

/-- Whether a sensor stands at or above its warning threshold (R993). DEDUCED (log 133, 135). -/
def Pwr.hot (p : Pwr) : Bool := p.warn || decide (35 ≤ bits p.dies 55 48)

/-- STEP_RESUME (R869, R913, R993): the bellwether names the herd tick at which the herd resumes.
DEDUCED (log 39, 135). -/
def execStepResume (ring tick : Nat) (s : State) : Host.Outcome State Fault Refusal :=
  .next (s.command ring [.held] (fun s =>
    let first := s.w.cad.tickCount.toNat + s.w.lead
    if !s.w.cad.bellwether then s.refuse stBadParam
    else if s.pwr.hot ∨ s.w.run.resumeAt.isSome ∨ s.w.run.stopped ∨ s.w.run.stopOrigin.isSome ∨ s.w.run.wantStop then
      s.refuse stBusy
    else if tick ≠ 0 ∧ tick < first then s.refuse stBadParam
    else
      let t := if tick = 0 then first else tick
      { s := { s with w := ({ s.w with run := { s.w.run with resumeAt := some t } }).timing 4 t 0 s.fab.member.toNat }
        status := stOk }))

/-! ### Commit (R905 to R907) -/

/-- The regions after a commit: the TBASE fields of every KIND 0 pair exchanged (R902).
DEDUCED (log 30). -/
def Plan.exchange (p : Plan) : Plan :=
  { p with regions := p.commits.foldl (fun rs e =>
      let f := commitFields e
      if f.2.2 = 0 then
        let a := rs.getD f.1 0
        let b := rs.getD f.2.1 0
        setAt (setAt rs f.1 (Reg.withTbase a (Reg.tbase b / 2 ^ 21))) f.2.1 (Reg.withTbase b (Reg.tbase a / 2 ^ 21))
      else rs) p.regions }

/-- DATA_STATUS and the event that it names (R180, R560, R561, R880): the first of four kinds that the step met. -/
def Run.dataStatus (r : Run) : Nat × Option StepEvent :=
  match [(stIndexRange, r.indexErr), (stFormatViolation, r.formatErr), (stOkPruned, r.prunedEv),
      (stOkInexact, r.inexactEv)].find? (fun x => x.2.isSome) with
  | some x => x
  | none => (stOk, none)

/-- The stage counts at a commit (R815, R816). DEDUCED (log 30, 128). -/
def StageMap.commit (m : StageMap) : StageMap :=
  let left := (List.range 16).filter (fun k => mget m.live 0 k ≠ 0)
  { m with peak := (List.range 16).foldl (fun x k => mset x 0 k (mget m.high 0 k)) m.peak
           unreleased := m.unreleased || !left.isEmpty
           unreleasedMask := BitVec.ofNat 16 ((left.map (2 ^ ·)).sum) }

/-- Whether a stop keeps the step from committing: one of origin at or before step tick STEP_TICKS (R906).
DEDUCED (log 29). -/
def Work.stopBefore (w : Work) (p : Plan) : Bool :=
  match w.run.stopOrigin with
  | some o => decide (w.run.tick.toNat + o ≤ p.stepTicks + w.cad.tickCount.toNat)
  | none => false

/-- Whether the step commits now (R906): it has come to step tick STEP_TICKS + H.
DESIGN CHOICE (log 1); DEDUCED (log 29). -/
def Work.mayCommit (w : Work) (p : Plan) : Bool :=
  decide (w.dev.state = .running) && w.run.step.isSome && w.run.counting && decide (p.stepTicks + w.lead ≤ w.run.tick.toNat) &&
  !w.stopBefore p && w.run.abandon.isNone

/-- The commit of a step: Cumulus, which reads what the step wrote through the map in which it wrote it (R687, R717), versions
exchanged (R902), scales and statistics (R225, R234), stage counts (R815), the completion record (R879, R880); then the queued step follows, or the module is LOADED.
DEDUCED (log 30, 36). -/
def State.commitStep (s : State) (p : Plan) (x : StepSt) : State :=
  let c := (s.w.idleAll (s.w.cad.time + s.w.period + s.w.run.stretch)).cumCommit
  let w := ({ c.1 with plan := some p.exchange } : Work).commitScales p x.number
  let w := { w with stages := w.stages.commit }
  let ds := w.run.dataStatus
  let status := if x.replays = 0 then ds.1 else stReplayed
  let body := recordBody status ds.1 (if x.replays = 0 then 0 else 1) x.replays x.number x.startTick
    (x.stretchClk + w.run.stretch) ds.2 c.2
  let w := w.finish x.req.slot status body
  let run := { w.run with step := none, commits := w.run.commits + 1, accepted := w.run.queued, queued := none }
  let w := { w with run := run, rel := { w.rel with replaysThisStep := 0, replayActive := false }, net := w.net.clear }.settleDiscarded status
  let s := { s with w := w }
  if w.run.accepted.isSome then s else s.enter .loaded .commit

/-- COMMIT. DEDUCED (log 29). -/
def execCommit (s : State) : Host.Outcome State Fault Refusal :=
  .next (match s.w.plan, s.w.run.step with
    | some p, some x => if s.w.mayCommit p then s.commitStep p x else s
    | _, _ => s)

/-! ### Places on the cadence -/

/-- ROUTE_SET_SWITCH: the switch listed for the present step tick takes effect at its offset 0 (R760, R761). -/
def execRouteSetSwitch (s : State) : Host.Outcome State Fault Refusal :=
  .next (match s.w.plan with
    | none => s
    | some p =>
      match p.switches.find? (fun e => bits e 23 0 = s.w.run.tick.toNat) with
      | some e =>
        if s.w.run.counting ∧ s.w.run.step.isSome then
          { s with w := { s.w with run := { s.w.run with activeSet := BitVec.ofNat 3 (bits e 26 24) } } }
        else s
      | none => s)

/-- REFRESH_WINDOW of a refresh group (R147 to R149, R322): no register shows it and no contents change. What waits for a window
finds it by its offset: firings in `Work.refreshWait`, unscheduled accesses in `State.refreshing`. -/
def execRefreshWindow (_group _window : Nat) (s : State) : Host.Outcome State Fault Refusal := .next s

end Sys2Proof.Machine
end

