-- ==== Sys2Proof/Machine/Herd.lean ====
section
/-!
DEFINITION. Forming and leaving a herd (R888 to R894), cadence lock (R106 to R108), beat loss (R123 to R126), the
bellwether's alignment (R109 to R117, R122), timing blocks (R750 to R753), and an internal error (R897).
-/

namespace Sys2Proof.Machine

/-! ### Forming a herd -/

/-- Whether the parameters of HERD_FORM obey R733, R866, R888 and the rules it names.
DEDUCED (log 31, 48). -/
def State.formOk (s : State) (p : HerdParams) : Bool :=
  let n := (p.xM1 + 1) * (p.yM1 + 1) * (p.zM1 + 1)
  decide (p.xM1 < 16) && decide (p.yM1 < 8) && decide (p.zM1 < 8) && decide (n ≤ 1024) && decide (p.herd < 256) &&
  decide (p.member < n) && decide (p.bellwether < n) && decide (p.clockSel < 2) &&
  cadOk p.tickClk p.slackClk p.stretchMax (decide (p.clockSel = 1)) && decide (p.memX ≤ s.w.mem.minGib) &&
  decide (p.uplConfig < 2 ^ 21)

/-- The parameters of the herd that the module stands in (R891). -/
def State.herdParams (s : State) : HerdParams :=
  let f := s.fab
  let c := s.w.cad
  { xM1 := f.xM1.toNat, yM1 := f.yM1.toNat, zM1 := f.zM1.toNat, herd := f.herd.toNat, member := f.member.toNat
    bellwether := c.bellIndex.toNat, clockSel := b2n s.pwr.clockSel, stretchMax := c.stretchMax.toNat
    slackClk := c.slackClk.toNat, tickClk := c.tickClk.toNat, memX := s.w.mem.splitX.toNat
    uplConfig := pack [(f.etherType.toNat, 16), (b2n f.vlanEn, 1), (f.pcp.toNat, 3), (b2n f.pfcEn, 1)] }

/-- MEM_SPLIT.X as a join sets it (R315, R888, R893). DEDUCED (log 48). -/
def Work.joinSplit (w : Work) (x : Nat) : Work :=
  if x = w.mem.splitX.toNat then w
  else if x ≤ w.mem.minGib then w.split x
  else { w with mem := { w.mem with configReject := true } }

/-- A port left out of every bond (R743). DEDUCED (log 47). -/
def State.miswire (s : State) (port : Nat) : State :=
  let s := s.portState port .miswired
  { s with fab := s.fab.modPort port (fun p => { p with bond := 7, bondIndex := 0 }) }

/-- The ports that lead to another member than the one R734 names. DEDUCED (log 47). -/
def State.wrongPorts (s : State) : List Nat :=
  (List.range 40).filter (fun k =>
    let p := s.fab.port k
    decide (p.st = .up) && decide (p.bond.toNat < 6) &&
    (decide (s.fab.dims.getD (p.bond.toNat / 2) 1 = 1) ||
     decide (p.neighbour.toNat ≠ s.fab.neighbourOf s.fab.member.toNat p.bond.toNat)))

/-- The module takes the herd's parameters and its own index, and the join begins: clock, cadence, split and uplinks are
set (R888), miswired ports are left out (R743), the beat port is chosen (R103), the join is passed on (R889). -/
def State.startJoin (s : State) (p : HerdParams) : State :=
  let w := s.w.joinSplit p.memX
  let c := w.cad.config p.tickClk p.slackClk p.stretchMax
  let cad := { c with lock := 1, bellwether := decide (p.member = p.bellwether), ppsOk := false, ptpOk := false
                      anchor := none, epochNs := none
                      bellIndex := BitVec.ofNat 10 p.bellwether, beatLost := c.beatLost }
  let f := s.fab.setUpl p.uplConfig
  let fab := { f with xM1 := BitVec.ofNat 4 p.xM1, yM1 := BitVec.ofNat 3 p.yM1, zM1 := BitVec.ofNat 3 p.zM1
                      herd := BitVec.ofNat 8 p.herd, member := BitVec.ofNat 10 p.member }
  let s : State := { s with w := { w with cad := cad }, fab := fab, pwr := { s.pwr with clockSel := decide (p.clockSel = 1) } }
  let s := s.wrongPorts.foldl State.miswire s
  let beat := if s.w.cad.bellwether then none else (s.beatPorts 40).head?
  let x := s.fab.coords p.member
  { s with w := { s.w with cad := { s.w.cad with beatPort := beat }
                           out := s.w.out ++ [Out.join p (x.getD 0 0) (x.getD 1 0) (x.getD 2 0)] } }

/-- HERD_FORM (R888, R891). DEDUCED (log 149). -/
def execHerdForm (ring : Nat) (p : HerdParams) (s : State) : Host.Outcome State Fault Refusal :=
  .next (s.command ring [.standby, .joined] (fun s =>
    if s.w.dev.state = .joined then
      if p = s.herdParams then { s := s, status := stOk } else s.refuse stStateConflict
    else if s.w.cad.lock = 1 then s.refuse stBusy
    else if !s.formOk p then s.refuse stBadParam
    else s.withSlot ring 0x0100 (fun s k =>
      let s := s.startJoin p
      { s with w := { s.w with dev := { s.w.dev with forming := some k } } })))

/-- The coordinates of a module from those of the neighbour a port leads to, and the bond between them (R734, R889). -/
def ownCoords (dims : List Nat) (bond : Nat) (xyz : List Nat) : List Nat :=
  let k := bond / 2
  let n := dims.getD k 1
  setAt xyz k ((if bond % 2 = 0 then xyz.getD k 0 + n - 1 else xyz.getD k 0 + 1) % n)

/-- The member at coordinates of a shape (R733). -/
def memberOf (dims xyz : List Nat) : Nat :=
  xyz.getD 0 0 + dims.getD 0 1 * (xyz.getD 1 0 + dims.getD 1 1 * xyz.getD 2 0)

/-- JOIN_RECEIVE: a module in STANDBY takes the join and passes it on (R889); a second join that does not agree marks its
port MISWIRED (R890). DEDUCED (log 31). -/
def execJoinReceive (port : Nat) (p : HerdParams) (x y z : Nat) (s : State) : Host.Outcome State Fault Refusal :=
  .next (
    let b := (s.fab.port port).bond.toNat
    if 40 ≤ port ∨ 6 ≤ b ∨ !(s.fab.port port).working then s
    else
      let dims := [p.xM1 + 1, p.yM1 + 1, p.zM1 + 1]
      let m := memberOf dims (ownCoords dims b [x, y, z])
      if s.w.cad.lock = 0 then
        if s.w.dev.state = .standby then s.startJoin { p with member := m } else s
      else if m = s.fab.member.toNat then s
      else (s.miswire port).beatFrom port)

/-- The cadence counters cleared, which cadence lock clears (R162), and with them what a core holds by herd time, which begins anew
(R94, R153). DEDUCED (log 15). -/
def Core.clearCadence (c : Core) : Core :=
  { c with aside := [], idled := [], idleFrom := 0, checkEnd := [], gridNext := 0, lastRow := []
           counts := [Ctr.slip, .elasticIdle, .idleReplay, .idleMaint, .idleHost, .idleSlip, .idlePeer, .idleCadence].foldl
             (fun m (k : Ctr) => mset m 0 k.off 0) c.counts }

/-- Herd time in ns of clk. -/
def Pwr.nsOf (p : Pwr) (clk : Nat) : Nat := if p.clockSel then 2 * clk / 3 else 5 * clk / 9

/-- The cadence block at lock: the hold lead H (R107), tick 0 (R94) on the grid of the anchor, which with IEEE 1588 lock is the
last PPS edge of R110 or, without one, second 0 of the timescale (R109, R112), its counters cleared (R162).
DESIGN CHOICE (log 164). -/
def State.lockCad (s : State) (dmaxNs delayNs : Nat) (herdErr : Int) : Cad :=
  let h := max 1 (2 * s.ticksOf dmaxNs)
  { s.w.cad with
    lock := 2, tickCount := 0, offset := 0, time := 0, drift := 0, trim := 0
    anchor := if s.w.cad.ptpOk then some (s.w.cad.anchor.getD 0) else none
    epochNs := s.w.cad.epochNs.map (· + s.pwr.nsOf (s.w.now s.w.cad.offset.toNat))
    holdLead := BitVec.ofNat 8 h, dmax := BitVec.ofNat 16 dmaxNs, beatDelay := BitVec.ofNat 16 delayNs
    herdErr := BitVec.ofInt 16 herdErr, stretchCount := 0, stretchClk := 0, holdCount := 0, stopPending := false }

/-- CADENCE_LOCK: LOCK reaches 2 and the module is JOINED; the record of its HERD_FORM is ready (R106 to R108, R892). -/
def execCadenceLock (dmaxNs delayNs : Nat) (herdErr : Int) (s : State) : Host.Outcome State Fault Refusal :=
  .next (
    if s.w.cad.lock ≠ 1 ∨ s.w.dev.state ≠ .standby then s
    else
      let w := s.w.mapCores (fun _ x => x.clearCadence)
      let slot := w.dev.forming
      let w : Work := { w with cad := s.lockCad dmaxNs delayNs herdErr, run := {}
                               dev := { w.dev with forming := none } }
      let s := { s with fab := { s.fab with joined := true }, w := w.setState .joined .command }
      match slot with
      | some k => s.finish k stOk []
      | none => s)

/-- HERD_FORM_TIMEOUT: LOCK has not reached 2 after 200 ms (R892). -/
def execHerdFormTimeout (s : State) : Host.Outcome State Fault Refusal :=
  .next (
    if s.w.cad.lock ≠ 1 then s
    else
      let slot := s.w.dev.forming
      let cad := { s.w.cad with lock := 0, bellwether := false, ppsOk := false, ptpOk := false, anchor := none, epochNs := none
                                beatPort := none }
      let s := { s with w := { s.w with cad := cad, dev := { s.w.dev with forming := none } } }
      match slot with
      | some k => s.finish k stPeerLost []
      | none => s)

/-! ### Leaving a herd -/

/-- The states of a herd member. -/
def member : List DevState := [.joined, .loaded, .running, .held]

/-- What becomes of steps when the module leaves its herd: the step that runs or is held is abandoned with ST_PEER_LOST, and
with it the one queued behind it (R124, R864, R894), and of Cumulus's slots (R660); `e` is the event that its record names.
DESIGN CHOICE (log 25, 46). -/
def Work.leaveSteps (w : Work) (e : Option StepEvent) : Work :=
  let going : Bool := w.run.step.isSome || w.run.ended.isSome
  let w := if going then { w with run := w.run.discardQueued } else w
  let w := w.mapCores (fun _ x => x.settle false)
  let w := match w.run.step, w.run.abandon with
    | none, some (st, f) => w.abandonWith st.toNat (some f)
    | _, _ => w.abandonWith stPeerLost e
  (w.settleDiscarded stPeerLost).closeSlots.disarm 1

/-- A plan load given up when the module leaves the herd. DESIGN CHOICE (log 25). -/
def Work.leaveLoad (w : Work) : Work :=
  match w.dev.load with
  | some j => { w with dev := { w.dev with load := none } }.finish j.slot (Config.freeStatus 2).toNat (zeros 4)
  | none => w

/-- The module leaves its herd: steps, plan, slots and cadence are given up and it enters STANDBY (R125, R659, R894).
DEDUCED (log 43, 146). -/
def State.leaveHerd (s : State) (cause : Cause) (e : Option StepEvent) : State :=
  let w := (s.w.leaveSteps e).leaveLoad
  let cad := { w.cad with lock := 0, bellwether := false, ppsOk := false, ptpOk := false, stopPending := false, beatPort := none
                          anchor := none, epochNs := none, xherdErr := 0 }
  let w := { w with cad := cad, run := {}, net := w.net.clear
                    mem := { w.mem with reqs := [] }, dev := { w.dev with held := false } }
  State.enter { s with w := w, fab := { s.fab with joined := false } } .standby cause

/-- HERD_LEAVE (R862, R894): it spreads to every member. DESIGN CHOICE (log 46). -/
def execHerdLeave (ring : Nat) (s : State) : Host.Outcome State Fault Refusal :=
  .next (s.command ring member (fun s =>
    if s.w.dev.load.isSome then s.refuse stBusy
    else { s := State.leaveHerd { s with w := { s.w with out := s.w.out ++ [Out.leave] } } .command none, status := stOk }))

/-- LEAVE_RECEIVE: the leave of another member, passed on (R894). -/
def execLeaveReceive (port : Nat) (s : State) : Host.Outcome State Fault Refusal :=
  .next (
    if s.w.dev.state ∈ member ∧ (s.fab.port port).working then
      State.leaveHerd { s with w := { s.w with out := s.w.out ++ [Out.leave] } } .command none
    else s)

/-- BEAT_LOSS: no beat within two tick periods of the expected boundary (R123 to R126). The record names the bellwether.
DESIGN CHOICE (log 46). -/
def execBeatLoss (s : State) : Host.Outcome State Fault Refusal :=
  .next (
    if s.w.dev.state ∈ member ∧ !s.w.cad.bellwether then
      let e : StepEvent := { time := s.w.cad.time, core := 0xFFFF, firing := 0, which := s.w.cad.bellIndex.toNat }
      State.leaveHerd { s with w := { s.w with cad := { s.w.cad with beatLost := true } } } .beatLoss (some e)
    else s)

/-! ### The bellwether's alignment -/

/-- Clk in a second, F (R110). -/
def Pwr.clkPerSec (p : Pwr) : Nat := 1000 * p.clkPerMs

/-- A, the seconds between anchors (R110). -/
def State.anchorSeconds (s : State) : Nat := s.w.period / Nat.gcd s.w.period s.pwr.clkPerSec

/-- Whether a PPS edge is an anchor: with IEEE 1588 lock an edge of a second that is a multiple of A (R110), without it the
first edge after cadence lock (R112). -/
def State.anchors (s : State) (second : Nat) : Bool :=
  if s.w.cad.ptpOk then decide (second % s.anchorSeconds = 0)
  else decide (2 ≤ s.w.cad.lock.toNat) && s.w.cad.anchor.isNone

/-- PPS_EDGE (R109 to R112): an edge `late` clk after the instant expected of it. The grid of an anchor is that edge's, and the
boundaries stand that much less after it; the lateness of another edge is kept for the next lengthening, which moves the
boundaries by it once (R111). An edge that no anchor stands before is late after the nearest boundary of the grid in force.
DESIGN CHOICE (log 164). -/
def execPpsEdge (second : Nat) (late : Int) (s : State) : Host.Outcome State Fault Refusal :=
  .next (
    if !s.w.cad.bellwether ∨ s.w.cad.lock = 0 then s
    else
      let c := { s.w.cad with ppsOk := true }
      let c := if s.anchors second then { c with anchor := some second, drift := c.drift - late, trim := 0 }
        else if c.anchor.isSome then { c with trim := late } else c
      { s with w := { s.w with cad := c } })

/-- PPS_LOSS: the bellwether aligns by IEEE 1588 alone (R117). -/
def execPpsLoss (s : State) : Host.Outcome State Fault Refusal :=
  .next (if s.w.cad.bellwether then { s with w := { s.w with cad := { s.w.cad with ppsOk := false } } } else s)

/-- REFCLK_LOSS: holdover (R122). -/
def execRefclkLoss (s : State) : Host.Outcome State Fault Refusal :=
  .next (if s.w.cad.bellwether ∧ s.w.cad.lock = 2 then { s with w := { s.w with cad := { s.w.cad with lock := 3 } } } else s)

/-- REFCLK_RETURN: holdover ends (R122). -/
def execRefclkReturn (s : State) : Host.Outcome State Fault Refusal :=
  .next (if s.w.cad.lock = 3 then { s with w := { s.w with cad := { s.w.cad with lock := 2 } } } else s)

/-- Clk in a time in ns. -/
def Pwr.clkIn (p : Pwr) (ns : Nat) : Nat := if p.clockSel then 3 * ns / 2 else 9 * ns / 5

/-- Without a PPS edge the grid is that of the IEEE 1588 clock: second 0 of its timescale is an anchor, and the boundaries stand
off the grid by what has passed since (R112, R117). DESIGN CHOICE (log 164). -/
def State.ptpGrid (s : State) (c : Cad) : Cad :=
  match c.epochNs with
  | some e => if c.ptpOk && !c.ppsOk && decide (2 ≤ c.lock.toNat) then
      { c with anchor := some 0, drift := ((c.time + s.pwr.clkIn e : Nat) : Int), trim := 0 } else c
  | none => c

/-- PTP_MESSAGE_RECEIVE: the bellwether's IEEE 1588 clock gives the time of day, its lock, and the offset of the nearest
other herd (R114, R118, R165, R167); it aligns by it alone without a PPS edge (R117). -/
def execPtpMessageReceive (timeNs : Nat) (locked : Bool) (xherdErr : Int) (s : State) : Host.Outcome State Fault Refusal :=
  .next (
    if !s.w.cad.bellwether then s
    else
      let now := s.pwr.nsOf (s.w.now s.w.cad.offset.toNat)
      let epoch := if locked then some (timeNs - now) else s.w.cad.epochNs
      let c := { s.w.cad with ptpOk := locked, epochNs := epoch, xherdErr := BitVec.ofInt 16 xherdErr }
      { s with w := { s.w with cad := s.ptpGrid c } })

/-! ### Timing blocks (R750 to R753) -/

/-- KIND of a timing block. -/
def blockKind (b : W128) : Nat := bits b 2 0
/-- TICK of a timing block. -/
def blockTick (b : W128) : Nat := bits b 31 8
/-- VALUE of a timing block. -/
def blockValue (b : W128) : Nat := bits b 63 32

/-- A block sent on along the beat ports. -/
def Work.spread (w : Work) (b : W128) : Work := { w with out := w.out ++ [Out.timing none b] }

/-- A block sent on towards the bellwether. -/
def Work.towards (w : Work) (b : W128) : Work := { w with out := w.out ++ [Out.timing w.cad.beatPort b] }

/-- What a member of a locked herd does with a block of a kind that arrives on a working port; one that fails its CRC is
dropped (R753). -/
def State.onBlock (s : State) (port kind : Nat) (b : W128) (act : Work → Work) : State :=
  if blockOk b ∧ blockKind b = kind ∧ (s.fab.port port).working ∧ 2 ≤ s.w.cad.lock.toNat then { s with w := act s.w } else s

/-- A block that only the bellwether raises: a member takes it from its beat port and spreads it. -/
def State.fromBell (s : State) (port kind : Nat) (b : W128) (act : Work → Work) : State :=
  s.onBlock port kind b (fun w => if w.cad.beatPort = some port ∧ !w.cad.bellwether then (act w).spread b else w)

/-- The herd tick whose low 24 bits are given, at or before the present one. -/
def Work.tickBefore (w : Work) (t : Nat) : Nat :=
  let n := w.cad.tickCount.toNat
  n - (n + 2 ^ 24 - t % 2 ^ 24) % 2 ^ 24

/-- The herd tick whose low 24 bits are given, at or after the present one. -/
def Work.tickAfter (w : Work) (t : Nat) : Nat :=
  let n := w.cad.tickCount.toNat
  n + (t + 2 ^ 24 - n % 2 ^ 24) % 2 ^ 24

/-- BEAT_BLOCK: passed along; the member's own clk opens the tick (R753). DEDUCED (log 45). -/
def execBeatBlock (port : Nat) (block : W128) (s : State) : Host.Outcome State Fault Refusal :=
  .next (s.fromBell port 0 block id)

/-- A hold as the bellwether takes it: one that comes after its origin's decision counts for the next origin (R134). -/
def Run.takeHold (r : Run) (origin q : Nat) : Run :=
  if r.step.isSome then { r with holds := r.holds ++ [(max origin r.nextDecision, q)] } else r

/-- HOLD_BLOCK: recorded by the bellwether, sent on by any other member (R752). -/
def execHoldBlock (port : Nat) (block : W128) (s : State) : Host.Outcome State Fault Refusal :=
  .next (s.onBlock port 1 block (fun w =>
    if w.cad.bellwether then { w with run := w.run.takeHold (blockTick block) (blockValue block) } else w.towards block))

/-- STRETCH_BLOCK: the stretch of a target tick (R138). -/
def execStretchBlock (port : Nat) (block : W128) (s : State) : Host.Outcome State Fault Refusal :=
  .next (s.fromBell port 2 block (fun w =>
    { w with run := { w.run with stretches := w.run.stretches ++ [(blockTick block, blockValue block)] } }))

/-- STOP_BLOCK: at the bellwether and from it the stop counts and spreads; from another member it goes to the bellwether
(R752). DEDUCED (log 42). -/
def execStopBlock (port : Nat) (block : W128) (s : State) : Host.Outcome State Fault Refusal :=
  .next (s.onBlock port 3 block (fun w =>
    if w.cad.bellwether ∨ w.cad.beatPort = some port then (w.stopFrom (w.tickBefore (blockTick block))).spread block
    else w.towards block))

/-- RESUME_BLOCK: the herd tick of resumption (R146, R912). -/
def execResumeBlock (port : Nat) (block : W128) (s : State) : Host.Outcome State Fault Refusal :=
  .next (s.fromBell port 4 block (fun w =>
    { w with run := { w.run with resumeAt := some (w.tickAfter (blockTick block)) } }))

/-! ### Internal errors -/

/-- INTERNAL_ERROR: logged, and the module enters FAULT (R859, R897). DESIGN CHOICE (log 41). -/
def execInternalError (code : Nat) (s : State) : Host.Outcome State Fault Refusal :=
  .next (
    if s.w.dev.state = .off then s
    else { s with w := (s.w.event 0x000F 5 0xFFFF 0 0 0 code).setState .fault .internal })

end Sys2Proof.Machine
end

