-- ==== Sys2Proof/Machine/Power.lean ====
section
/-!
DEFINITION. Power, resets and start-up (R962 to R980, R1006 to R1010, R1015, R1035, R1071), and temperature (R988 to R996,
R1000, R1001, R1051, R1081).
-/

namespace Sys2Proof.Machine

/-! ### What a reset keeps (R951, R973, R974) -/

/-- The counters of a core that are cleared at power-on only (R461, R522, R597, R651, R1091).
DEDUCED (log 14, 15). -/
def keptCtrs : List Nat :=
  ([.gridCheckMismatch, .gridOutlierMismatch, .gridRamp, .sweepBytes, .tallyInexact, .tallyOver, .tallyFold, .tallyResidue,
    .spPruned, .spIndexErrors, .mergeSteal, .mergeQueueFull, .mergeTallyWait, .mergeProducts, .attItems, .attFed, .attSkipped,
    .attEmpty, .attWait, .fmtSat, .fmtConvNonfinite] : List Ctr).map Ctr.off

/-- A core after a reset: its spares (R951), and after a warm one the counters cleared at power-on only.
DESIGN CHOICE (log 9); DEDUCED (log 14). -/
def Core.rebooted (warm : Bool) (c : Core) : Core :=
  { bank0 := c.bank0, bank1 := c.bank1, spares := c.spares
    counts := if warm then c.counts.filter (fun x => x.1 ∈ keptCtrs) else []
    parityCount := if warm then c.parityCount else 0 }

/-- The device block after a reset. -/
def Dev.rebooted (warm : Bool) (d : Dev) : Dev :=
  if warm then { log := d.log, logNext := d.logNext, noteLost := d.noteLost } else {}

/-- Memory after a reset: what stands outside the module, and from the repair record the retired channels, the row remaps
in effect and the lost-line list (R951). DESIGN CHOICE (log 16, 17). -/
def MemSys.rebooted (warm : Bool) (m : MemSys) : MemSys :=
  let b : MemSys :=
    { companion := m.companion, companions := m.companions, peers := m.peers, lost := m.lost, draws := m.draws
      hbmStacks := (m.hbmStacks.map (fun x => (x.1, ({ active := x.2.active } : Stack)))).filter (fun x => x.2 ≠ {})
      remaps := m.remaps.filter (·.inEffect) }
  if warm then { b with ce := m.ce, ue := m.ue, odc := m.odc, hostReads := m.hostReads, hostWrites := m.hostWrites } else b

/-- The reliability block after a reset: the repair record's spares and class, and after a warm one the counts, the
run-time clock and its windows (R927). DESIGN CHOICE (log 17). -/
def Rel.rebooted (warm : Bool) (r : Rel) : Rel :=
  let b : Rel := { coreMap := r.coreMap, parked := r.parked, badCores := r.badCores, cls := r.cls, retired := r.retired
                   laneSpares := r.laneSpares, portSpares := r.portSpares }
  if warm then
    { b with replayCount := r.replayCount, dataLost := r.dataLost, lasting := r.lasting, tableCe := r.tableCe
             eventLost := r.eventLost, rowOverflow := r.rowOverflow, runMs := r.runMs, runClk := r.runClk
             windows := r.windows, laneRates := r.laneRates, tracked := r.tracked }
  else b

/-- Cumulus after a reset: no slot open and no page held (R660). -/
def Cum.rebooted (warm : Bool) (c : Cum) : Cum :=
  if warm then { appends := c.appends, deferredCount := c.deferredCount, evictions := c.evictions, spills := c.spills
                 fetches := c.fetches, demand := c.demand, stallCount := c.stallCount }
  else {}

/-- The fabric after a reset: no keys (R1042), no neighbour; after a warm one the counts. -/
def Fab.rebooted (warm : Bool) (f : Fab) : Fab :=
  if warm then
    { retrans := f.retrans, backoff := f.backoff, dead := f.dead, eventLost := f.eventLost, uplRetry := f.uplRetry
      ports := (f.ports.map (fun x => (x.1, ({ fecCorr := x.2.fecCorr, fecUncorr := x.2.fecUncorr } : Port)))).filter
        (fun x => x.2 ≠ {})
      uplinks := (f.uplinks.map (fun x => (x.1, ({ discarded := x.2.discarded } : Uplink)))).filter (fun x => x.2 ≠ {}) }
  else {}

/-- The power block after a reset; LAST_RESET records the source. -/
def Pwr.rebooted (warm : Bool) (src : Nat) (p : Pwr) : Pwr :=
  if warm then { lastReset := BitVec.ofNat 2 src, capTicks := p.capTicks, capHolds := p.capHolds, emergencies := p.emergencies }
  else {}

/-- The work state after a reset. DEDUCED (log 14). -/
def Work.rebooted (warm : Bool) (w : Work) : Work :=
  { dev := w.dev.rebooted warm, mem := w.mem.rebooted warm
    cores := (w.cores.map (fun x => (x.1, x.2.rebooted warm))).filter (fun x => x.2 ≠ {})
    cum := w.cum.rebooted warm, rel := w.rel.rebooted warm
    net := { mismatch := if warm then w.net.mismatch else 0 }
    trace := { lost := if warm then w.trace.lost else 0 }
    out := w.out }

/-- The security block as a boot begins: the flash slots, the fuses and the security record stay (R1006, R1026, R1037); an
unlocked module is locked, one with a valid token that waits is unlocked (R1035); the nonces are fresh (R1058). -/
def Sec.rebooted (warm : Bool) (x : Sec) : Sec :=
  { slotA := x.slotA, slotB := x.slotB, activeB := x.activeB, minSvn := x.minSvn, raise := x.raise
    ownerRequire := x.ownerRequire, keys := x.keys
    debug := match x.debug with
      | .sealed => .sealed
      | _ => if warm ∧ x.unlockNext then .unlocked else .locked
    ownerNonce := Config.freeNonce x.nonceDraws, debugNonce := Config.freeNonce (x.nonceDraws + 1)
    nonceDraws := x.nonceDraws + 2, authFails := if warm then x.authFails else 0 }

/-- Every register at its reset value, but for what a reset of this kind keeps. -/
def State.rebooted (s : State) (warm : Bool) (src : Nat) : State :=
  { pending := s.pending, w := s.w.rebooted warm, fab := s.fab.rebooted warm, pwr := s.pwr.rebooted warm src
    sec := s.sec.rebooted warm }

/-! ### Start-up (R976) -/

/-- The image of a slot. -/
def Sec.slot (x : Sec) (b : Bool) : Option FwImage := if b then x.slotB else x.slotA

/-- Whether the slot's image passes verification at start-up (R1007 to R1009). -/
def Sec.bootable (x : Sec) (obs : BootObs) (b : Bool) : Bool :=
  match x.slot b with
  | none => false
  | some i => decide (x.minSvn ≤ i.svn) && (List.range 4).all (fun k => !obs.badParts.contains (b2n b, k))

/-- The slot that start-up boots: the active one, otherwise the other, if one passes (R1008, R1009). -/
def Sec.bootSlot (x : Sec) (obs : BootObs) : Option Bool :=
  if x.bootable obs x.activeB then some x.activeB
  else if x.bootable obs (!x.activeB) then some (!x.activeB)
  else none

/-- Start-up fails: FAULT (R859, R976). -/
def State.bootFails (s : State) : State := { s with w := s.w.setState .fault .internal }

/-- Active channels of a stack that train in step 4. -/
def MemSys.trainedIn (m : MemSys) (obs : BootObs) (stack : Nat) : Nat :=
  ((m.activeList stack).filter (fun c => !obs.untrained.contains (32 * stack + c))).length

/-- Step 4: the memory is zeroed, and the channels that did not train are retired (R977).
DESIGN CHOICE (log 16). -/
def Work.trainHbm (w : Work) (obs : BootObs) : Work :=
  let w := { w with mem := { w.mem with hbm := {}, errs := [], trained := true } }
  (obs.untrained.filter (fun k => w.mem.channelOk (k / 32) (k % 32))).foldl (fun w k => w.retireChannel (k / 32) (k % 32)) w

/-- The logical core that a physical core serves. -/
def Rel.serves (r : Rel) (phys : Nat) : Option Nat := (List.range r.cls).find? (fun c => r.phys c = phys)

/-- A physical core that fails step 7: a lasting fault; a spare takes its place where its quadrant has one (R980). -/
def Work.coreFails (w : Work) (phys : Nat) : Work :=
  let w := { w with rel := { w.rel with lasting := w.rel.lasting + 1 } }
  match w.rel.serves phys with
  | none => { w with rel := { w.rel with badCores := w.rel.badCores ++ [phys] } }
  | some c =>
    let w := w.event 0x0008 3 c 0 0 0 4
    if 0 < w.rel.sparesLeft (w.rel.quadrant c) then w.spareCore c
    else { w with rel := { w.rel with classPending := true, dying := w.rel.dying ++ [phys] } }

/-- A local store bank that fails step 7: a spare bank comes in, or with none left the core fails (R924, R980). -/
def Work.bankFails (w : Work) (core bank : Nat) : Work :=
  if w.hasSpare 2 core bank 0 then
    let w := { w with rel := { w.rel with lasting := w.rel.lasting + 1 } }
    (w.event 0x0008 3 core bank 0 0 2).bankIn core bank
  else w.coreFails (w.rel.phys core)

/-- Step 7: the parts that fail, then the class (R933, R980). -/
def Work.selfTest (w : Work) (obs : BootObs) : Work :=
  let w := (obs.badCores.filter (fun p => decide (p < 144) && !w.rel.badCores.contains p)).foldl Work.coreFails w
  let w := (obs.badBanks.filter (fun x => decide (x.1 < w.rel.cls) && decide (x.2 < 64))).foldl
    (fun w x => w.bankFails x.1 x.2) w
  if w.rel.classPending then w.changeClass else w

/-- Whether start-up passes through MAINT. -/
def bootRepairs (b : BootObs) : Bool := !b.untrained.isEmpty || !b.badCores.isEmpty || !b.badBanks.isEmpty

/-- A raise of MIN_SVN that waited for this image to bring the module to STANDBY (R1015).
DEDUCED (log 144). -/
def Sec.raised (x : Sec) : Sec :=
  match x.raise, x.slot x.bootB with
  | some (b, v), some i =>
    if b = x.bootB ∧ v = i.svn then { x with raise := none, minSvn := if x.minSvn ≤ v then v else x.minSvn } else x
  | _, _ => x

/-- The digest of the first-stage part of the image in a slot. -/
def Sec.firstStage (x : Sec) (b : Bool) : List Byte := ((x.slot b).map (fun i => i.digests.getD 0 [])).getD []

/-- The private aliasKey of a boot from a slot (R1017). -/
def Sec.newKey (x : Sec) (b : Bool) : Nat :=
  Config.aliasKey Config.deviceSecret (x.firstStage b) x.minSvn.toNat (x.debug).code

/-- The slot booted from, and whether it is the one that is not active (R1010). The boot ROM issues the certificate of the
boot's aliasKey, signs it with the DevID key, and erases that (R1016, R1017). -/
def Sec.boots (x : Sec) (b : Bool) : Sec :=
  { x with bootB := b, fallback := decide (b ≠ x.activeB), aliasKey := some (x.newKey b)
           aliasCert := Config.issueCert (Config.devidKey Config.deviceSecret) (x.newKey b), romKey := none }

/-- Steps 4 to 8 (R976 to R980): the module enters STANDBY, through MAINT where parts are replaced.
DESIGN CHOICE (log 13). -/
def State.bringUp (s : State) (obs : BootObs) : State :=
  let w := s.w
  let w := if bootRepairs obs then w.setState .maint .maintenance else w
  let w := (w.trainHbm obs).selfTest obs
  let zs := (w.rel.laneSpares.filter (fun (x : Nat × Nat) => decide (x.1 = 0xFFFF))).length
  let w := { w with dev := { w.dev with linkUp := obs.linkUp, zSpares := min 2 zs } }
  let w := if obs.linkUp then w else { w with out := w.out ++ [Out.pldmEvent 21 0] }
  let times := pack [(obs.fwMs, 16), (obs.hbmMs, 16), (obs.fabricMs, 16), (obs.standbyMs, 16)]
  { s with w := w.setState .standby .command, sec := s.sec.raised
           pwr := { s.pwr with bootTimes := BitVec.ofNat 64 times } }

/-- The start-up sequence from step 2 (R976): firmware, the repair record (R953), then the rest.
DESIGN CHOICE (log 13, 19). -/
def State.startUp (s : State) (obs : BootObs) : State :=
  match s.sec.bootSlot obs with
  | none => s.bootFails
  | some b =>
    let s := { s with sec := s.sec.boots b }
    let s := if s.sec.fallback then { s with w := s.w.event 0x0010 0 0xFFFF 0 0 0 (b2n b) } else s
    if obs.badRecord then State.bootFails { s with w := { s.w with rel := { s.w.rel with recordError := true } } }
    else
      let s := { s with pwr := { s.pwr with aliveN := false, slotId := BitVec.ofNat 3 obs.slotId } }
      if (List.range 12).any (fun k => decide (s.w.mem.trainedIn obs k < 16)) then s.bootFails
      else s.bringUp obs

/-- POWER_GOOD: a cold reset and start-up (R965, R972, R976), when the module is OFF or right after power-good.
DESIGN CHOICE (log 13). -/
def execPowerGood (obs : BootObs) (s : State) : Host.Outcome State Fault Refusal :=
  .next (if s.w.dev.state = .off ∨ s.w.dev.state = .boot then (s.rebooted false 0).startUp obs else s)

/-- A warm reset from a source (R972, R973). DEDUCED (log 18). -/
def State.warmReset (s : State) (src : Nat) (obs : BootObs) : State := (s.rebooted true src).startUp obs

/-- The states in which DEV_RESET is allowed (R861). -/
def resetStates : List DevState := [.standby, .joined, .loaded, .running, .held, .fault]

/-- DEV_RESET: the reset begins after the reply (R866, R972). -/
def execDevReset (ring : Nat) (obs : BootObs) (s : State) : Host.Outcome State Fault Refusal :=
  let t := s.command ring resetStates (fun s => { s := s, status := stOk })
  .next (if s.w.dev.state ∈ resetStates then t.warmReset 1 obs else t)

/-- MOD_RESET_N rises after it was low for 1 µs or longer (R972). -/
def execModResetN (obs : BootObs) (s : State) : Host.Outcome State Fault Refusal :=
  .next (if s.w.dev.state = .off then s else s.warmReset 2 obs)

/-! ### Loss of power (R963, R966) -/

/-- The module is OFF: it keeps what does not need power; nothing is committed (R966). -/
def State.powerDown (s : State) (trip : Bool) : State :=
  let t := s.rebooted false 0
  { t with w := { t.w with dev := { t.w.dev with state := .off }, mem := { t.w.mem with hbm := {} } }
           pwr := { t.pwr with powerGood := false, thermTripN := !trip } }

/-- UNDERVOLTAGE: the input stays below 40 V for 100 µs (R963). -/
def execUndervoltage (s : State) : Host.Outcome State Fault Refusal :=
  .next (if s.w.dev.state = .off then s else s.powerDown false)

/-- POWER_LOSS (R966); THERMTRIP_N is released (R1078). -/
def execPowerLoss (s : State) : Host.Outcome State Fault Refusal :=
  .next (if s.w.dev.state = .off then { s with pwr := { s.pwr with thermTripN := true } } else s.powerDown false)

/-! ### Temperature -/

/-- The warning, emergency and trip thresholds of a die and of a stack, the warning of the inlet (R988). -/
def dieLimits : List Nat := [90, 100, 110]
/-- Those of a stack. -/
def stackLimits : List Nat := [88, 95, 105]

/-- How many thresholds a temperature has reached. -/
def reached (limits : List Nat) (t : Nat) : Nat := (limits.filter (· ≤ t)).length

/-- The hottest stack. -/
def hottest (t : Sensors) : Nat := t.stackTemps.foldl max 0

/-- The dies: compute dies 0 to 3, the east and west I/O dies. -/
def dieTemps (t : Sensors) : List Nat := (List.range 4).map (fun k => t.compute.getD k 0) ++ [t.eastIo, t.westIo]

/-- The most thresholds reached by any die or stack. -/
def heat (t : Sensors) : Nat := max (((dieTemps t).map (reached dieLimits)).foldl max 0) (reached stackLimits (hottest t))

/-- THERM_DIES (R1001). -/
def packTemps (t : Sensors) : Nat := Machine.pack ((dieTemps t ++ [t.inlet, hottest t]).map (fun x => (x, 8)))

/-- The PLDM events of threshold crossings between two samples (R1051): sensors 4 to 11.
DEDUCED (log 136). -/
def crossings (old new : Nat) : List Out :=
  (List.range 8).flatMap (fun k =>
    let byte (v : Nat) : Nat := v / 2 ^ (8 * k) % 256
    let lim := if k < 6 then dieLimits else if k = 6 then [35] else stackLimits
    let a := reached lim (byte old)
    let b := reached lim (byte new)
    let id := if k < 6 then k + 4 else if k = 6 then 11 else 10
    List.replicate ((a - b) + (b - a)) (Out.pldmEvent id (byte new)))

/-- The sample taken into the registers: temperatures, input voltage, current and power (R373, R998 to R1001).
DEDUCED (log 136). -/
def State.sample (s : State) (t : Sensors) : State :=
  let sts := (List.range 12).foldl (fun m k =>
    mmod m {} k (fun (x : Stack) => { x with temp := BitVec.ofNat 8 (t.stackTemps.getD k 0) })) s.w.mem.hbmStacks
  let out := s.w.out ++ crossings s.pwr.dies.toNat (packTemps t)
  { s with w := { s.w with mem := { s.w.mem with hbmStacks := sts }, out := out }
           pwr := { s.pwr with dies := BitVec.ofNat 64 (packTemps t), voltMv := BitVec.ofNat 16 t.voltMv
                               current := BitVec.ofNat 16 t.current, lastTickW := BitVec.ofNat 12 (min 4095 t.watts) } }

/-- Whether a sensor stands at or above its warning threshold. DEDUCED (log 133). -/
def isWarm (t : Sensors) : Bool := decide (0 < heat t) || decide (35 ≤ t.inlet)

/-- Warnings that begin: flagged, and one event each (R990).
DESIGN CHOICE (log 132); DEDUCED (log 133). -/
def State.warnings (s : State) (t : Sensors) : State :=
  let warn : Bool := decide (0 < heat t)
  let inlet : Bool := decide (35 < t.inlet)
  let hot := (dieTemps t ++ [hottest t]).foldl max 0
  let w := if warn && !s.pwr.warn then s.w.event (Config.freeKind 0).toNat 0 0xFFFF 0 0 0 hot else s.w
  let w := if inlet && !s.pwr.inletHigh then w.event (Config.freeKind 1).toNat 0 0xFFFF 0 0 0 t.inlet else w
  { s with w := w, pwr := { s.pwr with warn := warn, inletHigh := inlet } }

/-- An emergency (R991, R994): counted and logged when it begins; in RUNNING it raises a stop; outside a
running step it pauses maintenance and copies, and a LOADED module enters HELD.
DESIGN CHOICE (log 132); DEDUCED (log 134). -/
def State.emergency (s : State) (t : Sensors) : State :=
  let em : Bool := decide (2 ≤ heat t)
  let begins := em && !s.pwr.emergency
  let hot := (dieTemps t ++ [hottest t]).foldl max 0
  let w := if begins then s.w.event 0x000E 0 0xFFFF 0 0 0 hot else s.w
  let pwr := { s.pwr with emergency := em, emergencySeen := s.pwr.emergencySeen || begins
                          emergencies := if begins then s.pwr.emergencies + 1 else s.pwr.emergencies
                          paused := if em && decide (w.dev.state ≠ .running) then true
                                    else if isWarm t then s.pwr.paused else false }
  let w :=
    if em ∧ w.stepping ∧ w.dev.state = .running then { w with run := { w.run with thermalStop := true, wantStop := true } }
    else if em ∧ w.dev.state = .loaded then
      { w with run := { w.run with thermalStop := true, wantStop := true } }.setState .held .thermal
    else w
  { s with w := w, pwr := pwr }

/-- TEMP_SAMPLE (R988 to R996): at a trip THERMTRIP_N falls and the module powers down.
DESIGN CHOICE (log 137). -/
def execTempSample (t : Sensors) (s : State) : Host.Outcome State Fault Refusal :=
  .next (
    if s.w.dev.state = .off then s
    else
      let s := ((s.sample t).warnings t).emergency t
      if 3 ≤ heat t then s.powerDown true else s)

end Sys2Proof.Machine
end

