-- ==== Sys2Proof/Machine/Attest.lean ====
section
/-!
DEFINITION. Attestation: the measurement blocks (R1024, R1025), the certificates and keys of a boot (R1016 to R1018), the
SPDM 1.3 responder with the requests it supports (R1019, R1020), and SPDM_MESSAGE (R1021 to R1023). The bytes of the messages
are those of DMTF DSP0274, which the manual names and does not repeat. PRESUMED (log 167).
-/

namespace Sys2Proof.Machine

/-! ### Measurements -/

/-- The owner keys in slot order. -/
def Sec.ownerKeys (x : Sec) : List OwnerKey := (List.range 4).filterMap (fun k => mget x.keys none k)

/-- The contents of the measurement blocks, one after another, as they are now (R1024, R1025). DEDUCED (log 140). -/
def State.measurements (s : State) : List Byte :=
  let parts := match s.sec.booted with
    | some i => i.digests.flatten
    | none => []
  let hw := [BitVec.ofNat 8 s.sec.minSvn.toNat, BitVec.ofNat 8 (s.sec.debug).code, BitVec.ofNat 8 (b2n s.sec.bootB),
      BitVec.ofNat 8 (b2n s.sec.ownerRequire)] ++
    s.sec.ownerKeys.flatMap (fun k => toLE 8 k.keyId.toNat ++ toLE 48 k.x ++ toLE 48 k.y)
  let plan := match s.w.plan with
    | some p => p.digest
    | none => zeros 48
  Config.bootRomDigest ++ parts ++ sha384 hw ++ plan

/-- The DMTF value type of a measurement block (R1024). -/
def measureType : Nat → Nat
  | 1 => 0 | 2 => 1 | 3 => 1 | 4 => 1 | 5 => 2 | _ => 3

/-- Measurement block `k` in DMTF form: index, specification, size, value type, value size, value (R1024). -/
def measureBlock (ms : List Byte) (k : Nat) : List Byte :=
  toLE 1 k ++ toLE 1 1 ++ toLE 2 51 ++ toLE 1 (measureType k) ++ toLE 2 48 ++ (ms.drop (48 * (k - 1))).take 48

/-! ### Certificates -/

/-- The certificates of slot 0 from the root to the one of this boot (R1018). -/
def Sec.certs (x : Sec) : List (List Byte) := Config.flashCerts ++ [x.aliasCert]

/-- The chain of a certificate slot: only slot 0 is provisioned (R1018). Its length, the digest of the root certificate, and the
certificates. -/
def Sec.chain (x : Sec) (slot : Nat) : Option (List Byte) :=
  if slot = 0 then
    let body := sha384 (Config.flashCerts.headD []) ++ x.certs.flatten
    some (toLE 2 (4 + body.length) ++ zeros 2 ++ body)
  else none

/-! ### The responder -/

/-- A message of SPDM 1.3: version, code, two parameters, and what follows. -/
def spdmMsg (code p1 p2 : Nat) (rest : List Byte) : List Byte := [0x13, BitVec.ofNat 8 code, BitVec.ofNat 8 p1, BitVec.ofNat 8 p2] ++ rest

/-- An ERROR response: its code and its data. -/
def spdmError (code data : Nat) : List Byte := spdmMsg 0x7F code data []

/-- UnsupportedRequest, with the code of the request (R1020). -/
def spdmUnsupported (code : Nat) : List Byte := spdmError 0x07 code
/-- InvalidRequest. -/
def spdmInvalid : List Byte := spdmError 0x01 0

/-- VERSION: one entry, 1.3. -/
def spdmVersions : List Byte := [0x10, 0x04, 0, 0, 0, 1, 0x00, 0x13]

/-- The flags of CAPABILITIES: CERT_CAP, CHAL_CAP, and MEAS_CAP with signatures (R1020). -/
def spdmFlags : Nat := 0x02 + 0x04 + 0x10

/-- CAPABILITIES. -/
def spdmCapabilities : List Byte :=
  spdmMsg 0x61 0 0 (zeros 1 ++ toLE 1 (Config.spdmSizes 0) ++ zeros 2 ++ toLE 4 spdmFlags ++ toLE 4 (Config.spdmSizes 1) ++
    toLE 4 (Config.spdmSizes 2))

/-- ALGORITHMS: DMTF measurements by SHA-384, signatures by ECDSA over NIST P-384, digests by SHA-384, and no other (R1020). -/
def spdmAlgorithms : List Byte :=
  spdmMsg 0x63 0 0 (toLE 2 36 ++ toLE 1 1 ++ zeros 1 ++ toLE 4 4 ++ toLE 4 0x80 ++ toLE 4 0x02 ++ zeros 16)

/-- DIGESTS: slot 0 is supported and provisioned, and no other (R1018). -/
def Sec.spdmDigests (x : Sec) : List Byte := spdmMsg 0x01 1 1 (sha384 ((x.chain 0).getD []))

/-- CERTIFICATE: a part of the chain of a slot. -/
def Sec.spdmCertificate (x : Sec) (slot off len : Nat) : List Byte :=
  match x.chain slot with
  | none => spdmInvalid
  | some c =>
    if c.length ≤ off then spdmInvalid
    else
      let part := (c.drop off).take len
      spdmMsg 0x02 slot 0 (toLE 2 part.length ++ toLE 2 (c.length - off - part.length) ++ part)

/-- A message that ends in its signature: made by the aliasKey over the messages of the connection, the request and what the
response says before it (R1018). -/
def Sec.signed (x : Sec) (req msg : List Byte) : List Byte :=
  msg ++ fit 96 (Config.ecdsaSign (x.aliasKey.getD 0) (x.spdmLog ++ req ++ msg) x.spdmCount)

/-- CHALLENGE_AUTH, signed: the digest of the chain, a nonce, the digest of the measurements where it is asked for, and the
requester's context. -/
def Sec.spdmChallenge (x : Sec) (ms req : List Byte) : List Byte :=
  let slot := leAt req 2 1
  let what := leAt req 3 1
  match x.chain slot with
  | none => spdmInvalid
  | some c =>
    let sum : List Byte := if what = 1 then sha384 (measureBlock ms 1)
      else if what = 0xFF then sha384 ((List.range 6).flatMap (fun k => measureBlock ms (k + 1)))
      else []
    x.signed req (spdmMsg 0x03 slot 1 (sha384 c ++ fit 32 (Config.spdmNonce x.spdmCount) ++ sum ++ zeros 2 ++
      (req.drop 36).take 8))

/-- MEASUREMENTS: the number of blocks, one of them, or all, signed where it is asked for. -/
def Sec.spdmMeasurements (x : Sec) (ms req : List Byte) : List Byte :=
  let op := leAt req 3 1
  let asked : Bool := leAt req 2 1 % 2 = 1
  let ks : List Nat := if op = 0 then [] else if op = 0xFF then (List.range 6).map (· + 1) else [op]
  if (asked && decide (leAt req 36 1 % 16 ≠ 0)) || ks.any (fun k => 6 < k) then spdmInvalid
  else
    let record := ks.flatMap (measureBlock ms)
    let ctx := (req.drop (if asked then 37 else 4)).take 8
    let msg := spdmMsg 0x60 (if op = 0 then 6 else 0) 0 (toLE 1 ks.length ++ toLE 3 record.length ++ record ++
      fit 32 (Config.spdmNonce x.spdmCount) ++ zeros 2 ++ ctx)
    if asked then x.signed req msg else msg

/-- The least length of each request that the A960 supports (R1019). -/
def spdmLeast : Nat → Option Nat
  | 0x84 => some 4 | 0xE1 => some 20 | 0xE3 => some 32 | 0x81 => some 4 | 0x82 => some 8 | 0x83 => some 44 | 0xE0 => some 12
  | _ => none

/-- The response to a request: UnsupportedRequest where R1019 does not list it (R1020). -/
def State.spdm (s : State) (req : List Byte) : List Byte :=
  let code := leAt req 1 1
  match spdmLeast code with
  | none => spdmUnsupported code
  | some n =>
    if req.length < n ∨ (code = 0xE0 ∧ leAt req 2 1 % 2 = 1 ∧ req.length < 45) then spdmInvalid
    else if leAt req 0 1 ≠ (if code = 0x84 then 0x10 else 0x13) then spdmError 0x41 0
    else match code with
      | 0x84 => spdmVersions
      | 0xE1 => spdmCapabilities
      | 0xE3 => spdmAlgorithms
      | 0x81 => s.sec.spdmDigests
      | 0x82 => s.sec.spdmCertificate (leAt req 2 1 % 16) (leAt req 4 2) (leAt req 6 2)
      | 0x83 => s.sec.spdmChallenge s.measurements req
      | _ => s.sec.spdmMeasurements s.measurements req

/-- A request and its response on the one connection, which GET_VERSION begins anew (R1023). -/
def Sec.exchanged (x : Sec) (req resp : List Byte) : Sec :=
  { x with spdmCount := x.spdmCount + 1
           spdmLog := if leAt req 1 1 = 0x84 then req ++ resp else x.spdmLog ++ req ++ resp }

/-! ### The command -/

/-- SPDM_MESSAGE (R1021 to R1023): the one connection takes the request and its response. DESIGN CHOICE (log 63). -/
def execSpdmMessage (ring reqAddr reqBytes respAddr capacity : Nat) (s : State) : Host.Outcome State Fault Refusal :=
  .next (s.command ring started (fun s =>
    if reqBytes < 1 ∨ 4096 < reqBytes then s.refuse stBadParam
    else s.withSlot ring 0x0600 (fun s k =>
      let req := s.w.compRead ring reqAddr reqBytes
      let resp := s.spdm req
      let s := { s with sec := s.sec.exchanged req resp }
      if capacity < resp.length then s.finish k stBadParam (toLE 4 0)
      else State.finish { s with w := s.w.compWrite ring respAddr resp } k stOk (toLE 4 resp.length))))

end Sys2Proof.Machine
end

