-- ==== Sys2Proof/Machine/Security.lean ====
section
/-!
DEFINITION. Security and management: firmware images and slots (R1004 to R1015), owner keys (R1026 to
R1030), the debug lock (R1032 to R1037), uplink keys (R1038 to R1043) and Sheepdog (R1047 to R1054).
-/

namespace Sys2Proof.Machine

/-! ### Firmware images -/

/-- The longest image, 32 MiB (R1004). -/
def fwMax : Nat := 2 ^ 25

/-- Entry `k` of PARTS: offset, length and digest (R1004). -/
def fwPart (img : List Byte) (k : Nat) : Nat × Nat × List Byte :=
  (leAt img (0x20 + 64 * k) 4, leAt img (0x24 + 64 * k) 4, (img.drop (0x30 + 64 * k)).take 48)

/-- Whether an image passes verification in all three parts (R1007). DEDUCED (log 143). -/
def Sec.fwOk (x : Sec) (img : List Byte) : Bool :=
  let n := leAt img 0x10 8
  decide (320 ≤ img.length) && decide (leAt img 0 4 = 0x57465841) && decide (leAt img 4 2 = 0x0100) &&
  decide (leAt img 6 1 < 4) && decide (leAt img 0x0C 4 < 64) && decide (x.minSvn.toNat ≤ leAt img 0x0C 4) &&
  decide (320 ≤ n) && decide (n ≤ fwMax) && decide (n ≤ img.length) &&
  sigOk (Config.firmwareKey (leAt img 6 1)) (sha384 (img.take 0xE0)) ((img.drop 0xE0).take 96) &&
  (List.range 3).all (fun k =>
    let p := fwPart img k
    decide (p.1 + p.2.1 ≤ n) && decide (sha384 ((img.drop p.1).take p.2.1) = p.2.2))

/-- What a slot keeps of an image. -/
def fwImage (img : List Byte) : FwImage :=
  { version := BitVec.ofNat 32 (leAt img 8 4), svn := BitVec.ofNat 6 (leAt img 0x0C 4)
    digests := (List.range 3).map (fun k => (fwPart img k).2.2) }

/-- MAINT_START FW_STAGE (R945, R1011): the image is read from companion memory and verified; the slot is empty until the
activity is done. DEDUCED (log 143). -/
def execFwStage (ring : Nat) (m : MaintArgs) (s : State) : Host.Outcome State Fault Refusal :=
  let img := if fwMax < m.bytes then [] else s.w.compRead ring m.addr m.bytes
  let good := s.sec.fwOk img
  .next (s.maintStart ring 0x0B m good (fun s =>
    { s with sec := { (s.sec.setOther none) with staged := if good then some (fwImage img) else none } }))

/-- The event of an activated slot (R955 KIND 0x0011). -/
def Work.activated (w : Work) (slotB : Bool) (source : Nat) (svn : Nat) : Work :=
  w.event 0x0011 0 0xFFFF 0 0 0 (pack [(b2n slotB, 8), (source, 8), (svn, 6)])

/-- Whether the image of a slot passes when it is verified again (R1013). DEDUCED (log 143). -/
def Sec.reverify (x : Sec) (slotB : Bool) : Option FwImage := (x.slot slotB).filter (fun i => decide (x.minSvn ≤ i.svn))

/-- Whether FW_STAGE or a PLDM update holds a slot (R1014). -/
def State.holdsSlot (s : State) (slotB : Bool) : Bool := s.slotHeld && decide (slotB ≠ s.sec.bootB)

/-- A slot made active by FW_ACTIVATE; a raise waits until the image has brought the module to STANDBY (R1013, R1015).
DEDUCED (log 144). -/
def State.activate (s : State) (k : Nat) (slotB : Bool) (raise : Bool) (i : FwImage) : State :=
  let sec := { s.sec with activeB := slotB, raise := if raise then some (slotB, i.svn) else s.sec.raise }
  State.finish { s with sec := sec.raised, w := s.w.activated slotB 0 i.svn.toNat } k stOk
    (toLE 4 i.version.toNat ++ toLE 4 i.svn.toNat)

/-- Whether FW_ACTIVATE of a slot would succeed. -/
def State.activates (s : State) (slot raise reset : Nat) : Bool :=
  decide (s.w.dev.state = .standby) && decide (slot < 2) && decide (raise < 2) && decide (reset < 2) &&
  s.w.dev.freeSlot.isSome && !s.holdsSlot (decide (slot = 1)) && (s.sec.reverify (decide (slot = 1))).isSome

/-- FW_ACTIVATE (R1012 to R1015); with RESET a warm reset follows the record.
DEDUCED (log 18); DESIGN CHOICE (log 63). -/
def execFwActivate (ring slot raise reset : Nat) (obs : BootObs) (s : State) : Host.Outcome State Fault Refusal :=
  let b := decide (slot = 1)
  let t := s.command ring [.standby] (fun s =>
    if 1 < slot ∨ 1 < raise ∨ 1 < reset then s.refuse stBadParam
    else s.withSlot ring 0x0604 (fun s k =>
      if s.holdsSlot b then s.finish k stMaintConflict (zeros 8)
      else match s.sec.reverify b with
        | none => s.finish k stAuthFail (zeros 8)
        | some i => s.activate k b (decide (raise = 1)) i))
  .next (if s.activates slot raise reset ∧ reset = 1 then t.warmReset 1 obs else t)

/-! ### Owner keys -/

/-- The owner key block of R1027. -/
structure KeyBlock where
  op : Nat
  slot : Nat
  require : Nat
  authSlot : Nat
  keyId : Nat
  nonce : Nat
  x : Nat
  y : Nat
  signed : List Byte
  sig : List Byte
  deriving DecidableEq, Repr

/-- The block in 256 bytes. -/
def keyBlock (bs : List Byte) : KeyBlock :=
  { op := leAt bs 0 1, slot := leAt bs 1 1, require := leAt bs 2 1, authSlot := leAt bs 3 1, keyId := leAt bs 8 8
    nonce := leAt bs 0x10 8, x := leAt bs 0x18 48, y := leAt bs 0x48 48, signed := bs.take 0x78
    sig := (bs.drop 0x78).take 96 }

/-- Whether a change of the owner keys is authorised (R1028). -/
def Sec.authorised (x : Sec) (b : KeyBlock) : Bool :=
  x.ownerKeys.isEmpty ||
  (match (if b.authSlot < 4 then mget x.keys none b.authSlot else none) with
   | none => false
   | some k => decide (b.nonce = x.ownerNonce.toNat) && sigOk (k.x, k.y) (sha384 b.signed) b.sig)

/-- A fresh SEC_OWNER_NONCE (R1030). -/
def Sec.freshOwner (x : Sec) : Sec := { x with ownerNonce := Config.freeNonce x.nonceDraws, nonceDraws := x.nonceDraws + 1 }

/-- A fresh SEC_DEBUG_NONCE (R1058). -/
def Sec.freshDebug (x : Sec) : Sec := { x with debugNonce := Config.freeNonce x.nonceDraws, nonceDraws := x.nonceDraws + 1 }

/-- An owner key installed; none where R1029 refuses it. -/
def Sec.installKey (x : Sec) (b : KeyBlock) : Option Sec :=
  let dup : Bool := x.ownerKeys.any (fun k => decide (k.keyId.toNat = b.keyId))
  if 3 < b.slot ∨ (mget x.keys none b.slot).isSome ∨ b.keyId = 0 ∨ dup ∨ !onCurve b.x b.y then none
  else
    let k : OwnerKey := { keyId := BitVec.ofNat 64 b.keyId, x := b.x, y := b.y }
    some { x with keys := mset x.keys none b.slot (some k) }

/-- An owner key removed; none where R1029 refuses it. -/
def Sec.removeKey (x : Sec) (b : KeyBlock) : Option Sec :=
  if 3 < b.slot ∨ (mget x.keys none b.slot).isNone ∨ (x.ownerRequire ∧ x.ownerKeys.length ≤ 1) then none
  else some { x with keys := mset x.keys none b.slot none }

/-- OWNER_REQUIRE set; none where R1029 refuses it. -/
def Sec.setRequire (x : Sec) (b : KeyBlock) : Option Sec :=
  if 1 < b.require ∨ (b.require = 1 ∧ x.ownerKeys.isEmpty) then none
  else some { x with ownerRequire := decide (b.require = 1) }

/-- OWNER_KEY with the block's OP: authorised (R1028), then changed or refused (R1029, R1030). A block that holds another
operation's OP is not this row's command; a reserved OP is a bad parameter.
DESIGN CHOICE (log 63, 142). -/
def State.ownerKey (s : State) (ring addr op : Nat) (change : Sec → KeyBlock → Option Sec) : State :=
  let b := keyBlock (s.w.compRead ring addr 256)
  if b.op < 3 ∧ b.op ≠ op then s
  else s.command ring [.standby] (fun s => s.withSlot ring 0x0601 (fun s k =>
    if 3 ≤ b.op then s.finish k stBadParam []
    else if !s.sec.authorised b then s.finish k stAuthFail []
    else match change s.sec b with
      | none => s.finish k stBadParam []
      | some x => State.finish { s with sec := x.freshOwner } k stOk []))

/-- OWNER_KEY_INSTALL. -/
def execOwnerKeyInstall (ring addr : Nat) (s : State) : Host.Outcome State Fault Refusal :=
  .next (s.ownerKey ring addr 0 Sec.installKey)

/-- OWNER_KEY_REMOVE. -/
def execOwnerKeyRemove (ring addr : Nat) (s : State) : Host.Outcome State Fault Refusal :=
  .next (s.ownerKey ring addr 1 Sec.removeKey)

/-- OWNER_REQUIRE_SET. -/
def execOwnerRequireSet (ring addr : Nat) (s : State) : Host.Outcome State Fault Refusal :=
  .next (s.ownerKey ring addr 2 Sec.setRequire)

/-! ### The debug lock -/

/-- DEBUG_SEAL (R1037). DEDUCED (log 141). -/
def execDebugSeal (ring : Nat) (s : State) : Host.Outcome State Fault Refusal :=
  .next (s.command ring [.standby] (fun s =>
    if s.sec.debug = .sealed then { s := s, status := stOk }
    else { s := { s with sec := { s.sec with debug := .sealed }.freshDebug }, status := stOk }))

/-- Whether 128 bytes are a valid unlock token (R1034). -/
def Sec.tokenOk (x : Sec) (t : List Byte) : Bool :=
  decide (leAt t 0 8 = Config.moduleSerial.toNat) && decide (leAt t 8 8 = x.debugNonce.toNat) && allZero ((t.drop 16).take 16) &&
  sigOk Config.debugKey (sha384 (t.take 0x20)) ((t.drop 0x20).take 96)

/-- DEBUG_UNLOCK (R1035, R1037): with a valid token the reply is followed by a warm reset into UNLOCKED.
DEDUCED (log 18, 141). -/
def execDebugUnlock (ring addr : Nat) (obs : BootObs) (s : State) : Host.Outcome State Fault Refusal :=
  let ok : Bool := decide (s.sec.debug ≠ .sealed) && s.sec.tokenOk (s.w.compRead ring addr 128)
  let t := s.command ring [.standby] (fun s =>
    if s.sec.debug = .sealed then s.refuse stLocked
    else if ok then { s := { s with sec := { s.sec with unlockNext := true } }, status := stOk }
    else s.refuse stAuthFail)
  .next (if s.w.dev.state = .standby ∧ ok then t.warmReset 1 obs else t)

/-- DEBUG_RELOCK (R1036, R1037): in UNLOCKED the reply is followed by a warm reset into LOCKED; the nonce is fresh
(R1058). DEDUCED (log 18, 141). -/
def execDebugRelock (ring : Nat) (obs : BootObs) (s : State) : Host.Outcome State Fault Refusal :=
  let t := s.command ring [.standby] (fun s =>
    if s.sec.debug = .sealed then s.refuse stLocked else { s := { s with sec := s.sec.freshDebug }, status := stOk })
  .next (if s.w.dev.state = .standby ∧ s.sec.debug = .unlocked then t.warmReset 1 obs else t)

/-! ### Uplink keys -/

/-- An association replaced among others. -/
def putAssoc (xs : List Assoc) (a : Assoc) : List Assoc := xs.filter (fun x => ¬(x.sci = a.sci ∧ x.an = a.an)) ++ [a]

/-- Secure channels that a list of receive associations belongs to. -/
def channelsOf (xs : List Assoc) : List Nat := (xs.map (·.sci)).eraseDups

/-- A transmit key installed, and sending switched to it under USE; none when it would overwrite the association in use
(R1041). DEDUCED (log 119). -/
def Uplink.txKey (u : Uplink) (a : Assoc) (use : Bool) : Option Uplink :=
  if u.txUse = some a.an then none
  else some { u with tx := putAssoc u.tx a, txUse := if use then some a.an else u.txUse }

/-- A receive key installed; none beyond 1,024 secure channels (R1040). DEDUCED (log 119). -/
def Uplink.rxKey (u : Uplink) (a : Assoc) : Option Uplink :=
  if a.sci ∉ channelsOf u.rx ∧ 1024 ≤ (channelsOf u.rx).length then none else some { u with rx := putAssoc u.rx a }

/-- MACSEC_KEY (R1038 to R1041). USE is a switch of the transmit key: with DIR 0 its value is not looked at.
DESIGN CHOICE (log 168); DEDUCED (log 119). -/
def execMacsecKey (ring uplink dir an use ssci addr peerSci : Nat) (s : State) : Host.Outcome State Fault Refusal :=
  .next (s.command ring [.standby, .joined, .loaded, .running, .held] (fun s =>
    if 3 < uplink ∨ 1 < dir ∨ 3 < an ∨ (dir = 1 ∧ 1 < use) then s.refuse stBadParam
    else
      let key := s.w.compRead ring addr 44
      let a : Assoc := { sci := if dir = 0 then peerSci else 0, an := an, ssci := ssci, key := key }
      let u := s.fab.uplink uplink
      match (if dir = 0 then u.rxKey a else u.txKey a (decide (use = 1))) with
      | none => s.refuse stBusy
      | some v => { s := State.uplinks { s with fab := s.fab.modUplink uplink (fun _ => v) }, status := stOk }))

/-! ### Sheepdog -/

/-- Whether Sheepdog answers: from the end of start-up step 3 until power-down (R1048).
DESIGN CHOICE (log 147). -/
def State.sheepdog (s : State) : Bool := !s.pwr.aliveN

/-- A PLDM response sent. -/
def State.pldm (s : State) (code value : Nat) : State :=
  { s with w := { s.w with out := s.w.out ++ [Out.pldmResponse code value] } }

/-- REQUEST_UPDATE: refused with ALREADY_IN_UPDATE_MODE while the slot is held (R1052, R1053).
PRESUMED (log 145). -/
def execRequestUpdate (s : State) : Host.Outcome State Fault Refusal :=
  .next (
    if !s.sheepdog then s
    else if s.slotHeld then s.pldm 0x81 0
    else State.pldm { s with sec := { s.sec with pldmBusy := true, pldmDone := false } } 0 0)

/-- PLDM_UPDATE: the component is written into the slot not booted from and verified (R1052); one that fails leaves it
empty and the update ends. PRESUMED (log 145). -/
def execPldmUpdate (image : List Byte) (s : State) : Host.Outcome State Fault Refusal :=
  .next (
    if !s.sheepdog ∨ !s.sec.pldmBusy then s
    else if s.sec.fwOk image then
      State.pldm { s with sec := { (s.sec.setOther (some (fwImage image))) with pldmDone := true } } 0 0
    else State.pldm { s with sec := { (s.sec.setOther none) with pldmDone := false, pldmBusy := false } } 1 0)

/-- ACTIVATE_FIRMWARE: the updated slot becomes active, without a raise (R1054).
PRESUMED (log 145). -/
def execActivateFirmware (s : State) : Host.Outcome State Fault Refusal :=
  .next (
    if !s.sheepdog then s
    else match (if s.sec.pldmBusy && s.sec.pldmDone then s.sec.reverify (!s.sec.bootB) else none) with
      | none => s.pldm 0x80 0
      | some i =>
        let sec := { s.sec with activeB := !s.sec.bootB, pldmBusy := false, pldmDone := false }
        State.pldm { s with sec := sec, w := s.w.activated (!s.sec.bootB) 1 i.svn.toNat } 0 0)

/-- The value of a PLDM sensor (R1050). -/
def State.sensor (s : State) (id : Nat) : Option Nat :=
  let byte (k : Nat) : Nat := s.pwr.dies.toNat / 2 ^ (8 * k) % 256
  match id with
  | 1 => some s.pwr.voltMv.toNat
  | 2 => some s.pwr.current.toNat
  | 3 => some s.pwr.lastTickW.toNat
  | 4 => some (byte 0)
  | 5 => some (byte 1)
  | 6 => some (byte 2)
  | 7 => some (byte 3)
  | 8 => some (byte 4)
  | 9 => some (byte 5)
  | 10 => some (byte 7)
  | 11 => some (byte 6)
  | 20 => some s.w.dev.state.code
  | 21 => some (b2n s.w.dev.linkUp)
  | 22 => some s.w.rel.cls
  | _ => none

/-- SENSOR_READ (R1050): a sensor that does not exist is answered with INVALID_SENSOR_ID.
PRESUMED (log 145). -/
def execSensorRead (sensor : Nat) (s : State) : Host.Outcome State Fault Refusal :=
  .next (
    if !s.sheepdog then s
    else match s.sensor sensor with
      | some v => s.pldm 0 v
      | none => s.pldm 0x80 0)

end Sys2Proof.Machine
end

