-- ==== Sys2Proof/Machine/HostMem.lean ====
section
/-!
DEFINITION. Accesses from outside: the host's through the memory aperture (R350 to R353, R828 to R833), peers' (R749, R920),
unscheduled grants (R345 to R348), and the Zwinus Link (R824 to R827).
-/

namespace Sys2Proof.Machine

/-! ### Unscheduled accesses at a channel -/

/-- The status of a read's response: ST_DATA_LOST when a line is uncorrectable (R920). -/
def MemSys.readStatus (m : MemSys) (pa n : Nat) : Nat :=
  if (m.badLines pa n).any (fun l => m.line l = .lost) then stDataLost else stOk

/-- Who a class of access is, for the log (R330): 0 peer, 1 Cumulus, 2 host, 3 maintenance. -/
def classRequester : Nat → Nat
  | 0 => 2 | 1 => 3 | 2 => 1 | _ => 4

/-- Bytes with those of some lines replaced by zeros. -/
def blank (ls : List Nat) (addr : Nat) (bs : List Byte) : List Byte :=
  if ls.isEmpty then bs else bs.zipIdx.map (fun b => if (addr + b.2) / 64 ∈ ls then 0 else b.1)

/-- The bytes of HBM as a host or a peer finds them (R24, R330). -/
def Work.seenBytes (w : Work) (pa n : Nat) : List Byte :=
  if w.run.landed.isEmpty then w.mem.hbmRead pa n
  else (List.range n).map (fun i => if w.mem.line ((pa + i) / 64) = .lost then 0 else w.hbmSeen (pa + i))

/-- An unscheduled access carried out: a write reaches HBM, a read's data go to the host or back to the peer; the bytes of a copy of
Cumulus move, and its reads count, when the copy is over (R686). Lines that are
refused are not accessed: they read as zeros, and no byte of them is written (R350, R351). -/
def Work.serve (w : Work) (a : UAcc) : Work :=
  let rq := classRequester a.cls
  if a.cls = 1 then w
  else if a.write then
    let w := if a.barred.isEmpty then w.hbmWrite rq a.addr a.data
      else (outside a.barred a.addr a.data).foldl (fun w r => w.hbmWrite rq r.1 r.2) w
    if a.cls = 0 then { w with out := w.out ++ [Out.response a.peer a.tag stOk []] }
    else if a.cls = 2 then w.hostSpoil a.addr a.data.length else w
  else
    let data := blank a.barred a.addr (w.seenBytes a.addr a.len)
    let status := w.mem.readStatus a.addr a.len
    let w := if a.barred.isEmpty then w.readEffects rq a.addr a.len
      else (outside a.barred a.addr data).foldl (fun w r => w.readEffects rq r.1 r.2.length) w
    if a.cls = 0 then { w with out := w.out ++ [Out.response a.peer a.tag status data] }
    else if a.cls = 2 then { w with dev := { w.dev with readData := data } }
    else w

/-- The access that a channel grants next: of the highest class that waits; maintenance only when no other waits (R346,
R347). -/
def MemSys.granted (m : MemSys) (channel : Nat) : Option UAcc :=
  let here := m.waiting.filter (fun a => a.channel = channel)
  (m.priority channel ++ [3]).findSome? (fun k => here.find? (fun a => a.cls = k))

/-- An unscheduled access arrives: it waits where scheduled accesses claim the channel, the channel is in its refresh window, or
another access waits there (R322, R345, R346); otherwise it is granted at once. DESIGN CHOICE (log 163). -/
def State.unscheduled (s : State) (a : UAcc) (busy : Bool) (clk : Nat) : Work :=
  if busy || s.refreshing a.channel clk || s.w.mem.waiting.any (fun b => b.channel = a.channel) then
    { s.w with mem := { s.w.mem with waiting := s.w.mem.waiting ++ [a] } }
  else ({ s.w with mem := s.w.mem.rotate a.channel a.cls } : Work).serve a

/-! ### The host -/

/-- Whether a host access to the line at an address is refused: a step-owned region while a step runs (R350, R351), or one whose
READ or WRITE bit is 0 (R353, R832). DEDUCED (log 107). -/
def Work.hostRefused (w : Work) (pa : Nat) (wr : Bool) : Bool :=
  match w.plan with
  | none => false
  | some p =>
    match p.regionOf? pa with
    | none => false
    | some (_, r) => (w.stepping && Reg.owned r) || !(if wr then Reg.write r else Reg.read r)

/-- The lines of a host access that are refused, each an access of its own (R829, R831). -/
def Work.barredLines (w : Work) (addr n : Nat) (wr : Bool) : List Nat :=
  if w.plan.isNone then [] else (linesOf addr n).filter (fun l => w.hostRefused (64 * l) wr)

/-- A host access that has waited as it stands when it is granted: lines that are refused by now count and are barred as well
(R350 to R353). DEDUCED (log 107). -/
def Work.rebar (w : Work) (a : UAcc) : Work × UAcc :=
  if a.cls ≠ 2 then (w, a)
  else
    let bad := (w.barredLines a.addr a.len a.write).filter (· ∉ a.barred)
    let n := BitVec.ofNat 64 bad.length
    (if a.write then { w with mem.hostWrites := w.mem.hostWrites + n } else { w with mem.hostReads := w.mem.hostReads + n },
     { a with barred := a.barred ++ bad })

/-- UNSCHEDULED_GRANT, not within the channel's refresh window: the class granted drops to the lowest priority; the longest wait
is kept (R322, R346, R374). An access of Cumulus is one of a copy's, whose bytes move at its end (R686, R706). -/
def execUnscheduledGrant (channel waitClk : Nat) (env : Env) (s : State) : Host.Outcome State Fault Refusal :=
  .next (match s.w.mem.granted channel with
    | none => s
    | some a =>
      if s.refreshing channel env.clk then s
      else
        let m := (s.w.mem.see env).rotate channel a.cls
        let m := { m with waiting := m.waiting.erase a, waitMax := BitVec.ofNat 64 (max m.waitMax.toNat waitClk) }
        let x := ({ s.w with mem := m } : Work).rebar a
        { s with w := x.1.serve x.2 })

/-- Whether the memory aperture can be reached: the link is up and the module started. -/
def State.apertureOpen (s : State) : Bool := s.w.dev.linkUp && decide (s.w.dev.state ∈ started)

/-- A line that the companion caches from now on; a store leaves it modified there (R829). DEDUCED (log 106). -/
def MemSys.cache (m : MemSys) (l : Nat) (modified : Bool) : MemSys :=
  if m.cached.any (·.1 = l) then
    (if modified then { m with cached := m.cached.map (fun x => if x.1 = l then (l, true) else x) } else m)
  else if modified then m else { m with cached := m.cached ++ [(l, false)] }

/-- A host load: the lines refused read as zeros and count (R350, R832). DEDUCED (log 106). -/
def State.hostLoad (s : State) (addr len : Nat) (busy : Bool) (env : Env) : Work :=
  let bad := s.w.barredLines addr len false
  let s := { s with w := { s.w with mem.hostReads := s.w.mem.hostReads + BitVec.ofNat 64 bad.length } }
  if bad.length = (linesOf addr len).length ∧ bad ≠ [] then { s.w with dev := { s.w.dev with readData := zeros len } }
  else
    let m := ((linesOf addr len).filter (· ∉ bad)).foldl (fun m l => m.cache l false) (s.w.mem.see env)
    let a : UAcc := { channel := m.channelOf addr, cls := 2, write := false, addr := addr, len := len, data := [], peer := 0
                      tag := 0, barred := bad }
    ({ s with w := { s.w with mem := m } } : State).unscheduled a busy env.clk

/-- A host store: nothing reaches the lines refused, and they count (R351, R832). -/
def State.hostStore (s : State) (addr : Nat) (data : List Byte) (busy : Bool) (env : Env) : Work :=
  let bad := s.w.barredLines addr data.length true
  let s := { s with w := { s.w with mem.hostWrites := s.w.mem.hostWrites + BitVec.ofNat 64 bad.length } }
  if bad.length = (linesOf addr data.length).length ∧ bad ≠ [] then s.w
  else
    let m := ((linesOf addr data.length).filter (· ∉ bad)).foldl (fun m l => m.cache l true) (s.w.mem.see env)
    let a : UAcc := { channel := m.channelOf addr, cls := 2, write := true, addr := addr, len := data.length, data := data
                      peer := 0, tag := 0, barred := bad }
    ({ s with w := { s.w with mem := m } } : State).unscheduled a busy env.clk

/-- HOST_READ (R828 to R833): an address beyond the aperture does not exist. -/
def execHostRead (addr len : Nat) (busy : Bool) (env : Env) (s : State) : Host.Outcome State Fault Refusal :=
  if hbmBytes < addr + len then .fault (.noSuchAddress addr)
  else .next (if s.apertureOpen then { s with w := s.hostLoad addr len busy env } else s)

/-- HOST_WRITE (R828 to R833). -/
def execHostWrite (addr : Nat) (data : List Byte) (busy : Bool) (env : Env) (s : State) :
    Host.Outcome State Fault Refusal :=
  if hbmBytes < addr + data.length then .fault (.noSuchAddress addr)
  else .next (if s.apertureOpen then { s with w := s.hostStore addr data busy env } else s)

/-! ### Peers -/

/-- PEER_ACCESS_REQUEST: a read or write of this module's HBM, already translated at its source (R298, R749). -/
def execPeerAccessRequest (peer tag : Nat) (addr len op : Nat) (data : List Byte) (busy : Bool) (env : Env) (s : State) :
    Host.Outcome State Fault Refusal :=
  if hbmBytes < addr + len then .fault (.noSuchAddress addr)
  else .next (
    if !s.fab.joined ∨ 1 < op ∨ len < 1 ∨ 2048 < len then s
    else
      let m := s.w.mem.see env
      let a : UAcc := { channel := m.channelOf addr, cls := 0, write := decide (op = 1), addr := addr, len := len
                        data := fit len data, peer := peer, tag := tag }
      { s with w := ({ s with w := { s.w with mem := m } } : State).unscheduled a busy env.clk })

/-! ### The Zwinus Link -/

/-- The link goes down: logged, and reported by Sheepdog (R826, R979, R1051). -/
def Work.linkDown (w : Work) (lanes : Nat) : Work :=
  let w := { w with dev := { w.dev with linkUp := false }, out := w.out ++ [Out.pldmEvent 21 0] }
  w.event 0x000D 0 0xFFFF 0 0 0 lanes

/-- ZWINUS_LANE_FAILURE: a spare replaces the lane; with both spares in use the link narrows, and with fewer than 8 working
lanes it is down (R826). DEDUCED (log 121). -/
def execZwinusLaneFailure (lane : Nat) (s : State) : Host.Outcome State Fault Refusal :=
  .next (
    let d := s.w.dev
    if 18 ≤ lane ∨ !d.linkUp then s
    else if d.zSpares < 2 then { s with w := { s.w with dev := { d with zSpares := d.zSpares + 1 } } }
    else
      let w := { s.w with dev := { d with zLanes := d.zLanes - 1 } }
      { s with w := if d.zLanes - 1 < 8 then w.linkDown (d.zLanes - 1) else w })

/-- What waited for the link proceeds (R827). -/
def Work.unpark (w : Work) : Work :=
  let ps := w.dev.parked
  let w := { w with dev := { w.dev with parked := [] } }
  ps.foldl (fun w p =>
    if p.message then { w with out := w.out ++ [Out.interrupt (BitVec.ofNat 64 p.addr) (BitVec.ofNat 32 (leNat p.data))] }
    else w.linkWrite p.addr p.data) w

/-- ZWINUS_LINK_UP: the link returns on a number of working lanes; replies, notifications and interrupts that waited
proceed (R827). DEDUCED (log 121). -/
def execZwinusLinkUp (lanes : Nat) (s : State) : Host.Outcome State Fault Refusal :=
  .next (
    let d := s.w.dev
    if d.linkUp ∨ d.state = .off ∨ lanes < 8 ∨ 16 < lanes then s
    else
      let w := { s.w with dev := { d with linkUp := true, zLanes := lanes }, out := s.w.out ++ [Out.pldmEvent 21 1] }
      { s with w := (w.event 0x000D 0 0xFFFF 0 0 0 lanes).unpark })

end Sys2Proof.Machine
end

