-- ==== Sys2Proof/Machine/Verify.lean ====
section
/-!
DEFINITION. Plan verification (R92), the checks that look at one table, record or item at a time: structure (0x001C),
reserved fields (0x0008), firing records (0x0009), streams and windows (0x000A), elastic sections (0x000D), scale slots
(0x000E), regions (0x000F), descriptors (0x0010), drain tables (0x0014), MERGE and ATTEND work (0x0015, 0x0016), the
Cumulus policy (0x0017), routes (0x0018), the commit list (0x0019), caps (0x001A) and VEC entries (0x001B).
-/

namespace Sys2Proof.Machine

/-- A failing check: its reason code, and the index of the section (for 0x0010 of the descriptor) at fault. -/
abbrev Bad := Nat × Nat

/-- The check of a reason fails unless the condition holds. -/
def need (ok : Bool) (reason sec : Nat) : List Bad := if ok then [] else [(reason, sec)]

/-- The index of the section of a type and scope; a type that the image lacks belongs to no section. -/
def secOf (img : List Byte) (ty scope reason : Nat) : Nat :=
  match (imgSections img).find? (fun s => s.type = ty ∧ s.scope = scope) with
  | some s => s.index
  | none => (Config.freeSection reason).toNat

/-- The module-scoped section's index. -/
def modSec (img : List Byte) (ty reason : Nat) : Nat := secOf img ty 0xFFFF reason

/-- Whether the bits `[hi:lo]` of a word are zero. -/
def clear {w : Nat} (x : BitVec w) (hi lo : Nat) : Bool := bits x hi lo == 0

/-- Whether `n` bytes from offset `o` are zero. -/
def clearAt (bs : List Byte) (o n : Nat) : Bool := leAt bs o n == 0

/-- Whether no value stands twice in a list. -/
def distinct (xs : List Nat) : Bool := decide xs.Nodup

/-- Whether half-open ranges (start, end) are pairwise disjoint; empty ranges meet nothing. -/
def disjoint (rs : List (Nat × Nat)) : Bool :=
  decide (rs.Pairwise (fun a b => a.2 ≤ b.1 ∨ b.2 ≤ a.1 ∨ a.1 = a.2 ∨ b.1 = b.2))

/-! ### 0x001C: the structure of the image (R84 to R91, R1095, R1097) -/

/-- Bytes of an entry of a section that is an array of entries, and the most entries it may hold. -/
def entrySize : Nat → Option (Nat × Nat)
  | 1 => some (16, 2 ^ 32) | 2 => some (8, 64) | 3 => some (8, 16) | 5 => some (64, 4096) | 6 => some (16, 4096)
  | 12 => some (128, 4096)
  | _ => none

/-- Whether a section lies in the image, and its entries in it. -/
def ImgSection.fits (s : ImgSection) (img : List Byte) : Bool :=
  decide (s.offset + s.length ≤ img.length) &&
  (match entrySize s.type with
   | some (n, k) => decide (s.entries ≤ k) && decide (n * s.entries ≤ s.length)
   | none => true)

/-- R84: one step body, at most one section of each other kind and scope, scopes in range. -/
def scopesOk (img : List Byte) (cls : Nat) : Bool :=
  let ss := imgSections img
  decide ((ss.filter (fun s => s.type = 11)).length = 1) &&
  decide ((ss.map (fun s => (s.type, s.scope))).Nodup) &&
  ss.all (fun s => if s.type ≤ 3 then decide (s.scope < cls) else s.scope == 0xFFFF)

/-- A work list entry: offset, items and kind (R87). -/
def listEntry (bs : List Byte) (k : Nat) : Nat × Nat × Nat :=
  let e := (bs.drop (16 + 64 * leAt bs 0 2 + 16 * k)).take 16
  (leAt e 0 8, leAt e 8 4, leAt e 12 1)

/-- R85 to R88, R1097: the elastic table lies in its section, the sections' numbers are unique, every list belongs to one
section, and every item lies after the table. -/
def elasticOk (bs : List Byte) (secs : List ESection) : Bool :=
  let n := leAt bs 0 2
  let m := leAt bs 2 2
  let table := 16 + 64 * n + 16 * m
  decide (n ≤ 4096) && decide (table ≤ bs.length) &&
  secs.all (fun s => decide (s.number < 4096) && s.lists.all (fun l => decide (l < m))) &&
  distinct (secs.map (·.number)) && distinct (secs.flatMap (·.lists)) &&
  decide ((secs.flatMap (·.lists)).length = m) &&
  (List.range m).all (fun k =>
    let e := listEntry bs k
    e.1 % 32 == 0 && (e.2.1 == 0 ||
      (decide (table ≤ e.1) && decide (e.1 + e.2.1 * (if e.2.2 = 1 then 32 else 64) ≤ bs.length))))

/-- A list of the step body: its offset and its bytes (R89, R1095). -/
def bodyList (bs : List Byte) (count off : Nat) : Nat × Nat := (leAt bs off 8, 8 * leAt bs count 2)

/-- R89, R90, R1095: the step body's header, the places of its lists, and the switches' ticks. -/
def bodyOk (bs : List Byte) (p : Plan) : Bool :=
  let ls := [bodyList bs 4 0x10, bodyList bs 6 0x18, bodyList bs 8 0x20].filter (fun l => l.2 ≠ 0)
  decide (64 ≤ bs.length) && leAt bs 0 4 == p.stepTicks &&
  ls.all (fun l => l.1 % 8 == 0 && decide (64 ≤ l.1) && decide (l.1 + l.2 ≤ bs.length)) &&
  disjoint (ls.map (fun l => (l.1, l.1 + l.2))) &&
  p.switches.all (fun e => decide (1 ≤ bits e 23 0) && decide (bits e 23 0 < p.stepTicks)) &&
  decide ((p.switches.map (fun e => bits e 23 0)).Pairwise (· < ·))

/-- The section's other lists lie in it: route sets, scale slots, drain tables, append entries. -/
def innerOk (img : List Byte) (s : ImgSection) : Bool :=
  let bs := s.bytes img
  match s.type with
  | 7 => decide (512 ≤ s.length) && (List.range 8).all (fun k =>
      let h := (bs.drop (64 * k)).take 64
      leAt h 0 1 == 0 || (decide (leAt h 8 8 + 16 * leAt h 2 2 ≤ s.length) && decide (leAt h 16 8 + 64 * leAt h 4 2 ≤ s.length)))
  | 8 => decide (16 + 16 * leAt bs 8 4 ≤ s.length)
  | 9 => decide (16 + 2112 * leAt bs 0 2 ≤ s.length)
  | 10 => decide (256 + 32 * leAt bs 0x2E 2 ≤ s.length)
  | _ => true

/-- R88: an elastic MERGE or ATTEND firing names a list of its own section whose KIND matches the station; a SECTION_OPEN
names a section that has an entry. -/
def Plan.listsOk (p : Plan) (c : CorePlan) : Bool :=
  c.firings.zipIdx.all (fun x =>
    let r : Rec := x.1
    if r.isOpen then (p.section? r.section).isSome
    else if r.mode = 1 ∧ (r.station = 2 ∨ r.station = 6) then
      (match (c.sectionOf x.2).bind p.section? with
       | none => false
       | some e => decide (r.param ∈ e.lists) &&
          decide ((p.lists.getD r.param ⟨0, []⟩).kind = if r.station = 2 then 1 else 2))
    else true)

/-- 0x001C. -/
def checkShape (img : List Byte) (p : Plan) : List Bad :=
  need (decide (256 + 32 * leAt img 0x18 2 ≤ img.length) && scopesOk img p.cls) 0x1C (Config.freeSection 0x1C).toNat ++
  (imgSections img).flatMap (fun s => need (s.fits img && innerOk img s) 0x1C s.index) ++
  need ((moduleSection img 4).isNone || elasticOk (moduleBytes img 4) p.sections) 0x1C (modSec img 4 0x1C) ++
  need (bodyOk (moduleBytes img 11) p) 0x1C (modSec img 11 0x1C) ++
  p.cores.flatMap (fun c => need (p.listsOk c.2) 0x1C (secOf img 1 c.1 0x1C))

/-! ### 0x0008: reserved fields and encodings -/

/-- Whether a MERGE item's reserved bits, and the fields that its operation does not use, are zero (R563). -/
def mergeItemClear (op : Nat) (i : W512) : Bool :=
  clear i 63 59 && clear i 95 94 && clear i 511 134 &&
  (if op = 2 then decide (bits i 55 54 < 3) else clear i 55 54 && clear i 133 128) &&
  (op == 3 || op == 4 || clear i 57 56)

/-- The operation of the MERGE firing that works through a list. -/
def Plan.mergeOp (p : Plan) (l : Nat) : Nat :=
  ((p.cores.flatMap (·.2.firings)).find? (fun r => Rec.station r = 2 ∧ Rec.param r = l)).elim 0 Rec.op

/-- A used stream entry's reserved bits and station codes (R26, R45). -/
def streamClear (s : Stm) : Bool :=
  let known (k : Nat) : Bool := decide (k < 10) || k == 15
  clear s 25 23 && clear s 63 60 && known (Stm.producer s) && known (Stm.consumer s)

/-- Whether the reserved bits of a VEC constant table entry are zero (R34, R35). -/
def vecClearBits (e : VecEnt) : Bool :=
  clear e 1023 928 && (List.range 16).all (fun k => e.opWord k / 2048 % 2 == 0 && e.opWord k / 2 ^ 24 == 0)

/-- 0x0008: the header, the section table and the tables whose own check names no other code.
DEDUCED (log 69). -/
def checkReserved (img : List Byte) (p : Plan) : List Bad :=
  let el := moduleBytes img 4
  let body := moduleBytes img 11
  need (decide (leAt img 0x0B 1 < 2) && clearAt img 0x2A 22 && clearAt img 0xD8 40) 8 (Config.freeSection 8).toNat ++
  (imgSections img).flatMap (fun s => need (decide (1 ≤ s.type) && decide (s.type ≤ 12) && s.flags == 0 && s.reserved == 0)
    8 s.index) ++
  p.cores.flatMap (fun c =>
    need (c.2.streams.all (fun s => s == 0 || streamClear s)) 8 (secOf img 2 c.1 8) ++
    need (c.2.tasks.all (fun t => clear t 15 11 && clear t 30 28 && clear t 63 32)) 8 (secOf img 3 c.1 8)) ++
  need (clearAt el 4 12 &&
    (List.range (leAt el 0 2)).all (fun k =>
      let e := (el.drop (16 + 64 * k)).take 64
      clearAt e 6 2 && clearAt e 0x18 40) &&
    (List.range (leAt el 2 2)).all (fun k =>
      let e := (el.drop (16 + 64 * leAt el 0 2 + 16 * k)).take 16
      clearAt e 13 3 && (leAt e 12 1 == 1 || leAt e 12 1 == 2)) &&
    p.lists.zipIdx.all (fun l => l.1.kind != 1 || l.1.items.all (mergeItemClear (p.mergeOp l.2)))) 8 (modSec img 4 8) ++
  need (clearAt body 0x0A 6 && clearAt body 0x28 24 && p.switches.all (fun e => clear e 63 27) &&
    p.caps.all (fun e => clear e 63 36)) 8 (modSec img 11 8) ++
  need (p.scales.all (fun t => clearAt t.init 12 4)) 8 (modSec img 8 8) ++
  need (p.vec.all vecClearBits) 8 (modSec img 12 8)

/-! ### 0x0009: firing records (R26, R54 to R57, R242, R378, R379, R393, R396, R403, R414, R419, R447 to R450, R458, R1084) -/

/-- Whether an operation is one of its station's (R24, R26). -/
def opKnown (station op : Nat) : Bool :=
  match station with
  | 0 => op == 1 || op == 2
  | 1 => op == 1
  | 2 => decide (1 ≤ op) && decide (op ≤ 4)
  | 3 => op == 1
  | 4 => op == 1
  | 5 => decide (1 ≤ op) && decide (op ≤ 3)
  | 6 => op == 1 || op == 2
  | 7 => decide (1 ≤ op) && decide (op ≤ 5)
  | 8 => op == 1 || op == 2
  | 9 => op == 1
  | 15 => decide (op ≤ 3)
  | _ => false

/-- Whether GRID multiplies a pair of formats (R378). -/
def pairOk (w a : Fmt) : Bool :=
  if w.bits = 4 then decide (a.bits ≤ 8)
  else if w.bits = 8 then a.bits == 8
  else (w == .bf16 && a == .bf16) || (w == .fp16 && a == .fp16)

/-- The descriptors that a firing reads, and whether each is a VEC output (R29, R242, R376, R811). -/
def Plan.recDescs (p : Plan) (r : Rec) : List Nat :=
  let d := r.desc
  match r.station with
  | 0 => [d] | 1 => [d]
  | 3 => [d, d + 1] | 4 => [d, d + 1]
  | 5 => if r.op = 1 then [d] else []
  | 7 => if r.op = 4 then (List.range 7).map (d + ·) else if r.op = 1 ∧ (p.vecEnt r).usesB then [d, d + 1, d + 2] else [d, d + 1]
  | 8 => [d] | 9 => [d]
  | 15 => if r.op = 3 ∧ r.param / 16 % 4 ≠ 0 then [d] else []
  | _ => []

/-- Whether a descriptor index names a tensor descriptor. -/
def Plan.isTensor (p : Plan) (i : Nat) : Bool :=
  match p.descs[i]? with
  | some d => descKind d == 0
  | none => false

/-- Whether a descriptor writes through a scale slot of GRAN 1 (R1087). -/
def Plan.gran1 (p : Plan) (i : Nat) : Bool :=
  let t := p.tensor i
  t.g != 0 && t.slotEn && (match p.slots[t.slot]? with
    | some e => SlotEnt.gran e
    | none => false)

/-- The settings of a PASS or SWEEP that its chapter limits. `filled` says that MERGE fills SRC_A.
DEDUCED (log 68). -/
def Plan.passOk (p : Plan) (r : Rec) (filled : Bool) : Bool :=
  let w := p.tensor r.desc
  let a := p.tensor (r.desc + 1)
  let sh := r.param % 8
  let s := p.shape r
  let doubled : Bool := w.fmt.bits == 4 || s.sparse
  decide (r.param < 256) && sh != 3 && sh != 7 &&
  (if sh % 4 = 0 then r.param / 8 % 4 == 0 else if sh % 4 = 1 then r.param / 8 % 2 == 0 else true) &&
  pairOk w.fmt a.fmt &&
  (if r.mode = 1 ∧ filled then r.count == 0 else decide (1 ≤ r.count) && decide (r.count ≤ 64)) &&
  (!s.trans || (!(sh == 6 && doubled) && !(w.fmt.bits == 4 && s.sparse) && !(s.sparse && w.sparse == 1) && !s.side)) &&
  (!s.sparse || (w.twoFour && a.sparse == 0)) &&
  (!s.side || (w.outlier && a.outlier))

/-- The limits of a SWEEP. DEDUCED (log 68). -/
def Plan.sweepOk (p : Plan) (r : Rec) : Bool :=
  let w := p.tensor r.desc
  decide (w.fmt.bits ≤ 8) && decide ((p.tensor (r.desc + 1)).fmt.bits ≤ 8) && decide (1 ≤ r.count) && decide (r.count ≤ 8) &&
  decide (w.s 1 ≤ 256) && r.dst == 0 && r.param == 0

/-- A CONTROL record's reserved fields (R55, R809, R1084). -/
def Rec.controlOk (r : Rec) : Bool :=
  match r.op with
  | 0 => clear r 72 11
  | 1 => r.mode == 0 && r.dst == 0 && r.task == 0 && decide (r.param < 1024)
  | 2 => r.mode == 1 && clear r 60 3
  | _ => clear r 72 55 && r.count == 0 && r.task == 0 && decide (r.param < 64) && r.param / 16 != 3

/-- Whether a task of a core is valid. -/
def CorePlan.taskValid (c : CorePlan) (k : Nat) : Bool :=
  match c.tasks[k]? with
  | some t => bit t 31
  | none => false

/-- Whether the descriptors that a record names are of KIND 0 (R242): those that its firing reads, and the entry that its DESC
names. The other CONTROL records have no DESC (R55, R1084); of a VEC firing R43 says it with a code of its own.
DEDUCED (log 69). -/
def Plan.recDescsOk (p : Plan) (r : Rec) : Bool :=
  r.station == 7 || ((p.recDescs r).all p.isTensor && ((r.station == 15 && r.op != 3) || p.isTensor r.desc))

/-- A firing record by itself. A reserved station or operation breaks it (R26, R54): R92 gives 0x0008 for an encoding that is
not known and 0x0009 for a record that breaks R54, and the model reports 0x0009. DESIGN CHOICE (log 169). -/
def Plan.recOk (p : Plan) (c : CorePlan) (r : Rec) : Bool :=
  opKnown r.station r.op && decide (r.mode < 2) && clear r 2 0 && clear r 10 7 &&
  (!r.first || r.station == 3 || r.station == 4) &&
  (if r.mode = 1 then r.tick == 0 && r.offset == 0 else decide (r.offset < p.tickClk)) &&
  (r.station == 15 || c.taskValid r.task) &&
  p.recDescsOk r &&
  (match r.station with
   | 3 => p.passOk r (Stm.producer ((c.streams.getD r.srcA 0)) == 2)
   | 4 => p.sweepOk r
   | 5 => decide (r.param < 4096) && ((r.op == 1 && p.gran1 r.desc) || clear r 72 61)
   | 15 => r.controlOk
   | _ => true)

/-- R392: a PASS that keeps the weights names the arrays and the settings of the PASS that rippled them: for each of its arrays,
the last one before it that rippled weights into that array. -/
def Plan.keepOk (p : Plan) (c : CorePlan) : Bool :=
  c.firings.zipIdx.all (fun x =>
    let r : Rec := x.1
    let s := p.shape r
    if r.station = 3 ∧ s.keep then
      s.arrays.all (fun k =>
        match ((c.firings.take x.2).filter (fun q => Rec.station q = 3 ∧ !(p.shape q).keep ∧ k ∈ (p.shape q).arrays)).getLast? with
        | some q => let z := p.shape q
                    s.arrays == z.arrays && s.sparse == z.sparse && s.side == z.side
        | none => false)
    else true)

/-- The plan time of a timed record in clk from tick 0 (R98); none for an elastic one. -/
def Plan.clk (p : Plan) (r : Rec) : Option Nat := if r.mode = 0 then some (r.tick * p.tickClk + r.offset) else none

/-- 0x0009. -/
def checkRecords (img : List Byte) (p : Plan) : List Bad :=
  p.cores.flatMap (fun c =>
    need (c.2.firings.all (p.recOk c.2) && p.keepOk c.2 && decide ((c.2.firings.filterMap p.clk).Pairwise (· ≤ ·)))
      9 (secOf img 1 c.1 9))

/-! ### 0x000A: streams and windows (R44, R45, R48, R49) -/

/-- Whether a stream of a core is in use (R44). -/
def CorePlan.usesStream (c : CorePlan) (s : Nat) : Bool := c.streams.getD s 0 != 0

/-- The streams that a firing reads, and those it writes. -/
def Plan.recStreams (p : Plan) (r : Rec) : List Nat × List Nat :=
  match r.station with
  | 0 => ([], [r.dst])
  | 1 => ([r.srcA], [])
  | 2 => match r.op with
    | 1 => ([], [r.dst])
    | 2 => ([r.srcB], r.dst :: ((p.items r.param).map (fun i => MItem.out i)).dedup)
    | 4 => ([r.srcB], [])
    | _ => ([], [])
  | 3 => (if (p.shape r).keep then [r.srcA] else [r.srcA, r.srcB], [])
  | 4 => ([r.srcA], [])
  | 5 => ([], if r.op = 2 then [] else [r.dst])
  | 6 => ([r.srcA], [r.srcA])
  | 7 =>
    let b : Bool := r.op == 2 || r.op == 4 || (r.op == 1 && (p.vecEnt r).usesB)
    (if b then [r.srcA, r.srcB] else [r.srcA], [r.dst])
  | 8 =>
    let permute : Bool := r.op == 2 && (p.routes.any (fun s => match s.slots[r.param]? with
      | some e => slotKind e == 2 && CollEnt.op (s.colls.getD (slotColl e) 0) == 4
      | none => false))
    (if permute then [] else [r.srcA], [])
  | 9 => ([], [r.dst])
  | _ => ([], [])

/-- A task entry (R48, R49): VALID, and its window in 4 KiB units. -/
def taskRange (t : W64) : Nat × Nat := (bits t 10 0, bits t 10 0 + bits t 27 16)

/-- A used stream entry by itself and in its task's window. -/
def CorePlan.streamOk (c : CorePlan) (s : Stm) : Bool :=
  s == 0 ||
  (Stm.base s % 64 == 0 && decide (64 ≤ Stm.slotBytes s) && decide (Stm.slotBytes s ≤ 65472) && Stm.slotBytes s % 64 == 0 &&
   c.taskValid (Stm.task s) &&
   decide (Stm.base s + Stm.slotBytes s * Stm.slots s ≤ 4096 * bits (c.tasks.getD (Stm.task s) 0) 27 16))

/-- 0x000A. DEDUCED (log 69). -/
def checkStreams (img : List Byte) (p : Plan) : List Bad :=
  p.cores.flatMap (fun c =>
    let ts := c.2.tasks.filter (fun t => bit t 31)
    need (ts.all (fun t => decide (1 ≤ bits t 27 16) && decide (bits t 27 16 ≤ 2048) && decide ((taskRange t).2 ≤ 2048)) &&
      disjoint (ts.map taskRange)) 0x0A (secOf img 3 c.1 0x0A) ++
    need (c.2.streams.all c.2.streamOk) 0x0A (secOf img 2 c.1 0x0A) ++
    need (c.2.firings.all (fun r => let s := p.recStreams r
      s.1.all c.2.usesStream && s.2.all c.2.usesStream)) 0x0A (secOf img 1 c.1 0x0A))

/-! ### 0x000D: elastic sections (R24, R27, R68, R76, R452, R593, R773, R789, R1085, R1086) -/

/-- A walk down a firing list: the section open in it, if any; none when the records break R76 or R1086. DEDUCED (log 69). -/
def sectionWalk : List Rec → Option Nat → Bool
  | [], cur => cur.isNone
  | r :: rs, cur =>
    if r.isOpen then cur.isNone && sectionWalk rs (some r.section)
    else if r.isClose then cur == some r.section && sectionWalk rs none
    else (r.mode == 0 || cur.isSome) && sectionWalk rs cur

/-- The spans of a core's sections: opening, declared end, station mask (R55, R67). -/
def Plan.spans (p : Plan) (c : CorePlan) : List (Nat × Nat × Nat) :=
  c.firings.filterMap (fun r => if Rec.isOpen r then (p.clk r).map (fun t => (t, t + Rec.declared r, Rec.param r)) else none)

/-- Whether some of the bytes that runs of addresses name stand in a region of TARGET 1 or 2. -/
def Plan.remote (p : Plan) (rs : List (Nat × Nat)) : Bool :=
  rs.any (fun a => p.regions.any (fun g => Reg.valid g && Reg.target g != 0 && decide (Reg.vbase g < a.1 + a.2) &&
    decide (a.1 < Reg.vbase g + Reg.size g)))

/-- The addresses that a LOAD or SWEEP firing reads: the data, codes, lists and side data of its tiles (R27, R452). -/
def Plan.readRuns (p : Plan) (c : CorePlan) (r : Rec) : List (Nat × Nat) :=
  let t := p.tensor r.desc
  if r.station = 4 then
    let y : Tensor := { t with outlier := false }
    (List.range (t.stored.t0 false * t.stored.t1 false)).flatMap (fun i => p.loadAddrs y false i true)
  else (List.range r.count).flatMap (fun k => p.loadAddrs t (r.op == 2 || t.innerT) (r.param + k) (c.weightStream r.dst))

/-- The route set active at a plan time (R761). -/
def Plan.setAt (p : Plan) (tick : Nat) : Nat :=
  ((p.switches.filter (fun e => bits e 23 0 ≤ tick)).getLast?).elim 0 (fun e => bits e 26 24)

/-- The plan time at which a firing's work begins: its own, or that of its section's SECTION_OPEN.
DEDUCED (log 71). -/
def Plan.opens (p : Plan) (c : CorePlan) (idx : Nat) (r : Rec) : Nat × Nat :=
  match p.clk r with
  | some t => (t, t)
  | none =>
    match (c.sectionOf idx).bind c.openRec with
    | some o => let t := (p.clk o).getD 0
                (t, t + Rec.declared o)
    | none => (0, 0)

/-- The route slot that a SEND or RECV names, in the set active at its time (R760, R762). -/
def Plan.routeSlot (p : Plan) (c : CorePlan) (idx : Nat) (r : Rec) : Option (RouteSet × W128) :=
  let s := p.route (p.setAt ((p.opens c idx r).1 / p.tickClk))
  if s.valid then (s.slots[r.param]?).map (fun e => (s, e)) else none

/-- The collective entry of a COLLECTIVE firing. -/
def Plan.collOf (p : Plan) (c : CorePlan) (idx : Nat) (r : Rec) : Option CollEnt :=
  if r.station = 8 ∧ r.op = 2 then
    (p.routeSlot c idx r).bind (fun x => if slotKind x.2 = 2 then x.1.colls[slotColl x.2]? else none)
  else none

/-- Whether a firing stands in the kind of place its work asks for: elastic or timed. -/
def Plan.placeOk (p : Plan) (c : CorePlan) (idx : Nat) (r : Rec) : Bool :=
  let timed : Bool := r.mode == 0
  match r.station with
  | 0 => !timed || !p.remote (p.readRuns c r)
  | 2 => !timed
  | 4 => !timed || ((p.tensor r.desc).sparse != 3 && !p.remote (p.readRuns c r))
  | 6 => !timed
  | 8 => (match p.collOf c idx r with
    | some x => if CollEnt.op x = 4 then !timed else timed
    | none => true)
  | _ => true

/-- 0x000D. DEDUCED (log 69). -/
def checkElastic (img : List Byte) (p : Plan) : List Bad :=
  p.cores.flatMap (fun c =>
    let opens := (c.2.firings.filter Rec.isOpen).map Rec.section
    let closes := (c.2.firings.filter Rec.isClose).map Rec.section
    let mine := p.sections.filter (fun s => s.members.getLsbD c.1)
    need (sectionWalk c.2.firings none && distinct opens && distinct closes &&
      opens.all (fun n => mine.any (·.number == n)) &&
      decide ((p.spans c.2).Pairwise (fun a b => a.2.1 ≤ b.1 ∨ b.2.1 ≤ a.1 ∨ a.2.2 &&& b.2.2 = 0)) &&
      c.2.firings.zipIdx.all (fun x => p.placeOk c.2 x.2 x.1)) 0x0D (secOf img 1 c.1 0x0D)) ++
  need (p.sections.all (fun s => s.cores.all (fun c => (p.core c).firings.any (fun r => Rec.isOpen r && Rec.section r == s.number))))
    0x0D (modSec img 4 0x0D)

/-! ### 0x000E, 0x000F, 0x0010: scale slots, regions, descriptors -/

/-- A scale slot entry by itself (R211). -/
def SlotEnt.ok (e : SlotEnt) (len : Nat) : Bool :=
  decide (e.format ≤ 8) && e.mode != 3 && clear e 15 10 && clear e 127 82 && (e.gran || e.channels == 1) &&
  decide (e.init + e.channels * (if e.fmt.zp then 2 else 1) ≤ len)

/-- 0x000E (R211). -/
def checkScales (img : List Byte) (p : Plan) : List Bad :=
  match p.scales with
  | none => []
  | some t =>
    need (decide (1 ≤ leAt t.init 8 4) && decide (leAt t.init 8 4 ≤ 4096) && t.statBase.toNat % 64 == 0 &&
      t.slots.all (fun e => SlotEnt.ok e t.init.length && decide (SlotEnt.base e + SlotEnt.channels e ≤ 262144)) &&
      disjoint (t.slots.map (fun e => (SlotEnt.base e, SlotEnt.base e + SlotEnt.channels e)))) 0x0E (modSec img 8 0x0E)

/-- A region entry by itself (R5, R296, R297), with its place in the present pools (R344). -/
def Reg.ok (g : Reg) (m : MemSys) (self : Nat) : Bool :=
  clear g 7 6 && clear g 31 26 && clear g 127 126 && Reg.target g != 3 && (Reg.target g == 1 || Reg.peer g == 0) &&
  (!Reg.valid g ||
   (Reg.size g != 0 && (Reg.target g != 1 || Reg.peer g != self) &&
    (Reg.target g != 0 || (List.range (Reg.size g / 2 ^ 21)).all (fun k => m.backed (Reg.tbase g + k * 2 ^ 21)))))

/-- 0x000F. DEDUCED (log 69). -/
def checkRegions (img : List Byte) (p : Plan) (m : MemSys) (self : Nat) : List Bad :=
  need (p.regions.all (fun g => Reg.ok g m self) &&
    disjoint ((p.regions.filter Reg.valid).map (fun g => (Reg.vbase g, Reg.vbase g + Reg.size g))))
    0x0F (modSec img 6 0x0F)

/-- The operations of the ATTEND firings that name a work list: 1 FORWARD, 2 BACKWARD. -/
def Plan.attOps (p : Plan) (l : Nat) : List Nat :=
  ((p.cores.flatMap (·.2.firings)).filter (fun r => Rec.station r = 6 ∧ Rec.param r = l)).map Rec.op

/-- The descriptors that an ATTEND item writes through: the output and the statistic of a FORWARD one, the gradients of a BACKWARD
one (R601, R629, R646). -/
def AItem.writes (x : AItem) (back : Bool) : List Nat :=
  if back then (if x.part1 then [x.grad, x.grad + 1] else [x.grad]) else [x.out, x.stat]

/-- What the plan's firings use a descriptor for (R262, R275, R292). -/
def Plan.useOf (p : Plan) (i : Nat) : DescUse :=
  let rs := p.cores.flatMap (·.2.firings)
  let out (r : Rec) : Bool :=
    (r.station == 5 && r.op == 1 && r.desc == i) ||
    (r.station == 7 && decide (r.desc ≤ i) && decide (i < r.desc + if r.op = 4 then 3 else 1))
  let att : Bool := p.lists.zipIdx.any (fun l => l.1.kind == 2 && (p.attOps l.2).any (fun op =>
    l.1.items.any (fun x => decide (i ∈ AItem.writes x (op == 2)))))
  let quant : Bool := rs.any out && decide ((p.tensor i).g ≠ 0)
  let slotted : Bool := (p.tensor i).slotEn && rs.any (fun r => Rec.station r == 5 && Rec.op r == 1 && Rec.desc r == i)
  { written := rs.any (fun r => Rec.station r == 1 && Rec.desc r == i) || quant || slotted || att
    transposedRead := rs.any (fun r => Rec.station r == 0 && Rec.op r == 2 && Rec.desc r == i)
    quantised := quant }

/-- Whether a quantising write's descriptor has a slot of its format (R209, R293). -/
def Plan.quantOk (p : Plan) (t : Tensor) : Bool :=
  t.slotEn && (match p.slots[t.slot]? with
    | some e => SlotEnt.fmt e == t.fmt && decide (SlotEnt.format e ≤ 8)
    | none => false)

/-- A descriptor entry (R241, R288 to R290, R292). -/
def Plan.descOk (p : Plan) (i : Nat) (d : W512) : Bool :=
  match descKind d with
  | 0 =>
    let u := p.useOf i
    let t := Machine.tensor d
    tensorOk d u && t.sparseOk && (!u.quantised || p.quantOk t) &&
    (match chain p.descs 2 t.link with
     | none => false
     | some es => t.chainFits es)
  | 3 => false
  | _ => extensionOk d

/-- 0x0010: the failing descriptors. -/
def checkDescs (p : Plan) : List Bad :=
  p.descs.zipIdx.flatMap (fun d => need (p.descOk d.2 d.1) 0x10 d.2)

/-! ### 0x0014: drain tables and TALLY firings (R491 to R493, R499 to R503, R1096) -/

/-- A BF16 field that must be finite. -/
def finiteBf (c : Nat) : Bool := (Fmt.bf16.decode c).finite

/-- A drain table by itself. -/
def DrainTab.ok (t : DrainTab) : Bool :=
  let n := bits t.head 15 8
  decide (bits t.head 1 0 < 2) && clear t.head 7 4 && clear t.head 63 16 && (n == 0 || n == 63 || n == 127 || n == 255) &&
  (t.entries.take (n + 1)).all (fun e => clear e 31 24 && clear e 63 58 &&
    (!bit t.head 2 || finiteBf (bits e 15 0)) && (!bit t.head 3 || finiteBf (bits e 47 32)))

/-- The drain table that an array was last loaded from before a record of the core's list (R478, R483). -/
def tableBefore (c : CorePlan) (idx array : Nat) : Nat :=
  ((c.firings.take idx).filter (fun r => Rec.station r = 5 ∧ Rec.op r = 2 ∧ Rec.param r / 2 ^ (8 + array) % 2 = 1)).getLast?.elim 0
    (fun r => Rec.param r % 256)

/-- A TALLY firing. -/
def Plan.tallyOk (p : Plan) (c : CorePlan) (idx : Nat) (r : Rec) : Bool :=
  let arrs := tallyArrays r
  arrs != [] && decide (r.param % 256 < max 1 p.drains.length) &&
  (if r.op = 2 then r.count == 0 else decide (1 ≤ r.count) && decide (r.count ≤ 64)) &&
  (r.op != 1 || (p.tensor r.desc).fmt.bits != 4 || arrs.length % 2 == 0) &&
  (r.op != 3 || arrs.all (fun k => (p.drain (tableBefore c idx k)).abs))

/-- 0x0014. -/
def checkDrains (img : List Byte) (p : Plan) : List Bad :=
  need ((moduleSection img 9).isNone ||
    (decide (1 ≤ p.drains.length) && decide (p.drains.length ≤ 256) && clearAt (moduleBytes img 9) 2 14 &&
     (List.range p.drains.length).all (fun k => clearAt (moduleBytes img 9) (16 + 2112 * k + 8) 56) && p.drains.all DrainTab.ok))
    0x14 (modSec img 9 0x14) ++
  p.cores.flatMap (fun c =>
    need (c.2.firings.zipIdx.all (fun x => Rec.station x.1 != 5 || p.tallyOk c.2 x.2 x.1)) 0x14 (secOf img 1 c.1 0x14))

/-! ### 0x0015: MERGE work (R550, R562, R569, R576 to R578, R582) -/

/-- A format that the lanes take (R576). -/
def laneFmt (t : Tensor) : Bool :=
  t.g == 0 && decide (t.fmt ∈ [Fmt.int4, .fp4, .fp6e3, .fp6e2, .e4m3, .e5m2, .int8, .bf16])

/-- A MERGE item of an operation. -/
def Plan.mergeItemOk (p : Plan) (op : Nat) (i : MItem) : Bool :=
  let a := p.tensor i.descA
  let b := p.tensor i.descB
  p.isTensor i.descA &&
  (match op with
   | 1 => a.sparse != 0
   | 2 => p.isTensor i.descB && a.sparse == 3 && i.row0 % 64 == 0 && b.sparse == 0 && b.g == 0 && pairOk b.fmt a.fmt &&
      decide (8 ≤ a.fmt.bits) && decide (8 ≤ b.fmt.bits)
   | 3 => p.isTensor i.descB && a.sparse == 3 && b.sparse == 3 && laneFmt a && laneFmt b
   | _ => p.isTensor i.descB && a.sparse == 3 && b.sparse == 0 && laneFmt a && laneFmt b && decide (32 ≤ i.cols))

/-- 0x0015. -/
def checkMerge (img : List Byte) (p : Plan) : List Bad :=
  p.cores.flatMap (fun c =>
    need (c.2.firings.zipIdx.all (fun x =>
      let r : Rec := x.1
      (r.station != 1 || (p.tensor r.desc).sparse != 3) &&
      (r.station != 2 ||
       (((c.2.sectionOf x.2).bind p.section?).all (fun s => decide (s.cores.length = 1)) &&
        (p.items r.param).all (fun i => p.mergeItemOk r.op i &&
          (decide (r.op < 3) || (p.drain (tableBefore c.2 x.2 (MItem.array i))).abs)))))) 0x15 (secOf img 1 c.1 0x15))

/-! ### 0x0016: ATTEND work (R598, R600 to R607, R610, R658) -/

/-- Whether a descriptor is of rank 3 with S_0 = 128 (R604). -/
def Tensor.rank3 (t : Tensor) : Bool := t.rank == 3 && t.s 0 == 128

/-- A format of keys and values in memory (R609, R610). -/
def Tensor.kvOk (t : Tensor) : Bool :=
  t.rank3 && ((t.fmt == .bf16 && t.g == 0) || (decide (t.fmt ∈ [Fmt.e4m3, .e5m2, .int8]) && t.g == 128))

/-- An output format of ATTEND (R605). -/
def Tensor.attOut (t : Tensor) : Bool := t.rank3 && t.g == 0 && decide (t.fmt ∈ [Fmt.bf16, .fp16, .fp32])

/-- An ATTEND item in a FORWARD or BACKWARD list. DEDUCED (log 68, 97). -/
def Plan.attItemOk (p : Plan) (back : Bool) (x : AItem) : Bool :=
  let q := p.tensor x.q
  let o := p.tensor x.out
  let st := p.tensor x.stat
  let rows (t : Tensor) : Bool := t.rank3 && t.fmt == .bf16
  clear x 159 154 && clear x 319 312 && clear x 383 376 && clear x 511 480 &&
  decide (x.rows ≤ 64) && p.isTensor x.q && p.isTensor x.out && p.isTensor x.stat && rows q &&
  st.rank == 2 && st.fmt == .fp32 && x.scale.finite && !x.scale.neg? && !x.scale.isZero &&
  (!bit x 149 || bits x 215 192 != 0) &&
  (if x.paged then x.kv == 0 && x.len == 0 else x.seq == 0 && p.isTensor x.kv && p.isTensor (x.kv + 1) &&
    (p.tensor x.kv).kvOk && (p.tensor (x.kv + 1)).kvOk) &&
  (x.paged || !x.mass) &&
  (if back then !x.paged && rows o && p.isTensor x.o && (p.tensor x.o).attOut && p.isTensor x.grad && (p.tensor x.grad).attOut &&
      (!x.part1 || (p.isTensor (x.grad + 1) && (p.tensor (x.grad + 1)).attOut)) && (x.part1 || (x.blocks == 0 && x.page0 == 0))
   else o.attOut && !x.part1 && x.blocks == 0 && x.page0 == 0) &&
  (!x.paged || (match p.policy with
    | some c => decide (x.kvHead < c.heads * c.layers) && decide (x.seq < c.rows)
    | none => true))

/-- Bytes of one head's key block or value block in a format (R609). -/
def Fmt.headBlock (f : Fmt) : Nat := if f = .bf16 then 16384 else 8448

/-- Bytes of one head's key block and value block, each in its own format, as an ATTEND firing stages them (R600, R609). -/
def Plan.pageHead (p : Plan) (x : AItem) : Nat :=
  if x.paged then 2 * ((p.policy.map Policy.fmt).getD .bf16).headBlock
  else (p.tensor x.kv).fmt.headBlock + (p.tensor (x.kv + 1)).fmt.headBlock

/-- The staging ring of an ATTEND firing (R600). -/
def Plan.ringOk (p : Plan) (c : CorePlan) (r : Rec) : Bool :=
  let s : Stm := c.streams.getD r.srcA 0
  Stm.producer s == 6 && Stm.consumer s == 6 && decide (4 ≤ Stm.slots s) &&
  (p.items r.param).all (fun x => decide (p.pageHead x ≤ Stm.slotBytes s))

/-- 0x0016. An item of a list that no firing names is neither FORWARD nor BACKWARD: it must be fit for one of the two (R607,
R658). DEDUCED (log 97). -/
def checkAttend (img : List Byte) (p : Plan) : List Bad :=
  need (p.lists.zipIdx.all (fun l => l.1.kind != 2 || p.attOps l.2 != [] ||
    l.1.items.all (fun x => p.attItemOk false x || p.attItemOk true x))) 0x16 (modSec img 4 0x16) ++
  p.cores.flatMap (fun c =>
    need (c.2.firings.zipIdx.all (fun x =>
      let r : Rec := x.1
      r.station != 6 ||
      (p.ringOk c.2 r && (p.items r.param).all (p.attItemOk (r.op == 2)) &&
       (match c.2.sectionOf x.2 with
        | none => true
        | some n =>
          (match c.2.openRec n with
           | some o => Rec.param o / 8 % 2 == 1 && Rec.param o / 32 % 2 == 1 && Rec.param o / 64 % 2 == 1
           | none => true) &&
          p.cores.all (fun d => d.2.firings.zipIdx.all (fun y =>
            !((Rec.station y.1 == 3 || Rec.station y.1 == 5) && Rec.mode y.1 == 1 && d.2.sectionOf y.2 == some n)))))))
      0x16 (secOf img 1 c.1 0x16))

/-! ### 0x0017: the Cumulus policy (R652 to R655, R677, R678) -/

/-- A staging descriptor (R678). -/
def Plan.stagingOk (p : Plan) (c : Policy) (i : Nat) : Bool :=
  let t := p.tensor i
  p.isTensor i && t.rank == 4 && t.s 0 == 128 && t.d 0 == 1 && t.s 1 == c.heads && t.s 3 == c.rows && t.fmt == c.fmt &&
  t.g == (if c.fmt = .bf16 then 0 else 128)

/-- A policy by itself. DEDUCED (log 68). -/
def Plan.policyOk (p : Plan) (c : Policy) : Bool :=
  let es := c.appends.map appendEnt
  decide (c.field 0x00 8 % 4096 = 0) && decide (1 ≤ c.poolPages) && decide (c.poolPages ≤ 16777216) && decide (c.field 0x0C 1 ≤ 3) &&
  decide (1 ≤ c.heads) && decide (c.heads ≤ 64) && decide (1 ≤ c.layers) && decide (c.heads * c.layers ≤ 256) &&
  decide (1 ≤ c.decay) && decide (c.decay ≤ 16) && decide (c.metaBase % 4096 = 0) && decide (c.tblkBase % 4096 = 0) &&
  decide (c.tblkCount ≤ 16777216) && decide (c.low ≤ c.high) && decide (c.high ≤ c.poolPages) && decide (1 ≤ c.rows) &&
  decide (c.rows ≤ 4096) && decide (c.appends.length ≤ 1024) && c.field 0x38 8 == 0 && c.field 0xC0 64 == 0 &&
  (List.range 8).all (fun k => c.field (0x40 + 16 * k) 8 % 4096 == 0 && c.field (0x4C + 16 * k) 4 == 0) &&
  decide (c.tierPages ≤ 16777216) &&
  c.appends.all (fun e => clear e 31 8 && clear e 255 128) &&
  es.all (fun e => decide (e.layer < c.layers) && decide (e.tick < p.stepTicks) && decide (e.offset < p.tickClk) &&
    p.stagingOk c e.kdesc && p.stagingOk c e.vdesc) &&
  decide ((es.map (fun e => e.tick * p.tickClk + e.offset)).Pairwise (· ≤ ·))

/-- 0x0017: a plan with a PAGED item has exactly one policy section (R652), and a policy keeps its rules. -/
def checkPolicy (img : List Byte) (p : Plan) : List Bad :=
  let paged : Bool := p.lists.any (fun l => l.kind == 2 && l.items.any (fun x => AItem.paged x))
  need (!paged || decide (((imgSections img).filter (fun s => s.type = 10)).length = 1)) 0x17
    (modSec img (if p.policy.isSome then 10 else 4) 0x17) ++
  (match p.policy with
   | some c => need (p.policyOk c) 0x17 (modSec img 10 0x17)
   | none => [])

/-! ### 0x0018: routes and collectives (R91, R758 to R762, R772, R781) -/

/-- A route slot entry by itself (R759). -/
def slotOk (s : RouteSet) (e : W128) : Bool :=
  let k := slotKind e
  k != 3 && decide (slotOrder e < 6) && decide (1 ≤ bits e 10 8) && decide (bits e 10 8 ≤ 6) && clear e 127 112 &&
  (k == 1 || (clear e 43 34 && clear e 63 52 && clear e 111 64)) &&
  (if k = 2 then decide (slotColl e < s.colls.length) else clear e 51 44)

/-- A collective entry by itself (R772). -/
def CollEnt.ok (x : CollEnt) : Bool :=
  decide (x.op < 5) && (x.form != 3 || decide (2 ≤ x.op)) && decide (x.ring < 6) &&
  (List.range 3).all (fun k => decide (1 ≤ x.stride k)) && (x.op == 3 || x.root == 0) && (x.form != 0 || x.half) &&
  clear x 63 53 && clear x 511 186 && (if x.hstage then decide (2 ≤ x.herds) else clear x 127 120)

/-- The bonds that a slot's traffic uses from this member: along each dimension in which it travels (R754, R759, R772).
DEDUCED (log 71). -/
def Fab.slotBonds (f : Fab) (s : RouteSet) (e : W128) : List Nat :=
  match slotKind e with
  | 0 => (List.range 3).filterMap (fun k =>
      if (f.coords f.member.toNat).getD k 0 = (f.coords (slotDest e)).getD k 0 then none
      else some (2 * k + slotNeg e / 2 ^ k % 2))
  | 2 => (CollEnt.dims (s.colls.getD (slotColl e) 0)).flatMap (fun k => [2 * k, 2 * k + 1])
  | _ => []

/-- A route set: its header's bytes and its entries. DEDUCED (log 71). -/
def Fab.setOk (f : Fab) (h : List Byte) (s : RouteSet) : Bool :=
  if !s.valid then leAt h 0 1 == 0
  else
    leAt h 0 1 == 1 && clearAt h 6 2 && clearAt h 24 40 && decide (s.slots.length ≤ 4096) && decide (s.colls.length ≤ 256) &&
    decide (s.bondClass.toNat < 64) && s.slots.all (slotOk s) && s.colls.all CollEnt.ok &&
    s.slots.all (fun e => (f.slotBonds s e).all (fun b => (s.bondClass.getLsbD b) == f.bondCabled b))

/-- A SEND or RECV firing against the routes. DEDUCED (log 71). -/
def Plan.routedOk (p : Plan) (c : CorePlan) (idx : Nat) (r : Rec) : Bool :=
  match p.routeSlot c idx r with
  | none => false
  | some x =>
    (r.station != 8 || (if r.op = 1 then slotKind x.2 != 2 else slotKind x.2 == 2)) &&
    (match p.collOf c idx r with
     | some e => decide (CollEnt.op e = 4) || decide (r.count * p.unitBytes e r ≤ 64 * 2 ^ 20)
     | none => true)

/-- The collective entries that a core's firings contribute to. -/
def Plan.entriesOf (p : Plan) (c : CorePlan) : List (Nat × Nat) :=
  (c.firings.zipIdx.filterMap (fun x =>
    if Rec.station x.1 = 8 ∧ Rec.op x.1 = 2 then
      (p.routeSlot c x.2 x.1).map (fun y => (p.setAt ((p.opens c x.2 x.1).1 / p.tickClk), slotColl y.2))
    else none)).dedup

/-- 0x0018. DEDUCED (log 69). -/
def checkRoutes (img : List Byte) (p : Plan) (f : Fab) : List Bad :=
  let bs := moduleBytes img 7
  need (p.routes.zipIdx.all (fun s => f.setOk ((bs.drop (64 * s.2)).take 64) s.1)) 0x18 (modSec img 7 0x18) ++
  need (p.switches.all (fun e => (p.route (bits e 26 24)).valid)) 0x18 (modSec img 11 0x18) ++
  p.cores.flatMap (fun c =>
    need (c.2.firings.zipIdx.all (fun x => (Rec.station x.1 != 8 && Rec.station x.1 != 9) || p.routedOk c.2 x.2 x.1) &&
      (p.entriesOf c.2).all (fun e => p.cores.all (fun d => d.1 == c.1 || decide (e ∉ p.entriesOf d.2))))
      0x18 (secOf img 1 c.1 0x18))

/-! ### 0x0019 (the list itself), 0x001A, 0x001B -/

/-- The regions that a commit list entry names. -/
def commitRegions (e : W64) : List Nat := let f := commitFields e
  if f.2.2 = 0 then [f.1, f.2.1] else [f.1]

/-- A commit list entry by itself (R901, R902). -/
def Plan.commitOk (p : Plan) (e : W64) : Bool :=
  let f := commitFields e
  let reg (i : Nat) : Reg := p.regions.getD i 0
  clear e 63 26 && f.2.2 != 3 && Reg.valid (reg f.1) &&
  (if f.2.2 = 0 then Reg.valid (reg f.2.1) && Reg.size (reg f.1) == Reg.size (reg f.2.1) && Reg.target (reg f.1) == 0 &&
      Reg.target (reg f.2.1) == 0
   else f.2.1 == 0)

/-- 0x0019 but for what the firings read and write. DEDUCED (log 69). -/
def checkCommits (img : List Byte) (p : Plan) : List Bad :=
  need (p.commits.all p.commitOk && distinct (p.commits.flatMap commitRegions)) 0x19 (modSec img 11 0x19) ++
  p.cores.flatMap (fun c =>
    need (c.2.firings.all (fun r => Rec.mode r != 0 || decide (Rec.tick r < p.stepTicks))) 0x19 (secOf img 1 c.1 0x19))

/-- 0x001A (R981, R982). -/
def checkCaps (img : List Byte) (p : Plan) : List Bad :=
  need (decide ((p.caps.map (fun e => bits e 23 0)).Pairwise (· < ·)) &&
    p.caps.all (fun e => decide (500 ≤ bits e 35 24) && decide (bits e 35 24 ≤ 3000) && decide (bits e 23 0 < p.stepTicks)))
    0x1A (modSec img 11 0x1A)

/-- The operands that a map function uses (R36, R43); none for a reserved FN. -/
def mapArity : Nat → Option Nat
  | 0x01 => some 2 | 0x02 => some 2 | 0x03 => some 2 | 0x04 => some 3 | 0x05 => some 2 | 0x06 => some 2 | 0x07 => some 1
  | 0x08 => some 1 | 0x09 => some 1 | 0x0A => some 2 | 0x0B => some 1 | 0x0C => some 1 | 0x0D => some 1 | 0x0E => some 1
  | 0x0F => some 3 | 0x10 => some 1 | 0x11 => some 2
  | _ => none

/-- A map operation word (R35, R43). -/
def mapWordOk (o : Nat) : Bool :=
  match mapArity (o % 256) with
  | none => false
  | some n => decide (o / 256 % 8 < 6) && (decide (2 ≤ n) || o / 2 ^ 16 % 16 == 0) && (decide (3 ≤ n) || o / 2 ^ 20 % 16 == 0)

/-- Bits of FLAGS that an operation uses (R38, R39, R41). -/
def flagBits : Nat → Nat
  | 2 => 1 | 3 => 3 | 4 => 1
  | _ => 0

/-- An entry of the VEC constant table by itself: its KIND, STEPS, FLAGS, operation words, constants and the fields that its KIND
holds zero (R34, R35, R43). R43 names the code for a reserved FN, DST, operand or FLAGS bit and for an operand that its FN does
not use; the model reports the other faults of an entry under it too. DESIGN CHOICE (log 156). -/
def VecEnt.ok (e : VecEnt) : Bool :=
  decide (1 ≤ e.kind) && decide (e.kind ≤ 5) && decide (e.flags < 2 ^ flagBits e.kind) &&
  (if e.kind = 1 then decide (1 ≤ e.steps) && decide (e.steps ≤ 16) && (List.range e.steps).all (fun k => mapWordOk (e.opWord k)) &&
      (List.range 16).all (fun k => decide (k < e.steps) || e.opWord k == 0)
   else e.steps == 0 && (List.range 16).all (fun k => e.opWord k == 0)) &&
  (List.range 8).all (fun k => (e.const k).finite) && (e.kind == 4 || e.tBase == 0) &&
  (decide (4 ≤ e.kind) || (e.tpb == 0 && e.rowblk0 == 0))

/-- A VEC firing against its entry and its descriptors (R30, R31, R34, R37, R39, R40, R43, R1088). R43 does not name a NORM whose
c1 is not 1/L (R38), nor a TPB or ROWBLK0 that R34 rules out; the model reports them under its code.
DESIGN CHOICE (log 156). -/
def Plan.vecOk (p : Plan) (c : CorePlan) (r : Rec) : Bool :=
  let e := p.vecEnt r
  let ds := p.recDescs r
  let t (k : Nat) := p.tensor (r.desc + k)
  let wa := p.tw (r.desc + 1)
  let wo := p.tw r.desc
  let g1 : Bool := (r.op == 5 && p.gran1 r.desc) || (r.op == 4 && (List.range 3).any (fun k => p.gran1 (r.desc + k)))
  let whole (ws : List Nat) (w : Nat) : Bool := r.count % (vecSpan ws / w) == 0
  decide (r.param < p.vec.length) && e.kind == r.op && e.ok && (r.op != 1 || !e.usesB || c.usesStream r.srcB) &&
  (if g1 then decide (1 ≤ e.tpb) && decide (e.tpb ≤ 4095) else e.tpb == 0 && e.rowblk0 == 0) &&
  ds.all p.isTensor &&
  (if r.op ≤ 3 then (t 0).g == 0 && !(t 0).slotEn else true) &&
  (match r.op with
   | 1 => whole (if e.usesB then [wa, p.tw (r.desc + 2), wo] else [wa, wo]) wa
   | 2 => r.count == (t 1).stored.t0 (t 1).innerT && whole [wa, wo] wa &&
      (e.const 1).code32 == (fdiv .one (.ofInt (((t 1).stored.view (t 1).innerT).getD 0 1))).code32
   | 3 => e.flags / 4 % 2 == 0 || r.count == (t 1).stored.t0 (t 1).innerT
   | 4 => whole ((List.range 7).map (fun k => p.tw (r.desc + k))) (p.tw (r.desc + 3))
   | _ => whole [wa, wo] wa)

/-- Whether a VEC firing of the plan names an entry of the VEC constant table. -/
def Plan.namesVec (p : Plan) (k : Nat) : Bool :=
  p.cores.any (fun c => c.2.firings.any (fun r => Rec.station r == 7 && Rec.param r == k))

/-- 0x001B. DEDUCED (log 69). -/
def checkVec (img : List Byte) (p : Plan) : List Bad :=
  p.cores.flatMap (fun c =>
    need (c.2.firings.all (fun r => Rec.station r != 7 || p.vecOk c.2 r)) 0x1B (secOf img 1 c.1 0x1B)) ++
  need (p.vec.zipIdx.all (fun e => p.namesVec e.2 || VecEnt.ok e.1)) 0x1B (modSec img 12 0x1B)

/-- The checks of this file together. DESIGN CHOICE (log 66); DEDUCED (log 68). -/
def staticChecks (img : List Byte) (p : Plan) (m : MemSys) (f : Fab) : List Bad :=
  checkShape img p ++ checkReserved img p ++ checkRecords img p ++ checkStreams img p ++ checkElastic img p ++
  checkScales img p ++ checkRegions img p m (1024 * f.herd.toNat + f.member.toNat) ++ checkDescs p ++ checkDrains img p ++
  checkMerge img p ++ checkAttend img p ++ checkPolicy img p ++ checkRoutes img p f ++ checkCommits img p ++
  checkCaps img p ++ checkVec img p

end Sys2Proof.Machine
end

