-- ==== Sys2Proof/Machine/VerifyTime.lean ====
section
/-!
DEFINITION. Plan verification (R92), the checks that work in plan time or over memory: station free times and the order
of tally reads (0x000B), streams (0x000C), extents and permissions (0x0011), the channels' budget and refresh windows
(0x0012), bank clashes (0x0013), and what a step's firings may read and write (0x0019).
-/

namespace Sys2Proof.Machine

/-! ### Rates and places (R266 to R268, R357, R359) -/

/-- The banks of a slot (R356). -/
def CorePlan.slotBanks (c : CorePlan) (s k : Nat) : List Nat :=
  let r := c.slotRange s k
  ((List.range ((r.2 - r.1) / 64)).map (fun i => lsBank (r.1 + 64 * i))).dedup

/-! ### The timed work of a core -/

/-- One tile's use of a stream slot: the stream, the slot's number in order, whether the tile is written, the station and
the firing, for a timed firing the clk from which the slot is used and the clk from which it is full, or empty again, and the
clk over which its bytes move. -/
structure Use where
  stream : Nat
  pos : Nat
  write : Bool
  station : Nat
  idx : Nat
  start : Option Nat
  fin : Option Nat
  moves : Nat := 0
  deriving DecidableEq, Repr

/-- A read of a tally row, or the clk between which a firing's partials reach it. -/
structure TallyUse where
  read : Bool
  key : Nat
  idx : Nat
  lo : Nat
  hi : Nat
  deriving DecidableEq, Repr

/-- What a core's firings down to one of them do in plan time: when each station is free of its timed firings (none: not known
before the run), the clk after GRID's last row slot, the tiles' uses, the streams whose tiles the data number, the tally uses, and whether a
firing came too early. -/
structure Sched where
  free : SMap (Option Nat) := []
  gridNext : Option Nat := some 0
  uses : List Use := []
  open_ : List Nat := []
  tally : List TallyUse := []
  early : Bool := false
  deriving DecidableEq, Repr

/-- Tiles that a stream's writer, or its reader, has used so far. -/
def Sched.count (s : Sched) (stream : Nat) (write : Bool) : Nat :=
  (s.uses.filter (fun u => u.stream = stream ∧ u.write = write)).length

/-- A tile's use added. -/
def Sched.use (s : Sched) (r : Rec) (idx stream : Nat) (write : Bool) (start fin : Option Nat) (moves : Nat := 0) : Sched :=
  { s with uses := s.uses ++ [⟨stream, s.count stream write, write, r.station, idx, start, fin, moves⟩] }

/-- Uses of `n` tiles at times that the data, or the run, decide. -/
def Sched.useAny (s : Sched) (r : Rec) (idx stream : Nat) (write : Bool) (n : Nat) : Sched :=
  (List.range n).foldl (fun s _ => s.use r idx stream write none none) s

/-- The clk that the slots of a core's streams add, after the uses so far (R359). -/
def Sched.lags (s : Sched) (c : CorePlan) : Lags := fun wr st j => c.slotLag st (s.count st wr + j)

/-- Nanoseconds, given in hundredths, as clk rounded up. -/
def Plan.nsClk (p : Plan) (ns100 : Nat) : Nat := if p.clockSel = 0 then ceilDiv (ns100 * 9) 500 else ceilDiv (ns100 * 3) 200

/-- Hundredths of a nanosecond that one stage of a collective takes (R783), rounded up. `cuts` members share the
contribution already. -/
def Plan.stageTime (p : Plan) (f : Fab) (x : CollEnt) (r : Rec) (s : CollStage) : Nat :=
  match s.dim with
  | none => 0
  | some k =>
    let n := x.n k
    let held := ((x.dims.take s.cuts).map (fun d => x.n d)).foldl (fun u d => ceilDiv u d) r.count
    let units := ceilDiv (if s.bcast then r.count else ceilDiv held n) 2
    let ports := max 1 (min (f.bondMembers (2 * k)).length (f.bondMembers (2 * k + 1)).length)
    let lat := if f.bondCabled (2 * k) || f.bondCabled (2 * k + 1) then 400 else 200
    (n - 1) * (ceilDiv (units * p.unitBytes x r) ports + 100 * (x.stride k * lat + (x.stride k - 1) * 20 + 40))

/-- Clk that a timed COLLECTIVE takes (R783, R784). DEDUCED (log 70). -/
def Plan.collTime (p : Plan) (f : Fab) (x : CollEnt) (r : Rec) : Nat :=
  p.nsClk ((x.stages.map (p.stageTime f x r)).sum)

/-- A timed firing before its station is free is early (R22, R24); an elastic one leaves the free clk of the timed ones. -/
def Sched.occupy (s : Sched) (station : Nat) (t free : Option Nat) : Sched :=
  match t with
  | none => s
  | some t =>
    let early := match mget s.free (some 0) station with
      | some f => decide (t < f)
      | none => false
    { s with free := mset s.free (some 0) station free, early := s.early || early }

/-- A firing's times in the timed work: its station is free when they say, its uses, of an elastic firing at times not known. -/
def Sched.enter (s : Sched) (r : Rec) (idx : Nat) (t : Option Nat) (x : Times) : Sched :=
  let after (k : Nat) : Option Nat := t.map (· + k)
  x.uses.foldl (fun s u => s.use r idx u.stream u.write (after u.start) (after u.fin) u.moves)
    (s.occupy r.station t (x.free.bind after))

/-- The tally rows of arrays, as reads or as partials of a firing. DEDUCED (log 70). -/
def Sched.rows (s : Sched) (read : Bool) (arrs : List Nat) (n idx : Nat) (at_ : Nat → Nat × Nat) : Sched :=
  { s with tally := s.tally ++ (List.range n).flatMap (fun m => arrs.map (fun a => ⟨read, rowKey a m, idx, (at_ m).1, (at_ m).2⟩)) }

/-- The times of a SEND by its route slot: a collective frees its station no earlier than it is over (R765, R784). -/
def Plan.sendPlot (p : Plan) (f : Fab) (c : CorePlan) (idx : Nat) (r : Rec) (lag : Lags) : Times :=
  match p.routeSlot c idx r with
  | none => {}
  | some y =>
    let q := p.sendRate (slotPorts y.2)
    match p.collOf c idx r with
    | some e =>
      if e.op = 4 then {}
      else
        let x := sendTimes r (8 + p.unitBytes e r) q lag
        { x with free := x.free.map (max · (p.collTime f e r)) }
    | none => sendTimes r (8 + (p.tensor r.desc).slotUse) q lag

/-- The times of a PASS in plan time, and the clk at which its rows begin and end (R388, R391, R444). -/
def Plan.passPlot (p : Plan) (c : CorePlan) (s : Sched) (r : Rec) (t : Nat) : Times × Nat × Nat :=
  let sh := p.shape r
  let lag := s.lags c
  let wl := lag.most r.srcB (if sh.keep then 0 else sh.arrays.length)
  let start := max (t + (if sh.keep then 0 else 64 + wl)) (s.gridNext.getD 0) + lag.most r.srcA (p.passTiles r)
  (p.passTimes r r.count t 0 wl start, start, start + clkPerRow (p.tensor r.desc) * r.count)

/-- One firing's part of its core's timed work. A timed RECV's tiles land no earlier than it is timed; when, the fabric decides. -/
def Plan.plot (p : Plan) (f : Fab) (c : CorePlan) (s : Sched) (x : Rec × Nat) : Sched :=
  let r := x.1
  let idx := x.2
  let t := p.clk r
  let lag := s.lags c
  match r.station with
  | 0 => s.enter r idx t (p.loadTimes r lag)
  | 1 => s.enter r idx t (p.storeTimes r lag)
  | 2 =>
    match r.op with
    | 1 => s.useAny r idx r.dst true
        (((p.items r.param).map (fun i => MItem.rows i * (if (p.tensor (MItem.descA i)).twoFour then 2 else 1))).sum)
    | 2 => { s.useAny r idx r.srcB false (mergeKeeps p r) with
        open_ := r.dst :: (p.items r.param).map (fun i => MItem.out i) ++ s.open_ }
    | 4 => s.useAny r idx r.srcB false (mergeKeeps p r)
    | _ => s
  | 3 =>
    if r.count = 0 then { s with open_ := r.srcA :: (if (p.shape r).keep then [] else [r.srcB]) ++ s.open_ }
    else
      match t with
      | none => s.enter r idx none (p.passTimes r r.count 0 0 0 0)
      | some t0 =>
        let y := p.passPlot c s r t0
        let z := { s.enter r idx t y.1 with gridNext := some y.2.2 }
        let at_ (m : Nat) : Nat := y.2.1 + clkPerRow (p.tensor r.desc) * m + 8
        z.rows false (p.shape r).arrays r.count idx (fun m => (at_ m, at_ m))
  | 4 =>
    let y := p.sweepTimes r lag
    let s := s.enter r idx t y
    match t with
    | some t => s.rows false (p.arraysOf r) r.count idx (fun _ => (t + 520, t + y.ends))
    | none => s
  | 5 =>
    let arrs := tallyArrays r
    if r.op = 2 then s.enter r idx t { free := some 1 }
    else
      let s := s.enter r idx t (drainTimes r (if r.op = 3 then 2 * arrs.length else p.drainTiles r) 0 lag)
      match t with
      | some t => s.rows true arrs r.count idx (fun m => (t + m, t + m))
      | none => s
  | 6 => { s with open_ := r.srcA :: s.open_ }
  | 7 => s.enter r idx t (p.vecTimes r lag (p.vecActs r))
  | 8 => s.enter r idx t (p.sendPlot f c idx r (s.lags c))
  | 9 => (List.range r.count).foldl (fun s _ => s.use r idx r.dst true none t) s
  | _ => s

/-- A core's timed work. DEDUCED (log 70). -/
def Plan.sched (p : Plan) (f : Fab) (c : CorePlan) : Sched := c.firings.zipIdx.foldl (p.plot f c) {}

/-! ### 0x000B, 0x000C, 0x0013 -/

/-- R443, R444: partials of an earlier firing come before a row's read, those of a later one after it, and no two firings'
partials meet in one clk. DEDUCED (log 85). -/
def tallyPairOk (a b : TallyUse) : Bool :=
  a.key != b.key || a.idx == b.idx || (a.read && b.read) ||
  (if a.read then (if b.idx < a.idx then decide (b.hi < a.lo) else decide (a.hi < b.lo))
   else if b.read then (if a.idx < b.idx then decide (a.hi < b.lo) else decide (b.hi < a.lo))
   else decide (a.hi < b.lo) || decide (b.hi < a.lo))

/-- 0x000B of a core. -/
def Sched.freeOk (s : Sched) : Bool := !s.early && decide (s.tally.Pairwise (fun a b => tallyPairOk a b = true))

/-- One stream of a core: its station codes, its balance, and the times of its slots (R45, R60, R61, R65, R92). -/
def Sched.streamOk (s : Sched) (c : CorePlan) (st : Nat) : Bool :=
  let m : Stm := c.streams.getD st 0
  let ws := s.uses.filter (fun u => u.stream = st ∧ u.write = true)
  let rs := s.uses.filter (fun u => u.stream = st ∧ u.write = false)
  let before (x y : Option Nat) : Bool := match x, y with
    | some a, some b => decide (a ≤ b)
    | _, _ => true
  ws.all (fun u => u.station == Stm.producer m) && rs.all (fun u => u.station == Stm.consumer m) &&
  (decide (st ∈ s.open_) ||
   (ws.length == rs.length &&
    (List.range rs.length).all (fun i =>
      let w := ws.getD i ⟨0, 0, true, 0, 0, none, none, 0⟩
      let r := rs.getD i ⟨0, 0, false, 0, 0, none, none, 0⟩
      before w.fin r.start &&
      (decide (i < Stm.slots m) || before (rs.getD (i - Stm.slots m) ⟨0, 0, false, 0, 0, none, none, 0⟩).fin w.start))))

/-- The bank accesses of a timed use of a slot (R361, R363, R364). DEDUCED (log 67). -/
def CorePlan.bankUses (c : CorePlan) (u : Use) : List (Nat × Nat) :=
  match u.start, u.fin with
  | some a, some b => let r := c.slotRange u.stream u.pos
                      bankUse r.1 r.2 (if u.write then b - u.moves else a) u.moves
  | _, _ => []

/-- R362: no two timed firings of a core reach one bank in one clk. DEDUCED (log 67). -/
def Sched.banksOk (s : Sched) (c : CorePlan) : Bool :=
  s.uses.all (fun a => s.uses.all (fun b =>
    match a.start, a.fin, b.start, b.fin with
    | some a0, some a1, some b0, some b1 =>
      !(decide (a.idx < b.idx) && decide (a0 < b1) && decide (b0 < a1) &&
        (c.slotBanks a.stream a.pos).any (fun k => decide (k ∈ c.slotBanks b.stream b.pos)) &&
        (let ys := c.bankUses b
         (c.bankUses a).any (fun x => decide (x ∈ ys))))
    | _, _, _, _ => true))

/-- 0x000B, 0x000C and 0x0013. DEDUCED (log 70, 85). -/
def checkTimes (img : List Byte) (p : Plan) (f : Fab) : List Bad :=
  p.cores.flatMap (fun c =>
    let s := p.sched f c.2
    need s.freeOk 0x0B (secOf img 1 c.1 0x0B) ++
    need ((List.range 64).all (s.streamOk c.2)) 0x0C (secOf img 1 c.1 0x0C) ++
    need (s.banksOk c.2) 0x13 (secOf img 1 c.1 0x13))

/-! ### 0x0012: channels (R308, R316 to R322) -/

/-- A byte that a tile touches: its address, its place in the stream tile, its element's place in the order of R253, and its
row of the access, one more for the areas beside the data. -/
structure Touch where
  addr : Nat
  place : Nat
  order : Nat
  row : Nat
  deriving DecidableEq, Repr

/-- Where the bytes of a tile stand in the stream that moves them: in a stream tile, its places out of bounds counted (R268); in
the two dense stream tiles of a packed one, each group of four with its last position, when the packer has it (R540, R549); in a
SWEEP's stream, which holds nothing that is out of bounds (R455). -/
inductive Laid where
  | slot | packed | tight
  deriving DecidableEq, Repr

/-- The place of byte `o` of row `m`, column `j`, of a tile, and the column's place in the order of R253. DEDUCED (log 70). -/
def Laid.at (l : Laid) (x : TileFmt) (cols m j o : Nat) : Nat × Nat :=
  let half := if x.g ≠ 0 ∧ 32 ≤ m then x.area else 0
  match l with
  | .slot => (m * x.rowBytes + j * x.fmt.bits / 8 + o + half, m * x.width + j)
  | .tight => (m * ceilDiv (cols * x.fmt.bits) 8 + j * x.fmt.bits / 8 + o + half, m * x.width + j)
  | .packed =>
    let c := 4 * (j / 2) + 3
    let q := c / x.width
    (q * x.bytes + m * x.rowBytes + c % x.width * x.fmt.bits / 8 + o + half, q * 64 * x.width + m * x.width + c % x.width)

/-- The data, scale and zero-point bytes that a tile touches. -/
def Tensor.touches (t : Tensor) (tr : Bool) (i : Nat) (l : Laid) : List Touch :=
  let y := t.stored
  let x := y.tf
  let ins := y.inside tr i
  (List.range 64).flatMap (fun m => (List.range x.width).flatMap (fun j =>
    match y.tileElem tr i m j with
    | none => []
    | some e =>
      let p (o : Nat) := l.at x ins.2 m j o
      let data := (List.range (max 1 (x.fmt.bits / 8))).map (fun k =>
        (⟨y.addr e + k, (p k).1, (p k).2, if tr then j else m⟩ : Touch))
      let sc := if x.g ≠ 0 ∧ j % x.g = 0 then
          let sa := y.scaleAddr e
          let at_ := match l with
            | .slot => if m < 32 then 2048 else 4096 + x.area
            | .tight => if m < 32 then min 32 ins.1 * x.rowBytes else ins.1 * x.rowBytes + x.area
            | .packed => (p 0).1
          ⟨sa.1, at_, (p 0).2, 128⟩ :: (if x.fmt.zp then [⟨sa.2, at_, (p 0).2, 128⟩] else [])
        else []
      data ++ sc))

/-- The bytes of runs of addresses, which move when the tile's place `o` does. -/
def touchRuns (rs : List (Nat × Nat)) (o order row : Nat) : List Touch :=
  rs.flatMap (fun r => (List.range r.2).map (fun k => ⟨r.1 + k, o, order, row⟩))

/-- The bytes of a tile's position codes and of its side data. -/
def Plan.moreTouches (p : Plan) (t : Tensor) (tr : Bool) (i : Nat) (weight codes : Bool) (l : Laid) : List Touch :=
  let x := t.stored.tf
  let n := match l with
    | .slot => x.bytes
    | .packed => 2 * x.bytes - 1
    | .tight => let ins := t.stored.inside tr i
                ins.1 * ceilDiv (ins.2 * x.fmt.bits) 8 + x.area * (if 32 < ins.1 then 2 else 1)
  let last := (if l = .packed then 2 else 1) * 64 * x.width - 1
  (if codes ∧ t.twoFour then touchRuns (t.codeAddrs (p.sparseMeta t).base tr i) n last 128 else []) ++
  (if t.outlier then touchRuns ((p.side t).addrs t tr i weight) (if l = .slot then n + t.codeBytes else n) last 129 else [])

/-- A scheduled access: its channel's global number, the clk at which it reaches the channel, the bytes that it counts, and
the core. -/
structure ChanAcc where
  channel : Nat
  clk : Nat
  bytes : Nat
  core : Nat
  deriving DecidableEq, Repr

/-- The accesses of one tile of a timed firing (R308, R317): a line that it reads counts once; each row of a write, and each
element of a narrow one, is a write of its own to every line that it touches, of a line that it covers in part a read and a write.
A line reaches its channel in every clk in which a byte of it does. `clkOf` gives the clk of a byte by its place.
DEDUCED (log 70). -/
def Plan.lineAccs (p : Plan) (m : MemSys) (core : Nat) (write narrow : Bool) (ts : List Touch) (clkOf : Touch → Nat) :
    List ChanAcc :=
  let key (x : Touch) : Nat × Nat := (x.addr / 64, if write then (if narrow then x.order else x.row) else 0)
  ((ts.map key).dedup).flatMap (fun l =>
    let here := ts.filter (fun x => key x = l)
    match p.region? (64 * l.1) with
    | none => []
    | some (_, g) =>
      if Reg.target g ≠ 0 then []
      else
        let pl := m.place (Reg.target! g (64 * l.1))
        let n := if write && (narrow || decide ((here.map (·.addr)).dedup.length < 64)) then 128 else 64
        let clks := (here.map clkOf).dedup
        let first := clks.foldl min (clks.headD 0)
        clks.map (fun t => ⟨32 * pl.stack + pl.channel, t + 64, if t = first then n else 0, core⟩))

/-- The lag of the `j`-th tile that a firing reads (R359). -/
def Sched.readLag (s : Sched) (c : CorePlan) (idx j : Nat) : Nat :=
  (((s.uses.filter (fun u => u.idx = idx ∧ u.write = false))[j]?).map (fun u => c.slotLag u.stream u.pos)).getD 0

/-- The lag of a STORE's `j`-th view tile: that of the stream tile, or tiles, that it is formed from. -/
def Sched.storeLag (s : Sched) (c : CorePlan) (idx : Nat) (two : Bool) (j : Nat) : Nat :=
  if two then max (s.readLag c idx (2 * j)) (s.readLag c idx (2 * j + 1)) else s.readLag c idx j

/-- The clk from issue at which a byte of a STORE's or LOAD's `j`-th tile moves, at `rate` bytes or, with none, one element a clk
(R266 to R268). -/
def Tensor.moveClk (d : Tensor) (packs : Bool) (rate : Option Nat) (j : Nat) (x : Touch) : Nat :=
  match rate with
  | some q => (j * (if packs then 2 * (d.tf.bytes + d.sideBytes) else d.slotUse) + x.place) / q
  | none => j * 64 * d.fmt.tileWidth * (if packs then 2 else 1) + x.order

/-- The HBM accesses of a timed firing; what a STORE reads from a slot reaches its channel later by the slot's lag (R359), and the
codes that a packing STORE follows are read beside what it writes (R548). `lag` is that of its tiles. -/
def Plan.chanAccs (p : Plan) (m : MemSys) (core : Nat) (c : CorePlan) (r : Rec) (lag : Nat → Nat) : List ChanAcc :=
  let d := p.tensor r.desc
  match p.clk r with
  | none => []
  | some t0 =>
    let tr : Bool := (r.station == 0 && r.op == 2) || d.innerT
    let rate := d.stored.rate tr r.param r.count
    let narrow : Bool := rate.isNone
    match r.station with
    | 0 =>
      (List.range r.count).flatMap (fun j =>
        p.lineAccs m core false narrow
          (d.touches tr (r.param + j) .slot ++ p.moreTouches d tr (r.param + j) (c.weightStream r.dst) true .slot)
          (fun x => t0 + d.moveClk false rate j x))
    | 1 =>
      let l : Laid := if d.twoFour then .packed else .slot
      let follow : Bool := d.twoFour && r.srcA != r.srcB
      (List.range r.count).flatMap (fun j =>
        p.lineAccs m core true narrow
          (d.touches d.innerT (r.param + j) l ++ p.moreTouches d d.innerT (r.param + j) false (!follow) l)
          (fun x => t0 + lag j + d.moveClk d.twoFour rate j x) ++
        (if follow then p.lineAccs m core false false
            (touchRuns (d.codeAddrs (p.sparseMeta d).base d.innerT (r.param + j)) 0 0 128)
              (fun x => t0 + lag j + d.moveClk true rate j x)
         else []))
    | 4 =>
      let y := { d with outlier := false }
      (List.range (d.stored.t0 false * d.stored.t1 false)).flatMap (fun i =>
        p.lineAccs m core false false (y.touches false i .tight ++ p.moreTouches y false i true true .tight)
          (fun x => t0 + (y.sweepAhead i + x.place) / p.sweepRate))
    | _ => []

/-- 0x0012. DEDUCED (log 70). -/
def checkChannels (img : List Byte) (p : Plan) (m : MemSys) (f : Fab) : List Bad :=
  let accs := p.cores.flatMap (fun c =>
    let s := p.sched f c.2
    c.2.firings.zipIdx.flatMap (fun x => p.chanAccs m c.1 c.2 x.1 (s.storeLag c.2 x.2 (p.tensor (Rec.desc x.1)).twoFour)))
  let budget := if p.clockSel = 0 then 3328 else 3968
  ((accs.map (·.channel)).dedup).flatMap (fun ch =>
    let here := accs.filter (fun a => a.channel = ch)
    here.flatMap (fun a =>
      need ((refreshEnd p.tickClk (p.clockSel ≠ 0) (ch / 32) (a.clk % p.tickClk)).isNone &&
        decide (((here.filter (fun b => a.clk ≤ b.clk ∧ b.clk < a.clk + 64)).map (·.bytes)).sum ≤ budget))
        0x12 (secOf img 1 a.core 0x12)))

/-! ### What firings read and write: 0x0011, 0x0019 (R208, R300, R656, R904, R1094) -/

/-- Whether bytes from an address lie in valid entries of allowed targets with a permission (R299, R300). -/
def Plan.covers (p : Plan) (wr : Bool) (targets : List Nat) : Nat → Nat → Nat → Bool
  | 0, a, e => decide (e ≤ a)
  | k + 1, a, e =>
    decide (e ≤ a) ||
    (match p.region? a with
     | none => false
     | some (_, g) => (if wr then Reg.write g else Reg.read g) && decide (Reg.target g ∈ targets) &&
        p.covers wr targets k (Reg.vbase g + Reg.size g) e)

/-- An extent: its start, its length, whether it is written, and the targets that may hold it. -/
abbrev Need := Nat × Nat × Bool × List Nat

/-- Any target. -/
def anyTarget : List Nat := [0, 1, 2]

/-- The extents of a descriptor and of the extensions that its flags use (R246, R287, R288, R300); `codes` says whether the
position codes are written. -/
def Plan.extentsOf (p : Plan) (i : Nat) (wr weight : Bool) (codes : Bool := wr) : List Need :=
  let t := p.tensor i
  let x := p.sparseMeta t
  let s := p.side t
  let rows := t.outputs
  (t.base, t.stored.extent, wr, anyTarget) ::
  ((if t.sparse ≠ 0 then [(x.base, x.bytes, codes, anyTarget)] else []) ++
   (if t.sparse = 3 then [(x.rowidx, 16 * rows, wr, anyTarget)] else []) ++
   (if t.outlier then [(s.list, 16 * s.windows, false, anyTarget),
      (if weight then (s.wside, 16 * s.windows * rows, wr, anyTarget) else (s.side, 16 * s.windows * rows, wr, anyTarget))] else []))

/-- The extents that an ATTEND item needs. -/
def Plan.attExtents (p : Plan) (back : Bool) (x : AItem) : List Need :=
  let d (i : Nat) (wr : Bool) := p.extentsOf i wr false
  d x.q false ++ (if x.paged then [] else d x.kv false ++ d (x.kv + 1) false) ++
  (if bit x 150 then [(x.bsBase, ceilDiv x.bsBits 8, false, anyTarget)] else []) ++
  (if back then d x.out false ++ d x.o false ++ d x.stat false ++ d x.grad true ++ (if x.part1 then d (x.grad + 1) true else [])
   else d x.out true ++ d x.stat true ++ (if x.mass then [(x.massBase, 1, true, anyTarget)] else []))

/-- The extents that a firing needs. -/
def Plan.recExtents (p : Plan) (f : Fab) (c : CorePlan) (idx : Nat) (r : Rec) : List Need :=
  match r.station with
  | 0 => p.extentsOf r.desc false (c.weightStream r.dst)
  | 1 => p.extentsOf r.desc true false (r.srcA == r.srcB)
  | 2 => (p.items r.param).flatMap (fun i => p.extentsOf (MItem.descA i) false false ++
      (if r.op = 3 then p.extentsOf (MItem.descB i) false false else []))
  | 4 => p.extentsOf r.desc false true
  | 5 => if r.op = 1 ∧ (p.tensor r.desc).outlier then
      [((p.side (p.tensor r.desc)).list, 16 * (p.side (p.tensor r.desc)).windows, false, anyTarget)] else []
  | 6 => (p.items r.param).flatMap (fun x => p.attExtents (r.op == 2) x)
  | 8 => match p.collOf c idx r with
    | none => []
    | some e =>
      (if e.op = 4 then p.extentsOf r.desc false false ++ p.extentsOf r.desc true false ++
        [(e.swapBase, chunkBytes, false, [0]), (e.swapBase, chunkBytes, true, [0]),
         (e.mapBase, 2 * (e.group f f.member.toNat).length, false, anyTarget)] else []) ++
      (if e.hstage then [(e.mapBase, e.herds, false, anyTarget)] else [])
  | _ => []

/-- The extents that the tables need: statistics (R208) and the Cumulus areas (R656, R678). -/
def Plan.tableExtents (p : Plan) : List (Nat × Need) :=
  (match p.scales with
   | some t => [(8, (t.statBase.toNat, 64 * t.slots.length, true, anyTarget))]
   | none => []) ++
  (match p.policy with
   | none => []
   | some c =>
     let both (a n : Nat) (ts : List Nat) : List (Nat × Need) := [(10, (a, n, false, ts)), (10, (a, n, true, ts))]
     both (c.pool 0) (c.poolPages * c.pageBytes) [0] ++ both c.metaBase (2 ^ 22 + 2 ^ 24 * c.layers) [0] ++
     both c.tblkBase (4096 * c.tblkCount) [0] ++ both c.stallBase (8 * c.rows) [0] ++
     c.tierAreas.flatMap (fun a => both a.1 (a.2 * c.pageBytes) [1, 2]) ++
     c.appends.flatMap (fun e => ((p.extentsOf (appendEnt e).kdesc false false) ++
       (p.extentsOf (appendEnt e).vdesc false false)).map (fun n => (10, n))))

/-- 0x0011. DEDUCED (log 70). -/
def checkExtents (img : List Byte) (p : Plan) (f : Fab) : List Bad :=
  let ok (n : Need) : Bool := p.covers n.2.2.1 n.2.2.2 (p.regions.length + 1) n.1 (n.1 + n.2.1)
  p.cores.flatMap (fun c =>
    need (c.2.firings.zipIdx.all (fun x => (p.recExtents f c.2 x.2 x.1).all ok)) 0x11 (secOf img 1 c.1 0x11)) ++
  p.tableExtents.flatMap (fun n => need (ok n.2) 0x11 (modSec img n.1 0x11))

/-- The bytes of an extent. -/
def bytesOf (n : Need) : List Nat := (List.range n.2.1).map (n.1 + ·)

/-- The bytes that a firing writes in HBM, each with the clk from which the write counts as visible (R24, R276, R1094). -/
def Plan.recWrites (p : Plan) (f : Fab) (c : CorePlan) (s : Sched) (idx : Nat) (r : Rec) : List (Nat × Nat) :=
  let d := p.tensor r.desc
  let o := p.opens c idx r
  match r.station with
  | 1 =>
    let l : Laid := if d.twoFour then .packed else .slot
    let rate := d.stored.rate d.innerT r.param r.count
    (List.range r.count).flatMap (fun j =>
      (d.touches d.innerT (r.param + j) l ++ p.moreTouches d d.innerT (r.param + j) false (r.srcA == r.srcB) l).map (fun x =>
        (x.addr,
          if r.mode = 0 then
            o.1 + s.storeLag c idx d.twoFour j + d.moveClk d.twoFour rate j x + 512 + (if d.innerT then ceilDiv (d.tf.bytes + d.sideBytes) 128 else 0)
          else o.2 + 512)))
  | 6 => ((p.recExtents f c idx r).filter (·.2.2.1)).flatMap (fun n => (bytesOf n).map (fun a => (a, o.2 + 512)))
  | 8 => ((p.recExtents f c idx r).filter (·.2.2.1)).flatMap (fun n => (bytesOf n).map (fun a => (a, o.2 + 512)))
  | _ => []

/-- The bytes that a firing reads in HBM. -/
def Plan.recReads (p : Plan) (f : Fab) (c : CorePlan) (idx : Nat) (r : Rec) : List Nat :=
  if r.station = 0 then
    let d := p.tensor r.desc
    let tr : Bool := r.op == 2 || d.innerT
    (List.range r.count).flatMap (fun j =>
      (d.touches tr (r.param + j) .slot ++ p.moreTouches d tr (r.param + j) (c.weightStream r.dst) true .slot).map (·.addr))
  else ((p.recExtents f c idx r).filter (fun n => !n.2.2.1)).flatMap bytesOf

/-- The regions that a step may write: write versions, opted-out regions and scratch regions (R904). -/
def Plan.writable (p : Plan) : List Nat := p.commits.map (fun e => let f := commitFields e
  if f.2.2 = 0 then f.2.1 else f.1)

/-- The write versions. -/
def Plan.versions (p : Plan) : List Nat := p.commits.filterMap (fun e => let f := commitFields e
  if f.2.2 = 0 then some f.2.1 else none)

/-- 0x0019: what the firings write, and what they read of a write version (R904, R1094). -/
def checkVersions (img : List Byte) (p : Plan) (f : Fab) : List Bad :=
  let region (a : Nat) : Option Nat := (p.region? a).map (·.1)
  let writes := p.cores.flatMap (fun c =>
    let s := p.sched f c.2
    c.2.firings.zipIdx.flatMap (fun x => p.recWrites f c.2 s x.2 x.1))
  p.cores.flatMap (fun c =>
    let s := p.sched f c.2
    need (c.2.firings.zipIdx.all (fun x =>
      (p.recWrites f c.2 s x.2 x.1).all (fun y => match region y.1 with
        | some k => decide (k ∈ p.writable)
        | none => true) &&
      (p.recReads f c.2 x.2 x.1).all (fun a => match region a with
        | some k => decide (k ∉ p.versions) || writes.any (fun y => decide (y.1 = a) && decide (y.2 ≤ (p.opens c.2 x.2 x.1).1))
        | none => true))) 0x19 (secOf img 1 c.1 0x19))

/-! ### The whole of it -/

/-- The checks after the header. DESIGN CHOICE (log 66); DEDUCED (log 68). -/
def bodyChecks (img : List Byte) (p : Plan) (m : MemSys) (f : Fab) : List Bad :=
  staticChecks img p m f ++ checkTimes img p f ++ checkExtents img p f ++ checkChannels img p m f ++ checkVersions img p f

end Sys2Proof.Machine
end

