-- ==== Sys2Proof/Machine/Load.lean ====
section
/-!
DEFINITION. PLAN_LOAD's end: the checks of the header, the whole of R92, and what a verified or refused plan leaves
(R50, R93, R212, R295, R659, R859, R1031).
-/

namespace Sys2Proof.Machine

/-- R1031: a signature that is present verifies under the installed key that carries KEY_ID; without one OWNER_REQUIRE is 0.
PRESUMED (log 138). -/
def Sec.planSigned (x : Sec) (img : List Byte) : Bool :=
  if leAt img 0x0B 1 % 2 = 1 then
    ((List.range 4).filterMap (fun k => mget x.keys none k)).any (fun k =>
      k.keyId.toNat == leAt img 0xD0 8 && sigOk (k.x, k.y) ((img.drop 0x40).take 48) ((img.drop 0x70).take 96))
  else !x.ownerRequire

/-- 0x0001, which comes before the digest. -/
def magicOk (img : List Byte) (declared : Nat) : Bool :=
  leAt img 0 4 == 0x4C505841 && leAt img 6 2 == 256 && leAt img 0x10 8 == declared

/-- A check of the header, which belongs to no section. -/
def needHead (ok : Bool) (reason : Nat) : List Bad := need ok reason (Config.freeSection reason).toNat

/-- 0x0002 to 0x0007. -/
def State.headChecks (s : State) (img : List Byte) (p : Plan) : List Bad :=
  needHead (leAt img 4 2 == 0x0100) 2 ++
  needHead (sha384 (img.take 0x40 ++ img.drop 0x100) == (img.drop 0x40).take 48) 3 ++
  needHead (s.sec.planSigned img) 4 ++
  needHead (p.cls == s.w.rel.cls && p.cls != 0) 5 ++
  needHead (p.clockSel == b2n s.pwr.clockSel && p.tickClk == s.w.period) 6 ++
  needHead (p.herdSize == s.fab.herdSize && p.moduleIndex == s.fab.member.toNat) 7

/-- Every check of R92 that a plan image fails. DESIGN CHOICE (log 66). -/
def State.planFaults (s : State) (img : List Byte) (declared : Nat) : List Bad :=
  if magicOk img declared then s.headChecks img (parsePlan img) ++ bodyChecks img (parsePlan img) s.w.mem s.fab
  else needHead false 1

/-- The failing check that a refusal reports. DESIGN CHOICE (log 66). -/
def pickBad (bs : List Bad) : Option Bad := bs[Config.freePick bs % bs.length]?

/-- The status of a reason code (R92, R211, R292, R300). -/
def reasonStatus : Nat → Nat
  | 0x03 => stAuthFail
  | 0x04 => stAuthFail
  | 0x10 => stBadDescriptor
  | 0x11 => stXlateFault
  | _ => stBadParam

/-- The local store tasks of a plan's cores: LS_TASK_BASE and LS_TASK_BOUND (R375). -/
def Plan.loadTasks (p : Plan) (k : Nat) (c : Core) : Core :=
  let ts := (p.core k).tasks
  let of (f : W64 → Nat) : SMap W64 := (List.range 16).foldl (fun m i => mset m 0 i (BitVec.ofNat 64 (f (ts.getD i 0)))) []
  { c with taskBase := of (fun t => bits t 10 0), taskBound := of (fun t => bits t 27 16) }

/-- The plan armed: its tables in force, its tasks and scales loaded, Cumulus's slots kept or closed, the count of steps
begun anew (R41, R212, R295, R375, R659, R879). An accepted step of the plan before it stays accepted.
DEDUCED (log 27). -/
def Work.arm (w : Work) (p : Plan) : Work :=
  let cores := (List.range p.cls).foldl (fun m k => mmod m {} k (p.loadTasks k)) w.cores
  let scales := match p.scales with
    | some t => w.scales.load t
    | none => w.scales
  let run := { w.run with begun := 0, commits := 0 }
  { w with plan := some p, cores := cores, scales := scales, run := run }.cumArm w.plan

/-- The end of a verification in JOINED or LOADED (R93, R859): a plan that passes every check is armed and the state is
LOADED; a plan that fails one changes nothing but the result slot. DEDUCED (log 64, 65). -/
def State.loadEnds (s : State) (j : LoadJob) : State :=
  match pickBad (s.planFaults j.image j.declared) with
  | some b => s.finish j.slot (reasonStatus b.1) (toLE 2 b.1 ++ toLE 2 b.2)
  | none => State.finish (State.enter { s with w := s.w.arm (parsePlan j.image) } .loaded .command) j.slot stOk (zeros 4)

/-- PLAN_LOAD_VERIFIED: the verification under way ends. In any other state than JOINED or LOADED the plan is not armed.
DEDUCED (log 64). -/
def execPlanLoadVerified (s : State) : Host.Outcome State Fault Refusal :=
  .next (match s.w.dev.load with
    | none => s
    | some j =>
      let s := { s with w := { s.w with dev.load := none } }
      if s.w.dev.state = .joined ∨ s.w.dev.state = .loaded then s.loadEnds j
      else s.finish j.slot stStateConflict (zeros 4))

end Sys2Proof.Machine
end

