-- ==== Sys2Proof/Machine/Dispatch.lean ====
section
/-!
DEFINITION. The meaning of every command: one direct call for each constructor of `Instr`, on a state whose queue is
what stands behind the command.
-/

namespace Sys2Proof.Machine

def exec (i : Instr) (s : State) : Host.Outcome State Fault Refusal :=
  match i with
  | .devNop ring => Sys2Proof.Machine.execDevNop ring s
  | .devInfo ring => Sys2Proof.Machine.execDevInfo ring s
  | .devReset ring obs => Sys2Proof.Machine.execDevReset ring obs s
  | .herdForm ring p => Sys2Proof.Machine.execHerdForm ring p s
  | .herdLeave ring => Sys2Proof.Machine.execHerdLeave ring s
  | .planLoad ring addr bytes space => Sys2Proof.Machine.execPlanLoad ring addr bytes space s
  | .planUnload ring => Sys2Proof.Machine.execPlanUnload ring s
  | .stepRun ring start => Sys2Proof.Machine.execStepRun ring start s
  | .stepHold ring => Sys2Proof.Machine.execStepHold ring s
  | .stepResume ring tick => Sys2Proof.Machine.execStepResume ring tick s
  | .scaleWrite ring slot first count addr => Sys2Proof.Machine.execScaleWrite ring slot first count addr s
  | .scaleRead ring slot first count addr => Sys2Proof.Machine.execScaleRead ring slot first count addr s
  | .memCopy ring src dst env => Sys2Proof.Machine.execMemCopy ring src dst env s
  | .sparsePack ring src dst ext env => Sys2Proof.Machine.execSparsePack ring src dst ext env s
  | .readResult ring slot addr => Sys2Proof.Machine.execReadResult ring slot addr s
  | .releaseResult ring slot => Sys2Proof.Machine.execReleaseResult ring slot s
  | .seqOpen ring slot evictEn budget sinkPages recentPages => Sys2Proof.Machine.execSeqOpen ring slot evictEn budget sinkPages recentPages s
  | .seqClose ring slot => Sys2Proof.Machine.execSeqClose ring slot s
  | .seqTruncate ring slot count => Sys2Proof.Machine.execSeqTruncate ring slot count s
  | .seqInfo ring slot layer => Sys2Proof.Machine.execSeqInfo ring slot layer s
  | .batchSubmit ring addr bytes => Sys2Proof.Machine.execBatchSubmit ring addr bytes s
  | .hbmScrub ring m env => Sys2Proof.Machine.execHbmScrub ring m env s
  | .lsScrub ring m env => Sys2Proof.Machine.execLsScrub ring m env s
  | .arrayCheck ring m found => Sys2Proof.Machine.execArrayCheck ring m found s
  | .rowRemap ring m env => Sys2Proof.Machine.execRowRemap ring m env s
  | .channelRetire ring m => Sys2Proof.Machine.execChannelRetire ring m s
  | .spareBank ring m => Sys2Proof.Machine.execSpareBank ring m s
  | .spareArrayLine ring m => Sys2Proof.Machine.execSpareArrayLine ring m s
  | .spareCore ring m => Sys2Proof.Machine.execSpareCore ring m s
  | .spareLane ring m => Sys2Proof.Machine.execSpareLane ring m s
  | .sparePort ring m => Sys2Proof.Machine.execSparePort ring m s
  | .fwStage ring m => Sys2Proof.Machine.execFwStage ring m s
  | .maintQuery ring slot ordinal => Sys2Proof.Machine.execMaintQuery ring slot ordinal s
  | .thresholdSet ring part criterion t w rateExp => Sys2Proof.Machine.execThresholdSet ring part criterion t w rateExp s
  | .spdmMessage ring reqAddr reqBytes respAddr capacity => Sys2Proof.Machine.execSpdmMessage ring reqAddr reqBytes respAddr capacity s
  | .ownerKeyInstall ring addr => Sys2Proof.Machine.execOwnerKeyInstall ring addr s
  | .ownerKeyRemove ring addr => Sys2Proof.Machine.execOwnerKeyRemove ring addr s
  | .ownerRequireSet ring addr => Sys2Proof.Machine.execOwnerRequireSet ring addr s
  | .macsecKey ring uplink dir an use ssci addr peerSci => Sys2Proof.Machine.execMacsecKey ring uplink dir an use ssci addr peerSci s
  | .debugSeal ring => Sys2Proof.Machine.execDebugSeal ring s
  | .debugUnlock ring addr obs => Sys2Proof.Machine.execDebugUnlock ring addr obs s
  | .debugRelock ring obs => Sys2Proof.Machine.execDebugRelock ring obs s
  | .fwActivate ring slot raise reset obs => Sys2Proof.Machine.execFwActivate ring slot raise reset obs s
  | .eventLogRead ring first entries addr => Sys2Proof.Machine.execEventLogRead ring first entries addr s
  | .telemetryRead ring addr => Sys2Proof.Machine.execTelemetryRead ring addr s
  | .traceConfig ring addr bytes enable => Sys2Proof.Machine.execTraceConfig ring addr bytes enable s
  | .packetTake ring => Sys2Proof.Machine.execPacketTake ring s
  | .forwardedReply ring status state result => Sys2Proof.Machine.execForwardedReply ring status state result s
  | .sqDoorbell ring value => Sys2Proof.Machine.execSqDoorbell ring value s
  | .cqDoorbell ring value => Sys2Proof.Machine.execCqDoorbell ring value s
  | .ringEnable ring value => Sys2Proof.Machine.execRingEnable ring value s
  | .ringDisable ring value => Sys2Proof.Machine.execRingDisable ring value s
  | .notifyClear value => Sys2Proof.Machine.execNotifyClear value s
  | .counterSelect value => Sys2Proof.Machine.execCounterSelect value s
  | .cadConfigWrite value => Sys2Proof.Machine.execCadConfigWrite value s
  | .memSplitWrite value => Sys2Proof.Machine.execMemSplitWrite value s
  | .uplConfigWrite value => Sys2Proof.Machine.execUplConfigWrite value s
  | .relConfigWrite value => Sys2Proof.Machine.execRelConfigWrite value s
  | .cadLagMaxRead => Sys2Proof.Machine.execCadLagMaxRead s
  | .memUnschedWaitMaxRead => Sys2Proof.Machine.execMemUnschedWaitMaxRead s
  | .registerWrite offset size value => Sys2Proof.Machine.execRegisterWrite offset size value s
  | .hostRead addr len busy env => Sys2Proof.Machine.execHostRead addr len busy env s
  | .hostWrite addr data busy env => Sys2Proof.Machine.execHostWrite addr data busy env s
  | .copyIn core idx env => Sys2Proof.Machine.execCopyIn core idx env s
  | .copyInT core idx env => Sys2Proof.Machine.execCopyInT core idx env s
  | .copyOut core idx env => Sys2Proof.Machine.execCopyOut core idx env s
  | .decode core idx env => Sys2Proof.Machine.execDecode core idx env s
  | .compact core idx env => Sys2Proof.Machine.execCompact core idx env s
  | .intersect core idx env => Sys2Proof.Machine.execIntersect core idx env s
  | .laneMac core idx env => Sys2Proof.Machine.execLaneMac core idx env s
  | .pass core idx env => Sys2Proof.Machine.execPass core idx env s
  | .matvec core idx env => Sys2Proof.Machine.execMatvec core idx env s
  | .drain core idx env => Sys2Proof.Machine.execDrain core idx env s
  | .clear core idx env => Sys2Proof.Machine.execClear core idx env s
  | .packOut core idx env => Sys2Proof.Machine.execPackOut core idx env s
  | .forward core idx env => Sys2Proof.Machine.execForward core idx env s
  | .backward core idx env => Sys2Proof.Machine.execBackward core idx env s
  | .map core idx env => Sys2Proof.Machine.execMap core idx env s
  | .norm core idx env => Sys2Proof.Machine.execNorm core idx env s
  | .reduce core idx env => Sys2Proof.Machine.execReduce core idx env s
  | .optimise core idx env => Sys2Proof.Machine.execOptimise core idx env s
  | .convert core idx env => Sys2Proof.Machine.execConvert core idx env s
  | .put core idx env => Sys2Proof.Machine.execPut core idx env s
  | .collective core idx env => Sys2Proof.Machine.execCollective core idx env s
  | .take core idx env => Sys2Proof.Machine.execTake core idx env s
  | .nop core idx env => Sys2Proof.Machine.execNop core idx env s
  | .sectionOpen core idx env => Sys2Proof.Machine.execSectionOpen core idx env s
  | .markMarker core idx env => Sys2Proof.Machine.execMarkMarker core idx env s
  | .markStash core idx env => Sys2Proof.Machine.execMarkStash core idx env s
  | .markRelease core idx env => Sys2Proof.Machine.execMarkRelease core idx env s
  | .sectionClose number clk => Sys2Proof.Machine.execSectionClose number clk s
  | .elasticItemTake core idx => Sys2Proof.Machine.execElasticItemTake core idx s
  | .mergePieceSteal core lane => Sys2Proof.Machine.execMergePieceSteal core lane s
  | .mergePieceRetire core lane waitClk fullClk => Sys2Proof.Machine.execMergePieceRetire core lane waitClk fullClk s
  | .attendPageReady core idx waitClk env => Sys2Proof.Machine.execAttendPageReady core idx waitClk env s
  | .scoreboardStallRelease core idx stallClk env => Sys2Proof.Machine.execScoreboardStallRelease core idx stallClk env s
  | .firingRetire core idx env => Sys2Proof.Machine.execFiringRetire core idx env s
  | .stepStart => Sys2Proof.Machine.execStepStart s
  | .tickBoundary energyNj => Sys2Proof.Machine.execTickBoundary energyNj s
  | .stretchDecision origin => Sys2Proof.Machine.execStretchDecision origin s
  | .herdStop => Sys2Proof.Machine.execHerdStop s
  | .stopDecision reports => Sys2Proof.Machine.execStopDecision reports s
  | .rerunStart => Sys2Proof.Machine.execRerunStart s
  | .herdResume => Sys2Proof.Machine.execHerdResume s
  | .stepAbandon => Sys2Proof.Machine.execStepAbandon s
  | .commit => Sys2Proof.Machine.execCommit s
  | .beatLoss => Sys2Proof.Machine.execBeatLoss s
  | .checkSlot found => Sys2Proof.Machine.execCheckSlot found s
  | .idleSelfCheck found => Sys2Proof.Machine.execIdleSelfCheck found s
  | .refreshWindow group window => Sys2Proof.Machine.execRefreshWindow group window s
  | .routeSetSwitch => Sys2Proof.Machine.execRouteSetSwitch s
  | .appendPoint entry => Sys2Proof.Machine.execAppendPoint entry s
  | .deferredAppendServe => Sys2Proof.Machine.execDeferredAppendServe s
  | .appendCopyDone slot layer page => Sys2Proof.Machine.execAppendCopyDone slot layer page s
  | .spillDone slot layer page => Sys2Proof.Machine.execSpillDone slot layer page s
  | .fetchDone slot layer page => Sys2Proof.Machine.execFetchDone slot layer page s
  | .deferredEviction slot => Sys2Proof.Machine.execDeferredEviction slot s
  | .tempSample t => Sys2Proof.Machine.execTempSample t s
  | .patrolScrub channel env => Sys2Proof.Machine.execPatrolScrub channel env s
  | .rowRemapEffect stack channel row => Sys2Proof.Machine.execRowRemapEffect stack channel row s
  | .maintActivityStart => Sys2Proof.Machine.execMaintActivityStart s
  | .maintActivityDone ordinal => Sys2Proof.Machine.execMaintActivityDone ordinal s
  | .unscheduledGrant channel waitClk env => Sys2Proof.Machine.execUnscheduledGrant channel waitClk env s
  | .powerGood obs => Sys2Proof.Machine.execPowerGood obs s
  | .modResetN obs => Sys2Proof.Machine.execModResetN obs s
  | .undervoltage => Sys2Proof.Machine.execUndervoltage s
  | .powerLoss => Sys2Proof.Machine.execPowerLoss s
  | .ppsEdge second late => Sys2Proof.Machine.execPpsEdge second late s
  | .refclkLoss => Sys2Proof.Machine.execRefclkLoss s
  | .cadenceLock dmaxNs delayNs herdErr => Sys2Proof.Machine.execCadenceLock dmaxNs delayNs herdErr s
  | .herdFormTimeout => Sys2Proof.Machine.execHerdFormTimeout s
  | .joinReceive port p x y z => Sys2Proof.Machine.execJoinReceive port p x y z s
  | .beatBlock port block => Sys2Proof.Machine.execBeatBlock port block s
  | .holdBlock port block => Sys2Proof.Machine.execHoldBlock port block s
  | .stretchBlock port block => Sys2Proof.Machine.execStretchBlock port block s
  | .stopBlock port block => Sys2Proof.Machine.execStopBlock port block s
  | .resumeBlock port block => Sys2Proof.Machine.execResumeBlock port block s
  | .flitReceive port lane flit corrected symbols uncorrectable lostBeats => Sys2Proof.Machine.execFlitReceive port lane flit corrected symbols uncorrectable lostBeats s
  | .peerAccessRequest peer tag addr len op data busy env => Sys2Proof.Machine.execPeerAccessRequest peer tag addr len op data busy env s
  | .peerAccessResponse tag status data env => Sys2Proof.Machine.execPeerAccessResponse tag status data env s
  | .collectiveRingStep entry stage ring shard upstream waitClk => Sys2Proof.Machine.execCollectiveRingStep entry stage ring shard upstream waitClk s
  | .permuteChunkSend entry chunk env => Sys2Proof.Machine.execPermuteChunkSend entry chunk env s
  | .permuteChunkCopy entry chunk env => Sys2Proof.Machine.execPermuteChunkCopy entry chunk env s
  | .laneFailure port lane => Sys2Proof.Machine.execLaneFailure port lane s
  | .spareLaneTakeover port => Sys2Proof.Machine.execSpareLaneTakeover port s
  | .linkTrained port rawNs neighbour neighbourPort => Sys2Proof.Machine.execLinkTrained port rawNs neighbour neighbourPort s
  | .sidebandChange port aliveN linkedN => Sys2Proof.Machine.execSidebandChange port aliveN linkedN s
  | .uplinkFrameReceive uplink frame => Sys2Proof.Machine.execUplinkFrameReceive uplink frame s
  | .uplinkResendTimeout uplink peer seq => Sys2Proof.Machine.execUplinkResendTimeout uplink peer seq s
  | .zwinusLaneFailure lane => Sys2Proof.Machine.execZwinusLaneFailure lane s
  | .zwinusLinkUp lanes => Sys2Proof.Machine.execZwinusLinkUp lanes s
  | .requestUpdate => Sys2Proof.Machine.execRequestUpdate s
  | .pldmUpdate image => Sys2Proof.Machine.execPldmUpdate image s
  | .activateFirmware => Sys2Proof.Machine.execActivateFirmware s
  | .sensorRead sensor => Sys2Proof.Machine.execSensorRead sensor s
  | .planLoadVerified => Sys2Proof.Machine.execPlanLoadVerified s
  | .memoryCommandDone slot => Sys2Proof.Machine.execMemoryCommandDone slot s
  | .refclkReturn => Sys2Proof.Machine.execRefclkReturn s
  | .ppsLoss => Sys2Proof.Machine.execPpsLoss s
  | .ptpMessageReceive timeNs locked xherdErr => Sys2Proof.Machine.execPtpMessageReceive timeNs locked xherdErr s
  | .leaveReceive port => Sys2Proof.Machine.execLeaveReceive port s
  | .internalError code => Sys2Proof.Machine.execInternalError code s
  | .uplinkLinkChange uplink up => Sys2Proof.Machine.execUplinkLinkChange uplink up s
  | .priorityPauseFrame uplink paused => Sys2Proof.Machine.execPriorityPauseFrame uplink paused s

end Sys2Proof.Machine
end

