-- ==== Sys2Proof/Safety.lean ====
section
/-!
DEFINITION. What counts as a safe run, in the terms that claims use: the states in which each driver command is allowed
(R861), the relations between a state and the next that frames speak of, and the invariants of the module.
-/

namespace Sys2Proof.Machine

/-! ### The table of R861 -/

/-- The states in which a driver command is allowed (R861): none for a row that is no driver command. -/
def allowedIn : Instr → Option (List DevState)
  | .devNop _ => some [.boot, .standby, .joined, .loaded, .running, .held, .maint, .fault]
  | .devInfo _ => some [.boot, .standby, .joined, .loaded, .running, .held, .maint, .fault]
  | .devReset _ _ => some [.standby, .joined, .loaded, .running, .held, .fault]
  | .herdForm _ _ => some [.standby, .joined]
  | .herdLeave _ => some [.joined, .loaded, .running, .held]
  | .planLoad _ _ _ _ => some [.joined, .loaded]
  | .planUnload _ => some [.loaded]
  | .stepRun _ _ => some [.loaded, .running]
  | .stepHold _ => some [.loaded, .running]
  | .stepResume _ _ => some [.held]
  | .scaleWrite _ _ _ _ _ => some [.loaded]
  | .scaleRead _ _ _ _ _ => some [.loaded, .running, .held]
  | .memCopy _ _ _ _ => some [.standby, .joined, .loaded]
  | .sparsePack _ _ _ _ _ => some [.standby, .joined, .loaded]
  | .readResult _ _ _ => some [.standby, .joined, .loaded, .running, .held, .maint, .fault]
  | .releaseResult _ _ => some [.standby, .joined, .loaded, .running, .held, .maint, .fault]
  | .seqOpen _ _ _ _ _ _ => some [.loaded, .running, .held]
  | .seqClose _ _ => some [.loaded, .running, .held]
  | .seqTruncate _ _ _ => some [.loaded, .running, .held]
  | .seqInfo _ _ _ => some [.loaded, .running, .held]
  | .batchSubmit _ _ _ => some [.loaded, .running, .held]
  | .hbmScrub _ _ _ => some [.standby, .joined, .loaded, .running, .held]
  | .lsScrub _ _ _ => some [.standby, .joined, .loaded, .running, .held]
  | .arrayCheck _ _ _ => some [.standby, .joined, .loaded, .running, .held]
  | .rowRemap _ _ _ => some [.standby, .joined, .loaded, .running, .held]
  | .channelRetire _ _ => some [.standby, .joined, .loaded, .running, .held]
  | .spareBank _ _ => some [.standby, .joined, .loaded, .running, .held]
  | .spareArrayLine _ _ => some [.standby, .joined, .loaded, .running, .held]
  | .spareCore _ _ => some [.standby, .joined, .loaded, .running, .held]
  | .spareLane _ _ => some [.standby, .joined, .loaded, .running, .held]
  | .sparePort _ _ => some [.standby, .joined, .loaded, .running, .held]
  | .fwStage _ _ => some [.standby, .joined, .loaded, .running, .held]
  | .maintQuery _ _ _ => some [.standby, .joined, .loaded, .running, .held, .maint, .fault]
  | .thresholdSet _ _ _ _ _ _ => some [.standby, .joined, .loaded]
  | .spdmMessage _ _ _ _ _ => some [.standby, .joined, .loaded, .running, .held, .maint, .fault]
  | .ownerKeyInstall _ _ => some [.standby]
  | .ownerKeyRemove _ _ => some [.standby]
  | .ownerRequireSet _ _ => some [.standby]
  | .macsecKey _ _ _ _ _ _ _ _ => some [.standby, .joined, .loaded, .running, .held]
  | .debugSeal _ => some [.standby]
  | .debugUnlock _ _ _ => some [.standby]
  | .debugRelock _ _ => some [.standby]
  | .fwActivate _ _ _ _ _ => some [.standby]
  | .eventLogRead _ _ _ _ => some [.standby, .joined, .loaded, .running, .held, .maint, .fault]
  | .telemetryRead _ _ => some [.standby, .joined, .loaded, .running, .held, .maint, .fault]
  | .traceConfig _ _ _ _ => some [.standby, .joined, .loaded]
  | _ => none

/-- For a row of OWNER_KEY: the OP of its block, the block's address and its ring (R1027). -/
def ownerBlock : Instr → Option (Nat × Nat × Nat)
  | .ownerKeyInstall r a => some (0, a, r)
  | .ownerKeyRemove r a => some (1, a, r)
  | .ownerRequireSet r a => some (2, a, r)
  | _ => none

/-- Whether the block that a row of OWNER_KEY names in companion memory holds that row's OP; true of any other row. -/
def ownerBlockFits (c : Instr) (s : State) : Prop :=
  ∀ op addr ring, ownerBlock c = some (op, addr, ring) → leAt (s.w.compRead ring addr 256) 0 1 = op

/-! ### Conditions of statements -/

/-- A start-up that meets no failure: every part verifies, the repair record is good, every channel trains, every core and
bank passes. -/
def cleanBoot (o : BootObs) : Bool :=
  o.badParts.isEmpty && !o.badRecord && o.untrained.isEmpty && o.badCores.isEmpty && o.badBanks.isEmpty

/-- Every stack keeps the sixteen channels that start-up asks for (R977). -/
def State.channelsOk (s : State) : Prop := ∀ k < 12, 16 ≤ ((s.w.mem.rebooted true).activeList k).length

/-- An environment that shows nothing but the moment. -/
def quietEnv (e : Env) : Bool :=
  e.lines.isEmpty && e.words.isEmpty && e.residues.isEmpty && !e.table && decide (e.tableCe = 0) && decide (e.wait = 0) &&
  decide (e.odc = 0) && decide (e.held = 0) && decide (e.dead = 0)

/-- The row of MAINT_START that a constructor is: its code, its ring and its operands (R945). -/
def maintRow : Instr → Option (Nat × Nat × MaintArgs)
  | .hbmScrub r m _ => some (0x01, r, m)
  | .lsScrub r m _ => some (0x02, r, m)
  | .arrayCheck r m _ => some (0x03, r, m)
  | .rowRemap r m _ => some (0x04, r, m)
  | .channelRetire r m => some (0x05, r, m)
  | .spareBank r m => some (0x06, r, m)
  | .spareArrayLine r m => some (0x07, r, m)
  | .spareCore r m => some (0x08, r, m)
  | .spareLane r m => some (0x09, r, m)
  | .sparePort r m => some (0x0A, r, m)
  | .fwStage r m => some (0x0B, r, m)
  | _ => none

/-- What a row of MAINT_START shows of HBM: that of a scrub of a channel or of a row remap. -/
def scrubEnv : Instr → Env
  | .hbmScrub _ _ e => e
  | .rowRemap _ _ e => e
  | _ => {}

/-- The row of a firing that works tile by tile: its core, its index, its environment, and the STATION and OP of its record
(R54). -/
def tileRow : Instr → Option (Nat × Nat × Env × Nat × Nat)
  | .copyIn c i e => some (c, i, e, 0, 1)
  | .copyInT c i e => some (c, i, e, 0, 2)
  | .copyOut c i e => some (c, i, e, 1, 1)
  | .pass c i e => some (c, i, e, 3, 1)
  | .matvec c i e => some (c, i, e, 4, 1)
  | .drain c i e => some (c, i, e, 5, 1)
  | .clear c i e => some (c, i, e, 5, 2)
  | .packOut c i e => some (c, i, e, 5, 3)
  | .map c i e => some (c, i, e, 7, 1)
  | .norm c i e => some (c, i, e, 7, 2)
  | .reduce c i e => some (c, i, e, 7, 3)
  | .optimise c i e => some (c, i, e, 7, 4)
  | .convert c i e => some (c, i, e, 7, 5)
  | .put c i e => some (c, i, e, 8, 1)
  | .collective c i e => some (c, i, e, 8, 2)
  | .take c i e => some (c, i, e, 9, 1)
  | _ => none

/-- The row of a firing that works through a work list (R70): its core, its index, its environment, and the STATION and OP
of its record. -/
def itemRow : Instr → Option (Nat × Nat × Env × Nat × Nat)
  | .decode c i e => some (c, i, e, 2, 1)
  | .compact c i e => some (c, i, e, 2, 2)
  | .intersect c i e => some (c, i, e, 2, 3)
  | .laneMac c i e => some (c, i, e, 2, 4)
  | .forward c i e => some (c, i, e, 6, 1)
  | .backward c i e => some (c, i, e, 6, 2)
  | _ => none

/-- HBM holds no line in error and lists none as lost. -/
def Work.noErrors (w : Work) : Prop := w.mem.errs = [] ∧ w.mem.lost = []

/-- The slot records and layer roots of a policy lie in one region of local HBM that permits reads and writes (R656, R662,
R663), in a module without lines in error. -/
def Work.metaOk (w : Work) (c : Policy) : Prop :=
  w.noErrors ∧ ∃ i r, Reg.read r = true ∧ Reg.write r = true ∧ Reg.target r = 0 ∧
    ∀ a, c.metaBase ≤ a → a < c.metaBase + 4194304 + 256 * (65536 * c.layers) →
      w.permit a false = some (i, r) ∧ w.permit a true = some (i, r)

/-! ### Frames -/

/-- Two work states that agree in everything but what messages to the outside change: the device block, companion
memory, the count of overwritten log entries and what is sent out. -/
structure Work.SamePlanWork (w w' : Work) : Prop where
  cad : w'.cad = w.cad
  mem : w'.mem = { w.mem with companion := w'.mem.companion, companions := w'.mem.companions }
  rel : w'.rel = { w.rel with eventLost := w'.rel.eventLost }
  cores : w'.cores = w.cores
  plan : w'.plan = w.plan
  run : w'.run = w.run
  scales : w'.scales = w.scales
  cum : w'.cum = w.cum
  stages : w'.stages = w.stages
  net : w'.net = w.net
  trace : w'.trace = w.trace

/-- Two states that agree in everything but the work state. -/
structure State.SameBlocks (s t : State) : Prop where
  pending : t.pending = s.pending
  fab : t.fab = s.fab
  pwr : t.pwr = s.pwr
  sec : t.sec = s.sec

/-! ### Invariants -/

/-- Every byte memory that the module holds is in its canonical form. -/
def State.memoriesWf (s : State) : Prop :=
  s.w.mem.hbm.wf ∧ s.w.mem.companion.wf ∧ ∀ c ∈ s.w.cores, c.2.ls.wf

/-- What OWNER_KEY never breaks (R1026, R1029): OWNER_REQUIRE stands at 1 only beside an installed key, and the installed
keys have nonzero, different identifiers and lie on the curve. -/
structure Sec.KeysOk (x : Sec) : Prop where
  required : x.ownerRequire = true → ∃ k < 4, (mget x.keys none k).isSome
  sound : ∀ k < 4, ∀ y, mget x.keys none k = some y → y.keyId ≠ 0 ∧ onCurve y.x y.y = true
  distinct : ∀ j < 4, ∀ k < 4, ∀ y z, mget x.keys none j = some y → mget x.keys none k = some z → y.keyId = z.keyId → j = k

/-- What security a step may not give back: a sealed module stays sealed (R1037) and MIN_SVN never goes lower (R1015). -/
structure State.Guards (s t : State) : Prop where
  sealStays : s.sec.debug = .sealed → t.sec.debug = .sealed
  svnStays : s.sec.minSvn ≤ t.sec.minSvn

/-- A run is safe while no step stops and the module is not in FAULT (R859). -/
def safeRun : Nat → State → Prop
  | 0, s => s.w.dev.state ≠ .fault
  | k + 1, s => s.w.dev.state ≠ .fault ∧ ∃ t, step s = .next t ∧ safeRun k t

end Sys2Proof.Machine
end

