-- ==== Sys2Proof/Certificates/Slice0/Obligations.lean ====
section
/-!
DEFINITION. The statements about the A960 for the provers. Each docstring names the rules that the statement formalises.
-/

open Sys2Proof Sys2Proof.Machine

/-! ### The queue and the whole machine -/

/-- A step is `exec` of the command at the front of the queue, on the state whose queue is the rest; with an empty
queue the block idles (the model's choice, log entry 2). -/
def Obligations.StepRunsFront : Prop :=
  (∀ (c : Instr) (rest : List Instr) (s : State),
    step { s with pending := c :: rest } = exec c { s with pending := rest }) ∧
  ∀ s : State, s.pending = [] → step s = .next s

/-- No command touches the queue of commands that wait behind it. -/
def Obligations.QueueUntouched : Prop :=
  ∀ (c : Instr) (s t : State), exec c s = .next t → t.pending = s.pending

/-- Whatever step the module takes, from whatever state: once SEALED it stays SEALED (R1037), and MIN_SVN never goes
lower (R1015). -/
def Obligations.SealAndSvnStay : Prop := ∀ s t : State, step s = .next t → State.Guards s t

/-- Whatever step the module takes, OWNER_REQUIRE stands at 1 only beside an installed key, and the installed keys
keep nonzero, different identifiers and lie on the curve (R1026, R1029). -/
def Obligations.OwnerKeysKept : Prop := ∀ s t : State, s.sec.KeysOk → step s = .next t → t.sec.KeysOk

/-- The registers whose reset values the manual gives read so right after reset: DEV_ID, DEV_STATE in BOOT,
DEV_CAPACITY with CLASS 128, CAD_CONFIG, CAD_STATUS, MEM_SPLIT with X 40, REL_CONFIG, FAB_STATUS, UPL_CONFIG and
SEC_STATUS's fields. At reset the owner keys obey what OWNER_KEY keeps. -/
def Obligations.ResetState : Prop :=
  (let r (o : Nat) : W64 := State.reset.readReg o
   r 0x0000 = 0x2A960 ∧ r 0x0008 = 0x1 ∧ bits (r 0x0010) 7 0 = 128 ∧ r 0x0018 = 0 ∧ r 0x0020 = 0 ∧
   bits (r 0x0410) 23 0 = 7200 ∧ bits (r 0x0410) 39 24 = 256 ∧ bits (r 0x0410) 46 40 = 16 ∧ r 0x0418 = 0 ∧
   bits (r 0x0800) 6 0 = 40 ∧ bits (r 0x1C08) 3 0 = 3 ∧ bits (r 0x1C08) 4 4 = 1 ∧ bits (r 0x1C08) 15 8 = 24 ∧
   bits (r 0x1000) 1 0 = 0 ∧ bits (r 0x1040) 15 0 = 0x9C4A ∧ bits (r 0x1040) 20 20 = 1) ∧
  (State.reset.sec.KeysOk)

/-- A packet decodes to the command whose packet it is: every parameter at its offset and width, for every driver
command (R852, R854, R866). -/
def Obligations.PacketRoundTrip : Prop :=
  ∀ (i : Instr) (flags target tag : Nat) (pk : List Byte), i.wf = true → encodePacket i flags target tag = some pk →
    pk.length = 64 ∧ decodePacket i.ring pk i.beside = some i

/-- A driver command that R861 does not allow in the present state changes nothing and is refused with
ST_STATE_CONFLICT (R860); byte 4 of the reply is that status and byte 5, its STATE field, the present state. -/
def Obligations.RefusedElsewhere : Prop :=
  ∀ (c : Instr) (allowed : List DevState) (s : State), allowedIn c = some allowed → s.w.dev.state ≠ .off →
    s.w.dev.state ∉ allowed → ownerBlockFits c s → exec c s = .next (s.reply c.ring stStateConflict []) ∧
    (c.ring < 64 → s.w.dev.linkUp = true →
      let r := mget s.w.dev.rings {} c.ring
      let bs := (s.reply c.ring stStateConflict []).w.mem.companion.readN (r.cqBase.toNat + 32 * r.cqTail.toNat) 32
      leAt bs 4 1 = stStateConflict ∧ leAt bs 5 1 = s.w.dev.state.code)

/-! ### Rings -/

/-- PACKET_TAKE of the ring that is served next (R847, R848): the packet at its head is taken. One for this module
with a listed opcode and at most 48 parameter bytes waits for its command; an opcode that is not listed is refused
with ST_BAD_OPCODE and a longer parameter list with ST_BAD_PARAM (R854), as is, where MAINT_START or DEBUG_LOCK is
allowed, an activity or operation that does not exist; one for another member of the flock is forwarded (R884). SQ_HEAD moves past it, and the other rings stay. -/
def Obligations.PacketTaken : Prop :=
  ∀ (ring : Nat) (s : State), s.w.dev.state ≠ .off → s.w.nextRing = some ring →
    let pk := s.w.headPacket ring
    let s' : State := { s with w := s.w.pop ring }
    let e : W64 := mget s.w.dev.flockMap 0 (leAt pk 3 1 % 64)
    let here := leAt pk 3 1 % 64 = s.w.dev.flockSelf.toNat
    (let r := mget s.w.dev.rings {} ring
     let r' := mget s'.w.dev.rings {} ring
     r'.taken = some pk ∧ r'.sqHead = BitVec.ofNat 12 ((r.sqHead.toNat + 1) % 2 ^ r.log2.toNat) ∧ s'.w.dev.lastRing = ring ∧
     ∀ j, j ≠ ring → mget s'.w.dev.rings {} j = mget s.w.dev.rings {} j) ∧
    (here → leAt pk 0 2 ∈ opcodes → leAt pk 8 1 ≤ 48 → noRow pk = none → exec (.packetTake ring) s = .next s') ∧
    (here → leAt pk 8 1 ≤ 48 → (noRow pk).isSome = true →
      exec (.packetTake ring) s = .next (s'.reply ring (if s.w.dev.state ∈ (noRow pk).getD [] then stBadParam else stStateConflict) [])) ∧
    (here → leAt pk 0 2 ∉ opcodes → exec (.packetTake ring) s = .next (s'.reply ring stBadOpcode [])) ∧
    (here → leAt pk 0 2 ∈ opcodes → 48 < leAt pk 8 1 → exec (.packetTake ring) s = .next (s'.reply ring stBadParam [])) ∧
    (¬ here → bit e 63 = true → s.fab.joined = true → s.fab.reachable (bits e 9 0) 0 = true →
      exec (.packetTake ring) s = .next { s' with w := { s'.w with out := s'.w.out ++ [Out.forward (bits e 9 0) pk] } })

/-- DEV_NOP in any state with power: its reply stands at CQ_BASE + 32 × CQ_TAIL with the layout of R853, no other byte
of companion memory changes, CQ_TAIL moves on and PHASE flips exactly when it wraps to 0 (R851), and plan work, the
clock and every other block stay as they are. DEV_INFO's inline result (R866): DEV_ID, the module's serial number, the
booted image's VERSION, CLASS and CLOCK_SEL at their offsets. FORWARDED_REPLY: the reply of a packet that was
forwarded goes into the completion ring of the ring that held it, with the STATE of the target (R886). -/
def Obligations.RepliesLand : Prop :=
  (∀ (ring : Nat) (s : State), ring < 64 → s.w.dev.linkUp = true → s.w.dev.state ≠ .off →
     ∃ t, exec (.devNop ring) s = .next t ∧
       (let r := mget s.w.dev.rings {} ring
        let pk := s.w.dev.taken ring
        let at_ := r.cqBase.toNat + 32 * r.cqTail.toNat
        let bs := t.w.mem.companion.readN at_ 32
        leAt bs 0 4 = leAt pk 4 4 ∧ leAt bs 4 1 = stOk ∧ leAt bs 5 1 = s.w.dev.state.code ∧ leAt bs 6 1 = leAt pk 3 1 ∧
        leAt bs 7 1 = b2n r.phase ∧ bs.drop 8 = zeros 24 ∧
        (∀ a, a < at_ ∨ at_ + 32 ≤ a → t.w.mem.companion.read a = s.w.mem.companion.read a) ∧
        (let r' := mget t.w.dev.rings {} ring
         r'.cqTail = BitVec.ofNat 12 ((r.cqTail.toNat + 1) % 2 ^ r.log2.toNat) ∧ r'.taken = none ∧
         (r'.phase ≠ r.phase ↔ (r.cqTail.toNat + 1) % 2 ^ r.log2.toNat = 0)) ∧
        s.w.SamePlanWork t.w ∧ s.SameBlocks t)) ∧
  (∀ (ring : Nat) (s : State), s.w.dev.state ≠ .off →
     ∃ bs : List Byte, exec (.devInfo ring) s = .next (s.reply ring stOk bs) ∧ bs.length = 23 ∧
       leAt bs 0 8 = (s.readReg 0).toNat ∧ leAt bs 8 8 = Config.moduleSerial.toNat ∧
       (∀ i, s.sec.booted = some i → leAt bs 16 4 = i.version.toNat) ∧
       leAt bs 20 2 = s.w.rel.cls % 65536 ∧ leAt bs 22 1 = b2n s.pwr.clockSel) ∧
  (∀ (ring status state : Nat) (result pk : List Byte) (s : State), ring < 64 → s.w.dev.linkUp = true →
     (mget s.w.dev.rings {} ring).taken = some pk → leAt pk 3 1 % 64 ≠ s.w.dev.flockSelf.toNat →
     ∃ t, exec (.forwardedReply ring status state result) s = .next t ∧
       (let r := mget s.w.dev.rings {} ring
        t.w.mem.companion = s.w.mem.companion.write (r.cqBase.toNat + 32 * r.cqTail.toNat)
          (replyBytes pk status state (b2n r.phase) result) ∧
        mget t.w.dev.rings {} ring = r.advance) ∧ s.w.SamePlanWork t.w ∧ s.SameBlocks t)

/-- The doorbells (R844, R849): a value below the ring's entry count moves TAIL, or marks replies as read; a value at
or beyond it, or any value while ENABLE is 0, sets ERROR and NOTIFY.RING_ERROR. RING_CONFIG (R845, R846): a write with
ENABLE at 1 clears the ring's indices, sets PHASE and clears ERROR; while ENABLE is 1 LOG2_ENTRIES stays. A write with
ENABLE at 0 leaves a command already taken in place. -/
def Obligations.RingRegisters : Prop :=
  (∀ (ring : Nat) (v : W64) (s : State), ring < 64 →
     let r := mget s.w.dev.rings {} ring
     let k := bits v 11 0
     (r.enable = true → k < 2 ^ r.log2.toNat →
       (exec (.sqDoorbell ring v) s =
         .next { s with w := { s.w with dev := s.w.dev.modRing ring (fun r => { r with tail := BitVec.ofNat 12 k }) } } ∧
        ((k + 2 ^ r.log2.toNat - r.head.toNat) % 2 ^ r.log2.toNat ≤ r.unread →
         exec (.cqDoorbell ring v) s = .next { s with w := { s.w with dev := s.w.dev.modRing ring (fun r =>
           { r with head := BitVec.ofNat 12 k, unread := r.unread - (k + 2 ^ r.log2.toNat - r.head.toNat) % 2 ^ r.log2.toNat }) } }))) ∧
     (r.enable = false ∨ 2 ^ r.log2.toNat ≤ k → ∀ c ∈ [Instr.sqDoorbell ring v, .cqDoorbell ring v],
       ∃ t, exec c s = .next t ∧ mget t.w.dev.rings {} ring = { r with error := true } ∧
         t.w.dev.notify.getLsbD 5 = true ∧ (∀ j, j ≠ ring → mget t.w.dev.rings {} j = mget s.w.dev.rings {} j) ∧
         s.w.SamePlanWork t.w ∧ s.SameBlocks t)) ∧
  (∀ (ring : Nat) (v : W64) (s : State), ring < 64 →
     let r := mget s.w.dev.rings {} ring
     (bit v 8 = true → ∃ t, exec (.ringEnable ring v) s = .next t ∧
       (let r' := mget t.w.dev.rings {} ring
        r'.enable = true ∧ r'.sqHead = 0 ∧ r'.cqTail = 0 ∧ r'.tail = 0 ∧ r'.head = 0 ∧ r'.phase = true ∧ r'.error = false ∧
        r'.sqBase = r.sqBase ∧ r'.cqBase = r.cqBase ∧ r'.taken = r.taken ∧ (r.enable = true → r'.log2 = r.log2)) ∧
       s.w.SamePlanWork t.w ∧ s.SameBlocks t) ∧
     (bit v 8 = false → ∃ t, exec (.ringDisable ring v) s = .next t ∧
       (let r' := mget t.w.dev.rings {} ring
        r'.enable = false ∧ r'.taken = r.taken ∧ r'.tail = r.tail ∧ r'.sqHead = r.sqHead ∧ r'.cqTail = r.cqTail ∧
        (r.enable = true → r'.log2 = r.log2)) ∧ s.w.SamePlanWork t.w ∧ s.SameBlocks t))

/-! ### The control window -/

/-- NOTIFY's bits written as 1 are cleared (R838), and COUNTER_SELECT takes its field (R840); nothing else changes.
CAD_LAG_MAX and MEM_UNSCHED_WAIT_MAX give the largest value since the last read and are cleared by it (R168, R374).
REGISTER_WRITE (R830): an access that is not an aligned 8-byte write writes nothing; NOTIFY_MASK, INT_ADDR and
INT_DATA read as written; a write of a base of an enabled ring changes nothing (R845). -/
def Obligations.RegistersWritten : Prop :=
  (∀ (v : W64) (s : State),
     (∃ t, exec (.notifyClear v) s = .next t ∧
       (∀ b < 6, t.w.dev.notify.getLsbD b = (s.w.dev.notify.getLsbD b && !v.getLsbD b)) ∧
       t = { s with w := { s.w with dev := { s.w.dev with notify := t.w.dev.notify } } }) ∧
     (∃ t, exec (.counterSelect v) s = .next t ∧ t.w.dev.counterSelect.toNat = bits v 6 0 ∧
       t = { s with w := { s.w with dev := { s.w.dev with counterSelect := t.w.dev.counterSelect } } })) ∧
  (∀ s : State,
     (∃ t, exec .cadLagMaxRead s = .next t ∧ leNat t.w.dev.readData = s.w.cad.lagMax.toNat ∧ t.w.cad.lagMax = 0 ∧
       t = { s with w := { s.w with dev := { s.w.dev with readData := t.w.dev.readData }, cad := { s.w.cad with lagMax := 0 } } }) ∧
     (∃ t, exec .memUnschedWaitMaxRead s = .next t ∧ leNat t.w.dev.readData = s.w.mem.waitMax.toNat ∧ t.w.mem.waitMax = 0 ∧
       t = { s with w := { s.w with dev := { s.w.dev with readData := t.w.dev.readData }, mem := { s.w.mem with waitMax := 0 } } })) ∧
  (∀ (o n : Nat) (v : W64) (s : State),
     (n ≠ 8 ∨ o % 8 ≠ 0 → exec (.registerWrite o n v) s = .next s) ∧
     (∃ t, exec (.registerWrite 0x20 8 v) s = .next t ∧ (t.readReg 0x20).toNat = bits v 5 0 ∧ s.w.SamePlanWork t.w ∧ s.SameBlocks t) ∧
     (∃ t, exec (.registerWrite 0x28 8 v) s = .next t ∧ t.readReg 0x28 = v ∧ s.w.SamePlanWork t.w ∧ s.SameBlocks t) ∧
     (∃ t, exec (.registerWrite 0x30 8 v) s = .next t ∧ (t.readReg 0x30).toNat = bits v 31 0 ∧ s.w.SamePlanWork t.w ∧ s.SameBlocks t) ∧
     (∀ ring < 64, (mget s.w.dev.rings {} ring).enable = true → ∀ k ∈ [0, 8],
       ∃ t, exec (.registerWrite (0x2000 + 64 * ring + k) 8 v) s = .next t ∧
         mget t.w.dev.rings {} ring = mget s.w.dev.rings {} ring))

/-- CAD_CONFIG and MEM_SPLIT are taken in STANDBY when their values obey the rules (R96, R137, R313, R315); any other
write changes nothing but CONFIG_REJECT. A new X leaves the contents of all HBM undefined (R314): what a byte reads as
then is `Config.freeByte` of a fresh draw. UPL_CONFIG is taken in STANDBY only (R804), REL_CONFIG in any state but
RUNNING (R960), and each then reads as written. That a REL_CONFIG with PATROL_HOURS outside 1 to 168 changes nothing
is the model's choice (log entry 50). -/
def Obligations.ConfigsWritten : Prop :=
  (∀ (v : W64) (s : State),
     (s.w.dev.state = .standby → cadOk (bits v 16 0) (bits v 35 24) (bits v 46 40) s.pwr.clockSel = true →
       ∃ t, exec (.cadConfigWrite v) s = .next t ∧ t.w.cad.tickClk.toNat = bits v 16 0 ∧
         t.w.cad.slackClk.toNat = bits v 35 24 ∧ t.w.cad.stretchMax.toNat = bits v 46 40 ∧
         t = { s with w := { s.w with cad := s.w.cad.config (bits v 16 0) (bits v 35 24) (bits v 46 40) } }) ∧
     (s.w.dev.state ≠ .standby ∨ cadOk (bits v 16 0) (bits v 35 24) (bits v 46 40) s.pwr.clockSel = false →
       exec (.cadConfigWrite v) s = .next { s with w := { s.w with cad := { s.w.cad with configReject := true } } }) ∧
     (s.w.dev.state = .standby → bits v 6 0 ≤ s.w.mem.minGib →
       ∃ t, exec (.memSplitWrite v) s = .next t ∧ t.w.mem.splitX.toNat = bits v 6 0 ∧
         (∀ a < hbmBytes, t.w.mem.hbm.read a = Config.freeByte s.w.mem.draws a) ∧
         t.w.mem.draws = s.w.mem.draws + 1 ∧ t.w.cores = s.w.cores ∧ t.w.cad = s.w.cad ∧ t.w.dev = s.w.dev ∧ s.SameBlocks t) ∧
     (s.w.dev.state ≠ .standby ∨ s.w.mem.minGib < bits v 6 0 →
       exec (.memSplitWrite v) s = .next { s with w := { s.w with mem := { s.w.mem with configReject := true } } })) ∧
  (∀ (v : W64) (s : State),
     (s.w.dev.state = .standby → ∃ t, exec (.uplConfigWrite v) s = .next t ∧
       (t.readReg 0x1040).toNat = v.toNat % 2 ^ 21 ∧ t.w = s.w ∧ t.pwr = s.pwr ∧ t.sec = s.sec) ∧
     (s.w.dev.state ≠ .standby → exec (.uplConfigWrite v) s = .next s) ∧
     (s.w.dev.state ≠ .running → 1 ≤ bits v 15 8 → bits v 15 8 ≤ 168 →
       ∃ t, exec (.relConfigWrite v) s = .next t ∧ bits (t.readReg 0x1C08) 3 0 = bits v 3 0 ∧
         bits (t.readReg 0x1C08) 4 4 = bits v 4 4 ∧ bits (t.readReg 0x1C08) 15 8 = bits v 15 8 ∧
         t.w.cores = s.w.cores ∧ t.w.run = s.w.run ∧ t.w.dev = s.w.dev ∧ s.SameBlocks t) ∧
     (s.w.dev.state = .running → exec (.relConfigWrite v) s = .next s))
/-! ### Host accesses -/

/-- HOST_WRITE and HOST_READ complete for every address and length that the aperture has, with the link up, in a started
module, at a channel that is free: not claimed by a scheduled access, out of its refresh window, with no other access
waiting. A write's bytes stand in HBM, but for the lines that R351 and R832 refuse, and no byte of another line changes
(said of a store that R661 does not forbid); without listed errors no other byte at all changes, and neither does any
other block. A read returns what the decoder delivers, a STORE's bytes once they are visible (R24), and zeros for the lines refused (R350, R832). Every line refused
counts (R372), each line of a step-owned region is refused while a step runs, and an access of refused lines alone does
nothing else. Addresses beyond the aperture do not exist (R306, R828): the access faults. -/
def Obligations.HostAccesses : Prop :=
  (∀ (addr len : Nat) (data : List Byte) (env : Env) (s : State), s.apertureOpen = true →
     (∀ b ∈ s.w.mem.waiting, b.channel ≠ s.w.mem.channelOf addr) → s.refreshing (s.w.mem.channelOf addr) env.clk = false →
     let m := s.w.mem.see env
     (let bad := s.w.barredLines addr data.length true
      addr + data.length ≤ hbmBytes → s.w.hostSpoils addr data.length = false → bad = [] ∨ bad ≠ linesOf addr data.length →
      ∃ t, exec (.hostWrite addr data false env) s = .next t ∧
        (∀ i b, data[i]? = some b → (addr + i) / 64 ∉ bad → t.w.mem.hbm.read (addr + i) = b) ∧
        (∀ a, a / 64 ∈ bad ∨ a / 64 ∉ linesOf addr data.length → t.w.mem.hbm.read a = m.hbm.read a) ∧
        t.w.mem.hostWrites = s.w.mem.hostWrites + BitVec.ofNat 64 bad.length ∧ t.w.plan = s.w.plan ∧ s.SameBlocks t ∧
        (s.w.mem.errs = [] → s.w.mem.lost = [] → env.lines = [] →
          (∀ a, a < addr ∨ addr + data.length ≤ a → t.w.mem.hbm.read a = s.w.mem.hbm.read a) ∧
          t.w.dev = s.w.dev ∧ t.w.cores = s.w.cores ∧ t.w.run = s.w.run ∧ t.w.cad = s.w.cad)) ∧
     (let bad := s.w.barredLines addr len false
      addr + len ≤ hbmBytes → bad = [] ∨ bad ≠ linesOf addr len →
      ∃ t, exec (.hostRead addr len false env) s = .next t ∧ t.w.dev.readData = blank bad addr (({ s.w with mem := m } : Work).seenBytes addr len) ∧
        t.w.mem.hbm = m.hbm ∧ t.w.mem.hostReads = s.w.mem.hostReads + BitVec.ofNat 64 bad.length ∧ t.w.plan = s.w.plan ∧
        s.SameBlocks t)) ∧
  (∀ (addr len : Nat) (data : List Byte) (busy : Bool) (env : Env) (s : State),
     (hbmBytes < addr + len → exec (.hostRead addr len busy env) s = .fault (.noSuchAddress addr)) ∧
     (hbmBytes < addr + data.length → exec (.hostWrite addr data busy env) s = .fault (.noSuchAddress addr)) ∧
     (∀ p k r l wr, s.w.plan = some p → l ∈ linesOf addr len → p.regionOf? (64 * l) = some (k, r) → Reg.owned r = true →
       s.w.stepping = true → l ∈ s.w.barredLines addr len wr) ∧
     (s.apertureOpen = true →
       (addr + len ≤ hbmBytes → 0 < len → s.w.barredLines addr len false = linesOf addr len →
         ∃ t, exec (.hostRead addr len busy env) s = .next t ∧ t.w.dev.readData = zeros len ∧
         t.w.mem = { s.w.mem with hostReads := s.w.mem.hostReads + BitVec.ofNat 64 (linesOf addr len).length } ∧
         t.w.run = s.w.run ∧ s.SameBlocks t) ∧
       (addr + data.length ≤ hbmBytes → data ≠ [] → s.w.barredLines addr data.length true = linesOf addr data.length →
         exec (.hostWrite addr data busy env) s = .next { s with w := { s.w with mem := { s.w.mem with
           hostWrites := s.w.mem.hostWrites + BitVec.ofNat 64 (linesOf addr data.length).length } } })))

/-! ### Result slots -/

/-- READ_RESULT and RELEASE_RESULT (R874 to R878). On a ready slot READ_RESULT returns STATUS, OPCODE, LENGTH and the
first 16 body bytes, with ST_OK at the first read and ST_OK_REPEAT at every later one, writes the whole record where
its address is nonzero, and leaves the slot ready with the same data; RELEASE_RESULT frees it. On a slot that is taken
and not ready both reply ST_NOT_READY, on a free slot ST_BAD_PARAM, and change nothing. -/
def Obligations.ResultSlots : Prop :=
  ∀ (ring slot addr : Nat) (s : State), s.w.dev.state ∈ started → slot < 256 →
    (∀ r, mget s.w.dev.results none slot = some r → r.ready = true →
      (∃ (u : State) (res : List Byte),
        exec (.readResult ring slot addr) s = .next (u.reply ring (if r.read then stOkRepeat else stOk) res) ∧
        leAt res 0 1 = r.status.toNat ∧ leAt res 2 2 = r.opcode.toNat ∧ leAt res 4 4 = r.body.length % 2 ^ 32 ∧
        res.drop 8 = r.body.take 16 ∧
        mget u.w.dev.results none slot = some { r with read := true } ∧
        (∀ j, j ≠ slot → mget u.w.dev.results none j = mget s.w.dev.results none j) ∧
        (addr = 0 → u.w.mem = s.w.mem) ∧
        (addr ≠ 0 → ring < 64 → s.w.dev.linkUp = true →
          u.w.mem.companion.readN addr r.record.length = r.record ∧
          ∀ a, a < addr ∨ addr + r.record.length ≤ a → u.w.mem.companion.read a = s.w.mem.companion.read a) ∧
        s.w.SamePlanWork u.w ∧ s.SameBlocks u) ∧
      (∃ t, exec (.releaseResult ring slot) s = .next t ∧ mget t.w.dev.results none slot = none ∧
        (∀ j, j ≠ slot → mget t.w.dev.results none j = mget s.w.dev.results none j) ∧ s.w.SamePlanWork t.w ∧ s.SameBlocks t)) ∧
    (∀ r, mget s.w.dev.results none slot = some r → r.ready = false →
      exec (.readResult ring slot addr) s = .next (s.reply ring stNotReady []) ∧
      exec (.releaseResult ring slot) s = .next (s.reply ring stNotReady [])) ∧
    (mget s.w.dev.results none slot = none →
      exec (.readResult ring slot addr) s = .next (s.reply ring stBadParam []) ∧
      exec (.releaseResult ring slot) s = .next (s.reply ring stBadParam []))

/-- A command whose row names a result slot takes the lowest free one, or, with none free, is refused with ST_BUSY and
changes nothing (R871, R872). EVENT_LOG_READ and TELEMETRY_READ complete at once: their slot is ready with ST_OK
(R957, R1055). EVENT_LOG_READ's body names the first entry that it gave, how many, and the next entry's number. -/
def Obligations.LogAndTelemetryRead : Prop :=
  ∀ (ring first n addr : Nat) (s : State), s.w.dev.state ∈ started →
    (s.w.dev.freeSlot = none → ∀ c ∈ [Instr.eventLogRead ring first n addr, .telemetryRead ring addr],
      exec c s = .next (s.reply ring stBusy [])) ∧
    (∀ k, s.w.dev.freeSlot = some k →
      (∃ t r, exec (.eventLogRead ring first n addr) s = .next t ∧ mget t.w.dev.results none k = some r ∧ r.ready = true ∧
        r.opcode = 0x0700 ∧ r.status = 0 ∧
        (let oldest := s.w.dev.logNext.toNat - s.w.dev.log.length
         let from_ := max first oldest
         r.body = toLE 4 from_ ++ toLE 4 (min n (s.w.dev.log.length - (from_ - oldest))) ++ toLE 4 s.w.dev.logNext.toNat) ∧
        s.w.SamePlanWork t.w ∧ s.SameBlocks t) ∧
      (∃ t r, exec (.telemetryRead ring addr) s = .next t ∧ mget t.w.dev.results none k = some r ∧ r.ready = true ∧
        r.opcode = 0x0701 ∧ r.status = 0 ∧ r.body.length = 128 ∧ leAt r.body 0 8 = s.w.rel.runMs % 2 ^ 64 ∧
        leAt r.body 8 8 = (s.readReg 0x0400).toNat ∧ s.w.SamePlanWork t.w ∧ s.SameBlocks t))

/-- TRACE_CONFIG (R1044): a buffer at a multiple of 4,096 whose size is a power of two from 65,536 to 2^30 is taken,
and tracing starts afresh with TRACE_LOST kept; any other is refused. -/
def Obligations.TraceConfigured : Prop :=
  ∀ (ring addr bytes enable : Nat) (s : State), s.w.dev.state ∈ [DevState.standby, .joined, .loaded] → enable < 2 →
    (addr % 4096 = 0 → (∃ n, 16 ≤ n ∧ n ≤ 30 ∧ bytes = 2 ^ n) → addr + bytes ≤ hbmBytes →
      ∃ t, exec (.traceConfig ring addr bytes enable) s = .next t ∧ t.w.trace.base.toNat = addr ∧ t.w.trace.bytes.toNat = bytes ∧
        t.w.trace.on = decide (enable = 1) ∧ t.w.trace.ptr = 0 ∧ t.w.trace.lost = s.w.trace.lost ∧ t.w.mem.hbm = s.w.mem.hbm ∧
        t.w.cores = s.w.cores ∧ t.w.run = s.w.run ∧ s.SameBlocks t) ∧
    (addr % 4096 ≠ 0 ∨ (¬ ∃ n, 16 ≤ n ∧ n ≤ 30 ∧ bytes = 2 ^ n) →
      exec (.traceConfig ring addr bytes enable) s = .next (s.reply ring stBadParam []))

/-! ### Plans, steps and scales -/

/-- PLAN_LOAD takes a slot and reads its image, and LOAD_BUSY stands at 1 (R92, R862); PLAN_UNLOAD disarms the plan
and the module is JOINED (R859). While LOAD_BUSY is 1, PLAN_LOAD, PLAN_UNLOAD, STEP_RUN and HERD_LEAVE are refused
with ST_BUSY (R862). The end of a verification in JOINED or LOADED (R92, R93, R859): an image that fails a check
leaves the module's plan and state as they were, and its slot is ready with the status and the two fields of R93; an
image that passes every check is armed, the module is LOADED, and the count of steps begins anew. -/
def Obligations.PlansArmed : Prop :=
  (∀ (ring addr bytes k : Nat) (s : State), s.w.dev.state = .joined ∨ s.w.dev.state = .loaded →
     (∀ space < 2, s.w.dev.load = none → s.w.dev.freeSlot = some k → (space = 1 → addr + bytes ≤ hbmBytes) →
       ∃ t, exec (.planLoad ring addr bytes space) s = .next t ∧
         (let img := if space = 0 then s.w.compRead ring addr bytes else s.w.mem.hbmRead addr bytes
          t.w.dev.load = some { slot := k, declared := bytes, image := img }) ∧
         (mget t.w.dev.results none k).isSome = true ∧ t.w.plan = s.w.plan ∧ t.w.run = s.w.run ∧ s.SameBlocks t) ∧
     (s.w.dev.state = .loaded → s.w.dev.load = none → ∃ t, exec (.planUnload ring) s = .next t ∧ t.w.plan = none ∧ t.w.dev.state = .joined ∧
       t.w.run.accepted = none ∧ t.w.run.queued = none ∧ t.w.mem.hbm = s.w.mem.hbm ∧ t.w.scales = s.w.scales ∧
       t.w.cores = s.w.cores ∧ s.SameBlocks t)) ∧
  (∀ (ring addr bytes space start : Nat) (s : State), s.w.dev.load.isSome = true → s.w.dev.state ≠ .off →
     ∀ c ∈ [Instr.planLoad ring addr bytes space, .planUnload ring, .stepRun ring start, .herdLeave ring],
       ∀ allowed, allowedIn c = some allowed → s.w.dev.state ∈ allowed → exec c s = .next (s.reply ring stBusy [])) ∧
  (∀ (j : LoadJob) (s : State), s.w.dev.load = some j → s.w.dev.state = .joined ∨ s.w.dev.state = .loaded →
     (s.planFaults j.image j.declared ≠ [] → ∃ t b, exec .planLoadVerified s = .next t ∧ b ∈ s.planFaults j.image j.declared ∧
       t.w.plan = s.w.plan ∧ t.w.dev.state = s.w.dev.state ∧ t.w.dev.load = none ∧ t.w.cores = s.w.cores ∧ t.w.mem.hbm = s.w.mem.hbm ∧
       (∀ r, mget s.w.dev.results none j.slot = some r → mget t.w.dev.results none j.slot =
         some { r with ready := true, status := BitVec.ofNat 8 (reasonStatus b.1), body := toLE 2 b.1 ++ toLE 2 b.2 })) ∧
     (s.planFaults j.image j.declared = [] → s.w.changeWaits = false →
       ∃ t, exec .planLoadVerified s = .next t ∧ t.w.plan = some (parsePlan j.image) ∧ t.w.dev.state = .loaded ∧
         t.w.dev.load = none ∧ t.w.run.begun = 0 ∧ t.w.run.commits = 0 ∧ s.SameBlocks t))

/-- STEP_RUN with a plan armed (R119, R863, R867): the first is accepted, one behind an accepted or running step is queued,
and with one queued already it is refused with ST_BUSY; a bellwether without IEEE 1588 lock takes it with START 0. STEP_HOLD asks for a stop (R870). STEP_RESUME (R869, R913,
R993): at the bellwether, cool and with no stop under way, the herd tick named, or the first that the herd can keep
when the parameter is 0, is the one of resumption; an earlier one is refused with ST_BAD_PARAM; a member that is not
the bellwether refuses with ST_BAD_PARAM, and a warm one with ST_BUSY. -/
def Obligations.StepsAsked : Prop :=
  (∀ (ring start k : Nat) (s : State) (p : Plan), s.w.dev.state = .loaded ∨ s.w.dev.state = .running →
     s.w.dev.load = none → s.w.plan = some p → p.cls = s.w.rel.cls →
     (s.w.run.queued = none → s.w.dev.freeSlot = some k →
       ∃ t, exec (.stepRun ring start) s = .next t ∧
         (let start' := if s.w.cad.bellwether ∧ !s.w.cad.ptpOk then 0 else start
          let q : StepReq := { slot := k, start := start', since := s.w.cad.tickCount.toNat }
          if s.w.run.accepted = none ∧ s.w.run.step = none then t.w.run = { s.w.run with accepted := some q }
          else t.w.run = { s.w.run with queued := some q }) ∧
         t.w.plan = s.w.plan ∧ t.w.cores = s.w.cores ∧ t.w.mem.hbm = s.w.mem.hbm ∧ s.SameBlocks t) ∧
     (s.w.run.queued.isSome = true → exec (.stepRun ring start) s = .next (s.reply ring stBusy [])) ∧
     (∃ t, exec (.stepHold ring) s = .next t ∧ t.w.run = { s.w.run with wantStop := true, holdCmd := true } ∧
       t.w.cores = s.w.cores ∧ t.w.mem.hbm = s.w.mem.hbm ∧ s.SameBlocks t)) ∧
  (∀ (ring tick : Nat) (s : State), s.w.dev.state = .held →
     (s.w.cad.bellwether = true → s.pwr.hot = false → s.w.run.resumeAt = none → s.w.run.stopped = false →
       s.w.run.stopOrigin = none → s.w.run.wantStop = false → tick = 0 ∨ s.w.cad.tickCount.toNat + s.w.lead ≤ tick →
       ∃ t, exec (.stepResume ring tick) s = .next t ∧
         t.w.run = { s.w.run with resumeAt := some (if tick = 0 then s.w.cad.tickCount.toNat + s.w.lead else tick) } ∧
         t.w.cad = s.w.cad ∧ t.w.mem.hbm = s.w.mem.hbm ∧ s.SameBlocks t) ∧
     (s.w.cad.bellwether = true → s.pwr.hot = false → s.w.run.resumeAt = none → s.w.run.stopped = false →
       s.w.run.stopOrigin = none → s.w.run.wantStop = false → tick ≠ 0 → tick < s.w.cad.tickCount.toNat + s.w.lead →
       exec (.stepResume ring tick) s = .next (s.reply ring stBadParam [])) ∧
     (s.w.cad.bellwether = false → exec (.stepResume ring tick) s = .next (s.reply ring stBadParam [])) ∧
     (s.w.cad.bellwether = true → s.pwr.hot = true → exec (.stepResume ring tick) s = .next (s.reply ring stBusy [])))

/-- SCALE_WRITE and SCALE_READ (R213 to R215): channel first + k takes byte 2k of the table as its exponent, and byte
2k + 1 as its zero point where the slot's format has one; a code of 255 anywhere refuses the write; SCALE_READ writes
the same layout back. -/
def Obligations.ScaleCommands : Prop :=
  ∀ (ring slot first count addr k : Nat) (s : State) (e : SlotEnt), s.w.dev.state = .loaded →
    s.w.scaleSlot slot first count = some e → s.w.dev.freeSlot = some k →
    let tab := s.w.compRead ring addr (2 * count)
    ((∀ i < count, leAt tab (2 * i) 1 ≠ 255) → ∃ t, exec (.scaleWrite ring slot first count addr) s = .next t ∧
      (∀ i < count, t.w.scales.chan (SlotEnt.base e + first + i) =
        (leAt tab (2 * i) 1, if (SlotEnt.fmt e).zp then leAt tab (2 * i + 1) 1
          else (s.w.scales.chan (SlotEnt.base e + first + i)).2)) ∧
      (∀ c, c < SlotEnt.base e + first ∨ SlotEnt.base e + first + count ≤ c → t.w.scales.chan c = s.w.scales.chan c) ∧
      t.w.cores = s.w.cores ∧ t.w.mem.hbm = s.w.mem.hbm ∧ t.w.run = s.w.run ∧ s.SameBlocks t) ∧
    ((∃ i < count, leAt tab (2 * i) 1 = 255) →
      exec (.scaleWrite ring slot first count addr) s = .next (s.reply ring stBadParam [])) ∧
    (ring < 64 → s.w.dev.linkUp = true → ∃ u, exec (.scaleRead ring slot first count addr) s = .next (State.reply u ring stOk (toLE 2 k)) ∧
      ((s.w.dev.noteEnable = false → ∀ i < count, u.w.mem.companion.read (addr + 2 * i) =
          BitVec.ofNat 8 (s.w.scales.chan (SlotEnt.base e + first + i)).1 ∧
        u.w.mem.companion.read (addr + 2 * i + 1) =
          (if (SlotEnt.fmt e).zp then BitVec.ofNat 8 (s.w.scales.chan (SlotEnt.base e + first + i)).2 else 0)) ∧
       u.w.scales = s.w.scales ∧ u.w.cores = s.w.cores ∧ s.SameBlocks u))

/-! ### Copies -/

/-- MEM_COPY and SPARSE_PACK complete for every pair of descriptors that is not refused, with a slot free: what they
write is taken from their source as it stands then (R282), and the record waits in the slot for the end of the paced
copy, with ST_OK, or with ST_XLATE_FAULT where an address lies in no region that permits the access; no tally, no local
store (but of the cores through which an overlapping copy is staged, R284), no plan state, no scale, no step and no
block beside the work state changes. MEMORY_COMMAND_DONE completes: the slot is ready with the status and the body of
its record, its job is gone, and every other slot stays (R280, R553, R987); while an emergency pauses copies it changes
nothing (R994). A bad descriptor is refused and changes nothing (R278, R293, R551). SPARSE_PACK (R551 to R553). Into 2:4
form with areas that are large enough: the three counts of R553 go into the record, groups pruned first, ST_OK_PRUNED
stands in it exactly when a group was pruned, and they count in SP_PRUNED_GROUPS (R546; of core 0, the model's choice,
log entry 62). Into gap-coded form: the counts of values and code bytes of the gap-coded source. Where the values, the
metadata or the row index table do not fit the command is refused with ST_BAD_DESCRIPTOR and nothing is written. -/
def Obligations.MemoryCommands : Prop :=
  let kept (s t : State) : Prop := t.w.plan = s.w.plan ∧ t.w.scales = s.w.scales ∧ t.w.cad = s.w.cad ∧ t.w.run = s.w.run ∧
    t.w.cum = s.w.cum ∧ t.w.stages = s.w.stages ∧ t.w.net = s.w.net ∧ t.w.trace = s.w.trace ∧ s.SameBlocks t
  let waits (k op : Nat) (t : State) : Prop := ∃ r, mget t.w.dev.results none k = some r ∧ r.ready = false ∧ r.opcode = BitVec.ofNat 16 op
  (∀ (ring src dst ext k : Nat) (env : Env) (s : State), s.w.dev.state ∈ [DevState.standby, .joined, .loaded] →
     (s.w.copyBad (s.w.cmdDesc ring src) (s.w.cmdDesc ring dst) = false → s.w.dev.freeSlot = some k →
       let a := tensor (s.w.cmdDesc ring src)
       let b := tensor (s.w.cmdDesc ring dst)
       let w0 : Work := { s.w.takeSlot k ring 0x0300 with mem := s.w.mem.see env }
       let r := w0.copy a b
       let ok := w0.reaches [(a.base, a.extent)] false && w0.reaches [(b.base, b.extent)] true
       let staged := overlaps a b && !swapsInPlace (s.w.cmdDesc ring src) (s.w.cmdDesc ring dst)
       ∃ t, exec (.memCopy ring src dst env) s = .next t ∧ t.w.mem.hbm = r.1.mem.hbm ∧ t.w.mem.peers = r.1.mem.peers ∧
         t.w.dev.jobs = s.w.dev.jobs ++ [{ slot := k, status := BitVec.ofNat 8 (if ok then stOk else stXlateFault), body := toLE 8 r.2 }] ∧
         waits k 0x0300 t ∧ (staged = false → t.w.cores = s.w.cores) ∧ (∀ c, 64 ≤ c → t.w.core c = s.w.core c) ∧ kept s t) ∧
     (s.w.copyBad (s.w.cmdDesc ring src) (s.w.cmdDesc ring dst) = true →
       exec (.memCopy ring src dst env) s = .next (s.reply ring stBadDescriptor [])) ∧
     (packBad (s.w.cmdDesc ring src) (s.w.cmdDesc ring dst) (s.w.cmdDesc ring ext) = true →
       exec (.sparsePack ring src dst ext env) s = .next (s.reply ring stBadDescriptor []))) ∧
  (∀ (k : Nat) (s : State),
     (∀ j, s.w.dev.jobs.find? (fun j => j.slot = k) = some j → s.pwr.paused = false →
       exec (.memoryCommandDone k) s = .next (State.finish { s with w := { s.w with dev := { s.w.dev with jobs := s.w.dev.jobs.erase j } } }
         k j.status.toNat j.body) ∧
       ∀ r, mget s.w.dev.results none k = some r → ∃ t, exec (.memoryCommandDone k) s = .next t ∧
         mget t.w.dev.results none k = some { r with ready := true, status := j.status, body := j.body } ∧
         (∀ i, i ≠ k → mget t.w.dev.results none i = mget s.w.dev.results none i) ∧ t.w.dev.jobs = s.w.dev.jobs.erase j ∧
         t.w.mem.hbm = s.w.mem.hbm ∧ t.w.cores = s.w.cores ∧ t.fab = s.fab ∧ t.pwr = s.pwr ∧ t.pending = s.pending ∧
         t.sec = s.sec.countAuth j.status.toNat) ∧
     (s.pwr.paused = true → exec (.memoryCommandDone k) s = .next s)) ∧
  (∀ (ring src dst ext k : Nat) (env : Env) (s : State), s.w.dev.state ∈ [DevState.standby, .joined, .loaded] →
     packBad (s.w.cmdDesc ring src) (s.w.cmdDesc ring dst) (s.w.cmdDesc ring ext) = false → s.w.dev.freeSlot = some k →
     let d := tensor (s.w.cmdDesc ring dst)
     let need := d.stored.maxElem / 4 + 1
     let area := (metaOf (s.w.cmdDesc ring ext)).bytes
     let mt := metaOf (s.w.cmdDesc ring ext)
     let g := ({ s.w with mem := s.w.mem.see env } : Work).gapOut (tensor (s.w.cmdDesc ring src))
     let fits24 := s.w.reaches [(mt.base, need), (d.base, d.stored.extent)] true
     let fitsGap := s.w.reaches [(mt.base, g.codes.length), (mt.rowidx, g.index.length), (d.base, d.fmt.dataOff g.vals.length)] true
     (d.sparse ≠ 3 → need ≤ area → fits24 = true → ∃ t pruned written st, exec (.sparsePack ring src dst ext env) s = .next t ∧
       (let b : List Byte := toLE 8 pruned ++ toLE 8 written ++ toLE 8 need
        t.w.dev.jobs = s.w.dev.jobs ++ [{ slot := k, status := BitVec.ofNat 8 st, body := b }]) ∧
       (st = stXlateFault ∨ (st = stOk ∧ pruned = 0) ∨ (st = stOkPruned ∧ 0 < pruned)) ∧ waits k 0x0301 t ∧
       t.w.core 0 = (s.w.core 0).count .spPruned pruned ∧ (∀ c, c ≠ 0 → t.w.core c = s.w.core c) ∧ kept s t) ∧
     (d.sparse = 3 → g.codes.length ≤ area → fitsGap = true → ∃ t st, exec (.sparsePack ring src dst ext env) s = .next t ∧
       (let b : List Byte := toLE 8 0 ++ toLE 8 g.vals.length ++ toLE 8 g.codes.length
        t.w.dev.jobs = s.w.dev.jobs ++ [{ slot := k, status := BitVec.ofNat 8 st, body := b }]) ∧
       (st = stXlateFault ∨ st = stOk) ∧ waits k 0x0301 t ∧ t.w.cores = s.w.cores ∧ kept s t) ∧
     ((d.sparse ≠ 3 ∧ (area < need ∨ fits24 = false)) ∨ (d.sparse = 3 ∧ (area < g.codes.length ∨ fitsGap = false)) →
       exec (.sparsePack ring src dst ext env) s = .next (s.reply ring stBadDescriptor [])))

/-! ### Power, resets, temperature -/

/-- POWER_GOOD of a module that is OFF or at power-good, the warm resets by MOD_RESET_N and by DEV_RESET (R972 to
R974), and the start-up that follows (R976): when nothing fails the module is in STANDBY with its memory zeroed, no
plan, the registers of the cadence at their reset values, LAST_RESET naming the source (R999), and the repair record,
the flash slots and the owner keys kept; when no firmware slot passes it is in FAULT. A warm reset keeps the event
log. -/
def Obligations.Resets : Prop :=
  ∀ (ring : Nat) (obs : BootObs) (s : State), s.channelsOk →
    let came (src : Nat) (t : State) : Prop :=
      t.w.dev.state = .standby ∧ t.w.plan = none ∧ t.w.run = {} ∧ t.w.cad = {} ∧ t.w.mem.hbm = {} ∧ t.w.mem.trained = true ∧
      t.w.scales = {} ∧ t.w.dev.linkUp = obs.linkUp ∧ t.w.dev.results = [] ∧ t.fab.joined = false ∧
      t.pwr.lastReset = BitVec.ofNat 2 src ∧ t.pwr.aliveN = false ∧ t.sec.bootB = s.sec.activeB ∧ t.sec.fallback = false ∧
      t.sec.keys = s.sec.keys ∧ t.sec.ownerRequire = s.sec.ownerRequire ∧ t.sec.slotA = s.sec.slotA ∧ t.sec.slotB = s.sec.slotB ∧
      t.w.rel.cls = s.w.rel.cls ∧ t.w.rel.coreMap = s.w.rel.coreMap ∧ t.w.mem.lost = s.w.mem.lost
    (cleanBoot obs = true → s.sec.bootable obs s.sec.activeB = true →
      (s.w.dev.state = .off ∨ s.w.dev.state = .boot → ∃ t, exec (.powerGood obs) s = .next t ∧ came 0 t ∧ t.w.dev.log = [] ∧
        t.w.mem.companion = s.w.mem.companion) ∧
      (s.w.dev.state ≠ .off → ∃ t, exec (.modResetN obs) s = .next t ∧ came 2 t ∧ t.w.dev.log = s.w.dev.log ∧
        t.w.mem.companion = s.w.mem.companion) ∧
      (s.w.dev.state ∈ [DevState.standby, .joined, .loaded, .running, .held, .fault] →
        ∃ t, exec (.devReset ring obs) s = .next t ∧ came 1 t ∧ t.w.dev.log = s.w.dev.log ∧
          t.w.mem.companion = (s.reply ring stOk []).w.mem.companion)) ∧
    (s.sec.bootSlot obs = none →
      (s.w.dev.state = .off ∨ s.w.dev.state = .boot → ∃ t, exec (.powerGood obs) s = .next t ∧ t.w.dev.state = .fault) ∧
      (s.w.dev.state ≠ .off → ∃ t, exec (.modResetN obs) s = .next t ∧ t.w.dev.state = .fault))

/-- UNDERVOLTAGE and POWER_LOSS (R963, R966): the module is OFF, nothing is committed, HBM, the local stores and every
register are lost, and what needs no power stays: companion memory outside the module, the flash slots, the fuses, the
owner keys, the class and the lost-line list. -/
def Obligations.PowerLost : Prop :=
  ∀ (s : State), s.w.dev.state ≠ .off → ∀ c ∈ [Instr.undervoltage, .powerLoss],
    ∃ t, exec c s = .next t ∧ t.w.dev.state = .off ∧ t.w.mem.hbm = {} ∧ t.w.plan = none ∧ t.w.run = {} ∧ t.w.cad = {} ∧
      (∀ k, (t.w.core k).ls = {} ∧ (t.w.core k).prog = []) ∧ t.pwr.powerGood = false ∧ t.pwr.thermTripN = true ∧
      t.w.mem.companion = s.w.mem.companion ∧ t.w.mem.lost = s.w.mem.lost ∧ t.w.rel.cls = s.w.rel.cls ∧
      t.sec.slotA = s.sec.slotA ∧ t.sec.slotB = s.sec.slotB ∧ t.sec.activeB = s.sec.activeB ∧ t.sec.minSvn = s.sec.minSvn ∧
      t.sec.keys = s.sec.keys ∧ t.sec.ownerRequire = s.sec.ownerRequire ∧ t.pending = s.pending

/-- TEMP_SAMPLE (R988 to R996). The registers take the sample. Below the emergency thresholds the state of the device
and the running step go on. At an emergency a RUNNING module owes a stop for its temperature and a LOADED one enters
HELD with the thermal cause; at a trip THERMTRIP_N falls and the module is OFF. -/
def Obligations.TemperatureSampled : Prop :=
  ∀ (x : Sensors) (s : State), s.w.dev.state ≠ .off →
    (heat x < 2 → ∃ t, exec (.tempSample x) s = .next t ∧ t.w.dev.state = s.w.dev.state ∧ t.w.run = s.w.run ∧
      t.pwr.dies = BitVec.ofNat 64 (packTemps x) ∧ t.pwr.voltMv = BitVec.ofNat 16 x.voltMv ∧ t.pwr.current = BitVec.ofNat 16 x.current ∧
      t.pwr.warn = decide (0 < heat x) ∧ t.pwr.inletHigh = decide (35 < x.inlet) ∧ t.pwr.emergency = false ∧
      (∀ k < 12, (t.w.mem.stack k).temp = BitVec.ofNat 8 (x.stackTemps.getD k 0) ∧
        (t.w.mem.stack k).active = (s.w.mem.stack k).active) ∧
      t.w.mem.hbm = s.w.mem.hbm ∧ t.w.cores = s.w.cores ∧ t.w.plan = s.w.plan ∧ t.w.cad = s.w.cad ∧ t.fab = s.fab ∧ t.sec = s.sec) ∧
    (heat x = 2 → s.w.dev.state = .running → s.w.run.step.isSome = true →
      ∃ t, exec (.tempSample x) s = .next t ∧ t.w.dev.state = .running ∧
        t.w.run = { s.w.run with thermalStop := true, wantStop := true } ∧ t.pwr.emergency = true ∧ t.pwr.emergencySeen = (s.pwr.emergencySeen || !s.pwr.emergency)) ∧
    (heat x = 2 → s.w.dev.state = .loaded → ∃ t, exec (.tempSample x) s = .next t ∧ t.w.dev.state = .held ∧ t.w.dev.cause = .thermal ∧
      t.w.dev.prev = .loaded ∧ (s.w.run.step = none → t.pwr.paused = true)) ∧
    (3 ≤ heat x → ∃ t, exec (.tempSample x) s = .next t ∧ t.w.dev.state = .off ∧ t.pwr.thermTripN = false ∧ t.pwr.powerGood = false ∧
      t.w.mem.hbm = {})

/-! ### Herds -/

/-- HERD_FORM and JOIN_RECEIVE in STANDBY (R888, R889): the module takes the herd's parameters and its index, LOCK
reads 1, and the join is passed on; HERD_FORM's slot is taken and its record waits. In JOINED the same HERD_FORM again
answers ST_OK and any other ST_STATE_CONFLICT, and both change nothing (R891). -/
def Obligations.HerdJoined : Prop :=
  ∀ (ring port k : Nat) (p : HerdParams) (s : State),
    let took (m : Nat) (t : State) : Prop :=
      t.w.cad.lock = 1 ∧ t.w.cad.tickClk = BitVec.ofNat 17 p.tickClk ∧ t.w.cad.slackClk = BitVec.ofNat 12 p.slackClk ∧
      t.w.cad.stretchMax = BitVec.ofNat 7 p.stretchMax ∧ t.w.cad.bellwether = decide (m = p.bellwether) ∧
      t.fab.member = BitVec.ofNat 10 m ∧ t.fab.herd = BitVec.ofNat 8 p.herd ∧ t.fab.xM1 = BitVec.ofNat 4 p.xM1 ∧
      t.fab.yM1 = BitVec.ofNat 3 p.yM1 ∧ t.fab.zM1 = BitVec.ofNat 3 p.zM1 ∧ t.pwr.clockSel = decide (p.clockSel = 1) ∧
      (p.memX ≤ s.w.mem.minGib → t.w.mem.splitX = BitVec.ofNat 7 p.memX) ∧
      t.w.dev.state = .standby ∧ t.w.cores = s.w.cores ∧ t.w.plan = s.w.plan ∧ t.sec = s.sec
    (s.w.dev.state = .standby → s.w.cad.lock ≠ 1 → s.formOk p = true → s.w.dev.freeSlot = some k →
      ∃ t, exec (.herdForm ring p) s = .next t ∧ took p.member t ∧ t.w.dev.forming = some k ∧
        ∃ r, mget t.w.dev.results none k = some r ∧ r.ready = false ∧ r.opcode = 0x0100) ∧
    (s.w.dev.state = .standby → s.w.cad.lock ≠ 1 → s.formOk p = false →
      exec (.herdForm ring p) s = .next (s.reply ring stBadParam [])) ∧
    (s.w.dev.state = .joined → exec (.herdForm ring p) s =
      .next (s.reply ring (if p = s.herdParams then stOk else stStateConflict) [])) ∧
    (∀ x y z, s.w.dev.state = .standby → s.w.cad.lock = 0 → port < 40 → (s.fab.port port).bond.toNat < 6 →
      (s.fab.port port).working = true →
      ∃ t, exec (.joinReceive port p x y z) s = .next t ∧
        took (memberOf [p.xM1 + 1, p.yM1 + 1, p.zM1 + 1]
          (ownCoords [p.xM1 + 1, p.yM1 + 1, p.zM1 + 1] (s.fab.port port).bond.toNat [x, y, z])) t)

/-- CADENCE_LOCK and HERD_FORM_TIMEOUT while LOCK is 1 (R94, R106 to R108, R162, R892): the module is JOINED at herd
tick 0 with H = max(1, 2 × ⌈DMAX / P⌉), its cadence counters clear, and the record of its HERD_FORM is ready with
ST_OK; or LOCK is 0 and that record is ready with ST_PEER_LOST. -/
def Obligations.CadenceLocked : Prop :=
  ∀ (dmax delay k : Nat) (err : Int) (r : RSlot) (s : State), s.w.cad.lock = 1 → s.w.dev.state = .standby → s.w.dev.forming = some k →
    mget s.w.dev.results none k = some r →
    (∃ t, exec (.cadenceLock dmax delay err) s = .next t ∧ t.w.cad.lock = 2 ∧ t.w.cad.tickCount = 0 ∧ t.w.cad.time = 0 ∧
      t.w.cad.holdLead = BitVec.ofNat 8 (max 1 (2 * s.ticksOf dmax)) ∧ t.w.cad.dmax = BitVec.ofNat 16 dmax ∧
      t.w.cad.stretchCount = 0 ∧ t.w.cad.stretchClk = 0 ∧ t.w.cad.holdCount = 0 ∧ t.w.dev.state = .joined ∧ t.fab.joined = true ∧
      (∀ c < s.w.rel.cls, mget (t.w.core c).counts 0 (Ctr.off .slip) = 0 ∧ mget (t.w.core c).counts 0 (Ctr.off .idleCadence) = 0) ∧
      mget t.w.dev.results none k = some { r with ready := true, status := BitVec.ofNat 8 stOk, body := [] } ∧
      t.w.mem.hbm = s.w.mem.hbm ∧ t.sec = s.sec ∧ t.pwr = s.pwr) ∧
    (∃ t, exec .herdFormTimeout s = .next t ∧ t.w.cad.lock = 0 ∧ t.w.dev.state = .standby ∧ t.w.dev.forming = none ∧
      mget t.w.dev.results none k = some { r with ready := true, status := BitVec.ofNat 8 stPeerLost, body := [] } ∧
      t.w.mem.hbm = s.w.mem.hbm ∧ t.w.cores = s.w.cores ∧ s.SameBlocks t)

/-- HERD_LEAVE, LEAVE_RECEIVE and BEAT_LOSS of a member (R123 to R125, R659, R894): the module is in STANDBY with LOCK
0, no plan, no step and no slot open. A member that leaves while a step runs or is held gives that step up with
ST_PEER_LOST (said here for a plan without Cumulus, with nothing queued, discarded or waiting). INTERNAL_ERROR enters
FAULT with the cause 7 (R859, R897). -/
def Obligations.HerdLeft : Prop :=
  ∀ (ring port code : Nat) (s : State),
    (s.w.dev.state ∈ [DevState.joined, .loaded, .running, .held] →
      let left (t : State) : Prop := t.w.dev.state = .standby ∧ t.w.cad.lock = 0 ∧ t.w.cad.bellwether = false ∧ t.w.plan = none ∧
        t.w.run = {} ∧ t.fab.joined = false ∧ t.w.cum.openSlots = [] ∧ t.w.cum.batch = [] ∧ t.w.net.colls = [] ∧
        (s.w.changeWaits = false → s.w.policy? = none → s.w.run.ended = none → s.w.run.accepted = none → s.w.run.queued = none → s.w.run.discarded = [] →
          s.w.dev.load = none → ∀ x r, s.w.run.step = some x → mget s.w.dev.results none x.req.slot = some r →
          ∃ b, mget t.w.dev.results none x.req.slot = some { r with ready := true, status := BitVec.ofNat 8 stPeerLost, body := b })
      (s.w.dev.load = none → ∃ t, exec (.herdLeave ring) s = .next t ∧ left t) ∧
      ((s.fab.port port).working = true → ∃ t, exec (.leaveReceive port) s = .next t ∧ left t) ∧
      (s.w.cad.bellwether = false → ∃ t, exec .beatLoss s = .next t ∧ left t ∧ t.w.cad.beatLost = true)) ∧
    (s.w.dev.state ≠ .off → ∃ t, exec (.internalError code) s = .next t ∧ t.w.dev.state = .fault ∧
      (s.w.dev.state ≠ .fault → t.w.dev.cause = .internal ∧ t.w.dev.prev = s.w.dev.state) ∧
      t.w.dev.log.getLast? = some (s.w.eventEntry 0x000F 5 0xFFFF 0 0 0 code) ∧
      s.w.SamePlanWork t.w ∧ s.SameBlocks t)

/-- The bellwether's alignment (R109 to R117, R122): its reference lost means holdover (LOCK 3) and its return ends
it; a PPS edge is seen, and is the anchor where R110 or R112 makes it one: the grid is that edge's from then on, and no
lateness is owed; the lateness of an edge after it is kept for the next lengthening. Without an anchor an edge that is none
moves nothing. The loss of the pulse and what IEEE 1588 messages bring stand in CAD_STATUS and CAD_XHERD_ERR. Nothing
else changes. (That the boundaries stand late − drift after an anchor's grid is the model's reading, log entry 164.) -/
def Obligations.BellwetherAligned : Prop :=
  ∀ (sec timeNs : Nat) (late err : Int) (locked : Bool) (s : State), s.w.cad.bellwether = true →
    (s.w.cad.lock = 2 → exec .refclkLoss s = .next { s with w := { s.w with cad := { s.w.cad with lock := 3 } } }) ∧
    (s.w.cad.lock = 3 → exec .refclkReturn s = .next { s with w := { s.w with cad := { s.w.cad with lock := 2 } } }) ∧
    (exec .ppsLoss s = .next { s with w := { s.w with cad := { s.w.cad with ppsOk := false } } }) ∧
    (2 ≤ s.w.cad.lock.toNat → ∃ t, exec (.ppsEdge sec late) s = .next t ∧ t.w.cad.ppsOk = true ∧
      (s.w.cad.ptpOk = true ∧ sec % s.anchorSeconds = 0 ∨ s.w.cad.ptpOk = false ∧ s.w.cad.anchor = none →
        t.w.cad.anchor = some sec ∧ t.w.cad.trim = 0 ∧ t.w.cad.drift = s.w.cad.drift - late) ∧
      (s.w.cad.ptpOk = true ∧ sec % s.anchorSeconds ≠ 0 ∨ s.w.cad.ptpOk = false ∧ s.w.cad.anchor ≠ none →
        t.w.cad.anchor = s.w.cad.anchor ∧ t.w.cad.drift = s.w.cad.drift ∧
        t.w.cad.trim = if s.w.cad.anchor.isSome then late else s.w.cad.trim) ∧
      t = { s with w := { s.w with cad := { s.w.cad with
        ppsOk := true
        anchor := t.w.cad.anchor
        trim := t.w.cad.trim
        drift := t.w.cad.drift } } }) ∧
    (∃ t, exec (.ptpMessageReceive timeNs locked err) s = .next t ∧ t.w.cad.ptpOk = locked ∧ t.w.cad.xherdErr = BitVec.ofInt 16 err ∧
      (s.w.cad.ppsOk = true → t.w.cad.anchor = s.w.cad.anchor ∧ t.w.cad.trim = s.w.cad.trim ∧ t.w.cad.drift = s.w.cad.drift) ∧
      (locked = true → s.w.cad.ppsOk = false → 2 ≤ s.w.cad.lock.toNat → t.w.cad.anchor.isSome = true) ∧
      t = { s with w := { s.w with cad := { s.w.cad with
        ptpOk := locked
        epochNs := t.w.cad.epochNs
        xherdErr := t.w.cad.xherdErr
        anchor := t.w.cad.anchor
        trim := t.w.cad.trim
        drift := t.w.cad.drift } } })

/-- Timing blocks (R138, R142, R146, R750 to R753) of a locked herd on a working port. From the beat port a member
takes a beat, a stretch with its target tick, and a herd tick of resumption, and spreads each along the beat ports;
the bellwether records a hold that comes while a step runs, for the next origin where its own is decided (R134), and
any other member sends it on towards the bellwether; a stop from the beat port, or at the bellwether, makes
STOP_PENDING and the earliest origin count, and of the cores only idle clk counted since it may be held aside (R1093). A block whose CRC is wrong is dropped. -/
def Obligations.TimingBlocks : Prop :=
  ∀ (port : Nat) (b : W128) (s : State), (s.fab.port port).working = true → 2 ≤ s.w.cad.lock.toNat →
    let spread (r : Run) : State := { s with w := ({ s.w with run := r } : Work).spread b }
    (blockOk b = true →
      (s.w.cad.beatPort = some port → s.w.cad.bellwether = false →
        (blockKind b = 0 → exec (.beatBlock port b) s = .next (spread s.w.run)) ∧
        (blockKind b = 2 → exec (.stretchBlock port b) s = .next (spread
          { s.w.run with stretches := s.w.run.stretches ++ [(blockTick b, blockValue b)] })) ∧
        (blockKind b = 4 → ∃ k, exec (.resumeBlock port b) s = .next (spread { s.w.run with resumeAt := some k }) ∧
          k % 2 ^ 24 = blockTick b ∧ s.w.cad.tickCount.toNat ≤ k ∧ k < s.w.cad.tickCount.toNat + 2 ^ 24)) ∧
      (blockKind b = 1 → s.w.cad.bellwether = true → s.w.run.step.isSome = true →
        let held := s.w.run.holds ++ [(max (blockTick b) s.w.run.nextDecision, blockValue b)]
        exec (.holdBlock port b) s = .next { s with w := { s.w with run := { s.w.run with holds := held } } }) ∧
      (blockKind b = 1 → s.w.cad.bellwether = false →
        exec (.holdBlock port b) s = .next { s with w := { s.w with out := s.w.out ++ [Out.timing s.w.cad.beatPort b] } }) ∧
      (blockKind b = 3 → s.w.cad.bellwether = true ∨ s.w.cad.beatPort = some port →
        ∃ t o, exec (.stopBlock port b) s = .next t ∧ t.w.cad.stopPending = true ∧ t.w.run.stopOrigin = some o ∧
          (∀ o', s.w.run.stopOrigin = some o' → o ≤ o') ∧
          (let cad := { s.w.cad with stopPending := true }
           let run := { s.w.run with stopOrigin := some o }
           t = { s with w := ({ s.w with cad := cad, run := run, cores := t.w.cores } : Work).spread b }) ∧
          ∀ c, t.w.core c = { s.w.core c with
            counts := (t.w.core c).counts
            aside := (t.w.core c).aside
            idled := (t.w.core c).idled })) ∧
    (blockOk b = false → ∀ c ∈ [Instr.beatBlock port b, .holdBlock port b, .stretchBlock port b, .stopBlock port b,
      .resumeBlock port b], exec c s = .next s)

/-! ### Herd time -/

/-- TICK_BOUNDARY of a herd with cadence lock (R94, R100, R132, R139, R142): the tick count advances, offset 0 opens,
the herd time grows by the period and the stretch inserted, which enters APPLIED; a running step counts on unless tick
t + H of a stop has ended. A bellwether whose lag exceeds the slack holds the request of R132 under the tick's number
(here with no energy drawn, so that no cap adds to it). A member that owes a stop raises it with the present tick as
its origin, and where another stop is under way the earlier origin counts (R142). Memory stays, but that a row remap whose
copy is complete is due from this tick on (R334); the device block and the work of the cores stay. -/
def Obligations.TicksPass : Prop :=
  ∀ (energy : Nat) (s : State), 2 ≤ s.w.cad.lock.toNat → s.w.dev.state ≠ .off →
    let st := s.w.run.stretch
    let on := decide (s.w.dev.state = .running) && s.w.run.step.isSome && !s.w.stopDue
    ∃ t, exec (.tickBoundary energy) s = .next t ∧ t.w.cad.tickCount = s.w.cad.tickCount + 1 ∧ t.w.cad.offset = 0 ∧
      t.w.cad.time = s.w.cad.time + s.w.period + st ∧ t.w.cad.stretchClk = s.w.cad.stretchClk + BitVec.ofNat 64 st ∧
      t.w.run.applied = s.w.run.applied + st ∧ t.w.run.counting = on ∧
      t.w.run.tick = (if on then s.w.run.tick + 1 else s.w.run.tick) ∧
      (∀ p, s.w.plan = some p → on = true → s.w.cad.bellwether = true → energy = 0 →
        let u := ({ s with w := { s.w with mem := s.w.mem.remapsDue } } : State).endTick.w.nextTick.sampleLag
        let slack := u.cad.slackClk.toNat
        slack < u.lag p →
          t.w.run.holds = s.w.run.holds ++ [(u.run.tick.toNat, u.run.applied + ceilDiv (u.lag p - slack) slack * slack)]) ∧
      (s.w.run.wantStop = true →
        t.w.run.stopOrigin = some (match s.w.run.stopOrigin with
          | some o => min o t.w.cad.tickCount.toNat
          | none => t.w.cad.tickCount.toNat) ∧ t.w.cad.stopPending = true ∧ t.w.run.wantStop = false) ∧
      t.w.mem = s.w.mem.remapsDue ∧ t.w.dev = s.w.dev ∧ t.w.plan = s.w.plan ∧ t.w.scales = s.w.scales ∧ t.w.cum = s.w.cum ∧
      t.fab = s.fab ∧ t.sec = s.sec ∧
      (∀ c, (t.w.core c).prog = (s.w.core c).prog ∧ (t.w.core c).ls = (s.w.core c).ls ∧ (t.w.core c).cells = (s.w.core c).cells)

/-- STRETCH_DECISION (R133): at the start of tick origin + ⌈DMAX / P⌉ the bellwether sets the stretch of tick origin +
H: the amount by which the largest request of that origin exceeds DECIDED, at most STRETCH_MAX × S; DECIDED grows by
it. HERD_STOP (R143, R864): at the end of tick t + H of a stop the module is in HELD, a queued step is discarded, and
the step, the memory and the cores stay as they are. -/
def Obligations.StretchAndStop : Prop :=
  ∀ (origin : Nat) (s : State),
    (s.w.cad.bellwether = true → s.w.run.step.isSome = true → s.w.run.counting = true → s.w.run.nextDecision ≤ origin →
      s.w.run.tick.toNat = origin + s.decisionLag →
      ∃ t st, exec (.stretchDecision origin) s = .next t ∧ st ≤ s.w.cad.stretchMax.toNat * s.w.cad.slackClk.toNat ∧
        (∀ q, (origin, q) ∈ s.w.run.holds → min (q - s.w.run.decided) (s.w.cad.stretchMax.toNat * s.w.cad.slackClk.toNat) ≤ st) ∧
        (0 < st → ∃ q, (origin, q) ∈ s.w.run.holds ∧ s.w.run.decided + st ≤ q) ∧
        t.w.run = { s.w.run with
          decided := s.w.run.decided + st
          nextDecision := origin + 1
          stretches := if st = 0 then s.w.run.stretches else s.w.run.stretches ++ [(origin + s.w.lead, st)] } ∧
        t.w.cad = s.w.cad ∧ t.w.mem = s.w.mem ∧ t.w.dev = s.w.dev ∧ t.w.cores = s.w.cores ∧ s.SameBlocks t) ∧
    (s.w.stopDue = true → s.w.dev.state ∈ [DevState.loaded, .running, .held] →
      ∃ t, exec .herdStop s = .next t ∧ t.w.dev.state = .held ∧ t.w.run.stopped = true ∧ t.w.run.stopOrigin = none ∧
        t.w.cad.stopPending = false ∧ t.w.run.queued = none ∧ t.w.run.discarded = s.w.run.discarded ++ s.w.run.queued.toList ∧
        t.w.run.step = s.w.run.step ∧ t.w.run.tick = s.w.run.tick ∧ t.w.dev.held = s.w.run.step.isSome ∧
        (s.w.dev.state ≠ .held → t.w.dev.cause =
          if s.w.run.thermalStop then .thermal else if s.w.run.holdCmd then .command else .herdStop) ∧
        (s.w.cad.bellwether = false → t.w.out.getLast? = some (Out.report s.ownReport)) ∧
        t.w.mem.hbm = s.w.mem.hbm ∧ t.w.cores = s.w.cores ∧ t.w.plan = s.w.plan ∧ s.SameBlocks t)

/-- STEP_START (R46, R100, R109, R113, R367, R814, R867, R903): the accepted step begins with the present herd tick as
its tick 0, on the grid of R109; the module is RUNNING; every core's streams and tallies are empty, none of its firings has
issued, and its local store is not carried over; the stage counts are 0; without a scratch region HBM stays.
ROUTE_SET_SWITCH (R760, R761): the switch listed for the step tick takes effect. REFRESH_WINDOW changes nothing that
the machine shows. -/
def Obligations.StepBegins : Prop :=
  ∀ (group window : Nat) (p : Plan) (s : State), s.w.plan = some p →
    (∀ q, s.w.run.accepted = some q → s.mayStart q = true →
      ∃ t, exec .stepStart s = .next t ∧ t.w.dev.state = .running ∧
        t.w.run.step = some { req := q, number := s.w.run.begun, startTick := s.w.cad.tickCount.toNat } ∧
        t.w.run.accepted = none ∧ t.w.run.queued = s.w.run.queued ∧ t.w.run.begun = s.w.run.begun + 1 ∧
        t.w.run.commits = s.w.run.commits ∧ t.w.run.tick = 0 ∧ t.w.run.counting = true ∧ t.w.run.applied = 0 ∧ t.w.run.decided = 0 ∧
        t.w.run.sections = [] ∧ t.w.run.activeSet = 0 ∧ t.w.run.detections = [] ∧ t.w.run.abandon = none ∧
        (s.w.cad.tickClk ≠ 0 → ((t.w.cad.time : Int) - s.w.cad.time - (s.w.aim - s.w.cad.drift)) % s.w.period = 0 ∧
          (t.w.cad.time : Int) - s.w.cad.time < s.w.period) ∧
        t.w.cad.drift = s.w.cad.drift + ((t.w.cad.time : Int) - s.w.cad.time) ∧ t.w.cad.trim = s.w.cad.trim ∧
        t.w.stages.live = [] ∧ t.w.stages.high = [] ∧ t.w.net.rx = [] ∧ t.w.net.colls = [] ∧
        (∀ c < s.w.rel.cls, (t.w.core c).prog = [] ∧ (t.w.core c).issued = [] ∧ (t.w.core c).retired = [] ∧ (t.w.core c).slots = [] ∧
          (t.w.core c).board = [] ∧ (t.w.core c).cells = [] ∧ ∃ d, ∀ a < 8388608, (t.w.core c).ls.read a = Config.freeByte d a) ∧
        ((∀ e ∈ p.commits, (commitFields e).2.2 ≠ 2) → t.w.mem.hbm = s.w.mem.hbm) ∧
        t.w.plan = some p ∧ t.w.scales = s.w.scales ∧ s.SameBlocks t) ∧
    (∀ e, p.switches.find? (fun e => bits e 23 0 = s.w.run.tick.toNat) = some e → s.w.run.counting = true →
      s.w.run.step.isSome = true → exec .routeSetSwitch s =
        .next { s with w := { s.w with run := { s.w.run with activeSet := BitVec.ofNat 3 (bits e 26 24) } } }) ∧
    (p.switches.find? (fun e => bits e 23 0 = s.w.run.tick.toNat) = none → exec .routeSetSwitch s = .next s) ∧
    exec (.refreshWindow group window) s = .next s

/-- STOP_DECISION (R910), once the reports of every member are in. Row 1, for a plan without Cumulus and nothing
discarded: the step's record is ready with the status of the first abandonment and OUTCOME 2, and the step is over.
Row 2: a detection with an opted-out region gives the step up with ST_DATA_LOST. Row 5: a detection with neither is a
rollback (R911): the step tick, APPLIED and DECIDED are 0 again, and the bellwether names a herd tick at least H ahead
for the rerun (R912). Rows 3 and 4: at the replay limit, or under a hold, the step is rolled back and held at its tick
0. With nothing to decide the step stays held as it is. -/
def Obligations.StopDecided : Prop :=
  ∀ (reports : List StopReport) (s : State), s.w.run.stopped = true → s.w.dev.state = .held → s.allReported reports = true →
    let det := !s.w.run.detections.isEmpty || reports.any (fun r => decide (r.kind = .detection))
    let hold := s.w.run.holdCmd || s.w.run.thermalStop || reports.any (fun r => decide (r.kind = .hold))
    (∀ st e x r, s.firstAbandon reports = some (st, e) → s.w.run.step = some x → s.w.policy? = none → s.w.run.discarded = [] →
      mget s.w.dev.results none x.req.slot = some r →
      ∃ t, exec (.stopDecision reports) s = .next t ∧ t.w.run.step = none ∧ t.w.run.stopped = false ∧ t.w.dev.state = .held ∧
        mget t.w.dev.results none x.req.slot = some { r with
          ready := true
          status := BitVec.ofNat 8 st
          body := recordBody st 0 2 x.replays x.number x.startTick x.stretchClk (some e) 0 } ∧
        t.w.dev.held = false ∧ t.w.plan = s.w.plan) ∧
    (∀ p x e r, s.firstAbandon reports = none → det = true → s.w.plan = some p → s.w.run.step = some x → s.w.optedOut p = some e →
      s.w.policy? = none → s.w.run.discarded = [] → mget s.w.dev.results none x.req.slot = some r →
      ∃ t b, exec (.stopDecision reports) s = .next t ∧ t.w.run.step = none ∧ t.w.dev.state = .held ∧
        t.w.rel.dataLost = s.w.rel.dataLost + 1 ∧
        mget t.w.dev.results none x.req.slot = some { r with ready := true, status := BitVec.ofNat 8 stDataLost, body := b }) ∧
    (∀ p x, s.firstAbandon reports = none → det = true → s.w.plan = some p → s.w.run.step = some x → s.w.optedOut p = none →
      ∃ t, exec (.stopDecision reports) s = .next t ∧ t.w.run.step = some x ∧ t.w.run.tick = 0 ∧ t.w.run.applied = 0 ∧
        t.w.run.decided = 0 ∧ t.w.run.detections = [] ∧ t.w.run.rerun = true ∧ t.w.run.stopped = false ∧ t.w.run.counting = false ∧
        t.w.dev.state = .held ∧ t.w.plan = s.w.plan ∧
        (s.w.rel.replayLimit.toNat ≤ x.sinceResume → t.w.rel.replayActive = false ∧ t.w.dev.held = true ∧ t.w.dev.cause = .maintenance ∧
          t.w.run.resumeAt = s.w.run.resumeAt) ∧
        (x.sinceResume < s.w.rel.replayLimit.toNat → hold = true → t.w.rel.replayActive = false ∧ t.w.dev.held = true ∧
          t.w.run.resumeAt = s.w.run.resumeAt) ∧
        (x.sinceResume < s.w.rel.replayLimit.toNat → hold = false → s.w.cad.bellwether = true →
          ∃ k, t.w.run.resumeAt = some k ∧ s.w.cad.tickCount.toNat + s.w.lead ≤ k)) ∧
    (s.firstAbandon reports = none → det = false → ∃ t, exec (.stopDecision reports) s = .next t ∧
      t.w.run = { s.w.run with
        stopped := false
        holdCmd := false
        thermalStop := false
        wantStop := s.w.run.wantStop && s.w.run.ended.isSome } ∧
      t.w.dev = s.w.dev ∧ t.w.mem = s.w.mem ∧ t.w.plan = s.w.plan ∧ t.w.cad = s.w.cad ∧ s.SameBlocks t)

/-- RERUN_START (R912): at its herd tick the rolled-back step runs again from tick 0, counted in the step's replays
and in REL_REPLAY_COUNT, and REPLAY_ACTIVE ends. HERD_RESUME (R146, R859, R913): at its herd tick a held step counts
on with the next step tick, at whose start a lag beyond the slack raises a hold (R132), one held at its tick 0 restarts
there, and a herd without a step is LOADED. STEP_ABANDON
(R52, R302): at a tick boundary a RUNNING step with a fault is given up; the module is HELD with the cause of an
abandonment, owes a stop, and a queued step is discarded. -/
def Obligations.StepsGoOn : Prop :=
  ∀ (s : State),
    (∀ p x k, s.w.plan = some p → s.w.run.step = some x → s.w.run.resumeAt = some k → s.w.dev.state = .held → k ≤ s.w.cad.tickCount.toNat →
      (s.w.run.rerun = true → s.w.rel.replayActive = true →
        ∃ t, exec .rerunStart s = .next t ∧ t.w.dev.state = .running ∧ t.w.run.tick = 0 ∧ t.w.run.counting = true ∧
          t.w.run.step = some { x with
            startTick := s.w.cad.tickCount.toNat
            replays := x.replays + 1
            sinceResume := x.sinceResume + 1 } ∧
          t.w.rel.replayCount = s.w.rel.replayCount + 1 ∧ t.w.rel.replayActive = false ∧ t.w.run.resumeAt = none ∧
          t.w.run.rerun = false ∧ t.w.plan = s.w.plan ∧ t.w.scales = s.w.scales) ∧
      (s.w.run.rerun = false → s.w.rel.replayActive = false →
        let r : Run := { s.w.run with
          resumeAt := none
          wantStop := false
          tick := s.w.run.tick + 1
          counting := true
          step := some { x with sinceResume := 0 } }
        let u := (({ s.w with run := r, dev := { s.w.dev with held := false } } : Work).setState .running .command).sampleLag
        let slack := s.w.cad.slackClk.toNat
        ∃ t, exec .herdResume s = .next t ∧ t.w.dev.state = .running ∧ t.w.dev.cause = .command ∧ t.w.dev.held = false ∧
          t.w.run = { r with holds := t.w.run.holds } ∧ (u.lag p ≤ slack → t.w.run.holds = s.w.run.holds) ∧
          (slack < u.lag p → s.w.cad.bellwether = true →
            t.w.run.holds = s.w.run.holds ++ [(r.tick.toNat, r.applied + ceilDiv (u.lag p - slack) slack * slack)]) ∧
          t.w.cores = s.w.cores ∧ t.w.mem.hbm = s.w.mem.hbm ∧ t.w.plan = s.w.plan ∧ s.SameBlocks t) ∧
      (s.w.run.rerun = true → s.w.rel.replayActive = false →
        ∃ t, exec .herdResume s = .next t ∧ t.w.dev.state = .running ∧ t.w.run.tick = 0 ∧ t.w.run.resumeAt = none ∧
          t.w.run.step = some { x with startTick := s.w.cad.tickCount.toNat, sinceResume := 0 })) ∧
    (∀ k, s.w.run.step = none → s.w.run.resumeAt = some k → s.w.dev.state = .held → k ≤ s.w.cad.tickCount.toNat →
      s.w.rel.replayActive = false → ∃ t, exec .herdResume s = .next t ∧ t.w.dev.state = .loaded ∧ t.w.run.resumeAt = none) ∧
    (∀ st e x, s.w.run.abandon = some (st, e) → s.w.run.step = some x → s.w.run.faulted = true → s.w.cad.offset = 0 →
      s.w.dev.state = .running → ∃ t, exec .stepAbandon s = .next t ∧ t.w.dev.state = .held ∧ t.w.dev.cause = .abandonment ∧
        t.w.run.step = none ∧ t.w.run.ended = some x ∧ t.w.run.wantStop = true ∧ t.w.run.queued = none ∧
        t.w.run.abandon = some (st, e) ∧ t.w.dev.results = s.w.dev.results ∧ t.w.plan = s.w.plan ∧ s.SameBlocks t)

/-- COMMIT (R225, R234, R815, R816, R902, R905, R906): at the end of step tick STEP_TICKS + H the versions are
exchanged, the other scale bank is made active, the stage counts are kept, the step is over and counted; the queued
step is the accepted one, or the module is LOADED. For a plan without Cumulus and scales, in a module with no line in
error, nothing discarded and no change waiting, the step's record is ready: ST_REPLAYED after a rerun (R880),
otherwise the step's data status. The exchange of a commit (R902): the two regions that a KIND 0 entry pairs have each
other's TBASE afterwards, and everything else of the region table stays. -/
def Obligations.StepCommits : Prop :=
  (∀ (p : Plan) (x : StepSt) (s : State), s.w.plan = some p → s.w.run.step = some x → s.w.mayCommit p = true →
     ∃ t, exec .commit s = .next t ∧ t.w.plan = some p.exchange ∧ t.w.run.step = none ∧ t.w.run.commits = s.w.run.commits + 1 ∧
       t.w.run.accepted = s.w.run.queued ∧ t.w.run.queued = none ∧ t.w.stages = s.w.stages.commit ∧
       t.w.cum.stepCount = s.w.cum.stepCount + 1 ∧ t.w.net.rx = [] ∧ t.w.net.colls = [] ∧
       (s.w.run.queued = none → t.w.dev.state = .loaded) ∧ (s.w.run.queued.isSome = true → t.w.dev.state = .running) ∧
       t.w.scales.active1 = (if p.scales.isSome then !s.w.scales.active1 else s.w.scales.active1) ∧
       t.fab.member = s.fab.member ∧ t.pwr = s.pwr ∧ t.sec = s.sec ∧
       (∀ r, p.policy = none → p.scales = none → s.w.run.discarded = [] → s.w.changeWaits = false →
         mget s.w.dev.results none x.req.slot = some r →
         let ds := s.w.run.dataStatus
         let status := if x.replays = 0 then ds.1 else stReplayed
         mget t.w.dev.results none x.req.slot = some { r with
           ready := true
           status := BitVec.ofNat 8 status
           body := recordBody status ds.1 (if x.replays = 0 then 0 else 1) x.replays x.number x.startTick
             (x.stretchClk + s.w.run.stretch) ds.2 0 } ∧
         t.w.mem.hbm = s.w.mem.hbm)) ∧
  (∀ (p : Plan) (e : W64), p.commits = [e] →
     let f := commitFields e
     let rb (k : Nat) : Reg := p.regions.getD k 0
     let ra (k : Nat) : Reg := p.exchange.regions.getD k 0
     (f.2.2 = 0 → f.1 < p.regions.length → f.2.1 < p.regions.length → f.1 ≠ f.2.1 →
       (ra f.1).tbase = (rb f.2.1).tbase ∧ (ra f.2.1).tbase = (rb f.1).tbase ∧
       (∀ k ∈ [f.1, f.2.1], (ra k).vbase = (rb k).vbase ∧ (ra k).size = (rb k).size ∧ (ra k).target = (rb k).target ∧
         (ra k).read = (rb k).read ∧ (ra k).write = (rb k).write) ∧
       ∀ k, k ≠ f.1 → k ≠ f.2.1 → ra k = rb k) ∧
     (f.2.2 ≠ 0 → p.exchange.regions = p.regions))

/-! ### Cumulus -/

/-- SEQ_OPEN, SEQ_CLOSE and SEQ_TRUNCATE (R662, R719 to R723) with a policy armed. A closed slot opens: with its
records in plain local HBM its slot record holds the parameters with LAST_STEP equal to CUM_STEP_COUNT, and every
layer has TOKENS 0 and HELD 0. An open slot is refused with ST_BUSY, a budget below SINK_PAGES + RECENT_PAGES + 1 with
ST_BAD_PARAM. A close takes the slot out of the open ones, of a closed slot it changes nothing. A truncation that
frees no page sets TOKENS of every layer to the smaller of TOKENS and m. A slot named by a table in use is refused
with ST_BUSY. -/
def Obligations.SequencesOpenClose : Prop :=
  ∀ (ring slot evictEn budget sink recent count : Nat) (c : Policy) (s : State), s.w.policy? = some c →
    s.w.dev.state ∈ [DevState.loaded, .running, .held] → slot < 65536 →
    (evictEn < 2 → 1 ≤ budget → budget ≤ 262144 → sink < 65536 → recent < 65536 →
      (slot ∉ s.w.cum.openSlots → evictEn = 0 ∨ sink + recent + 1 ≤ budget →
        ∃ t, exec (.seqOpen ring slot evictEn budget sink recent) s = .next t ∧ t.w.cum.openSlots = s.w.cum.openSlots ++ [slot] ∧
          t.w.cum.pages = s.w.cum.pages ∧ t.w.run = s.w.run ∧ t.w.cores = s.w.cores ∧ t.w.plan = s.w.plan ∧ s.SameBlocks t ∧
          (s.w.metaOk c →
            t.w.cumNum (c.record slot) 1 = 1 ∧ t.w.evictEn c slot = decide (evictEn = 1) ∧ t.w.budget c slot = budget ∧
            t.w.cumNum (c.record slot + 2) 2 = sink ∧ t.w.cumNum (c.record slot + 4) 2 = recent ∧
            t.w.cumNum (c.record slot + 0x10) 8 = s.w.cum.stepCount.toNat ∧
            ∀ l < c.layers, t.w.tokens c slot l = 0 ∧ t.w.held c slot l = 0)) ∧
      (slot ∈ s.w.cum.openSlots → evictEn = 0 ∨ sink + recent + 1 ≤ budget →
        exec (.seqOpen ring slot evictEn budget sink recent) s = .next (s.reply ring stBusy [])) ∧
      (evictEn = 1 → budget < sink + recent + 1 →
        exec (.seqOpen ring slot evictEn budget sink recent) s = .next (s.reply ring stBadParam []))) ∧
    (slot ∉ s.w.cum.openSlots → exec (.seqClose ring slot) s = .next (s.reply ring stOk [])) ∧
    (slot ∈ s.w.cum.openSlots → s.w.slotBusy slot = true →
      exec (.seqClose ring slot) s = .next (s.reply ring stBusy []) ∧
      (count < 2 ^ 32 → exec (.seqTruncate ring slot count) s = .next (s.reply ring stBusy []))) ∧
    (slot ∈ s.w.cum.openSlots → s.w.slotBusy slot = false →
      (∃ t, exec (.seqClose ring slot) s = .next t ∧ t.w.cum.openSlots = s.w.cum.openSlots.filter (· ≠ slot) ∧
        t.w.run = s.w.run ∧ t.w.cores = s.w.cores ∧ t.w.plan = s.w.plan ∧ s.SameBlocks t) ∧
      (count < 2 ^ 32 →
        ∃ t, exec (.seqTruncate ring slot count) s = .next t ∧ t.w.cum.openSlots = s.w.cum.openSlots ∧
          t.w.run = s.w.run ∧ t.w.cores = s.w.cores ∧ t.w.plan = s.w.plan ∧ s.SameBlocks t ∧
          (s.w.metaOk c → s.w.cum.deferred = [] → s.w.cum.fetchQueue = [] → s.w.spillWanted c = false →
            (∀ l < c.layers, s.w.tokens c slot l ≤ 1024 ∧ ∀ k ∈ s.w.heldPages c slot l, 64 * k < count) →
            ∀ l < c.layers, t.w.tokens c slot l = min (s.w.tokens c slot l) count)))

/-- SEQ_INFO (R724) answers TOKENS and HELD of the layer, SPILLED of the slot and LAST_STEP at their offsets and
changes nothing else. BATCH_SUBMIT (R673 to R676): a good table is the next table while a step runs, or while a next
table waits, and otherwise is in force at once; a bad one is refused with ST_BAD_PARAM. Every sequence command is refused with ST_STATE_CONFLICT
without a policy (R725). -/
def Obligations.SequenceTables : Prop :=
  ∀ (ring slot layer addr bytes : Nat) (s : State), s.w.dev.state ≠ .off →
    (∀ c, s.w.dev.state ∈ [DevState.loaded, .running, .held] → s.w.policy? = some c →
      (slot ∈ s.w.cum.openSlots → slot < 65536 → layer < c.layers →
        ∃ res, exec (.seqInfo ring slot layer) s = .next (State.reply { s with w := s.w.tableReads c slot layer } ring stOk res) ∧
          res.length = 20 ∧ (s.w.noErrors → s.w.tableReads c slot layer = s.w) ∧
          leAt res 0 4 = s.w.tokens c slot layer ∧ leAt res 4 4 = s.w.held c slot layer ∧
          leAt res 8 4 = s.w.cumNum (c.record slot + 0x1C) 4 ∧ leAt res 12 8 = s.w.cumNum (c.record slot + 0x10) 8) ∧
      (slot ∉ s.w.cum.openSlots ∨ c.layers ≤ layer → exec (.seqInfo ring slot layer) s = .next (s.reply ring stBadParam [])) ∧
      (∀ p, s.w.plan = some p →
        let tab : List W64 := words 64 8 c.rows (s.w.compRead ring addr bytes)
        (bytes = 8 * c.rows → s.w.batchBad p c tab = false →
          ∃ t, exec (.batchSubmit ring addr bytes) s = .next t ∧
            (if s.w.run.step.isSome ∨ s.w.cum.next.isSome then t.w.cum.next = some tab ∧ t.w.cum.batch = s.w.cum.batch
             else t.w.cum.batch = tab ∧ t.w.cum.next = none) ∧
            t.w.cum.openSlots = s.w.cum.openSlots ∧ t.w.run = s.w.run ∧ t.w.cores = s.w.cores ∧ t.w.plan = s.w.plan ∧ s.SameBlocks t) ∧
        (bytes ≠ 8 * c.rows ∨ s.w.batchBad p c tab = true →
          exec (.batchSubmit ring addr bytes) s = .next (s.reply ring stBadParam [])))) ∧
    (s.w.policy? = none → ∀ ev budget sink recent count, ∀ c ∈ [Instr.seqOpen ring slot ev budget sink recent, .seqClose ring slot,
      .seqTruncate ring slot count, .seqInfo ring slot layer, .batchSubmit ring addr bytes],
      exec c s = .next (s.reply ring stStateConflict []))

/-- APPEND_POINT (R680, R681) of an entry that has not been treated in a running step, for a table of one VALID
position of an open slot without eviction, in a module without lines in error. A sequence stalled before, one that would exceed 16,777,216 tokens, and one
whose pages would exceed BUDGET stalls with ST_NO_PAGE, once in a step (R710); an append that free pages and blocks
cover is taken, and one that spills will cover is deferred and counted; an append that nothing covers stalls. Stalled
or not, the entry is treated. -/
def Obligations.AppendOutcomes : Prop :=
  ∀ (entry : Nat) (p : Plan) (c : Policy) (x : BitVec 256) (b : W64) (s : State), s.w.plan = some p → p.policy = some c →
    c.appends[entry]? = some x → s.w.dev.state = .running → s.w.run.step.isSome = true → (appendEnt x).tick ≤ s.w.run.tick.toNat →
    entry ∉ s.w.cum.treated → s.w.cum.batch = [b] → bit b 16 = true → 0 < batchAppend b → batchSlot b ∈ s.w.cum.openSlots →
    s.w.evictEn c (batchSlot b) = false → s.w.noErrors →
    let l := (appendEnt x).layer
    let k := batchSlot b
    let n := s.w.tokens c k l + batchAppend b
    let fresh := (List.range (pagesOf n)).filter (pagesOf (s.w.tokens c k l) ≤ ·)
    let over_ := decide (s.w.budget c k < (s.w.heldPages c k l).length + fresh.length)
    let blocks := decide (s.w.lackBlocks c k l fresh ≤ s.w.freeBlocks c)
    let room := s.w.freePages c + (s.w.spillsComing - s.w.cum.deferred.length) + min (s.w.candidates c).length (s.w.freeTier c)
    ∃ t, exec (.appendPoint entry) s = .next t ∧ t.w.cum.treated = s.w.cum.treated ++ [entry] ∧ t.w.run = s.w.run ∧
      t.w.cores = s.w.cores ∧ t.w.plan = s.w.plan ∧ s.SameBlocks t ∧
      (s.w.stalled k = true → t.w.cum.stalls = s.w.cum.stalls ∧ t.w.cum.appends = s.w.cum.appends ∧ t.w.mem = s.w.mem) ∧
      (s.w.stalled k = false → 16777216 < n ∨ over_ = true →
        t.w.cum.stalls = s.w.cum.stalls ++ [{ slot := k, pos := 0, layer := l, status := BitVec.ofNat 8 stNoPage }] ∧
        t.w.cum.stallCount = s.w.cum.stallCount + 1 ∧ t.w.cum.appends = s.w.cum.appends ∧ t.w.mem = s.w.mem) ∧
      (s.w.stalled k = false → n ≤ 16777216 → over_ = false → blocks = true →
        (fresh.length ≤ s.w.freePages c → t.w.cum.appends = s.w.cum.appends + 1 ∧ t.w.cum.deferredCount = s.w.cum.deferredCount ∧
          t.w.cum.stalls = s.w.cum.stalls) ∧
        (s.w.freePages c < fresh.length → fresh.length ≤ room → t.w.cum.appends = s.w.cum.appends + 1 ∧
          t.w.cum.deferredCount = s.w.cum.deferredCount + 1 ∧ t.w.cum.stalls = s.w.cum.stalls) ∧
        (room < fresh.length → t.w.cum.appends = s.w.cum.appends ∧ t.w.cum.stallCount = s.w.cum.stallCount + 1 ∧ t.w.mem = s.w.mem)) ∧
      (s.w.stalled k = false → n ≤ 16777216 → over_ = false → blocks = false →
        t.w.cum.stalls = s.w.cum.stalls ++ [{ slot := k, pos := 0, layer := l, status := BitVec.ofNat 8 stNoPage }] ∧ t.w.mem = s.w.mem)

/-- The moves of pages (R680, R682, R684, R685, R697, R701, R704, R729). A deferred append's page receives the lowest
free pool page; rows that have landed are no longer under way; a spill that is still wanted counts and its pool page
is free, one that is not frees its tier page; a fetch counts and its tier page is free (the last three while the free
pages stand at LOW_WM or above and nothing else waits, and, as the rows, once no access of the copy waits at a channel, R345, R706); an eviction that waited for its sequence's items takes place
when none is in progress, not before. -/
def Obligations.PageMoves : Prop :=
  ∀ (slot layer page : Nat) (c : Policy) (s : State), s.w.policy? = some c →
    let here (m : PageMove) : Bool := m.slot = slot ∧ m.layer = layer ∧ m.page = page
    let quiet (w : Work) : Prop := w.cum.deferred = [] ∧ w.cum.fetchQueue = [] ∧ w.cum.spillOn = false
    let free (m : PageMove) : Prop := s.w.copyWaits (c.pool m.pool) c.pageBytes = false ∧
      s.w.copyWaits (c.tier m.tier) c.pageBytes = false ∧ s.w.cutOff (c.tier m.tier) = false
    (∀ m, s.w.cum.deferred = [m] → 0 < s.w.freePages c → ∃ t, exec .deferredAppendServe s = .next t ∧ t.w.cum.deferred = [] ∧
      (s.w.cum.pages ++ [lowestFree s.w.cum.pages]) <+: t.w.cum.pages ∧ t.w.run = s.w.run ∧ t.w.cores = s.w.cores ∧ s.SameBlocks t) ∧
    (∀ m, s.w.cum.filling.find? here = some m → s.w.cum.fetching.any here = false → s.w.cum.unplaced slot layer page = false →
      entState (s.w.ent c slot layer page) = 2 → s.w.copyWaits (c.pool (entPage (s.w.ent c slot layer page))) c.pageBytes = false → ∃ t, exec (.appendCopyDone slot layer page) s = .next t ∧
        t.w.cum.filling = s.w.cum.filling.filter (fun y => !here y) ∧ t.w.cum.pages = s.w.cum.pages ∧ t.w.run = s.w.run ∧
        t.w.cores = s.w.cores ∧ s.SameBlocks t ∧
        (s.w.metaOk c → m.rows = [] → page < 16 → slot < 65536 → layer < c.layers →
          entState (t.w.ent c slot layer page) = 1 ∧ entPage (t.w.ent c slot layer page) = entPage (s.w.ent c slot layer page))) ∧
    (∀ m, s.w.cum.spilling.find? here = some m → quiet s.w → free m → c.low ≤ s.w.freePages c →
      ∃ t, exec (.spillDone slot layer page) s = .next t ∧ t.w.cum.spilling = s.w.cum.spilling.filter (fun y => !here y) ∧
        (if m.keep = true ∨ s.w.slotSpillable slot = false then
          t.w.cum.spills = s.w.cum.spills ∧ m.tier ∉ t.w.cum.tiers ∧ t.w.cum.pages = s.w.cum.pages
         else t.w.cum.spills = s.w.cum.spills + 1 ∧ m.pool ∉ t.w.cum.pages ∧ t.w.cum.tiers = s.w.cum.tiers) ∧
        t.w.run = s.w.run ∧ t.w.cores = s.w.cores ∧ s.SameBlocks t) ∧
    (∀ m, s.w.cum.fetching.find? here = some m → quiet s.w → free m → c.low ≤ s.w.freePages c →
      ∃ t, exec (.fetchDone slot layer page) s = .next t ∧ t.w.cum.fetching = s.w.cum.fetching.filter (fun y => !here y) ∧
        t.w.cum.fetches = s.w.cum.fetches + 1 ∧ m.tier ∉ t.w.cum.tiers ∧ t.w.cum.pages = s.w.cum.pages ∧
        t.w.run = s.w.run ∧ t.w.cores = s.w.cores ∧ s.SameBlocks t) ∧
    (s.w.inProgress slot = true → exec (.deferredEviction slot) s = .next s) ∧
    (s.w.inProgress slot = false → ∃ t, exec (.deferredEviction slot) s = .next t ∧
      t.w.cum.lateEvict = s.w.cum.lateEvict.filter (·.slot ≠ slot) ∧ t.w.run = s.w.run ∧ t.w.cores = s.w.cores ∧ s.SameBlocks t)

/-! ### Maintenance -/

/-- Each row of MAINT_START (R938 to R940, R945 to R947) in a state that allows it: a target that does not exist, or
has no spare left, is refused with ST_BAD_PARAM; a conflict with an activity is refused with ST_MAINT_CONFLICT and a
description of the activity in the way; otherwise the command takes the lowest free slot, and its activity stands
behind those accepted before it, running or, where it comes in between steps, pending. The rows are those of `maintRow`:
HBM_SCRUB, LS_SCRUB, ARRAY_CHECK, ROW_REMAP, CHANNEL_RETIRE, SPARE_BANK, SPARE_ARRAY_LINE, SPARE_CORE, SPARE_LANE,
SPARE_PORT and FW_STAGE. -/
def Obligations.MaintenanceStarts : Prop :=
  ∀ (i : Instr) (code ring k : Nat) (m : MaintArgs) (s : State), maintRow i = some (code, ring, m) →
    s.w.dev.state ∈ [DevState.standby, .joined, .loaded, .running, .held] →
    (s.targetOk code m = false → exec i s = .next (s.reply ring stBadParam [])) ∧
    (∀ a, s.targetOk code m = true → s.w.rel.inTheWay code m = some a →
      ∃ bs, exec i s = .next (s.reply ring stMaintConflict bs) ∧ bs.length = 12 ∧ leAt bs 0 1 = a.code % 256 ∧
        leAt bs 1 1 = b2n a.auto ∧ leAt bs 2 2 = (a.slot.getD 0xFFFF) % 65536 ∧ leAt bs 4 2 = a.args.unit % 65536 ∧
        leAt bs 6 2 = a.args.sub % 65536 ∧ leAt bs 8 4 = a.args.index % 2 ^ 32) ∧
    (s.targetOk code m = true → s.w.rel.inTheWay code m = none → code ≠ 0x0B ∨ s.sec.pldmBusy = false → s.w.dev.freeSlot = some k →
      ∃ t a, exec i s = .next t ∧ (s.w.rel.acts ++ [a]) <+: t.w.rel.acts ∧ a.code = code ∧ a.auto = false ∧ a.slot = some k ∧
        a.args = m ∧ a.state = (if betweenSteps code then .pending else .running) ∧
        (∃ r, mget t.w.dev.results none k = some r ∧ r.ready = false ∧ r.opcode = 0x0500) ∧
        (∀ j, j ≠ k → mget t.w.dev.results none j = mget s.w.dev.results none j) ∧
        t.w.cad = s.w.cad ∧ t.w.plan = s.w.plan ∧ t.w.scales = s.w.scales ∧ t.w.mem.hbm = (s.w.mem.see (scrubEnv i)).hbm ∧ t.pwr = s.pwr)

/-- Activities under way (R155, R334 to R336, R347, R941, R943, R944, R947, R948, R1011). The one activity that waits starts; a
running one that is done, when maintenance advances and not while copies are paused, makes its slot ready with the body of R947, an image with it in
the slot that the module did not boot from, or, failed, with ST_AUTH_FAIL and that slot empty. A remap whose copy is
complete takes effect at offset 0 of a tick after that, with the lines that could not be read as zeros, and one whose copy a
write started again is copied once more. PATROL_SCRUB notes the channel,
and a line of it that reads as corrected is written back and counted, at a channel that grants maintenance an access (R155,
R322, R347). -/
def Obligations.MaintenanceRuns : Prop :=
  ∀ (s : State),
    (∀ a, s.w.rel.acts = [a] → a.state = .waiting → ∃ t, exec .maintActivityStart s = .next t ∧
      [{ a with state := if betweenSteps a.code then .pending else .running }] <+: t.w.rel.acts ∧ t.w.run = s.w.run ∧ t.w.cores = s.w.cores ∧
      t.w.plan = s.w.plan ∧ t.pwr = s.pwr ∧ t.sec = s.sec) ∧
    (∀ a k r n, s.w.rel.acts[n]? = some a → a.state = .running → s.pwr.paused = false → s.advances a = true → a.slot = some k →
      mget s.w.dev.results none k = some r →
      let status := if a.code = 0x0B ∧ a.good = false then stAuthFail else stOk
      ∃ t, exec (.maintActivityDone n) s = .next t ∧
        mget t.w.dev.results none k = some { r with
          ready := true
          status := BitVec.ofNat 8 status
          body := actBody a 0 s.w.rel.runMs
          maint := some a } ∧
        (a.code = 0x0B → (if s.sec.bootB then t.sec.slotA else t.sec.slotB) = (if a.good then s.sec.staged else none) ∧
          (if s.sec.bootB then t.sec.slotB = s.sec.slotB else t.sec.slotA = s.sec.slotA) ∧ t.sec.staged = none) ∧
        (a.code ≠ 0x0B → t.sec = s.sec) ∧ t.w.plan = s.w.plan ∧ t.w.cad = { s.w.cad with beatPort := t.w.cad.beatPort } ∧
        (a.code ≠ 0x0A → t.w.cad = s.w.cad) ∧
        ((a.code = 0x02 → (s.w.core a.args.unit).lsBad = []) → (a.code = 0x03 → a.found = []) → t.w.run = s.w.run)) ∧
    (∀ a n, s.w.rel.acts[n]? = some a → s.advances a = false → exec (.maintActivityDone n) s = .next s) ∧
    (∀ n, s.pwr.paused = true → exec (.maintActivityDone n) s = .next s) ∧
    (∀ r stack ch row, s.w.mem.remaps = [r] → r.stack = stack → r.channel = ch → r.row = row → r.inEffect = false →
      (r.copied = true → r.due = true → s.w.cad.offset = 0 → ∃ t, exec (.rowRemapEffect stack ch row) s = .next t ∧
        t.w.mem.remaps = [{ r with inEffect := true }] ∧ (∀ l ∈ r.zeroed, t.w.mem.hbm.readN (64 * l) 64 = zeros 64) ∧
        (∀ e ∈ t.w.mem.errs, e.line ∉ s.w.mem.errsInRow stack ch row) ∧ t.w.run = s.w.run ∧ t.w.cores = s.w.cores ∧ s.SameBlocks t) ∧
      (r.copied = true → r.due = false ∨ s.w.cad.offset ≠ 0 → exec (.rowRemapEffect stack ch row) s = .next s) ∧
      (let now := s.w.maintTime s.w.cad.offset.toNat && s.quiet stack ch s.w.cad.offset.toNat
       (r.copied = false → now = true → ∃ t z, exec (.rowRemapEffect stack ch row) s = .next t ∧
        t.w.mem.remaps = [{ r with
          copied := true
          due := false
          zeroed := z }] ∧ (∀ l ∈ z, s.w.mem.line l = .lost) ∧
        t.w.mem.hbm = s.w.mem.hbm ∧ t.w.run = s.w.run ∧ t.w.cores = s.w.cores ∧ s.SameBlocks t) ∧
       (r.copied = false → now = false → exec (.rowRemapEffect stack ch row) s = .next s))) ∧
    (∀ ch env, s.w.maintTime env.clk = false → exec (.patrolScrub ch env) s = .next s) ∧
    (∀ ch env, s.w.dev.state ∈ started → ch < 32 → s.pwr.paused = false → env.lines = [] → s.w.maintTime env.clk = true →
      ∃ t, exec (.patrolScrub ch env) s = .next t ∧
      t.w.rel.patrol = ch + 1 ∧ t.w.mem.hbm = s.w.mem.hbm ∧ t.w.run = s.w.run ∧ t.w.cores = s.w.cores ∧ s.SameBlocks t ∧
      (∀ e, s.w.mem.errs = [e] → e.lost = false → s.w.mem.lost = [] → s.w.rel.acts = [] → (s.w.mem.place (64 * e.line)).channel = ch →
        (s.w.mem.place (64 * e.line)).stack < 12 → s.quiet (s.w.mem.place (64 * e.line)).stack ch env.clk = true → t.w.mem.errs = [] ∧ t.w.mem.ce = s.w.mem.ce + 1))

/-- MAINT_QUERY (R948): by result slot or by ordinal it describes the activity with its state, and a name of none is
refused. THRESHOLD_SET (R949, R950): a threshold within the limits of R923 is in force from then on, and one beyond
them is refused and changes nothing. -/
def Obligations.MaintenanceAsked : Prop :=
  ∀ (ring n part crit v w rate : Nat) (s : State),
    (s.w.dev.state ∈ started →
      (∀ a, s.w.rel.acts[n]? = some a → ∃ bs, exec (.maintQuery ring 0xFFFF n) s = .next (s.reply ring stOk bs) ∧ bs.length = 16 ∧
        leAt bs 0 1 = a.code % 256 ∧ leAt bs 1 1 = b2n a.auto ∧
        leAt bs 2 1 = (match a.state with | .waiting => 0 | .running => 1 | .pending => 2) ∧
        leAt bs 4 2 = a.args.unit % 65536 ∧ leAt bs 6 2 = a.args.sub % 65536 ∧ leAt bs 8 4 = a.args.index % 2 ^ 32 ∧
        leAt bs 14 2 = s.w.rel.acts.length % 65536) ∧
      (∀ k, k < 256 → s.w.rel.acts.find? (fun a => a.slot = some k) = none →
        (∀ r a, mget s.w.dev.results none k = some r → r.maint = some a →
          ∃ bs, exec (.maintQuery ring k n) s = .next (s.reply ring stOk bs) ∧ leAt bs 0 1 = a.code % 256 ∧ leAt bs 2 1 = 3 ∧ leAt bs 12 2 = 1024) ∧
        (mget s.w.dev.results none k = none → exec (.maintQuery ring k n) s = .next (s.reply ring stBadParam []))) ∧
      (s.w.rel.acts.length ≤ n → exec (.maintQuery ring 0xFFFF n) s = .next (s.reply ring stBadParam []))) ∧
    (s.w.dev.state ∈ [DevState.standby, .joined, .loaded] →
      (thresholdOk part crit v w rate = true → ∃ t, exec (.thresholdSet ring part crit v w rate) s = .next t ∧
        t.w.rel.threshold part crit = { t := v, w := 1000 * w, rate := rate } ∧
        (∀ p q, 2 * p + q ≠ 2 * part + crit → t.w.rel.threshold p q = s.w.rel.threshold p q) ∧
        t.w.run = s.w.run ∧ t.w.cores = s.w.cores ∧ t.w.mem.hbm = s.w.mem.hbm ∧ s.SameBlocks t) ∧
      (thresholdOk part crit v w rate = false → exec (.thresholdSet ring part crit v w rate) s = .next (s.reply ring stBadParam [])))

/-- A self-check mismatch (R150, R151, R441, R442, R900, R908). In a check slot of a running step it counts, and it is
a detection: the step will be rolled back, a stop is owed and REPLAY_ACTIVE stands at 1. Outside a running step it
counts and causes no rerun. Outside a check slot nothing is checked. -/
def Obligations.SelfChecks : Prop :=
  ∀ (m : Mismatch) (found : List Mismatch) (s : State), m.core < s.w.rel.cls → m.array < 4 → m.line < 66 →
    (s.w.run.step.isSome = true → s.w.dev.state = .running → s.w.run.tick.toNat % 1024 = 1023 →
      ∃ t, exec (.checkSlot [m]) s = .next t ∧
        mget (t.w.core m.core).counts 0 (Ctr.off .gridCheckMismatch) = mget (s.w.core m.core).counts 0 (Ctr.off .gridCheckMismatch) + 1 ∧
        t.w.run.detections = s.w.run.detections ++ [{ core := m.core, kind := .selfCheck }] ∧ t.w.run.wantStop = true ∧
        t.w.rel.replayActive = true ∧ t.w.run.step = s.w.run.step ∧ t.w.mem.hbm = s.w.mem.hbm ∧ t.w.plan = s.w.plan ∧ s.SameBlocks t) ∧
    (s.w.dev.state ∈ started → s.w.run.step = none → s.w.cad.tickCount.toNat % 1024 = 1023 →
      ∃ t, exec (.idleSelfCheck [m]) s = .next t ∧
        mget (t.w.core m.core).counts 0 (Ctr.off .gridCheckMismatch) = mget (s.w.core m.core).counts 0 (Ctr.off .gridCheckMismatch) + 1 ∧
        t.w.run = s.w.run ∧ t.w.rel.replayActive = s.w.rel.replayActive ∧ t.w.mem.hbm = s.w.mem.hbm ∧ s.SameBlocks t) ∧
    (s.w.run.tick.toNat % 1024 ≠ 1023 → exec (.checkSlot found) s = .next s) ∧
    (s.w.cad.tickCount.toNat % 1024 ≠ 1023 → exec (.idleSelfCheck found) s = .next s)

/-! ### Security and management -/

/-- OWNER_KEY of each row in STANDBY (R1026 to R1030, R1058). The command takes the lowest free slot and its record is
ready at once. A change that is not authorised completes with ST_AUTH_FAIL, counts, and changes nothing; one that
R1029 names, or whose OP is reserved, with ST_BAD_PARAM and changes nothing; any other is carried out with ST_OK and
draws a fresh SEC_OWNER_NONCE: an install fills its empty slot with the key, a removal empties it, and OP 2 sets
OWNER_REQUIRE. -/
def Obligations.OwnerKeysChanged : Prop :=
  ∀ (ring addr k op : Nat) (s : State), s.w.dev.state = .standby → s.w.dev.freeSlot = some k → op < 3 →
    let b := keyBlock (s.w.compRead ring addr 256)
    let row := if op = 0 then Instr.ownerKeyInstall ring addr else if op = 1 then .ownerKeyRemove ring addr else .ownerRequireSet ring addr
    let change := if op = 0 then s.sec.installKey b else if op = 1 then s.sec.removeKey b else s.sec.setRequire b
    let done (st : Nat) (t : State) : Prop :=
      ∃ r, mget t.w.dev.results none k = some r ∧ r.ready = true ∧ r.opcode = 0x0601 ∧ r.status = BitVec.ofNat 8 st ∧ r.body = []
    (3 ≤ b.op → ∃ t, exec row s = .next t ∧ done stBadParam t ∧ t.sec = s.sec) ∧
    (b.op = op → ∃ t, exec row s = .next t ∧ s.w.SamePlanWork t.w ∧ t.fab = s.fab ∧ t.pwr = s.pwr ∧ t.pending = s.pending ∧
      (s.sec.authorised b = false → done stAuthFail t ∧ t.sec = { s.sec with authFails := s.sec.authFails + 1 }) ∧
      (s.sec.authorised b = true → change = none → done stBadParam t ∧ t.sec = s.sec) ∧
      (∀ x, s.sec.authorised b = true → change = some x → done stOk t ∧
        t.sec.ownerNonce = Config.freeNonce s.sec.nonceDraws ∧ t.sec.nonceDraws = s.sec.nonceDraws + 1 ∧
        (op = 0 → mget s.sec.keys none b.slot = none ∧ b.keyId ≠ 0 ∧ onCurve b.x b.y = true ∧
          mget t.sec.keys none b.slot = some { keyId := BitVec.ofNat 64 b.keyId, x := b.x, y := b.y }) ∧
        (op = 1 → (mget s.sec.keys none b.slot).isSome = true ∧ mget t.sec.keys none b.slot = none) ∧
        (op < 2 → t.sec.ownerRequire = s.sec.ownerRequire ∧ b.slot < 4 ∧
          ∀ j, j ≠ b.slot → mget t.sec.keys none j = mget s.sec.keys none j) ∧
        (op = 2 → t.sec.keys = s.sec.keys ∧ t.sec.ownerRequire = decide (b.require = 1))))

/-- DEBUG_LOCK (R1034 to R1037, R1058) and FW_ACTIVATE (R1012 to R1015) in STANDBY. A seal is final and draws a fresh
nonce; in SEALED it changes nothing, and the other two give ST_LOCKED. A valid token is followed by a warm reset into
UNLOCKED, an invalid one gives ST_AUTH_FAIL and counts; a relock in UNLOCKED is followed by a warm reset into LOCKED, and in LOCKED it draws a fresh nonce.
(The resets are those of a start-up that meets no failure.) FW_ACTIVATE of an image that passes makes its slot active;
a raise takes effect at once only where the module came to STANDBY from that image's slot; an empty slot or an image
that fails completes with ST_AUTH_FAIL and leaves the slots as they were. -/
def Obligations.DebugAndFirmware : Prop :=
  ∀ (ring addr slot raise k : Nat) (obs : BootObs) (s : State), s.w.dev.state = .standby → s.w.dev.freeSlot = some k →
    (s.sec.debug = .sealed → exec (.debugSeal ring) s = .next (s.reply ring stOk []) ∧
      exec (.debugUnlock ring addr obs) s = .next (s.reply ring stLocked []) ∧
      exec (.debugRelock ring obs) s = .next (s.reply ring stLocked [])) ∧
    (s.sec.debug ≠ .sealed → ∃ t, exec (.debugSeal ring) s = .next t ∧ t.sec.debug = .sealed ∧
      t.sec = { s.sec with
        debug := .sealed
        debugNonce := Config.freeNonce s.sec.nonceDraws
        nonceDraws := s.sec.nonceDraws + 1 } ∧ s.w.SamePlanWork t.w) ∧
    (s.sec.debug ≠ .sealed → s.channelsOk → cleanBoot obs = true → s.sec.bootable obs s.sec.activeB = true →
      ∃ t, exec (.debugUnlock ring addr obs) s = .next t ∧ t.w.dev.state = .standby ∧
        (if s.sec.tokenOk (s.w.compRead ring addr 128) then t.sec.debug = .unlocked ∧ t.pwr.lastReset = 1 ∧ t.w.mem.hbm = {}
         else t.sec = { s.sec with authFails := s.sec.authFails + 1 } ∧ s.w.SamePlanWork t.w)) ∧
    (s.sec.debug = .unlocked → s.channelsOk → cleanBoot obs = true → s.sec.bootable obs s.sec.activeB = true → s.sec.unlockNext = false →
      ∃ t, exec (.debugRelock ring obs) s = .next t ∧ t.w.dev.state = .standby ∧ t.sec.debug = .locked ∧ t.pwr.lastReset = 1) ∧
    (s.sec.debug = .locked →
      exec (.debugRelock ring obs) s = .next (State.reply { s with sec := s.sec.freshDebug } ring stOk [])) ∧
    (slot < 2 → raise < 2 → s.holdsSlot (decide (slot = 1)) = false →
      (∀ i, s.sec.reverify (decide (slot = 1)) = some i → ∃ t, exec (.fwActivate ring slot raise 0 obs) s = .next t ∧
        t.sec.activeB = decide (slot = 1) ∧ t.sec.slotA = s.sec.slotA ∧ t.sec.slotB = s.sec.slotB ∧ t.sec.bootB = s.sec.bootB ∧
        (raise = 1 → (decide (slot = 1) = s.sec.bootB → s.sec.minSvn ≤ t.sec.minSvn ∧ i.svn ≤ t.sec.minSvn) ∧
          (decide (slot = 1) ≠ s.sec.bootB → t.sec.minSvn = s.sec.minSvn ∧ t.sec.raise = some (decide (slot = 1), i.svn))) ∧
        (∃ r, mget t.w.dev.results none k = some r ∧ r.ready = true ∧ r.status = 0 ∧ leAt r.body 0 4 = i.version.toNat ∧
          leAt r.body 4 4 = i.svn.toNat) ∧ s.w.SamePlanWork t.w) ∧
      (s.sec.reverify (decide (slot = 1)) = none → ∃ t, exec (.fwActivate ring slot raise 0 obs) s = .next t ∧
        t.sec = { s.sec with authFails := s.sec.authFails + 1 } ∧ s.w.SamePlanWork t.w))

/-- SPDM_MESSAGE (R1021 to R1023): the response that fits the capacity is written to its address, a longer one writes
nothing; each request is counted on the one connection. MACSEC_KEY (R1038 to R1041): a receive key is kept, a transmit
key too and with USE it is the one in use; a key that would overwrite the association in use is refused with ST_BUSY;
fields out of range with ST_BAD_PARAM. Sheepdog (R1050 to R1054), while it answers: an update holds the inactive slot,
a second is refused; the component that verifies stands in that slot, one that fails leaves it empty and ends the
update; ActivateFirmware makes an updated image active; a sensor reads its value. -/
def Obligations.ManagementAnswers : Prop :=
  ∀ (ring addr n resp cap k uplink an ssci peer sensor : Nat) (image : List Byte) (s : State),
    (s.w.dev.state ∈ started → 1 ≤ n → n ≤ 4096 → s.w.dev.freeSlot = some k → ring < 64 → s.w.dev.linkUp = true → s.w.dev.noteEnable = false →
      let req := s.w.compRead ring addr n
      let x := s.spdm req
      ∃ (u : State) (r : RSlot), exec (.spdmMessage ring addr n resp cap) s = .next (u.reply ring stOk (toLE 2 k)) ∧
        mget u.w.dev.results none k = some r ∧ r.ready = true ∧ u.sec = s.sec.exchanged req x ∧
        s.w.SamePlanWork u.w ∧
        (if cap < x.length then r.status = BitVec.ofNat 8 stBadParam ∧ r.body = toLE 4 0 ∧ u.w.mem.companion = s.w.mem.companion
         else r.status = 0 ∧ r.body = toLE 4 x.length ∧ u.w.mem.companion = s.w.mem.companion.write resp x)) ∧
    (s.w.dev.state ∈ [DevState.standby, .joined, .loaded, .running, .held] → uplink < 4 → an < 4 →
      let u := s.fab.uplink uplink
      let key := s.w.compRead ring addr 44
      let rxA : Assoc := { sci := peer, an := an, ssci := ssci, key := key }
      let txA : Assoc := { sci := 0, an := an, ssci := ssci, key := key }
      (∀ use, s.w.net.upq = [] → peer ∈ channelsOf u.rx ∨ (channelsOf u.rx).length < 1024 →
        ∃ t, exec (.macsecKey ring uplink 0 an use ssci addr peer) s = .next t ∧ rxA ∈ (t.fab.uplink uplink).rx ∧
          (∀ y ∈ u.rx, y.sci ≠ peer ∨ y.an ≠ an → y ∈ (t.fab.uplink uplink).rx) ∧ (t.fab.uplink uplink).tx = u.tx ∧
          (∀ j, j ≠ uplink → t.fab.uplink j = s.fab.uplink j) ∧ s.w.SamePlanWork t.w ∧ t.sec = s.sec) ∧
      (∀ use < 2, s.w.net.upq = [] → u.txUse ≠ some an →
        ∃ t, exec (.macsecKey ring uplink 1 an use ssci addr peer) s = .next t ∧ txA ∈ (t.fab.uplink uplink).tx ∧
          (t.fab.uplink uplink).txUse = (if use = 1 then some an else u.txUse) ∧ (t.fab.uplink uplink).rx = u.rx ∧
          s.w.SamePlanWork t.w ∧ t.sec = s.sec) ∧
      (∀ use < 2, u.txUse = some an → exec (.macsecKey ring uplink 1 an use ssci addr peer) s = .next (s.reply ring stBusy [])) ∧
      (exec (.macsecKey ring (uplink + 4) 0 an 0 ssci addr peer) s = .next (s.reply ring stBadParam []))) ∧
    (s.pwr.aliveN = false →
      let said (code v : Nat) (sec : Sec) : State := { s with
        sec := sec
        w := { s.w with out := s.w.out ++ [Out.pldmResponse code v] } }
      (exec .requestUpdate s = .next (if s.slotHeld then said 0x81 0 s.sec
        else said 0 0 { s.sec with pldmBusy := true, pldmDone := false })) ∧
      (s.sec.pldmBusy = true → ∃ t, exec (.pldmUpdate image) s = .next t ∧
        (if s.sec.bootB then t.sec.slotA else t.sec.slotB) = (if s.sec.fwOk image then some (fwImage image) else none) ∧
        (if s.sec.bootB then t.sec.slotB = s.sec.slotB else t.sec.slotA = s.sec.slotA) ∧ t.sec.pldmBusy = s.sec.fwOk image ∧
        t.sec.pldmDone = s.sec.fwOk image ∧ s.w.SamePlanWork t.w) ∧
      (∀ i, s.sec.pldmBusy = true → s.sec.pldmDone = true → s.sec.reverify (!s.sec.bootB) = some i →
        ∃ t, exec .activateFirmware s = .next t ∧ t.sec.activeB = !s.sec.bootB ∧ t.sec.minSvn = s.sec.minSvn ∧ t.sec.pldmBusy = false ∧
          t.w.out.getLast? = some (Out.pldmResponse 0 0) ∧ s.w.SamePlanWork t.w) ∧
      (∀ v, s.sensor sensor = some v → exec (.sensorRead sensor) s = .next (said 0 v s.sec)) ∧
      (s.sensor sensor = none → ∃ code, code ≠ 0 ∧ exec (.sensorRead sensor) s = .next (said code 0 s.sec)))

/-! ### Firings -/

/-- Every tile firing and every item firing (R21, R22, R24, R70): a firing of the row's station and operation that may
issue now begins, and goes on with the job of its record, or with the first item of its list, until it is done or
waits; one that may not issue changes nothing. The clk in which the station is free again and in which the streams are used
are set at issue from the firing's times, and until then the station takes no other firing. Beginning marks the firing issued
and counts the clk by which it is late as slip (R23). The rows are those of `tileRow` (COPY_IN, COPY_IN_T, COPY_OUT, PASS, MATVEC, DRAIN, CLEAR, PACK_OUT,
MAP, NORM, REDUCE, OPTIMISE, CONVERT, PUT, COLLECTIVE and TAKE) and of `itemRow` (DECODE, COMPACT, INTERSECT, LANE_MAC,
FORWARD and BACKWARD); each of them answers a next state whether it issues or not. -/
def Obligations.FiringsRun : Prop :=
  (∀ (i : Instr) (core idx st op : Nat) (env : Env) (p : Plan) (r : Rec) (s : State), s.w.plan = some p → p.firing? core idx = some r →
    (tileRow i = some (core, idx, env, st, op) →
      (r.station = st → r.op = op → s.w.issuable p core idx r env.clk = true →
        ∃ j t, jobOf s.fab p r { core := core, firing := idx, time := s.w.now env.clk } = some j ∧ exec i s = .next t ∧
          (let w := (s.w.start core idx r env (j.times s.w)).advance core idx j
           (st ≠ 8 → t = { s with w := w }) ∧ (st = 8 → op ≠ 1 → t = s.injected core env w) ∧
           (st = 8 → op = 1 → t = State.uplinks (s.injected core env w)))) ∧
      (s.w.issuable p core idx r env.clk = false → s.w.net.upq = [] → exec i s = .next s)) ∧
    (itemRow i = some (core, idx, env, st, op) →
      (r.station = st → r.op = op → s.w.issuable p core idx r env.clk = true →
        let a : At := { core := core, firing := idx, time := s.w.now env.clk }
        let w := (s.w.start core idx r env {}).takeItem p core idx r
        ∃ ij, itemJobOf s.fab r = some ij ∧
          (∀ l k, (w.progAt a).item = some (l, k) →
            exec i s = .next { s with w := (onTakeOf r p r a ((p.items l).getD k 0) w).workItem p r a ij }) ∧
          ((w.progAt a).item = none → exec i s = .next { s with w := w.workItem p r a ij })) ∧
      (s.w.issuable p core idx r env.clk = false → exec i s = .next s))) ∧
  ∀ (core idx : Nat) (env : Env) (r : Rec) (w : Work), r.trace = false → quietEnv env = true →
    let w' := w.begin core idx r env
    (w'.core core).issued = (w.core core).issued ++ [idx] ∧ (w'.core core).retired = (w.core core).retired ∧
    (w'.core core).ls = (w.core core).ls ∧ (w'.core core).cells = (w.core core).cells ∧ (w'.core core).slots = (w.core core).slots ∧
    (∀ n, r.mode = 0 → w.lateBy r.tick r.offset env.clk = some n →
      mget (w'.core core).counts 0 (Ctr.off .slip) = mget (w.core core).counts 0 (Ctr.off .slip) + BitVec.ofNat 64 n) ∧
    (∀ c, c ≠ core → w'.core c = w.core c) ∧ w'.mem = w.mem ∧ w'.dev = w.dev ∧ w'.run = { w.run with landed := w'.run.landed } ∧
    w'.plan = w.plan ∧
    (∀ p, r.station ≠ 15 → w.now env.clk < mget (w.core core).free 0 r.station → w.issuable p core idx r env.clk = false)

/-- The CONTROL firings (R55, R67, R809 to R813): each issues and retires at once and touches no memory and no other
core. NOP does nothing else; SECTION_OPEN opens its section on the core, the declared end no earlier than its own; a
MARK is a marker, or adds the extent of its descriptor to a stage's live count and raises the high mark, or subtracts
it, with a count that would fall below zero at zero and flagged. -/
def Obligations.ControlFirings : Prop :=
  ∀ (core idx : Nat) (env : Env) (p : Plan) (r : Rec) (s : State), s.w.plan = some p → p.firing? core idx = some r → r.station = 15 →
    s.w.issuable p core idx r env.clk = true → quietEnv env = true → r.trace = false → r.notify = false →
    let done (t : State) : Prop :=
      (t.w.core core).issued = (s.w.core core).issued ++ [idx] ∧ (t.w.core core).retired = (s.w.core core).retired ++ [idx] ∧
      (t.w.core core).progOf idx = none ∧ (t.w.core core).ls = (s.w.core core).ls ∧ (t.w.core core).cells = (s.w.core core).cells ∧
      (t.w.core core).slots = (s.w.core core).slots ∧ (∀ c, c ≠ core → t.w.core c = s.w.core c) ∧ t.w.mem = s.w.mem ∧ t.w.dev = s.w.dev ∧
      t.w.plan = s.w.plan ∧ t.w.scales = s.w.scales ∧ t.w.cum = s.w.cum ∧ t.w.net = s.w.net ∧ t.w.cad.time = s.w.cad.time ∧ s.SameBlocks t
    let same (t : State) : Prop := t.w.run.sections = s.w.run.sections
    let live (t : State) (k : Nat) : Nat := (mget t.w.stages.live 0 k).toNat
    let high (t : State) (k : Nat) : Nat := (mget t.w.stages.high 0 k).toNat
    let n := (p.tensor r.desc).extent
    (r.op = 0 → ∃ t, exec (.nop core idx env) s = .next t ∧ done t ∧ same t ∧ t.w.stages = s.w.stages) ∧
    (r.op = 1 → core < 128 → ∃ t x, exec (.sectionOpen core idx env) s = .next t ∧ done t ∧ t.w.stages = s.w.stages ∧
      t.w.run.sec? r.section = some x ∧ x.opened.getLsbD core = true ∧ r.tick * s.w.period + r.offset + r.declared ≤ x.due ∧
      (s.w.run.sec? r.section = none → x.closed = false ∧ x.due = r.tick * s.w.period + r.offset + r.declared ∧
        ∀ l ∈ x.lists, l.2 = (0, 0)) ∧
      (∀ y, s.w.run.sec? r.section = some y → x.lists = y.lists ∧ x.closed = y.closed) ∧
      ∀ m, m ≠ r.section → t.w.run.sec? m = s.w.run.sec? m) ∧
    (r.op = 3 → r.action = 0 → ∃ t, exec (.markMarker core idx env) s = .next t ∧ done t ∧ same t ∧ t.w.stages = s.w.stages) ∧
    (r.op = 3 → r.action = 1 → ∃ t, exec (.markStash core idx env) s = .next t ∧ done t ∧ same t ∧
      (live s r.stage + n < 2 ^ 56 → live t r.stage = live s r.stage + n ∧ high t r.stage = max (high s r.stage) (live s r.stage + n)) ∧
      ∀ k, k ≠ r.stage → live t k = live s k ∧ high t k = high s k) ∧
    (r.op = 3 → r.action = 2 → ∃ t, exec (.markRelease core idx env) s = .next t ∧ done t ∧ same t ∧
      live t r.stage = live s r.stage - n ∧ t.w.stages.high = s.w.stages.high ∧
      (live s r.stage < n → t.w.stages.underflow = true ∧
        (s.w.stages.underflow = false → t.w.stages.underflowStage.toNat = r.stage)) ∧
      (n ≤ live s r.stage → t.w.stages.underflow = s.w.stages.underflow) ∧
      ∀ k, k ≠ r.stage → live t k = live s k)

/-- LOAD COPY_IN and COPY_IN_T of one tile whose bytes lie in regions of local HBM without errors, into a slot that is
free at the clk at which its first byte lands (R24, R61, R252, R272, R1090): the tile as its descriptor gives it, of the bytes
that are visible by then, stands in the slot, which is full with the tile's row mask, not before its last byte has landed; the stream has one more tile; no other byte of the local store, no memory and no other core changes. (Said for a
descriptor without index errors.) -/
def Obligations.TilesLoaded : Prop :=
  ∀ (turn : Bool) (core idx : Nat) (env : Env) (p : Plan) (r : Rec) (s : State), s.w.plan = some p → p.firing? core idx = some r →
    r.station = 0 → r.op = (if turn then 2 else 1) → r.count = 1 → r.trace = false → quietEnv env = true →
    s.w.issuable p core idx r env.clk = true → (s.w.core core).progOf idx = none → s.w.noErrors → s.w.dev.linkUp = true →
    let a : At := { core := core, firing := idx, time := s.w.now env.clk }
    let T := p.tensor r.desc
    let weight := (p.core core).weightStream r.dst
    let w := s.w.start core idx r env ((loadJob s.fab turn p r a).times s.w)
    let x := p.loadTile T (turn || T.innerT) r.param weight w.devByte
    let m := p.stream core r.dst
    let c := s.w.core core
    let k := mget c.made 0 r.dst % m.slots
    let at_ := (c.window m.task).1 + m.slotOff k
    (∀ q ∈ cutRuns (p.loadAddrs T (turn || T.innerT) r.param weight), ∃ i g, s.w.permit q.1 false = some (i, g) ∧ Reg.target g = 0) →
    x.1 = [] → w.room p a r.dst 0 T.slotUse = none → m.slotOff k + x.2.2.length ≤ (c.window m.task).2 →
    ∃ t, exec (if turn then .copyInT core idx env else .copyIn core idx env) s = .next t ∧
      (t.w.core core).ls.readN at_ x.2.2.length = x.2.2 ∧
      (∀ b, b < at_ ∨ at_ + x.2.2.length ≤ b → (t.w.core core).ls.read b = c.ls.read b) ∧
      ((t.w.core core).slot r.dst k).phase = .full ∧ ((t.w.core core).slot r.dst k).mask = x.2.1 ∧
      mget (t.w.core core).made 0 r.dst = mget c.made 0 r.dst + 1 ∧
      ((w.useOf a true r.dst 0).fin ≤ ((t.w.core core).slot r.dst k).since) ∧
      (∃ y, (t.w.core core).progOf idx = some y ∧ y.done = true) ∧ (t.w.core core).cells = c.cells ∧
      (∀ j, j ≠ core → t.w.core j = s.w.core j) ∧ t.w.mem = s.w.mem ∧ t.w.run = { s.w.run with landed := t.w.run.landed } ∧ t.w.dev = s.w.dev ∧ s.SameBlocks t

/-- STORE COPY_OUT of one tile (R60, R252, R260, R1090) whose stores lie in one region of local HBM, with no write before it in
the step, from a slot that is full at the clk of its read: they are those of the
tile at the front of the stream, visible not before 512 clk after the first is read, the slot is empty then, and no byte of
HBM that they do not name changes; the local store and every other core stay. And what `devPuts` stores: bytes at different addresses of such a region each get
their value in their written bits. -/
def Obligations.TilesStored : Prop :=
  (∀ (core idx : Nat) (env : Env) (p : Plan) (r : Rec) (s : State), s.w.plan = some p → p.firing? core idx = some r →
    r.station = 1 → r.op = 1 → r.count = 1 → r.trace = false → quietEnv env = true → s.w.issuable p core idx r env.clk = true →
    (s.w.core core).progOf idx = none → s.w.noErrors → s.w.mem.remaps = [] → s.w.run.landed = [] →
    let a : At := { core := core, firing := idx, time := s.w.now env.clk }
    let T := p.tensor r.desc
    let m := p.stream core r.srcA
    let c := s.w.core core
    let k := mget c.used 0 r.srcA % m.slots
    let n := T.tf.bytes + T.sideBytes
    let at_ := (c.window m.task).1 + m.slotOff k
    let bytes := c.ls.readN at_ n
    let rows := T.tilePuts T.innerT r.param (unpackTile T.tf bytes)
    let w := s.w.start core idx r env ((storeJob s.fab p r a).times s.w)
    let at1 := (w.useOf a false r.srcA 0).start
    T.twoFour = false → T.outlier = false → (c.slot r.srcA k).phase = .full → (c.slot r.srcA k).since ≤ at1 →
    c.blocked idx at_ (at_ + n) false at1 = none → m.slotOff k + n ≤ (c.window m.task).2 → c.lsBad = [] →
    ∀ i g, Reg.target g = 0 → (∀ ps ∈ rows, ∀ q ∈ ps, s.w.permit q.addr true = some (i, g)) →
    ∃ t, exec (.copyOut core idx env) s = .next t ∧ t.w.mem = (w.devRows s.fab (w.storeAcc p r a 0) rows).1.mem ∧
      (∀ l ∈ t.w.run.landed, l.core = core ∧ l.firing = idx ∧ at1 + 511 ≤ l.seen) ∧
      (∀ pa, (∀ ps ∈ rows, ∀ q ∈ ps, Reg.target! g q.addr ≠ pa) → t.w.mem.hbm.read pa = s.w.mem.hbm.read pa) ∧
      ((t.w.core core).slot r.srcA k).phase = .empty ∧ mget (t.w.core core).used 0 r.srcA = mget c.used 0 r.srcA + 1 ∧
      (t.w.core core).ls = c.ls ∧ (t.w.core core).cells = c.cells ∧ (∀ j, j ≠ core → t.w.core j = s.w.core j) ∧
      t.w.run = { s.w.run with landed := t.w.run.landed } ∧ t.w.dev = s.w.dev ∧ s.SameBlocks t) ∧
  (∀ (w : Work) (fab : Fab) (acc : Acc) (ps : List Put) (i : Nat) (g : Reg), w.noErrors → w.run.landed = [] → Reg.target g = 0 →
    (∀ q ∈ ps, w.permit q.addr true = some (i, g)) → ps.Pairwise (fun q q' => q.addr ≠ q'.addr) →
    ∀ q ∈ ps, (w.devPuts fab acc ps).1.mem.hbm.read (Reg.target! g q.addr) =
      BitVec.ofNat 8 (q.val ||| ((w.heldByte q.addr).toNat &&& (255 - q.mask))))

/-- How a partial reaches a cell (R472 to R476, R490, R498), and CLEAR (R494). A partial that is a whole number of
units of the window and within R473's bound adds its value exactly to the cell's value, and RES goes on agreeing with
T; one beyond the bound sets OVER and leaves T, and a cell with OVER set takes nothing. The partials of a SWEEP's
output over unscaled operands sum to the exact dot product and cover the whole reduction (R467, R468). CLEAR empties
every cell of the named arrays, makes their rows valid with KPOS 0, and leaves the other arrays (said where no partial
is still on its way). -/
def Obligations.TalliesExact : Prop :=
  (∀ (x : Cell) (n : Nat) (q : Partial) (k : Int), x.ovf = false → q.inexact = false →
    let top := x.top.toInt
    let lim := min (top + 38) q.v.e
    let within := (q.v.n.natAbs : Int) * (2 ^ (q.v.e - lim).toNat : Nat) ≤ (n : Int) * (2 ^ (top + 38 - lim).toNat : Nat)
    (within → q.v.eq ⟨k, top - 96⟩ = true → -(2 ^ 159 : Int) ≤ x.t.toInt + k → x.t.toInt + k < 2 ^ 159 →
      (x.place n q).value.eq (x.value.add q.v) = true ∧ (x.place n q).inexact = x.inexact ∧ (x.place n q).ovf = false ∧
      (x.resOk = true → (x.place n q).resOk = true)) ∧
    (q.v.n ≠ 0 → ¬ within → (x.place n q).ovf = true ∧ (x.place n q).t = x.t) ∧
    ({ x with ovf := true } : Cell).place n q = { x with ovf := true }) ∧
  (∀ (act : Act) (wt : Tensor) (span m : Nat) (ws : List WElem), act.x.g = 0 → wt.g = 0 ∨ wt.sparse = 3 → 0 < span →
    (∀ e ∈ ws, e.e = 127 ∧ e.pos < wt.s 0) →
    let qs := sweepCol act wt span m ws
    (∀ q ∈ qs, q.2.v.e = act.x.fmt.unit + wt.fmt.unit ∧ q.2.c = q.2.v.e ∧ q.2.inexact = false) ∧
    (qs.map (fun q => q.2.v.n)).sum = (ws.map (fun e => act.int m e.pos * e.k)).sum ∧ (qs.map (·.1)).sum = wt.s 0) ∧
  ∀ (core idx : Nat) (env : Env) (p : Plan) (r : Rec) (s : State), s.w.plan = some p → p.firing? core idx = some r → r.station = 5 → r.op = 2 →
    r.trace = false → quietEnv env = true → s.w.issuable p core idx r env.clk = true → (s.w.core core).progOf idx = none →
    (∀ y ∈ (s.w.core core).prog, y.rows = []) →
    ∃ t, exec (.clear core idx env) s = .next t ∧
      (∀ k < 4, k ∈ tallyArrays r → ∀ row < 64, (t.w.core core).trow k row = { valid := true, kpos := 0 } ∧
        ∀ col < 64, mget (t.w.core core).cells {} (64 * rowKey k row + col) = {}) ∧
      (∀ k < 4, k ∈ tallyArrays r → mget (t.w.core core).tables 0 k = r.param % 256 + 256 * (tallyArrays r).idxOf k) ∧
      (∀ k < 4, k ∉ tallyArrays r → ∀ row < 64, (t.w.core core).trow k row = (s.w.core core).trow k row ∧
        ∀ col < 64, mget (t.w.core core).cells {} (64 * rowKey k row + col) = mget (s.w.core core).cells {} (64 * rowKey k row + col)) ∧
      (t.w.core core).ls = (s.w.core core).ls ∧ (∀ c, c ≠ core → t.w.core c = s.w.core c) ∧ t.w.mem = s.w.mem ∧
      t.w.run = { s.w.run with landed := t.w.run.landed } ∧ t.w.dev = s.w.dev ∧ s.SameBlocks t

/-- The packed form of tally elements loses nothing that R518 keeps (R515 to R518): reading the tags and records that
PACK_OUT writes for any list of cells gives each cell's T, or OVER for a cell with OVER set or a segment above 0. -/
def Obligations.PackedRoundTrip : Prop :=
  ∀ (xs : List Cell) (rest : List Byte),
    unpackEls (xs.map (fun x => (packCell x).1)) (xs.flatMap (fun x => (packCell x).2) ++ rest) =
      xs.map (fun x => if x.ovf = true ∨ x.seg ≠ 0 then PackedEl.ovr else PackedEl.val x.t)

/-- SEND PUT of one tile to this module itself, with a credit of its RECV ring (R79), and RECV TAKE of one tile (R60, R61,
R748): the row mask and the bytes
of the tile at the front of the stream arrive for the core and the stream that the route slot names, and its slot is
empty; a tile that has arrived whole stands in the next slot of TAKE's stream, full, with its row mask, and is no
longer waiting; with less than a tile arrived TAKE waits for its peer and moves nothing (R80). -/
def Obligations.TilesTravel : Prop :=
  ∀ (core idx : Nat) (env : Env) (p : Plan) (r : Rec) (s : State), s.w.plan = some p → p.firing? core idx = some r → r.count = 1 → r.trace = false →
    quietEnv env = true → s.w.issuable p core idx r env.clk = true → (s.w.core core).progOf idx = none → s.w.net.upq = [] → s.w.run.sets = [] →
    let a : At := { core := core, firing := idx, time := s.w.now env.clk }
    let n := (p.tensor r.desc).slotUse
    let c := s.w.core core
    let got (u : Net) (k st : Nat) : List Byte := ((u.rx.find? (fun x => decide (x.core = k ∧ x.stream = st))).map (·.bytes)).getD []
    (∀ sl, r.station = 8 → r.op = 1 → (p.route s.w.run.activeSet.toNat).slots[r.param]? = some sl → slotKind sl = 0 →
      slotDest sl = s.fab.member.toNat →
      let m := p.stream core r.srcA
      let k := mget c.used 0 r.srcA % m.slots
      let at_ := (c.window m.task).1 + m.slotOff k
      let at1 := ((s.w.start core idx r env ((putJob s.fab p r a).times s.w)).useOf a false r.srcA 0).start
      (c.slot r.srcA k).phase = .full → (c.slot r.srcA k).since ≤ at1 → c.blocked idx at_ (at_ + n) false at1 = none →
      s.w.noCredit s.fab p sl (8 + n) at1 = false → m.slotOff k + n ≤ (c.window m.task).2 → c.lsBad = [] →
      ∃ t, exec (.put core idx env) s = .next t ∧
        got t.w.net (bits sl 27 21) (bits sl 33 28) =
          got s.w.net (bits sl 27 21) (bits sl 33 28) ++ toLE 8 (c.slot r.srcA k).mask.toNat ++ c.ls.readN at_ n ∧
        (∀ i j, i ≠ bits sl 27 21 ∨ j ≠ bits sl 33 28 → got t.w.net i j = got s.w.net i j) ∧
        ((t.w.core core).slot r.srcA k).phase = .empty ∧ mget (t.w.core core).used 0 r.srcA = mget c.used 0 r.srcA + 1 ∧
        (t.w.core core).ls = c.ls ∧ (∀ j, j ≠ core → t.w.core j = s.w.core j) ∧ t.w.mem = s.w.mem ∧ t.w.dev = s.w.dev ∧ s.SameBlocks t) ∧
    (r.station = 9 → r.op = 1 →
      let m := p.stream core r.dst
      let k := mget c.made 0 r.dst % m.slots
      let at_ := (c.window m.task).1 + m.slotOff k
      (∀ y, s.w.net.rx.find? (fun x => decide (x.core = core ∧ x.stream = r.dst)) = some y → y.tiles = [] → 8 + n ≤ y.bytes.length →
        (s.w.start core idx r env {}).room p a r.dst 0 n = none → m.slotOff k + n ≤ (c.window m.task).2 →
        ∃ t, exec (.take core idx env) s = .next t ∧ (t.w.core core).ls.readN at_ n = (y.bytes.drop 8).take n ∧
          (∀ b, b < at_ ∨ at_ + n ≤ b → (t.w.core core).ls.read b = c.ls.read b) ∧ ((t.w.core core).slot r.dst k).phase = .full ∧
          ((t.w.core core).slot r.dst k).mask.toNat = leAt y.bytes 0 8 ∧ mget (t.w.core core).made 0 r.dst = mget c.made 0 r.dst + 1 ∧
          got t.w.net core r.dst = y.bytes.drop (8 + n) ∧ (∀ j, j ≠ core → t.w.core j = s.w.core j) ∧ t.w.mem = s.w.mem ∧
          t.w.dev = s.w.dev ∧ s.SameBlocks t) ∧
      ((∀ y, s.w.net.rx.find? (fun x => decide (x.core = core ∧ x.stream = r.dst)) = some y → y.tiles = [] ∧ y.bytes.length < 8 + n) →
        ∃ t x, exec (.take core idx env) s = .next t ∧ (t.w.core core).progOf idx = some x ∧ x.stall = some .peer ∧ x.done = false ∧
          (t.w.core core).ls = c.ls ∧ (t.w.core core).slots = c.slots ∧ t.w.net = s.w.net ∧ t.w.mem = s.w.mem ∧ s.SameBlocks t))

/-- Elastic work (R70, R71, R74, R583, R586, R587, R616). A section that may close is closed, with the clk beyond its
declared end counted on each of its cores, and one that may not stays as it is. A firing takes the next untaken item
of its list, or its work is done. An idle lane takes the newest piece that may be stolen from its first neighbour with
one, and the steal counts. A piece that retires adds its partials to the tallies and counts; one
whose array an earlier DRAIN or PACK_OUT has still to read waits (R443, R445). A page that has come lets
its item go on, with the clk waited counted. -/
def Obligations.ElasticWork : Prop :=
  ∀ (p : Plan) (s : State), s.w.plan = some p →
    (∀ n clk, s.w.mayClose p n = true → ∃ t x e, exec (.sectionClose n clk) s = .next t ∧ p.section? n = some e ∧ s.w.run.sec? n = some x ∧
      t.w.run.sec? n = some { x with closed := true, closedAt := s.w.now clk } ∧
      (∀ b, s.w.lateBy (x.due / s.w.period) (x.due % s.w.period) clk = some b → ∀ c ∈ e.cores,
        mget (t.w.core c).counts 0 (Ctr.off .elasticOverrun) = mget (s.w.core c).counts 0 (Ctr.off .elasticOverrun) + BitVec.ofNat 64 b) ∧
      (∀ c, c ∉ e.cores → t.w.core c = s.w.core c) ∧ t.w.mem.hbm = s.w.mem.hbm ∧ t.w.dev = s.w.dev ∧ s.SameBlocks t) ∧
    (∀ n clk, s.w.mayClose p n = false → exec (.sectionClose n clk) s = .next s) ∧
    (∀ core idx r x ij, p.firing? core idx = some r → (s.w.core core).progOf idx = some x → itemJobOf s.fab r = some ij → x.item = none → x.done = false →
      (∀ n k y e, s.w.nextItem p core idx r = some (n, k) → (p.core core).sectionOf idx = some n → s.w.run.sec? n = some y → y.list? (Rec.param r) = some (Rec.param r, e) →
        let a : At := { core := core, firing := idx, time := s.w.now s.w.cad.offset.toNat }
        let w := s.w.takeItem p core idx r
        exec (.elasticItemTake core idx) s =
          .next { s with w := (onTakeOf r p r a ((p.items (Rec.param r)).getD k 0) w).workItem p r a ij } ∧
        (w.progAt a).item = some (Rec.param r, k) ∧ ∃ y', w.run.sec? n = some y' ∧ y'.list? (Rec.param r) = some (Rec.param r, (e.1 + 1, e.2))) ∧
      (s.w.nextItem p core idx r = none → ∃ t x', exec (.elasticItemTake core idx) s = .next t ∧
        (t.w.core core).progOf idx = some x' ∧ x'.done = true ∧ x'.item = none ∧ t.w.run = s.w.run ∧ t.w.mem = s.w.mem ∧
        (∀ c, c ≠ core → t.w.core c = s.w.core c) ∧ s.SameBlocks t)) ∧
    (∀ core lane n x, (s.w.core core).lane lane = none → (s.w.core core).queue lane = [] →
      (neighbours lane).findSome? (fun n => (stealable ((s.w.core core).queue n)).map (fun x => (n, x))) = some (n, x) →
      ∃ t, exec (.mergePieceSteal core lane) s = .next t ∧ ((t.w.core core).lane lane = some x ∨ x ∈ (t.w.core core).queue lane) ∧
        mget (t.w.core core).counts 0 (Ctr.off .mergeSteal) = mget (s.w.core core).counts 0 (Ctr.off .mergeSteal) + 1 ∧
        (t.w.core core).cells = (s.w.core core).cells ∧ (∀ c, c ≠ core → t.w.core c = s.w.core c) ∧ t.w.mem = s.w.mem ∧ t.w.run = s.w.run ∧
        s.SameBlocks t) ∧
    (∀ core lane wait full x, (s.w.core core).lane lane = some x → s.w.pieceWaits p core x = true →
      exec (.mergePieceRetire core lane wait full) s = .next s) ∧
    (∀ core lane wait full x, (s.w.core core).lane lane = some x → s.w.pieceWaits p core x = false →
      (∀ y, (s.w.core core).progOf x.firing = some y → y.stall ≠ some .engine) →
      ∃ t, exec (.mergePieceRetire core lane wait full) s = .next t ∧
        (t.w.core core).cells = (x.parts.foldl (Core.addLane p) (s.w.core core)).cells ∧
        mget (t.w.core core).counts 0 (Ctr.off .mergeProducts) =
          mget (s.w.core core).counts 0 (Ctr.off .mergeProducts) + BitVec.ofNat 64 x.products ∧
        mget (t.w.core core).counts 0 (Ctr.off .mergeTallyWait) =
          mget (s.w.core core).counts 0 (Ctr.off .mergeTallyWait) + BitVec.ofNat 64 wait ∧
        mget (t.w.core core).counts 0 (Ctr.off .mergeQueueFull) =
          mget (s.w.core core).counts 0 (Ctr.off .mergeQueueFull) + BitVec.ofNat 64 full ∧
        (∀ c, c ≠ core → t.w.core c = s.w.core c) ∧ t.w.mem = s.w.mem ∧ t.w.run = s.w.run ∧ s.SameBlocks t) ∧
    (∀ core idx wait env r x, p.firing? core idx = some r → Rec.station r = 6 → (s.w.core core).progOf idx = some x → s.w.pageCame p x = true →
      let a : At := { core := core, firing := idx, time := s.w.now env.clk }
      exec (.attendPageReady core idx wait env) s = .next { s with
        w := ((s.w.observe core env).count core .attWait wait).workItem p r a (attItem s.fab (decide (Rec.op r = 2))) })

/-- SCOREBOARD_STALL_RELEASE and FIRING_RETIRE (R24, R46, R64, R79, R80, R451, R881). Where what a firing waited for
is released, it goes on with its work, all that is to come of it later by the clk of the stall, which count as slip and, by its
first cause, as a wait for a slot or a range or for an entry; a core whose only firing waits for another module's data is idle from the
clk in which it was held up, under that cause (R158); a firing that does not wait stays as it is. A firing whose work is
done retires in the clk in which its last effect is due, and not before it: it is no longer in progress, its ranges are off the scoreboard, a SWEEP's activation tiles are consumed,
and with NOTIFY a notification entry names it; one whose work is not done stays. -/
def Obligations.StallsAndRetires : Prop :=
  ∀ (core idx : Nat) (env : Env) (p : Plan) (r : Rec) (x : Prog) (s : State), s.w.plan = some p → p.firing? core idx = some r →
    (s.w.core core).progOf idx = some x →
    (∀ n why, x.stall = some why → x.released = true →
      let first := x.cause.getD why
      let w1 := s.w.observe core env
      let w2 := w1.modCore core (fun c =>
        ((w1.idleUp core (w1.now env.clk) c).postpone idx (Rec.station r) n).modProg idx (fun y =>
          { y with resent := if Rec.station r = 8 then y.resent + env.wait else y.resent }))
      let w := w2.goOn s.fab p r { core := core, firing := idx, time := w1.now env.clk }
      (x.moved ((w.core core).progOf idx) = true → ∃ t, exec (.scoreboardStallRelease core idx n env) s = .next t ∧
        mget (t.w.core core).counts 0 (Ctr.off .slip) = mget (w.core core).counts 0 (Ctr.off .slip) + BitVec.ofNat 64 n ∧
        (first = .notFull ∨ first = .notEmpty ∨ first = .overlap →
          mget (t.w.core core).counts 0 (Ctr.off .sbStall) = mget (w.core core).counts 0 (Ctr.off .sbStall) + BitVec.ofNat 64 n) ∧
        (first = .noEntry → mget (t.w.core core).counts 0 (Ctr.off .sbFull) = mget (w.core core).counts 0 (Ctr.off .sbFull) + BitVec.ofNat 64 n) ∧
        (t.w.core core).ls = (w.core core).ls ∧ (t.w.core core).slots = (w.core core).slots ∧ (∀ c, c ≠ core → t.w.core c = w.core c) ∧
        t.w.mem = w.mem ∧ t.w.run = w.run) ∧
      (why = .peer → r.station = 9 → w1.fromPeer p core r.dst = true → (s.w.core core).prog = [x] → w1.stepping = true → w1.run.rerun = false → w1.heldSince = none →
        s.w.run.tick.toNat % 64 ≠ 32 → env.clk ≤ s.w.period → s.w.cad.time ≤ max (s.w.core core).idleFrom x.stallFrom →
        mget (w2.core core).counts 0 (Ctr.off .idlePeer) = mget (w1.core core).counts 0 (Ctr.off .idlePeer) +
          BitVec.ofNat 64 (w1.now env.clk - max (s.w.core core).idleFrom x.stallFrom)) ∧
      (x.moved ((w.core core).progOf idx) = false → s.w.net.upq = [] → exec (.scoreboardStallRelease core idx n env) s = .next s)) ∧
    (∀ n, x.stall = none → s.w.net.upq = [] → exec (.scoreboardStallRelease core idx n env) s = .next s) ∧
    (let at_ := max x.ends x.doneAt
     x.done = true → at_ ≤ s.w.now env.clk → quietEnv env = true → r.trace = false →
      ∃ t, exec (.firingRetire core idx env) s = .next t ∧
      (t.w.core core).retired = (s.w.core core).retired ++ [idx] ∧ (t.w.core core).progOf idx = none ∧
      (∀ e ∈ (t.w.core core).board, e.firing ≠ idx) ∧
      (r.station ≠ 4 → r.station ≠ 2 → (t.w.core core).board = (s.w.core core).board.filter (fun e => e.firing ≠ idx)) ∧
      mget (t.w.core core).retiredAt 0 idx = at_ ∧
      (r.station = 4 → mget (t.w.core core).used 0 r.srcA =
        mget (s.w.core core).used 0 r.srcA + sweepTiles (p.tensor r.desc) (p.tensor (r.desc + 1))) ∧
      (r.station ≠ 4 → r.station ≠ 2 → (t.w.core core).slots = (s.w.core core).slots) ∧
      (r.notify = true → s.w.dev.noteEnable = true → s.w.dev.linkUp = true → s.w.dev.noteCount < s.w.dev.noteEntries →
        let bs := t.w.mem.companion.readN (s.w.dev.noteBase.toNat + 16 * s.w.dev.noteTail.toNat) 16
        leAt bs 0 1 = 2 ∧ leAt bs 1 1 = b2n s.w.dev.notePhase ∧ leAt bs 2 2 = core % 65536 ∧ leAt bs 4 4 = idx % 2 ^ 32 ∧
        leAt bs 8 8 = s.w.cad.tickCount.toNat) ∧
      (r.notify = false → t.w.dev = s.w.dev ∧ t.w.mem = s.w.mem) ∧
      (t.w.core core).ls = (s.w.core core).ls ∧ (t.w.core core).cells = (s.w.core core).cells ∧ (∀ c, c ≠ core → t.w.core c = s.w.core c) ∧
      t.w.mem.hbm = s.w.mem.hbm ∧ s.SameBlocks t) ∧
    (x.done = false ∨ s.w.now env.clk < max x.ends x.doneAt → exec (.firingRetire core idx env) s = .next s)

/-! ### The fabric and the links -/

/-- Arriving flits and accesses of peers (R345 to R347, R374, R745 to R749, R754, R768, R769, R771, R920). A masked port
takes nothing. A flit whose CRC is wrong, or that came in an uncorrectable codeword, is counted and asked for again,
and delivers nothing; a good data flit for this module adds its bytes to its stream, and one for another member leaves
on the same bond index of its next bond. An unscheduled flit leaves an output that is free, which its packet then holds to its
last flit, and waits while another input's packet holds it. A peer's access beyond HBM faults; a read is answered with the bytes that are visible (R24), a write
stands in HBM and is acknowledged, and one whose channel is claimed, in its refresh window or not free waits (R322, R323). A
grant, not in that window, serves an access of the class of highest priority that waits, which drops to the lowest; a host's
lines that are refused by then are barred and count (R350, R351). A response
brings its bytes, and a firing that waited for nothing else goes on, later by the clk of its wait. -/
def Obligations.FlitsAndPeers : Prop :=
  (∀ (port lane corr sym unc lost : Nat) (f : Flit) (s : State),
    let got (u : Net) (k st : Nat) : List Byte := ((u.rx.find? (fun x => decide (x.core = k ∧ x.stream = st))).map (·.bytes)).getD []
    let ports (t : State) (n : Nat) : Prop :=
      (t.fab.port port).fecCorr = (s.fab.port port).fecCorr + BitVec.ofNat 64 corr ∧
      (t.fab.port port).fecUncorr = (s.fab.port port).fecUncorr + BitVec.ofNat 64 n ∧ (∀ q, q ≠ port → t.fab.port q = s.fab.port q) ∧
      t.w.mem.hbm = s.w.mem.hbm ∧ t.w.cores = s.w.cores ∧ t.w.plan = s.w.plan ∧ t.pwr = s.pwr ∧ t.sec = s.sec
    ((s.fab.port port).masked = true → exec (.flitReceive port lane f corr sym unc lost) s = .next s) ∧
    ((s.fab.port port).masked = false → flitOk f = false ∨ 0 < unc → ∃ t, exec (.flitReceive port lane f corr sym unc lost) s = .next t ∧
      t.w.out.getLast? = some (Out.retransmit port) ∧ ports t (if flitOk f then unc else max 1 unc) ∧ t.w.net = s.w.net ∧
      t.fab.retrans = s.fab.retrans + 1) ∧
    ((s.fab.port port).masked = false → flitOk f = true → unc = 0 → bits f.hdr 3 0 = 1 →
      (bits f.hdr 13 4 = s.fab.member.toNat → ∃ t, exec (.flitReceive port lane f corr sym unc lost) s = .next t ∧ ports t 0 ∧
        got t.w.net (bits f.hdr 20 14) (bits f.hdr 26 21) = got s.w.net (bits f.hdr 20 14) (bits f.hdr 26 21) ++ flitData f ∧
        ∀ i j, i ≠ bits f.hdr 20 14 ∨ j ≠ bits f.hdr 26 21 → got t.w.net i j = got s.w.net i j) ∧
      (∀ b q, s.fab.nextBond s.fab.member.toNat (bits f.hdr 13 4) (bits f.hdr 29 27) (bits f.hdr 32 30) = some b →
        s.fab.portFor b (s.fab.port port).bondIndex.toNat = some q → ∃ t, exec (.flitReceive port lane f corr sym unc lost) s = .next t ∧
          ports t 0 ∧ t.w.out.getLast? = some (Out.flit q f) ∧ t.w.net = s.w.net)) ∧
    ((s.fab.port port).masked = false → flitOk f = true → unc = 0 → bits f.hdr 3 0 ∉ [1, 2] → port < 40 → ∀ b q,
      s.fab.nextUnscheduled s.fab.member.toNat (bits f.hdr 13 4) = some b → s.fab.portFor b (s.fab.port port).bondIndex.toNat = some q →
      let x := mget s.w.net.arbs {} q
      ∃ t, exec (.flitReceive port lane f corr sym unc lost) s = .next t ∧ t.w.mem.hbm = s.w.mem.hbm ∧ t.w.net.rx = s.w.net.rx ∧
        (∀ i, i ≠ q → mget t.w.net.arbs {} i = mget s.w.net.arbs {} i) ∧
        (x.holder = none → x.waiting = [] → t.w.out.getLast? = some (Out.flit q f) ∧ mget t.w.net.arbs {} q = x.grant port f) ∧
        (∀ i, x.holder = some i → i ≠ port → x.waiting.any (fun y => y.1 = i) = false →
          mget t.w.net.arbs {} q = { x with waiting := x.waiting ++ [(port, f)] }))) ∧
  (∀ (peer tag addr len op : Nat) (data : List Byte) (busy : Bool) (env : Env) (s : State),
    (hbmBytes < addr + len → exec (.peerAccessRequest peer tag addr len op data busy env) s = .fault (.noSuchAddress addr)) ∧
    (addr + len ≤ hbmBytes → s.fab.joined = true → 1 ≤ len → len ≤ 2048 → s.w.noErrors → env.lines = [] →
      let ch := s.w.mem.channelOf addr
      let waits := busy || s.refreshing ch env.clk || s.w.mem.waiting.any (fun b => b.channel = ch)
      (waits = false → op = 0 → ∃ t, exec (.peerAccessRequest peer tag addr len op data busy env) s = .next t ∧
        t.w.out.getLast? = some (Out.response peer tag stOk (s.w.seenBytes addr len)) ∧
        t.w.mem = { s.w.mem with
          order := t.w.mem.order
          odc := t.w.mem.odc } ∧ (t.w.mem.priority ch).getLast? = some 0 ∧ t.w.run = s.w.run ∧
        t.w.cores = s.w.cores ∧ s.SameBlocks t) ∧
      (waits = false → op = 1 → ∃ t, exec (.peerAccessRequest peer tag addr len op data busy env) s = .next t ∧
        t.w.out.getLast? = some (Out.response peer tag stOk []) ∧ t.w.mem.hbm.readN addr len = fit len data ∧
        (∀ b, b < addr ∨ addr + len ≤ b → t.w.mem.hbm.read b = s.w.mem.hbm.read b) ∧ t.w.run = s.w.run ∧ t.w.cores = s.w.cores ∧
        s.SameBlocks t) ∧
      (waits = true → op < 2 → ∃ t, exec (.peerAccessRequest peer tag addr len op data busy env) s = .next t ∧
        t.w.mem.waiting.length = s.w.mem.waiting.length + 1 ∧ s.w.mem.waiting <+: t.w.mem.waiting ∧ t.w.mem.hbm = s.w.mem.hbm ∧
        t.w.out = s.w.out ∧ s.SameBlocks t))) ∧
  (∀ (ch wait : Nat) (env : Env) (s : State) (a : UAcc), s.w.mem.granted ch = some a → s.w.noErrors → env.lines = [] →
    (s.refreshing ch env.clk = true → exec (.unscheduledGrant ch wait env) s = .next s) ∧
    (s.refreshing ch env.clk = false → ∃ t, exec (.unscheduledGrant ch wait env) s = .next t ∧ a ∈ s.w.mem.waiting ∧ a.channel = ch ∧
      (∀ b ∈ s.w.mem.waiting, b.channel = ch →
        (s.w.mem.priority ch ++ [3]).idxOf a.cls ≤ (s.w.mem.priority ch ++ [3]).idxOf b.cls) ∧
      t.w.mem.waiting = s.w.mem.waiting.erase a ∧ (a.cls < 3 → (t.w.mem.priority ch).getLast? = some a.cls) ∧
      t.w.mem.waitMax = BitVec.ofNat 64 (max s.w.mem.waitMax.toNat wait) ∧
      (a.write = true → (s.w.rebar a).2.barred = [] → (a.cls = 2 → s.w.hostSpoils a.addr a.data.length = false) →
        t.w.mem.hbm.readN a.addr a.data.length = a.data) ∧
      (a.write = false → t.w.mem.hbm = s.w.mem.hbm ∧ (a.cls = 2 → t.w.dev.readData = blank (s.w.rebar a).2.barred a.addr (s.w.seenBytes a.addr a.len))) ∧
      t.w.mem.hostReads = (s.w.rebar a).1.mem.hostReads ∧ t.w.mem.hostWrites = (s.w.rebar a).1.mem.hostWrites ∧
      t.w.run = s.w.run ∧ t.w.cores = s.w.cores ∧ s.SameBlocks t)) ∧
  ∀ (tag status : Nat) (data : List Byte) (env : Env) (s : State),
    (s.w.mem.reqs.find? (fun q => decide (q.tag = tag)) = none → exec (.peerAccessResponse tag status data env) s = .next s) ∧
    (∀ q, s.w.mem.reqs.find? (fun q => decide (q.tag = tag)) = some q → quietEnv env = true →
      let w := ((s.w.observe q.core env).response q status data env.clk).modCore q.core
        (fun c => c.modProg q.firing (fun x => { x with tags := x.tags.filter (· ≠ q.tag) }))
      (q.write = false → (mget w.mem.peers {} q.peer).readN q.addr q.len = fit q.len data) ∧
      (∀ y ∈ w.mem.reqs, y.tag ≠ tag) ∧ w.mem.hbm = s.w.mem.hbm ∧ (status ≠ stOk → status ≠ stDataLost → w.run.abandon.isSome = true) ∧
      ∀ p r x, s.w.plan = some p → p.firing? q.core q.firing = some r → (s.w.core q.core).progOf q.firing = some x → s.w.net.upq = [] →
        ((∃ g ∈ x.tags, g ≠ q.tag) → exec (.peerAccessResponse tag status data env) s = .next { s with w := w }) ∧
        ((∀ g ∈ x.tags, g = q.tag) → x.stall = some .peer → x.done = false →
          let a : At := { core := q.core, firing := q.firing, time := w.now env.clk }
          let w' := w.modCore q.core (fun c => c.postpone q.firing (Rec.station r) (w.now env.clk - x.stallFrom))
          exec (.peerAccessResponse tag status data env) s = .next (State.uplinks { s with w := w'.goOn s.fab p r a })))

/-- Collectives (R774, R776 to R780, R787, R788). The shards of a contribution follow one another from its first unit
to its last. A ring step whose part has come treats it once: in an all-gather or a broadcast the units that came
replace the part's own, in a reduce-scatter the last member keeps what came added to its own part, and nothing else of
the contribution changes. A permute's next chunk is read out and sent to its target; the chunk in the swap slot is
copied over the member's own, which has been read out, and the slot is empty; when all are sent and copied the permute
is over (said of permutes with no station's write before them in the step). -/
def Obligations.CollectiveMoves : Prop :=
  (∀ (r : Nat × Nat) (n j : Nat), 0 < n → r.1 ≤ r.2 →
    (cutShard r n 0).1 = r.1 ∧ (cutShard r n (n - 1)).2 = r.2 ∧ (cutShard r n j).2 = (cutShard r n (j + 1)).1 ∧
    (cutShard r n j).1 ≤ (cutShard r n j).2 ∧ (ringHalf r 0).1 = r.1 ∧ (ringHalf r 0).2 = (ringHalf r 1).1 ∧ (ringHalf r 1).2 = r.2) ∧
  (∀ (entry stage ring shard : Nat) (up : List (List Byte)) (p : Plan) (c : Coll) (st : CollStage) (s : State), s.w.plan = some p →
    s.w.net.colls.find? (fun c => decide (c.entry = entry ∧ (p.coll c).op ≠ 4)) = some c → (p.coll c).stages[stage]? = some st →
    let x := p.coll c
    let total := c.units.length
    let here := s.w.ringOf s.fab x st
    let r := s.w.partRange s.fab x st total ring shard
    let origin := s.w.partOrigin s.fab x st ring shard
    let last := if ring = 0 then (origin + here.1 - 1) % here.1 else (origin + 1) % here.1
    (ring, shard) ∈ s.w.stageParts s.fab x st total → (stage, ring, shard) ∉ c.parts → s.w.stagesDone s.fab x c stage = true →
    (here.2 = origin → up = []) → (here.2 ≠ origin → up.length = r.2 - r.1) →
    ∃ t c', exec (.collectiveRingStep entry stage ring shard up 0) s = .next t ∧
      c'.parts = c.parts ++ [(stage, ring, shard)] ∧ c'.units.length = total ∧
      (∀ k, k < r.1 ∨ r.2 ≤ k → c'.units[k]? = c.units[k]?) ∧
      (here.2 = origin → c'.units = c.units) ∧
      (here.2 ≠ origin → st.reduce = false → ∀ k, r.1 ≤ k → k < r.2 → k < total → c'.units[k]? = (up[k - r.1]?).map unitOf) ∧
      (st.reduce = true → here.2 ≠ last → c'.units = c.units) ∧
      (st.reduce = true → here.2 ≠ origin → here.2 = last → ∀ k u v, r.1 ≤ k → k < r.2 → c.units[k]? = some u → up[k - r.1]? = some v →
        c'.units[k]? = some (x.add (unitOf v) u)) ∧
      (s.w.stagesDone s.fab x c' x.stages.length = false → t.w.net.colls = s.w.net.colls.map (fun y => if y = c then c' else y)) ∧
      (s.w.stagesDone s.fab x c' x.stages.length = true → c' ∉ t.w.net.colls ∧
        t.w.net.rx.any (fun y => decide (y.core = x.core ∧ y.stream = x.stream)) = true) ∧
      t.w.mem.hbm = s.w.mem.hbm ∧ t.w.plan = s.w.plan) ∧
  ∀ (entry chunk : Nat) (env : Env) (p : Plan) (c : Coll) (r : Rec) (x : Prog) (sl : W128) (s : State),
    s.w.permute? entry = some (p, c, r) → s.w.net.colls = [c] → (p.route c.set).slots[r.param]? = some sl → slotColl sl = c.entry →
    s.w.run.sets = [(c.core, c.firing, c.set)] → (s.w.core c.core).progOf c.firing = some x → x.pos = 0 → x.stall = some .engine →
    quietEnv env = true → s.w.noErrors → s.w.run.landed = [] →
    let T := p.tensor r.desc
    let k := T.chunk chunk
    let ends (t : State) (c' : Coll) : Prop :=
      (if T.chunks ≤ c'.sent ∧ T.chunks ≤ c'.copied then t.w.net.colls = [] else t.w.net.colls = [c']) ∧ t.w.dev = s.w.dev ∧ s.SameBlocks t
    (∀ b, chunk = c.sent → chunk < T.chunks → s.fab.nextBond s.fab.member.toNat (s.w.target s.fab (p.coll c)) (p.coll c).ring 0 = some b →
      (∀ i, (s.fab.portFor b i).isSome = true) → ∃ t, exec (.permuteChunkSend entry chunk env) s = .next t ∧ ends t { c with sent := chunk + 1 } ∧
        (t.w.out.drop s.w.out.length).flatMap (fun o => match o with | .flit _ f => flitData f | _ => []) =
          (List.range k.2).map (fun i => s.w.devByte (k.1 + i)) ∧ t.w.mem.hbm = s.w.mem.hbm) ∧
    (∀ i g, c.swap = some chunk → chunk < c.sent → Reg.target g = 0 → (∀ j < k.2, s.w.permit (k.1 + j) true = some (i, g)) →
      ∃ t, exec (.permuteChunkCopy entry chunk env) s = .next t ∧ ends t { c with swap := none, copied := chunk + 1 } ∧
        (∀ j < k.2, t.w.mem.hbm.read (Reg.target! g (k.1 + j)) = s.w.devByte ((p.coll c).swapBase + j)) ∧
        ∀ pa, (∀ j < k.2, Reg.target! g (k.1 + j) ≠ pa) → t.w.mem.hbm.read pa = s.w.mem.hbm.read pa)

/-- Lanes and ports (R736 to R742, R771, R1074 to R1077). A lane that fails is recorded, the codewords in flight are
asked for again, a free spare starts its training, and with fewer than two lanes the port is down; the trained spare
takes its place. A port that finishes training takes its latency class and its bond, is not used above 400 ns, and
stands idle as a spare (said where the repair record lists no lane or port spare). A port whose neighbour's ALIVE_N
rises is absent, and on a used bond during a step the peer is lost; one whose ALIVE_N falls trains. -/
def Obligations.PortsChange : Prop :=
  ∀ (port : Nat) (s : State),
    let P := s.fab.port port
    let others (t : State) : Prop := (∀ q, q ≠ port → t.fab.port q = s.fab.port q) ∧ t.w.mem.hbm = s.w.mem.hbm ∧ t.w.cores = s.w.cores ∧
      t.w.plan = s.w.plan ∧ t.w.net = s.w.net ∧ t.pwr = s.pwr ∧ t.sec = s.sec ∧ t.pending = s.pending
    (∀ lane < 4, P.st = .up → lane ∉ P.failed → ∃ t, exec (.laneFailure port lane) s = .next t ∧ others t ∧
      (t.fab.port port).failed = P.failed ++ [lane] ∧ (t.fab.port port).spareUsed = P.spareUsed ∧
      (P.spareUsed = false → P.spareBad = false → P.takeover = none → (t.fab.port port).takeover = some lane) ∧
      (P.spareUsed = true ∨ P.spareBad = true → (t.fab.port port).takeover = P.takeover) ∧
      (t.fab.port port).st = (if 4 - (P.failed.length + 1) + b2n P.spareUsed < 2 then .down else .up) ∧
      t.fab.retrans = s.fab.retrans + 1 ∧ Out.retransmit port ∈ t.w.out) ∧
    (∀ l < 4, P.takeover = some l → ∃ t, exec (.spareLaneTakeover port) s = .next t ∧ t.w = s.w ∧ others t ∧
      t.fab.port port = { P with takeover := none, spareUsed := true, spareFor := BitVec.ofNat 2 l }) ∧
    (P.takeover = none → ∃ t, exec (.spareLaneTakeover port) s = .next t ∧ t.w = s.w ∧ others t ∧ t.fab.port port = P) ∧
    (∀ raw nb nbPort, port < 40 → P.st = .training → s.w.rel.portSpares = [] → s.w.rel.laneSpares = [] → raw < 65536 →
      ∃ t, exec (.linkTrained port raw nb nbPort) s = .next t ∧ others t ∧
        (let Q := t.fab.port port
         Q.rawNs.toNat = raw ∧ Q.cabled = decide (200 < raw) ∧ Q.linkedN = false ∧ Q.neighbour = BitVec.ofNat 10 nb ∧
         Q.neighbourPort = BitVec.ofNat 6 nbPort ∧ (raw ≤ 400 → Q.bond.toNat = portBond port ∧ Q.bondIndex.toNat = portIndex port) ∧
         Q.st = (if 400 < raw then .tooLong else if portBond port = 6 then .idleSpare else .up))) ∧
    (∀ linked, port < 40 →
      (P.st = .up → ∃ t, exec (.sidebandChange port true linked) s = .next t ∧ others t ∧ (t.fab.port port).st = .absent ∧
        (t.fab.port port).aliveIn = true ∧ (t.fab.port port).linkedIn = linked ∧
        (s.w.stepping = true → s.usedBond P.bond.toNat = true → t.w.run.abandon.isSome = true ∧
          (s.w.run.abandon = none → ∃ e, t.w.run.abandon = some (BitVec.ofNat 8 stPeerLost, e) ∧ e.which = P.neighbour.toNat)) ∧
        (s.w.stepping = false ∨ s.usedBond P.bond.toNat = false → t.w.run = s.w.run)) ∧
      (P.st = .absent ∨ P.st = .down → ∃ t, exec (.sidebandChange port false linked) s = .next t ∧ others t ∧ (t.fab.port port).st = .training ∧
        (t.fab.port port).aliveIn = false ∧ (t.fab.port port).linkedIn = linked ∧ t.w.run = s.w.run))

/-- The uplinks and the Zwinus Link (R790, R792 to R794, R805, R826, R827). A frame that fails is discarded and
counted, and delivers nothing. A good frame that is next in order is delivered and acknowledged, and its ACK clears
what this module sent; one that came before is not delivered again, and one that is early is held. A frame without
acknowledgement is sent again, and after four sends its peer is lost. Link and pause states are kept. A Zwinus lane's
failure takes a spare, then narrows the link, and below eight lanes the link is down; on its return what waited
proceeds. -/
def Obligations.LinksChange : Prop :=
  (∀ (up : Nat) (fr : Frame) (s : State), up < 4 → (s.fab.uplink up).linkUp = true → s.w.net.upq = [] →
    let u := s.fab.uplink up
    let key := peerKey fr.srcHerd fr.srcMember
    let e := mget u.expect 0 key
    (s.fab.frameOk up fr = false → exec (.uplinkFrameReceive up fr) s = .next
      { s with fab := s.fab.modUplink up (fun u => { u with discarded := u.discarded + 1 }) }) ∧
    (s.fab.frameOk up fr = true → u.early = [] → ∃ t, exec (.uplinkFrameReceive up fr) s = .next t ∧
      (let v := t.fab.uplink up
       mget v.expect 0 key = (if fr.seq = e then e + 1 else e) ∧ v.early = (if e < fr.seq then [fr] else []) ∧
       v.unacked = u.unacked.filter (fun t => ¬(t.herd = fr.srcHerd ∧ t.member = fr.srcMember ∧ t.seq < fr.ack)) ∧
       v.discarded = u.discarded) ∧
      (∀ j, j ≠ up → t.fab.uplink j = s.fab.uplink j) ∧
      (let ack := if fr.seq = e then e + 1 else e
       Out.frame up fr.srcHerd fr.srcMember (mget u.nextSeq 0 key) ack [] (s.fab.frameHead up fr.srcHerd fr.srcMember
         (mget u.nextSeq 0 key) ack (Config.peerLink up fr.srcHerd fr.srcMember).toNat 0) ∈ t.w.out) ∧
      (fr.seq ≠ e → t.w.net = s.w.net) ∧
      (∀ f, fr.seq = e → fr.flits = [f] → bits f.hdr 3 0 = 1 → bits f.hdr 13 4 = s.fab.member.toNat →
        t.w.net.rx = (s.w.net.arrive (bits f.hdr 20 14) (bits f.hdr 26 21) (flitData f) []).rx) ∧
      t.w.cores = s.w.cores ∧ t.pwr = s.pwr ∧ t.sec = s.sec)) ∧
  (∀ (up peer seq : Nat) (fr : TxFrame) (s : State),
    (s.fab.uplink up).unacked.find? (fun t => decide (peerKey t.herd t.member = peer ∧ t.seq = seq)) = some fr →
    (fr.sends < 4 → ∃ t, exec (.uplinkResendTimeout up peer seq) s = .next t ∧
      (t.fab.uplink up).unacked.find? (fun t => decide (peerKey t.herd t.member = peer ∧ t.seq = seq)) = some { fr with sends := fr.sends + 1 } ∧
      t.fab.uplRetry = s.fab.uplRetry + 1 ∧
      (let ack := mget (s.fab.uplink up).expect 0 peer
       t.w.out = s.w.out ++ [Out.frame up fr.herd fr.member fr.seq ack fr.flits
         (s.fab.frameHead up fr.herd fr.member fr.seq ack fr.link fr.flits.length)]) ∧ t.w.run = s.w.run) ∧
    (4 ≤ fr.sends → ∃ t, exec (.uplinkResendTimeout up peer seq) s = .next t ∧
      (t.fab.uplink up).unacked.find? (fun t => decide (peerKey t.herd t.member = peer ∧ t.seq = seq)) = none ∧
      (s.w.stepping = true → s.w.run.abandon = none → ∃ e, t.w.run.abandon = some (BitVec.ofNat 8 stPeerLost, e) ∧ e.which = fr.member) ∧
      t.w.mem = s.w.mem ∧ t.w.cores = s.w.cores)) ∧
  (∀ (up : Nat) (on : Bool) (s : State), up < 4 → s.w.net.upq = [] →
    exec (.uplinkLinkChange up on) s = .next { s with fab := s.fab.modUplink up (fun u => { u with linkUp := on }) } ∧
    (s.fab.pfcEn = true → exec (.priorityPauseFrame up on) s = .next { s with fab := s.fab.modUplink up (fun u => { u with paused := on }) }) ∧
    (s.fab.pfcEn = false → exec (.priorityPauseFrame up on) s = .next s)) ∧
  ∀ (lane lanes : Nat) (s : State),
    (lane < 18 → s.w.dev.linkUp = true →
      (s.w.dev.zSpares < 2 → exec (.zwinusLaneFailure lane) s = .next
        { s with w := { s.w with dev := { s.w.dev with zSpares := s.w.dev.zSpares + 1 } } }) ∧
      (2 ≤ s.w.dev.zSpares → ∃ t, exec (.zwinusLaneFailure lane) s = .next t ∧ t.w.dev.zLanes = s.w.dev.zLanes - 1 ∧
        t.w.dev.linkUp = decide (8 ≤ s.w.dev.zLanes - 1) ∧ s.w.SamePlanWork t.w ∧ s.SameBlocks t)) ∧
    (s.w.dev.linkUp = false → s.w.dev.state ≠ .off → 8 ≤ lanes → lanes ≤ 16 → ∃ t, exec (.zwinusLinkUp lanes) s = .next t ∧
      t.w.dev.linkUp = true ∧ t.w.dev.zLanes = lanes ∧ t.w.dev.parked = [] ∧
      (∀ q, s.w.dev.parked = [q] → q.message = false → t.w.mem.companion.readN q.addr q.data.length = q.data) ∧
      (∀ q, s.w.dev.parked = [q] → q.message = true →
        Out.interrupt (BitVec.ofNat 64 q.addr) (BitVec.ofNat 32 (leNat q.data)) ∈ t.w.out) ∧
      s.w.SamePlanWork t.w ∧ s.SameBlocks t)

/-! ### Codes and addresses -/

/-- Gap codes (R538): walking the codes of any rising list of positions below the row's length gives the positions
back, reads exactly the codes, and cuts nothing. -/
def Obligations.GapRoundTrip : Prop :=
  ∀ (mt : Meta) (rd : Nat → Byte) (s0 off : Nat) (xs : List Nat), xs.Pairwise (· < ·) → (∀ x ∈ xs, x < s0) →
    off + (gapCodes 0 xs).length ≤ mt.bytes →
    (∀ i < (gapCodes 0 xs).length, rd (mt.base + (off + i)) = (gapCodes 0 xs).getD i 0) →
    gapWalk mt rd s0 xs.length (gapBound s0 xs.length) off 0 0 = ⟨xs, off + (gapCodes 0 xs).length, none⟩

/-- The physical address map (R309 to R312), while every stack has an active channel: no two addresses share a place;
a place lies in an active channel of one of the twelve stacks; an address of the interleaved pool is in the stack of
its 4 KiB unit, one of the home-stack pools in its own stack; and a backed address lies within its channel's capacity.
-/
def Obligations.AddressMap : Prop :=
  ∀ m : MemSys, (∀ k < 12, m.activeList k ≠ []) →
    (∀ a b, a < hbmBytes → b < hbmBytes → m.place a = m.place b → a = b) ∧
    (∀ a < hbmBytes, (m.place a).stack < 12 ∧ (m.place a).channel < 32 ∧
      (m.stack (m.place a).stack).active.getLsbD (m.place a).channel = true ∧
      (a < 12 * (m.splitX.toNat * gib) → (m.place a).stack = a / 4096 % 12) ∧
      (m.backed a = true → 2 * (m.place a).offset < 5 * gib)) ∧
    ∀ k o, k < 12 → m.splitX.toNat ≤ 80 → o < 80 * gib - m.splitX.toNat * gib →
      m.stackOf (12 * (m.splitX.toNat * gib) + k * (80 * gib - m.splitX.toNat * gib) + o) = (k, m.splitX.toNat * gib + o)
end

