-- ==== Sys2Proof/Laws/Memory.lean ====
section
/-!
SUPPORT. What the operations over sparse tables and byte memories do: reading after writing, the canonical form, and the
byte order.
-/

namespace Sys2Proof.Machine

/-! ### Lookups in filtered lists -/

theorem lookup_cons_ne {α : Type} (l : List (Nat × α)) (v : α) {k a : Nat} (h : k ≠ a) :
    ((a, v) :: l).lookup k = l.lookup k := by
  have : (k == a) = false := by simpa using h
  simp [List.lookup_cons, this]

theorem lookup_filter_pos {α : Type} (l : List (Nat × α)) (p : Nat → Bool) (k : Nat) (h : p k = true) :
    (l.filter (fun x => p x.1)).lookup k = l.lookup k := by
  induction l with
  | nil => rfl
  | cons x xs ih =>
    obtain ⟨a, v⟩ := x
    by_cases hk : k = a
    · subst hk; simp [h]
    · cases hp : p a <;> simp [hp, lookup_cons_ne _ _ hk, ih]

theorem lookup_filter_neg {α : Type} (l : List (Nat × α)) (p : Nat → Bool) (k : Nat) (h : p k = false) :
    (l.filter (fun x => p x.1)).lookup k = none := by
  induction l with
  | nil => rfl
  | cons x xs ih =>
    obtain ⟨a, v⟩ := x
    by_cases hk : k = a
    · subst hk; simp [h, ih]
    · cases hp : p a <;> simp [hp, lookup_cons_ne _ _ hk, ih]

theorem lookup_append {α : Type} (l m : List (Nat × α)) (k : Nat) :
    (l ++ m).lookup k = (l.lookup k).or (m.lookup k) := by
  induction l with
  | nil => simp
  | cons x xs ih =>
    obtain ⟨a, v⟩ := x
    by_cases hk : k = a
    · subst hk; simp
    · simp [lookup_cons_ne _ _ hk, ih]

/-! ### Sparse tables -/

/-- Reading a table after a write: the value written at its key, what stood there at any other key. -/
theorem mget_mset {α : Type} [DecidableEq α] (m : SMap α) (d v : α) (k j : Nat) :
    mget (mset m d k v) d j = if j = k then v else mget m d j := by
  unfold mget mset
  rw [lookup_append, lookup_append]
  have f1 := lookup_filter_pos m (fun x => decide (x < k)) j
  have f2 := lookup_filter_neg m (fun x => decide (x < k)) j
  have g1 := lookup_filter_pos m (fun x => decide (k < x)) j
  have g2 := lookup_filter_neg m (fun x => decide (k < x)) j
  rcases lt_trichotomy j k with h | h | h
  · rw [f1 (by simpa using h), g2 (by simpa using Nat.le_of_lt h)]
    have hne : j ≠ k := Nat.ne_of_lt h
    split <;> cases hm : List.lookup j m <;> simp [lookup_cons_ne _ _ hne]
  · subst h
    rw [f2 (by simp), g2 (by simp)]
    by_cases hv : v = d <;> simp [hv]
  · have hle : ¬ j < k := by omega
    rw [f2 (by simpa using hle), g1 (by simpa using h)]
    have hne : j ≠ k := Nat.ne_of_gt h
    split <;> simp [lookup_cons_ne _ _ hne]

@[simp] theorem mget_mset_same {α : Type} [DecidableEq α] (m : SMap α) (d v : α) (k : Nat) :
    mget (mset m d k v) d k = v := by simp [mget_mset]

@[simp] theorem mget_mmod_same {α : Type} [DecidableEq α] (m : SMap α) (d : α) (k : Nat) (f : α → α) :
    mget (mmod m d k f) d k = f (mget m d k) := by simp [mmod]

theorem mget_mset_ne {α : Type} [DecidableEq α] (m : SMap α) (d v : α) {k j : Nat} (h : j ≠ k) :
    mget (mset m d k v) d j = mget m d j := by simp [mget_mset, h]

theorem mget_mmod_ne {α : Type} [DecidableEq α] (m : SMap α) (d : α) (f : α → α) {k j : Nat} (h : j ≠ k) :
    mget (mmod m d k f) d j = mget m d j := by simp [mmod, mget_mset, h]

/-! ### Byte order (R4) -/

theorem leNat_toLE (n v : Nat) : leNat (toLE n v) = v % 256 ^ n := by
  induction n generalizing v with
  | zero => simp [toLE, leNat, Nat.mod_one]
  | succ n ih =>
    simp only [toLE, leNat, ih, BitVec.toNat_ofNat]
    have e : (256 : Nat) ^ (n + 1) = 256 * 256 ^ n := by rw [Nat.pow_succ, Nat.mul_comm]
    rw [e, Nat.mod_mul]

@[simp] theorem length_toLE (n v : Nat) : (toLE n v).length = n := by
  induction n generalizing v with
  | zero => rfl
  | succ n ih => simp [toLE, ih]

@[simp] theorem length_zeros (n : Nat) : (zeros n).length = n := by simp [zeros]

@[simp] theorem length_fit (n : Nat) (bs : List Byte) : (fit n bs).length = n := by
  simp [fit]; omega

theorem leNat_append (a b : List Byte) : leNat (a ++ b) = leNat a + 256 ^ a.length * leNat b := by
  induction a with
  | nil => simp [leNat]
  | cons x xs ih => simp only [List.cons_append, leNat, ih, List.length_cons, Nat.pow_succ]; ring

/-- A field read back from the front of a record that was put together from fields. -/
theorem leAt_front (n v : Nat) (rest : List Byte) (h : v < 256 ^ n) : leAt (toLE n v ++ rest) 0 n = v := by
  simp only [leAt, List.drop_zero]
  rw [List.take_append_of_le_length (by simp), List.take_of_length_le (by simp), leNat_toLE, Nat.mod_eq_of_lt h]

/-- A field read back from behind another. -/
theorem leAt_skip (a rest : List Byte) (o n : Nat) (h : a.length ≤ o) :
    leAt (a ++ rest) o n = leAt rest (o - a.length) n := by
  have : (a ++ rest).drop o = rest.drop (o - a.length) := by
    rw [List.drop_append, List.drop_eq_nil_of_le h, List.nil_append]
  simp [leAt, this]

/-! ### Byte memories -/

/-- Two memories with the same holes read unlisted addresses alike. -/
@[simp] theorem Memory.write_unlisted (m : Memory) (a : Nat) (bs : List Byte) (x : Nat) :
    (m.write a bs).unlisted x = m.unlisted x := rfl

theorem number_lookup (a : Nat) (bs : List Byte) (x : Nat) :
    (number a bs).lookup x = if a ≤ x then bs[x - a]? else none := by
  induction bs generalizing a with
  | nil => simp [number]
  | cons b bs ih =>
    by_cases h : x = a
    · subst h; simp [number]
    · simp only [number]
      rw [lookup_cons_ne _ _ h, ih]
      by_cases hl : a ≤ x
      · have e : x - a = (x - (a + 1)) + 1 := by omega
        have hl' : a + 1 ≤ x := by omega
        simp [hl, hl', e]
      · have hl' : ¬ a + 1 ≤ x := by omega
        simp [hl, hl']

theorem number_keys (a : Nat) (bs : List Byte) : ∀ c ∈ number a bs, a ≤ c.1 ∧ c.1 < a + bs.length := by
  induction bs generalizing a with
  | nil => simp [number]
  | cons b bs ih =>
    intro c hc
    simp only [number, List.mem_cons] at hc
    rcases hc with rfl | hc
    · simp
    · have := ih (a + 1) c hc
      simp only [List.length_cons]; omega

theorem number_sorted (a : Nat) (bs : List Byte) : (number a bs).Pairwise (fun x y => x.1 < y.1) := by
  induction bs generalizing a with
  | nil => simp [number]
  | cons b bs ih =>
    simp only [number, List.pairwise_cons]
    exact ⟨fun c hc => by have := number_keys (a + 1) bs c hc; simp; omega, ih (a + 1)⟩

/-- The lookup among the cells of stored bytes that differ from what an unlisted address reads as. -/
theorem number_filter_lookup (a : Nat) (bs : List Byte) (u : Nat → Byte) (x : Nat) :
    (((number a bs).filter (fun c => decide (c.2 ≠ u c.1))).lookup x).getD (u x) =
      if a ≤ x then (bs[x - a]?).getD (u x) else u x := by
  induction bs generalizing a with
  | nil => simp [number]
  | cons b bs ih =>
    by_cases h : x = a
    · subst h
      by_cases hb : b = u x
      · have hn : ((number (x + 1) bs).filter (fun c => decide (c.2 ≠ u c.1))).lookup x = none := by
          rw [List.lookup_eq_none_iff]
          intro c hc
          have := number_keys (x + 1) bs c (List.mem_of_mem_filter hc)
          simp; omega
        have hf : (number x (b :: bs)).filter (fun c => decide (c.2 ≠ u c.1)) =
            (number (x + 1) bs).filter (fun c => decide (c.2 ≠ u c.1)) := by simp [number, hb]
        rw [hf, hn]; simp [hb]
      · simp [number, hb]
    · have step : (((number a (b :: bs)).filter (fun c => decide (c.2 ≠ u c.1))).lookup x) =
          (((number (a + 1) bs).filter (fun c => decide (c.2 ≠ u c.1))).lookup x) := by
        by_cases hb : b = u a <;> simp [number, hb, lookup_cons_ne _ _ h]
      rw [step, ih]
      by_cases hl : a ≤ x
      · have e : x - a = (x - (a + 1)) + 1 := by omega
        have hl' : a + 1 ≤ x := by omega
        simp [hl, hl', e]
      · have hl' : ¬ a + 1 ≤ x := by omega
        simp [hl, hl']

/-- A byte read after a store: the byte stored there, or what stood there before. -/
theorem Memory.read_write (m : Memory) (a : Nat) (bs : List Byte) (x : Nat) :
    (m.write a bs).read x = if a ≤ x ∧ x < a + bs.length then (bs[x - a]?).getD 0 else m.read x := by
  have f1 := lookup_filter_pos m.cells (fun y => decide (y < a)) x
  have f2 := lookup_filter_neg m.cells (fun y => decide (y < a)) x
  have g1 := lookup_filter_pos m.cells (fun y => decide (a + bs.length ≤ y)) x
  have g2 := lookup_filter_neg m.cells (fun y => decide (a + bs.length ≤ y)) x
  have nf := number_filter_lookup a bs m.unlisted x
  have nk : (¬ (a ≤ x ∧ x < a + bs.length)) →
      ((number a bs).filter (fun c => decide (c.2 ≠ m.unlisted c.1))).lookup x = none := by
    intro h
    rw [List.lookup_eq_none_iff]
    intro c hc
    have := number_keys a bs c (List.mem_of_mem_filter hc)
    simp; omega
  unfold Memory.read
  rw [Memory.write_unlisted]
  simp only [Memory.write]
  rw [lookup_append, lookup_append]
  rcases Nat.lt_or_ge x a with h | h
  · rw [f1 (by simpa using h), nk (by omega), g2 (by simp; omega)]
    have : ¬ (a ≤ x ∧ x < a + bs.length) := by omega
    simp [this]
  · rw [f2 (by simpa using h)]
    by_cases hx : x < a + bs.length
    · rw [g2 (by simpa using hx)]
      have hi : x - a < bs.length := by omega
      simp only [Option.none_or, Option.or_none]
      rw [nf]
      simp [h, hx, hi]
    · rw [nk (by omega), g1 (by simp; omega)]
      have : ¬ (a ≤ x ∧ x < a + bs.length) := by omega
      simp [this]

/-- A store leaves every byte outside the stored ones as it was. -/
theorem Memory.read_write_out (m : Memory) (a : Nat) (bs : List Byte) (x : Nat) (h : x < a ∨ a + bs.length ≤ x) :
    (m.write a bs).read x = m.read x := by
  rw [Memory.read_write, if_neg (by omega)]

theorem Memory.readN_length (m : Memory) (a n : Nat) : (m.readN a n).length = n := by
  induction n generalizing a with
  | zero => rfl
  | succ n ih => simp [Memory.readN, ih]

theorem Memory.readN_get (m : Memory) (a n i : Nat) (h : i < n) : (m.readN a n)[i]? = some (m.read (a + i)) := by
  induction n generalizing a i with
  | zero => omega
  | succ n ih =>
    cases i with
    | zero => simp [Memory.readN]
    | succ i =>
      have := ih (a + 1) i (by omega)
      simp only [Memory.readN, List.getElem?_cons_succ, this]
      congr 2; omega

/-- Reading the bytes just stored gives them back. -/
theorem Memory.readN_write (m : Memory) (a : Nat) (bs : List Byte) : (m.write a bs).readN a bs.length = bs := by
  apply List.ext_getElem?
  intro i
  by_cases h : i < bs.length
  · rw [Memory.readN_get _ _ _ _ h, Memory.read_write]
    have h1 : a ≤ a + i ∧ a + i < a + bs.length := by omega
    rw [if_pos h1]
    have h2 : a + i - a = i := by omega
    rw [h2, List.getElem?_eq_getElem h]; rfl
  · rw [List.getElem?_eq_none (by rw [Memory.readN_length]; omega), List.getElem?_eq_none (by omega)]

/-- A store keeps the canonical form. -/
theorem Memory.wf_write (m : Memory) (a : Nat) (bs : List Byte) (h : m.wf) : (m.write a bs).wf := by
  obtain ⟨hs, hu⟩ := h
  refine ⟨?_, ?_⟩
  · simp only [Memory.write]
    rw [List.append_assoc, List.pairwise_append, List.pairwise_append]
    refine ⟨hs.filter _, ⟨(number_sorted a bs).filter _, hs.filter _, ?_⟩, ?_⟩
    · intro x hx y hy
      have := number_keys a bs x (List.mem_of_mem_filter hx)
      have hy' := (List.mem_filter.mp hy).2
      simp at hy'; omega
    · intro x hx y hy
      have hx' := (List.mem_filter.mp hx).2
      simp at hx'
      rcases List.mem_append.mp hy with hy | hy
      · have := number_keys a bs y (List.mem_of_mem_filter hy); omega
      · have hy' := (List.mem_filter.mp hy).2
        simp at hy'; omega
  · intro c hc
    rw [Memory.write_unlisted]
    simp only [Memory.write, List.mem_append] at hc
    rcases hc with (hc | hc) | hc
    · exact hu c (List.mem_of_mem_filter hc)
    · simpa using (List.mem_filter.mp hc).2
    · exact hu c (List.mem_of_mem_filter hc)

/-- Making a range undefined keeps the canonical form. -/
theorem Memory.wf_undef (m : Memory) (lo hi draw : Nat) (h : m.wf) : (m.undef lo hi draw).wf := by
  obtain ⟨hs, hu⟩ := h
  refine ⟨?_, ?_⟩
  · simp only [Memory.undef]
    rw [List.pairwise_append]
    refine ⟨hs.filter _, hs.filter _, ?_⟩
    intro x hx y hy
    have hx' := (List.mem_filter.mp hx).2
    have hy' := (List.mem_filter.mp hy).2
    simp at hx' hy'; omega
  · intro c hc
    have out : ¬ (lo ≤ c.1 ∧ c.1 < hi) ∧ c ∈ m.cells := by
      simp only [Memory.undef, List.mem_append, List.mem_filter] at hc
      rcases hc with hc | hc
      · refine ⟨?_, hc.1⟩
        have := hc.2; simp at this; omega
      · refine ⟨?_, hc.1⟩
        have := hc.2; simp at this; omega
    have e : (m.undef lo hi draw).unlisted c.1 = m.unlisted c.1 := by
      simp [Memory.undef, Memory.unlisted, holeByte, out.1]
    rw [e]; exact hu c out.2

/-- An empty memory is in its canonical form. -/
theorem Memory.wf_empty : ({} : Memory).wf := by simp [Memory.wf]

end Sys2Proof.Machine
end

