-- ==== Sys2Proof/Laws/State.lean ====
section
/-!
SUPPORT. The named updates of State's parts, field by field: what each one changes, and that it leaves every other field as
it was.
-/

namespace Sys2Proof.Machine

/-! ### Idle clk pulled back -/

@[simp] theorem Core.pullBack_parityCount (c : Core) (t : Nat) : (c.pullBack t).parityCount = c.parityCount := rfl

@[simp] theorem Core.pullBack_bank0 (c : Core) (t : Nat) : (c.pullBack t).bank0 = c.bank0 := rfl

@[simp] theorem Core.pullBack_bank1 (c : Core) (t : Nat) : (c.pullBack t).bank1 = c.bank1 := rfl

@[simp] theorem Core.pullBack_spares (c : Core) (t : Nat) : (c.pullBack t).spares = c.spares := rfl

@[simp] theorem Core.pullBack_taskBase (c : Core) (t : Nat) : (c.pullBack t).taskBase = c.taskBase := rfl

@[simp] theorem Core.pullBack_taskBound (c : Core) (t : Nat) : (c.pullBack t).taskBound = c.taskBound := rfl

@[simp] theorem Core.pullBack_ls (c : Core) (t : Nat) : (c.pullBack t).ls = c.ls := rfl

@[simp] theorem Core.pullBack_lsBad (c : Core) (t : Nat) : (c.pullBack t).lsBad = c.lsBad := rfl

@[simp] theorem Core.pullBack_prog (c : Core) (t : Nat) : (c.pullBack t).prog = c.prog := rfl

@[simp] theorem Core.pullBack_issued (c : Core) (t : Nat) : (c.pullBack t).issued = c.issued := rfl

@[simp] theorem Core.pullBack_retired (c : Core) (t : Nat) : (c.pullBack t).retired = c.retired := rfl

@[simp] theorem Core.pullBack_retiredAt (c : Core) (t : Nat) : (c.pullBack t).retiredAt = c.retiredAt := rfl

@[simp] theorem Core.pullBack_free (c : Core) (t : Nat) : (c.pullBack t).free = c.free := rfl

@[simp] theorem Core.pullBack_slots (c : Core) (t : Nat) : (c.pullBack t).slots = c.slots := rfl

@[simp] theorem Core.pullBack_made (c : Core) (t : Nat) : (c.pullBack t).made = c.made := rfl

@[simp] theorem Core.pullBack_used (c : Core) (t : Nat) : (c.pullBack t).used = c.used := rfl

@[simp] theorem Core.pullBack_board (c : Core) (t : Nat) : (c.pullBack t).board = c.board := rfl

@[simp] theorem Core.pullBack_cells (c : Core) (t : Nat) : (c.pullBack t).cells = c.cells := rfl

@[simp] theorem Core.pullBack_rows (c : Core) (t : Nat) : (c.pullBack t).rows = c.rows := rfl

@[simp] theorem Core.pullBack_tables (c : Core) (t : Nat) : (c.pullBack t).tables = c.tables := rfl

@[simp] theorem Core.pullBack_gridNext (c : Core) (t : Nat) : (c.pullBack t).gridNext = c.gridNext := rfl

@[simp] theorem Core.pullBack_lastRow (c : Core) (t : Nat) : (c.pullBack t).lastRow = c.lastRow := rfl

@[simp] theorem Core.pullBack_checkEnd (c : Core) (t : Nat) : (c.pullBack t).checkEnd = c.checkEnd := rfl

@[simp] theorem Core.pullBack_attHold (c : Core) (t : Nat) : (c.pullBack t).attHold = c.attHold := rfl

@[simp] theorem Core.pullBack_weights (c : Core) (t : Nat) : (c.pullBack t).weights = c.weights := rfl

@[simp] theorem Core.pullBack_queues (c : Core) (t : Nat) : (c.pullBack t).queues = c.queues := rfl

@[simp] theorem Core.pullBack_lanes (c : Core) (t : Nat) : (c.pullBack t).lanes = c.lanes := rfl

@[simp] theorem Core.pullBack_dispatch (c : Core) (t : Nat) : (c.pullBack t).dispatch = c.dispatch := rfl

@[simp] theorem Core.pullBack_idleFrom (c : Core) (t : Nat) : (c.pullBack t).idleFrom = c.idleFrom := rfl

/-! ### A counter advanced -/

@[simp] theorem Core.count_parityCount (c : Core) (k : Ctr) (n : Nat) : (c.count k n).parityCount = c.parityCount := rfl

@[simp] theorem Core.count_bank0 (c : Core) (k : Ctr) (n : Nat) : (c.count k n).bank0 = c.bank0 := rfl

@[simp] theorem Core.count_bank1 (c : Core) (k : Ctr) (n : Nat) : (c.count k n).bank1 = c.bank1 := rfl

@[simp] theorem Core.count_spares (c : Core) (k : Ctr) (n : Nat) : (c.count k n).spares = c.spares := rfl

@[simp] theorem Core.count_taskBase (c : Core) (k : Ctr) (n : Nat) : (c.count k n).taskBase = c.taskBase := rfl

@[simp] theorem Core.count_taskBound (c : Core) (k : Ctr) (n : Nat) : (c.count k n).taskBound = c.taskBound := rfl

@[simp] theorem Core.count_ls (c : Core) (k : Ctr) (n : Nat) : (c.count k n).ls = c.ls := rfl

@[simp] theorem Core.count_lsBad (c : Core) (k : Ctr) (n : Nat) : (c.count k n).lsBad = c.lsBad := rfl

@[simp] theorem Core.count_prog (c : Core) (k : Ctr) (n : Nat) : (c.count k n).prog = c.prog := rfl

@[simp] theorem Core.count_issued (c : Core) (k : Ctr) (n : Nat) : (c.count k n).issued = c.issued := rfl

@[simp] theorem Core.count_retired (c : Core) (k : Ctr) (n : Nat) : (c.count k n).retired = c.retired := rfl

@[simp] theorem Core.count_retiredAt (c : Core) (k : Ctr) (n : Nat) : (c.count k n).retiredAt = c.retiredAt := rfl

@[simp] theorem Core.count_free (c : Core) (k : Ctr) (n : Nat) : (c.count k n).free = c.free := rfl

@[simp] theorem Core.count_checkEnd (c : Core) (k : Ctr) (n : Nat) : (c.count k n).checkEnd = c.checkEnd := rfl

@[simp] theorem Core.count_slots (c : Core) (k : Ctr) (n : Nat) : (c.count k n).slots = c.slots := rfl

@[simp] theorem Core.count_made (c : Core) (k : Ctr) (n : Nat) : (c.count k n).made = c.made := rfl

@[simp] theorem Core.count_used (c : Core) (k : Ctr) (n : Nat) : (c.count k n).used = c.used := rfl

@[simp] theorem Core.count_board (c : Core) (k : Ctr) (n : Nat) : (c.count k n).board = c.board := rfl

@[simp] theorem Core.count_idled (c : Core) (k : Ctr) (n : Nat) : (c.count k n).idled = c.idled := rfl

@[simp] theorem Core.count_cells (c : Core) (k : Ctr) (n : Nat) : (c.count k n).cells = c.cells := rfl

@[simp] theorem Core.count_rows (c : Core) (k : Ctr) (n : Nat) : (c.count k n).rows = c.rows := rfl

@[simp] theorem Core.count_tables (c : Core) (k : Ctr) (n : Nat) : (c.count k n).tables = c.tables := rfl

@[simp] theorem Core.count_gridNext (c : Core) (k : Ctr) (n : Nat) : (c.count k n).gridNext = c.gridNext := rfl

@[simp] theorem Core.count_lastRow (c : Core) (k : Ctr) (n : Nat) : (c.count k n).lastRow = c.lastRow := rfl

@[simp] theorem Core.count_attHold (c : Core) (k : Ctr) (n : Nat) : (c.count k n).attHold = c.attHold := rfl

@[simp] theorem Core.count_weights (c : Core) (k : Ctr) (n : Nat) : (c.count k n).weights = c.weights := rfl

@[simp] theorem Core.count_queues (c : Core) (k : Ctr) (n : Nat) : (c.count k n).queues = c.queues := rfl

@[simp] theorem Core.count_lanes (c : Core) (k : Ctr) (n : Nat) : (c.count k n).lanes = c.lanes := rfl

@[simp] theorem Core.count_dispatch (c : Core) (k : Ctr) (n : Nat) : (c.count k n).dispatch = c.dispatch := rfl

@[simp] theorem Core.count_idleFrom (c : Core) (k : Ctr) (n : Nat) : (c.count k n).idleFrom = c.idleFrom := rfl

@[simp] theorem Core.count_aside (c : Core) (k : Ctr) (n : Nat) : (c.count k n).aside = c.aside := rfl

/-- The counter that advances. -/
@[simp] theorem Core.count_counts (c : Core) (k : Ctr) (n : Nat) :
    mget (c.count k n).counts 0 k.off = mget c.counts 0 k.off + BitVec.ofNat 64 n := by simp [Core.count]

/-- Two counters stand at two offsets. -/
theorem Ctr.off_inj {j k : Ctr} (h : j.off = k.off) : j = k := by cases j <;> cases k <;> first | rfl | (revert h; decide)

/-- Every other counter stays. -/
theorem Core.count_other (c : Core) {j k : Ctr} (n : Nat) (h : j ≠ k) :
    mget (c.count k n).counts 0 j.off = mget c.counts 0 j.off := by
  have h' : j.off ≠ k.off := fun e => h (Ctr.off_inj e)
  simp [Core.count, mmod, mget_mset, h']

/-! ### A core changed -/

@[simp] theorem Work.modCore_dev (w : Work) (k : Nat) (f : Core → Core) : (w.modCore k f).dev = w.dev := rfl

@[simp] theorem Work.modCore_cad (w : Work) (k : Nat) (f : Core → Core) : (w.modCore k f).cad = w.cad := rfl

@[simp] theorem Work.modCore_mem (w : Work) (k : Nat) (f : Core → Core) : (w.modCore k f).mem = w.mem := rfl

@[simp] theorem Work.modCore_plan (w : Work) (k : Nat) (f : Core → Core) : (w.modCore k f).plan = w.plan := rfl

@[simp] theorem Work.modCore_run (w : Work) (k : Nat) (f : Core → Core) : (w.modCore k f).run = w.run := rfl

@[simp] theorem Work.modCore_scales (w : Work) (k : Nat) (f : Core → Core) : (w.modCore k f).scales = w.scales := rfl

@[simp] theorem Work.modCore_cum (w : Work) (k : Nat) (f : Core → Core) : (w.modCore k f).cum = w.cum := rfl

@[simp] theorem Work.modCore_stages (w : Work) (k : Nat) (f : Core → Core) : (w.modCore k f).stages = w.stages := rfl

@[simp] theorem Work.modCore_rel (w : Work) (k : Nat) (f : Core → Core) : (w.modCore k f).rel = w.rel := rfl

@[simp] theorem Work.modCore_net (w : Work) (k : Nat) (f : Core → Core) : (w.modCore k f).net = w.net := rfl

@[simp] theorem Work.modCore_trace (w : Work) (k : Nat) (f : Core → Core) : (w.modCore k f).trace = w.trace := rfl

@[simp] theorem Work.modCore_out (w : Work) (k : Nat) (f : Core → Core) : (w.modCore k f).out = w.out := rfl

/-- The core that changes. -/
@[simp] theorem Work.modCore_core (w : Work) (k : Nat) (f : Core → Core) : (w.modCore k f).core k = f (w.core k) := by
  simp [Work.modCore, Work.core]

/-- Every other core stays. -/
theorem Work.modCore_other (w : Work) {k j : Nat} (f : Core → Core) (h : j ≠ k) : (w.modCore k f).core j = w.core j := by
  unfold Work.modCore Work.core
  exact mget_mmod_ne _ _ _ h

/-! ### A ring changed -/

@[simp] theorem Dev.modRing_state (d : Dev) (n : Nat) (f : Ring → Ring) : (d.modRing n f).state = d.state := rfl

@[simp] theorem Dev.modRing_prev (d : Dev) (n : Nat) (f : Ring → Ring) : (d.modRing n f).prev = d.prev := rfl

@[simp] theorem Dev.modRing_cause (d : Dev) (n : Nat) (f : Ring → Ring) : (d.modRing n f).cause = d.cause := rfl

@[simp] theorem Dev.modRing_held (d : Dev) (n : Nat) (f : Ring → Ring) : (d.modRing n f).held = d.held := rfl

@[simp] theorem Dev.modRing_notify (d : Dev) (n : Nat) (f : Ring → Ring) : (d.modRing n f).notify = d.notify := rfl

@[simp] theorem Dev.modRing_notifyMask (d : Dev) (n : Nat) (f : Ring → Ring) : (d.modRing n f).notifyMask = d.notifyMask := rfl

@[simp] theorem Dev.modRing_intAddr (d : Dev) (n : Nat) (f : Ring → Ring) : (d.modRing n f).intAddr = d.intAddr := rfl

@[simp] theorem Dev.modRing_intData (d : Dev) (n : Nat) (f : Ring → Ring) : (d.modRing n f).intData = d.intData := rfl

@[simp] theorem Dev.modRing_noteBase (d : Dev) (n : Nat) (f : Ring → Ring) : (d.modRing n f).noteBase = d.noteBase := rfl

@[simp] theorem Dev.modRing_noteLog2 (d : Dev) (n : Nat) (f : Ring → Ring) : (d.modRing n f).noteLog2 = d.noteLog2 := rfl

@[simp] theorem Dev.modRing_noteEnable (d : Dev) (n : Nat) (f : Ring → Ring) : (d.modRing n f).noteEnable = d.noteEnable := rfl

@[simp] theorem Dev.modRing_noteHead (d : Dev) (n : Nat) (f : Ring → Ring) : (d.modRing n f).noteHead = d.noteHead := rfl

@[simp] theorem Dev.modRing_noteTail (d : Dev) (n : Nat) (f : Ring → Ring) : (d.modRing n f).noteTail = d.noteTail := rfl

@[simp] theorem Dev.modRing_notePhase (d : Dev) (n : Nat) (f : Ring → Ring) : (d.modRing n f).notePhase = d.notePhase := rfl

@[simp] theorem Dev.modRing_noteCount (d : Dev) (n : Nat) (f : Ring → Ring) : (d.modRing n f).noteCount = d.noteCount := rfl

@[simp] theorem Dev.modRing_noteLost (d : Dev) (n : Nat) (f : Ring → Ring) : (d.modRing n f).noteLost = d.noteLost := rfl

@[simp] theorem Dev.modRing_flockSelf (d : Dev) (n : Nat) (f : Ring → Ring) : (d.modRing n f).flockSelf = d.flockSelf := rfl

@[simp] theorem Dev.modRing_counterSelect (d : Dev) (n : Nat) (f : Ring → Ring) : (d.modRing n f).counterSelect = d.counterSelect := rfl

@[simp] theorem Dev.modRing_flockMap (d : Dev) (n : Nat) (f : Ring → Ring) : (d.modRing n f).flockMap = d.flockMap := rfl

@[simp] theorem Dev.modRing_lastRing (d : Dev) (n : Nat) (f : Ring → Ring) : (d.modRing n f).lastRing = d.lastRing := rfl

@[simp] theorem Dev.modRing_results (d : Dev) (n : Nat) (f : Ring → Ring) : (d.modRing n f).results = d.results := rfl

@[simp] theorem Dev.modRing_load (d : Dev) (n : Nat) (f : Ring → Ring) : (d.modRing n f).load = d.load := rfl

@[simp] theorem Dev.modRing_forming (d : Dev) (n : Nat) (f : Ring → Ring) : (d.modRing n f).forming = d.forming := rfl

@[simp] theorem Dev.modRing_jobs (d : Dev) (n : Nat) (f : Ring → Ring) : (d.modRing n f).jobs = d.jobs := rfl

@[simp] theorem Dev.modRing_log (d : Dev) (n : Nat) (f : Ring → Ring) : (d.modRing n f).log = d.log := rfl

@[simp] theorem Dev.modRing_logNext (d : Dev) (n : Nat) (f : Ring → Ring) : (d.modRing n f).logNext = d.logNext := rfl

@[simp] theorem Dev.modRing_readData (d : Dev) (n : Nat) (f : Ring → Ring) : (d.modRing n f).readData = d.readData := rfl

@[simp] theorem Dev.modRing_zLanes (d : Dev) (n : Nat) (f : Ring → Ring) : (d.modRing n f).zLanes = d.zLanes := rfl

@[simp] theorem Dev.modRing_zSpares (d : Dev) (n : Nat) (f : Ring → Ring) : (d.modRing n f).zSpares = d.zSpares := rfl

@[simp] theorem Dev.modRing_linkUp (d : Dev) (n : Nat) (f : Ring → Ring) : (d.modRing n f).linkUp = d.linkUp := rfl

@[simp] theorem Dev.modRing_parked (d : Dev) (n : Nat) (f : Ring → Ring) : (d.modRing n f).parked = d.parked := rfl

/-- The ring that changes. -/
@[simp] theorem Dev.modRing_ring (d : Dev) (n : Nat) (f : Ring → Ring) :
    mget (d.modRing n f).rings {} n = f (mget d.rings {} n) := by simp [Dev.modRing]

/-- Every other ring stays. -/
theorem Dev.modRing_other (d : Dev) {n j : Nat} (f : Ring → Ring) (h : j ≠ n) :
    mget (d.modRing n f).rings {} j = mget d.rings {} j := by
  unfold Dev.modRing
  exact mget_mmod_ne _ _ _ h

/-! ### A fabric port changed -/

@[simp] theorem Fab.modPort_trained (f : Fab) (n : Nat) (g : Port → Port) : (f.modPort n g).trained = f.trained := rfl

@[simp] theorem Fab.modPort_joined (f : Fab) (n : Nat) (g : Port → Port) : (f.modPort n g).joined = f.joined := rfl

@[simp] theorem Fab.modPort_xM1 (f : Fab) (n : Nat) (g : Port → Port) : (f.modPort n g).xM1 = f.xM1 := rfl

@[simp] theorem Fab.modPort_yM1 (f : Fab) (n : Nat) (g : Port → Port) : (f.modPort n g).yM1 = f.yM1 := rfl

@[simp] theorem Fab.modPort_zM1 (f : Fab) (n : Nat) (g : Port → Port) : (f.modPort n g).zM1 = f.zM1 := rfl

@[simp] theorem Fab.modPort_member (f : Fab) (n : Nat) (g : Port → Port) : (f.modPort n g).member = f.member := rfl

@[simp] theorem Fab.modPort_herd (f : Fab) (n : Nat) (g : Port → Port) : (f.modPort n g).herd = f.herd := rfl

@[simp] theorem Fab.modPort_etherType (f : Fab) (n : Nat) (g : Port → Port) : (f.modPort n g).etherType = f.etherType := rfl

@[simp] theorem Fab.modPort_vlanEn (f : Fab) (n : Nat) (g : Port → Port) : (f.modPort n g).vlanEn = f.vlanEn := rfl

@[simp] theorem Fab.modPort_pcp (f : Fab) (n : Nat) (g : Port → Port) : (f.modPort n g).pcp = f.pcp := rfl

@[simp] theorem Fab.modPort_pfcEn (f : Fab) (n : Nat) (g : Port → Port) : (f.modPort n g).pfcEn = f.pfcEn := rfl

@[simp] theorem Fab.modPort_retrans (f : Fab) (n : Nat) (g : Port → Port) : (f.modPort n g).retrans = f.retrans := rfl

@[simp] theorem Fab.modPort_backoff (f : Fab) (n : Nat) (g : Port → Port) : (f.modPort n g).backoff = f.backoff := rfl

@[simp] theorem Fab.modPort_dead (f : Fab) (n : Nat) (g : Port → Port) : (f.modPort n g).dead = f.dead := rfl

@[simp] theorem Fab.modPort_eventLost (f : Fab) (n : Nat) (g : Port → Port) : (f.modPort n g).eventLost = f.eventLost := rfl

@[simp] theorem Fab.modPort_uplRetry (f : Fab) (n : Nat) (g : Port → Port) : (f.modPort n g).uplRetry = f.uplRetry := rfl

@[simp] theorem Fab.modPort_events (f : Fab) (n : Nat) (g : Port → Port) : (f.modPort n g).events = f.events := rfl

@[simp] theorem Fab.modPort_uplinks (f : Fab) (n : Nat) (g : Port → Port) : (f.modPort n g).uplinks = f.uplinks := rfl

/-- The port that changes. -/
@[simp] theorem Fab.modPort_port (f : Fab) (n : Nat) (g : Port → Port) : (f.modPort n g).port n = g (f.port n) := by
  simp [Fab.modPort, Fab.port]

/-- Every other port stays. -/
theorem Fab.modPort_other (f : Fab) {n j : Nat} (g : Port → Port) (h : j ≠ n) : (f.modPort n g).port j = f.port j := by
  unfold Fab.modPort Fab.port
  exact mget_mmod_ne _ _ _ h

/-! ### An uplink changed -/

@[simp] theorem Fab.modUplink_trained (f : Fab) (n : Nat) (g : Uplink → Uplink) : (f.modUplink n g).trained = f.trained := rfl

@[simp] theorem Fab.modUplink_joined (f : Fab) (n : Nat) (g : Uplink → Uplink) : (f.modUplink n g).joined = f.joined := rfl

@[simp] theorem Fab.modUplink_xM1 (f : Fab) (n : Nat) (g : Uplink → Uplink) : (f.modUplink n g).xM1 = f.xM1 := rfl

@[simp] theorem Fab.modUplink_yM1 (f : Fab) (n : Nat) (g : Uplink → Uplink) : (f.modUplink n g).yM1 = f.yM1 := rfl

@[simp] theorem Fab.modUplink_zM1 (f : Fab) (n : Nat) (g : Uplink → Uplink) : (f.modUplink n g).zM1 = f.zM1 := rfl

@[simp] theorem Fab.modUplink_member (f : Fab) (n : Nat) (g : Uplink → Uplink) : (f.modUplink n g).member = f.member := rfl

@[simp] theorem Fab.modUplink_herd (f : Fab) (n : Nat) (g : Uplink → Uplink) : (f.modUplink n g).herd = f.herd := rfl

@[simp] theorem Fab.modUplink_etherType (f : Fab) (n : Nat) (g : Uplink → Uplink) : (f.modUplink n g).etherType = f.etherType := rfl

@[simp] theorem Fab.modUplink_vlanEn (f : Fab) (n : Nat) (g : Uplink → Uplink) : (f.modUplink n g).vlanEn = f.vlanEn := rfl

@[simp] theorem Fab.modUplink_pcp (f : Fab) (n : Nat) (g : Uplink → Uplink) : (f.modUplink n g).pcp = f.pcp := rfl

@[simp] theorem Fab.modUplink_pfcEn (f : Fab) (n : Nat) (g : Uplink → Uplink) : (f.modUplink n g).pfcEn = f.pfcEn := rfl

@[simp] theorem Fab.modUplink_retrans (f : Fab) (n : Nat) (g : Uplink → Uplink) : (f.modUplink n g).retrans = f.retrans := rfl

@[simp] theorem Fab.modUplink_backoff (f : Fab) (n : Nat) (g : Uplink → Uplink) : (f.modUplink n g).backoff = f.backoff := rfl

@[simp] theorem Fab.modUplink_dead (f : Fab) (n : Nat) (g : Uplink → Uplink) : (f.modUplink n g).dead = f.dead := rfl

@[simp] theorem Fab.modUplink_eventLost (f : Fab) (n : Nat) (g : Uplink → Uplink) : (f.modUplink n g).eventLost = f.eventLost := rfl

@[simp] theorem Fab.modUplink_uplRetry (f : Fab) (n : Nat) (g : Uplink → Uplink) : (f.modUplink n g).uplRetry = f.uplRetry := rfl

@[simp] theorem Fab.modUplink_events (f : Fab) (n : Nat) (g : Uplink → Uplink) : (f.modUplink n g).events = f.events := rfl

@[simp] theorem Fab.modUplink_ports (f : Fab) (n : Nat) (g : Uplink → Uplink) : (f.modUplink n g).ports = f.ports := rfl

/-- The uplink that changes. -/
@[simp] theorem Fab.modUplink_uplink (f : Fab) (n : Nat) (g : Uplink → Uplink) :
    (f.modUplink n g).uplink n = g (f.uplink n) := by simp [Fab.modUplink, Fab.uplink]

/-! ### UPL_CONFIG written -/

@[simp] theorem Fab.setUpl_trained (f : Fab) (v : Nat) : (f.setUpl v).trained = f.trained := rfl

@[simp] theorem Fab.setUpl_joined (f : Fab) (v : Nat) : (f.setUpl v).joined = f.joined := rfl

@[simp] theorem Fab.setUpl_xM1 (f : Fab) (v : Nat) : (f.setUpl v).xM1 = f.xM1 := rfl

@[simp] theorem Fab.setUpl_yM1 (f : Fab) (v : Nat) : (f.setUpl v).yM1 = f.yM1 := rfl

@[simp] theorem Fab.setUpl_zM1 (f : Fab) (v : Nat) : (f.setUpl v).zM1 = f.zM1 := rfl

@[simp] theorem Fab.setUpl_member (f : Fab) (v : Nat) : (f.setUpl v).member = f.member := rfl

@[simp] theorem Fab.setUpl_herd (f : Fab) (v : Nat) : (f.setUpl v).herd = f.herd := rfl

@[simp] theorem Fab.setUpl_retrans (f : Fab) (v : Nat) : (f.setUpl v).retrans = f.retrans := rfl

@[simp] theorem Fab.setUpl_backoff (f : Fab) (v : Nat) : (f.setUpl v).backoff = f.backoff := rfl

@[simp] theorem Fab.setUpl_dead (f : Fab) (v : Nat) : (f.setUpl v).dead = f.dead := rfl

@[simp] theorem Fab.setUpl_eventLost (f : Fab) (v : Nat) : (f.setUpl v).eventLost = f.eventLost := rfl

@[simp] theorem Fab.setUpl_uplRetry (f : Fab) (v : Nat) : (f.setUpl v).uplRetry = f.uplRetry := rfl

@[simp] theorem Fab.setUpl_events (f : Fab) (v : Nat) : (f.setUpl v).events = f.events := rfl

@[simp] theorem Fab.setUpl_ports (f : Fab) (v : Nat) : (f.setUpl v).ports = f.ports := rfl

@[simp] theorem Fab.setUpl_uplinks (f : Fab) (v : Nat) : (f.setUpl v).uplinks = f.uplinks := rfl

/-! ### CAD_CONFIG written -/

@[simp] theorem Cad.config_tickCount (c : Cad) (tick slack stretch : Nat) : (c.config tick slack stretch).tickCount = c.tickCount := rfl

@[simp] theorem Cad.config_offset (c : Cad) (tick slack stretch : Nat) : (c.config tick slack stretch).offset = c.offset := rfl

@[simp] theorem Cad.config_lock (c : Cad) (tick slack stretch : Nat) : (c.config tick slack stretch).lock = c.lock := rfl

@[simp] theorem Cad.config_bellwether (c : Cad) (tick slack stretch : Nat) : (c.config tick slack stretch).bellwether = c.bellwether := rfl

@[simp] theorem Cad.config_ppsOk (c : Cad) (tick slack stretch : Nat) : (c.config tick slack stretch).ppsOk = c.ppsOk := rfl

@[simp] theorem Cad.config_ptpOk (c : Cad) (tick slack stretch : Nat) : (c.config tick slack stretch).ptpOk = c.ptpOk := rfl

@[simp] theorem Cad.config_beatLost (c : Cad) (tick slack stretch : Nat) : (c.config tick slack stretch).beatLost = c.beatLost := rfl

@[simp] theorem Cad.config_configReject (c : Cad) (tick slack stretch : Nat) : (c.config tick slack stretch).configReject = c.configReject := rfl

@[simp] theorem Cad.config_stopPending (c : Cad) (tick slack stretch : Nat) : (c.config tick slack stretch).stopPending = c.stopPending := rfl

@[simp] theorem Cad.config_holdLead (c : Cad) (tick slack stretch : Nat) : (c.config tick slack stretch).holdLead = c.holdLead := rfl

@[simp] theorem Cad.config_bellIndex (c : Cad) (tick slack stretch : Nat) : (c.config tick slack stretch).bellIndex = c.bellIndex := rfl

@[simp] theorem Cad.config_herdErr (c : Cad) (tick slack stretch : Nat) : (c.config tick slack stretch).herdErr = c.herdErr := rfl

@[simp] theorem Cad.config_beatDelay (c : Cad) (tick slack stretch : Nat) : (c.config tick slack stretch).beatDelay = c.beatDelay := rfl

@[simp] theorem Cad.config_dmax (c : Cad) (tick slack stretch : Nat) : (c.config tick slack stretch).dmax = c.dmax := rfl

@[simp] theorem Cad.config_xherdErr (c : Cad) (tick slack stretch : Nat) : (c.config tick slack stretch).xherdErr = c.xherdErr := rfl

@[simp] theorem Cad.config_stretchCount (c : Cad) (tick slack stretch : Nat) : (c.config tick slack stretch).stretchCount = c.stretchCount := rfl

@[simp] theorem Cad.config_stretchClk (c : Cad) (tick slack stretch : Nat) : (c.config tick slack stretch).stretchClk = c.stretchClk := rfl

@[simp] theorem Cad.config_holdCount (c : Cad) (tick slack stretch : Nat) : (c.config tick slack stretch).holdCount = c.holdCount := rfl

@[simp] theorem Cad.config_lagMax (c : Cad) (tick slack stretch : Nat) : (c.config tick slack stretch).lagMax = c.lagMax := rfl

@[simp] theorem Cad.config_time (c : Cad) (tick slack stretch : Nat) : (c.config tick slack stretch).time = c.time := rfl

@[simp] theorem Cad.config_drift (c : Cad) (tick slack stretch : Nat) : (c.config tick slack stretch).drift = c.drift := rfl

@[simp] theorem Cad.config_anchor (c : Cad) (tick slack stretch : Nat) : (c.config tick slack stretch).anchor = c.anchor := rfl

@[simp] theorem Cad.config_trim (c : Cad) (tick slack stretch : Nat) : (c.config tick slack stretch).trim = c.trim := rfl

@[simp] theorem Cad.config_epochNs (c : Cad) (tick slack stretch : Nat) : (c.config tick slack stretch).epochNs = c.epochNs := rfl

@[simp] theorem Cad.config_beatPort (c : Cad) (tick slack stretch : Nat) : (c.config tick slack stretch).beatPort = c.beatPort := rfl

/-! ### An elastic section changed -/

@[simp] theorem Run.modSec_accepted (r : Run) (n : Nat) (f : SecRun → SecRun) : (r.modSec n f).accepted = r.accepted := rfl

@[simp] theorem Run.modSec_faulted (r : Run) (n : Nat) (f : SecRun → SecRun) : (r.modSec n f).faulted = r.faulted := rfl

@[simp] theorem Run.modSec_queued (r : Run) (n : Nat) (f : SecRun → SecRun) : (r.modSec n f).queued = r.queued := rfl

@[simp] theorem Run.modSec_step (r : Run) (n : Nat) (f : SecRun → SecRun) : (r.modSec n f).step = r.step := rfl

@[simp] theorem Run.modSec_ended (r : Run) (n : Nat) (f : SecRun → SecRun) : (r.modSec n f).ended = r.ended := rfl

@[simp] theorem Run.modSec_begun (r : Run) (n : Nat) (f : SecRun → SecRun) : (r.modSec n f).begun = r.begun := rfl

@[simp] theorem Run.modSec_commits (r : Run) (n : Nat) (f : SecRun → SecRun) : (r.modSec n f).commits = r.commits := rfl

@[simp] theorem Run.modSec_tick (r : Run) (n : Nat) (f : SecRun → SecRun) : (r.modSec n f).tick = r.tick := rfl

@[simp] theorem Run.modSec_applied (r : Run) (n : Nat) (f : SecRun → SecRun) : (r.modSec n f).applied = r.applied := rfl

@[simp] theorem Run.modSec_decided (r : Run) (n : Nat) (f : SecRun → SecRun) : (r.modSec n f).decided = r.decided := rfl

@[simp] theorem Run.modSec_nextDecision (r : Run) (n : Nat) (f : SecRun → SecRun) : (r.modSec n f).nextDecision = r.nextDecision := rfl

@[simp] theorem Run.modSec_counting (r : Run) (n : Nat) (f : SecRun → SecRun) : (r.modSec n f).counting = r.counting := rfl

@[simp] theorem Run.modSec_stretches (r : Run) (n : Nat) (f : SecRun → SecRun) : (r.modSec n f).stretches = r.stretches := rfl

@[simp] theorem Run.modSec_holds (r : Run) (n : Nat) (f : SecRun → SecRun) : (r.modSec n f).holds = r.holds := rfl

@[simp] theorem Run.modSec_wantStop (r : Run) (n : Nat) (f : SecRun → SecRun) : (r.modSec n f).wantStop = r.wantStop := rfl

@[simp] theorem Run.modSec_stopOrigin (r : Run) (n : Nat) (f : SecRun → SecRun) : (r.modSec n f).stopOrigin = r.stopOrigin := rfl

@[simp] theorem Run.modSec_resumeAt (r : Run) (n : Nat) (f : SecRun → SecRun) : (r.modSec n f).resumeAt = r.resumeAt := rfl

@[simp] theorem Run.modSec_rerun (r : Run) (n : Nat) (f : SecRun → SecRun) : (r.modSec n f).rerun = r.rerun := rfl

@[simp] theorem Run.modSec_detections (r : Run) (n : Nat) (f : SecRun → SecRun) : (r.modSec n f).detections = r.detections := rfl

@[simp] theorem Run.modSec_since (r : Run) (n : Nat) (f : SecRun → SecRun) : (r.modSec n f).since = r.since := rfl

@[simp] theorem Run.modSec_thermalStop (r : Run) (n : Nat) (f : SecRun → SecRun) : (r.modSec n f).thermalStop = r.thermalStop := rfl

@[simp] theorem Run.modSec_holdCmd (r : Run) (n : Nat) (f : SecRun → SecRun) : (r.modSec n f).holdCmd = r.holdCmd := rfl

@[simp] theorem Run.modSec_stopped (r : Run) (n : Nat) (f : SecRun → SecRun) : (r.modSec n f).stopped = r.stopped := rfl

@[simp] theorem Run.modSec_discarded (r : Run) (n : Nat) (f : SecRun → SecRun) : (r.modSec n f).discarded = r.discarded := rfl

@[simp] theorem Run.modSec_indexErr (r : Run) (n : Nat) (f : SecRun → SecRun) : (r.modSec n f).indexErr = r.indexErr := rfl

@[simp] theorem Run.modSec_formatErr (r : Run) (n : Nat) (f : SecRun → SecRun) : (r.modSec n f).formatErr = r.formatErr := rfl

@[simp] theorem Run.modSec_prunedEv (r : Run) (n : Nat) (f : SecRun → SecRun) : (r.modSec n f).prunedEv = r.prunedEv := rfl

@[simp] theorem Run.modSec_inexactEv (r : Run) (n : Nat) (f : SecRun → SecRun) : (r.modSec n f).inexactEv = r.inexactEv := rfl

@[simp] theorem Run.modSec_abandon (r : Run) (n : Nat) (f : SecRun → SecRun) : (r.modSec n f).abandon = r.abandon := rfl

@[simp] theorem Run.modSec_activeSet (r : Run) (n : Nat) (f : SecRun → SecRun) : (r.modSec n f).activeSet = r.activeSet := rfl

@[simp] theorem Run.modSec_factors (r : Run) (n : Nat) (f : SecRun → SecRun) : (r.modSec n f).factors = r.factors := rfl

@[simp] theorem Run.modSec_mass (r : Run) (n : Nat) (f : SecRun → SecRun) : (r.modSec n f).mass = r.mass := rfl

@[simp] theorem Run.modSec_chanStats (r : Run) (n : Nat) (f : SecRun → SecRun) : (r.modSec n f).chanStats = r.chanStats := rfl

@[simp] theorem Run.modSec_slotStats (r : Run) (n : Nat) (f : SecRun → SecRun) : (r.modSec n f).slotStats = r.slotStats := rfl

@[simp] theorem Run.modSec_sets (r : Run) (n : Nat) (f : SecRun → SecRun) : (r.modSec n f).sets = r.sets := rfl

@[simp] theorem Run.modSec_landed (r : Run) (n : Nat) (f : SecRun → SecRun) : (r.modSec n f).landed = r.landed := rfl

/-! ### A firing in progress changed -/

@[simp] theorem Core.modProg_counts (c : Core) (n : Nat) (f : Prog → Prog) : (c.modProg n f).counts = c.counts := rfl

@[simp] theorem Core.modProg_parityCount (c : Core) (n : Nat) (f : Prog → Prog) : (c.modProg n f).parityCount = c.parityCount := rfl

@[simp] theorem Core.modProg_bank0 (c : Core) (n : Nat) (f : Prog → Prog) : (c.modProg n f).bank0 = c.bank0 := rfl

@[simp] theorem Core.modProg_bank1 (c : Core) (n : Nat) (f : Prog → Prog) : (c.modProg n f).bank1 = c.bank1 := rfl

@[simp] theorem Core.modProg_spares (c : Core) (n : Nat) (f : Prog → Prog) : (c.modProg n f).spares = c.spares := rfl

@[simp] theorem Core.modProg_taskBase (c : Core) (n : Nat) (f : Prog → Prog) : (c.modProg n f).taskBase = c.taskBase := rfl

@[simp] theorem Core.modProg_taskBound (c : Core) (n : Nat) (f : Prog → Prog) : (c.modProg n f).taskBound = c.taskBound := rfl

@[simp] theorem Core.modProg_ls (c : Core) (n : Nat) (f : Prog → Prog) : (c.modProg n f).ls = c.ls := rfl

@[simp] theorem Core.modProg_lsBad (c : Core) (n : Nat) (f : Prog → Prog) : (c.modProg n f).lsBad = c.lsBad := rfl

@[simp] theorem Core.modProg_issued (c : Core) (n : Nat) (f : Prog → Prog) : (c.modProg n f).issued = c.issued := rfl

@[simp] theorem Core.modProg_retired (c : Core) (n : Nat) (f : Prog → Prog) : (c.modProg n f).retired = c.retired := rfl

@[simp] theorem Core.modProg_retiredAt (c : Core) (n : Nat) (f : Prog → Prog) : (c.modProg n f).retiredAt = c.retiredAt := rfl

@[simp] theorem Core.modProg_free (c : Core) (n : Nat) (f : Prog → Prog) : (c.modProg n f).free = c.free := rfl

@[simp] theorem Core.modProg_checkEnd (c : Core) (n : Nat) (f : Prog → Prog) : (c.modProg n f).checkEnd = c.checkEnd := rfl

@[simp] theorem Core.modProg_slots (c : Core) (n : Nat) (f : Prog → Prog) : (c.modProg n f).slots = c.slots := rfl

@[simp] theorem Core.modProg_made (c : Core) (n : Nat) (f : Prog → Prog) : (c.modProg n f).made = c.made := rfl

@[simp] theorem Core.modProg_used (c : Core) (n : Nat) (f : Prog → Prog) : (c.modProg n f).used = c.used := rfl

@[simp] theorem Core.modProg_board (c : Core) (n : Nat) (f : Prog → Prog) : (c.modProg n f).board = c.board := rfl

@[simp] theorem Core.modProg_idled (c : Core) (n : Nat) (f : Prog → Prog) : (c.modProg n f).idled = c.idled := rfl

@[simp] theorem Core.modProg_cells (c : Core) (n : Nat) (f : Prog → Prog) : (c.modProg n f).cells = c.cells := rfl

@[simp] theorem Core.modProg_rows (c : Core) (n : Nat) (f : Prog → Prog) : (c.modProg n f).rows = c.rows := rfl

@[simp] theorem Core.modProg_tables (c : Core) (n : Nat) (f : Prog → Prog) : (c.modProg n f).tables = c.tables := rfl

@[simp] theorem Core.modProg_gridNext (c : Core) (n : Nat) (f : Prog → Prog) : (c.modProg n f).gridNext = c.gridNext := rfl

@[simp] theorem Core.modProg_lastRow (c : Core) (n : Nat) (f : Prog → Prog) : (c.modProg n f).lastRow = c.lastRow := rfl

@[simp] theorem Core.modProg_attHold (c : Core) (n : Nat) (f : Prog → Prog) : (c.modProg n f).attHold = c.attHold := rfl

@[simp] theorem Core.modProg_weights (c : Core) (n : Nat) (f : Prog → Prog) : (c.modProg n f).weights = c.weights := rfl

@[simp] theorem Core.modProg_queues (c : Core) (n : Nat) (f : Prog → Prog) : (c.modProg n f).queues = c.queues := rfl

@[simp] theorem Core.modProg_lanes (c : Core) (n : Nat) (f : Prog → Prog) : (c.modProg n f).lanes = c.lanes := rfl

@[simp] theorem Core.modProg_dispatch (c : Core) (n : Nat) (f : Prog → Prog) : (c.modProg n f).dispatch = c.dispatch := rfl

@[simp] theorem Core.modProg_idleFrom (c : Core) (n : Nat) (f : Prog → Prog) : (c.modProg n f).idleFrom = c.idleFrom := rfl

@[simp] theorem Core.modProg_aside (c : Core) (n : Nat) (f : Prog → Prog) : (c.modProg n f).aside = c.aside := rfl

/-! ### What is to come of a firing put off -/

@[simp] theorem Core.postpone_counts (c : Core) (i st n : Nat) : (c.postpone i st n).counts = c.counts := rfl

@[simp] theorem Core.postpone_parityCount (c : Core) (i st n : Nat) : (c.postpone i st n).parityCount = c.parityCount := rfl

@[simp] theorem Core.postpone_bank0 (c : Core) (i st n : Nat) : (c.postpone i st n).bank0 = c.bank0 := rfl

@[simp] theorem Core.postpone_bank1 (c : Core) (i st n : Nat) : (c.postpone i st n).bank1 = c.bank1 := rfl

@[simp] theorem Core.postpone_spares (c : Core) (i st n : Nat) : (c.postpone i st n).spares = c.spares := rfl

@[simp] theorem Core.postpone_taskBase (c : Core) (i st n : Nat) : (c.postpone i st n).taskBase = c.taskBase := rfl

@[simp] theorem Core.postpone_taskBound (c : Core) (i st n : Nat) : (c.postpone i st n).taskBound = c.taskBound := rfl

@[simp] theorem Core.postpone_ls (c : Core) (i st n : Nat) : (c.postpone i st n).ls = c.ls := rfl

@[simp] theorem Core.postpone_lsBad (c : Core) (i st n : Nat) : (c.postpone i st n).lsBad = c.lsBad := rfl

@[simp] theorem Core.postpone_issued (c : Core) (i st n : Nat) : (c.postpone i st n).issued = c.issued := rfl

@[simp] theorem Core.postpone_retired (c : Core) (i st n : Nat) : (c.postpone i st n).retired = c.retired := rfl

@[simp] theorem Core.postpone_retiredAt (c : Core) (i st n : Nat) : (c.postpone i st n).retiredAt = c.retiredAt := rfl

@[simp] theorem Core.postpone_slots (c : Core) (i st n : Nat) : (c.postpone i st n).slots = c.slots := rfl

@[simp] theorem Core.postpone_made (c : Core) (i st n : Nat) : (c.postpone i st n).made = c.made := rfl

@[simp] theorem Core.postpone_used (c : Core) (i st n : Nat) : (c.postpone i st n).used = c.used := rfl

@[simp] theorem Core.postpone_board (c : Core) (i st n : Nat) : (c.postpone i st n).board = c.board := rfl

@[simp] theorem Core.postpone_idled (c : Core) (i st n : Nat) : (c.postpone i st n).idled = c.idled := rfl

@[simp] theorem Core.postpone_cells (c : Core) (i st n : Nat) : (c.postpone i st n).cells = c.cells := rfl

@[simp] theorem Core.postpone_rows (c : Core) (i st n : Nat) : (c.postpone i st n).rows = c.rows := rfl

@[simp] theorem Core.postpone_tables (c : Core) (i st n : Nat) : (c.postpone i st n).tables = c.tables := rfl

@[simp] theorem Core.postpone_gridNext (c : Core) (i st n : Nat) : (c.postpone i st n).gridNext = c.gridNext := rfl

@[simp] theorem Core.postpone_lastRow (c : Core) (i st n : Nat) : (c.postpone i st n).lastRow = c.lastRow := rfl

@[simp] theorem Core.postpone_checkEnd (c : Core) (i st n : Nat) : (c.postpone i st n).checkEnd = c.checkEnd := rfl

@[simp] theorem Core.postpone_attHold (c : Core) (i st n : Nat) : (c.postpone i st n).attHold = c.attHold := rfl

@[simp] theorem Core.postpone_weights (c : Core) (i st n : Nat) : (c.postpone i st n).weights = c.weights := rfl

@[simp] theorem Core.postpone_queues (c : Core) (i st n : Nat) : (c.postpone i st n).queues = c.queues := rfl

@[simp] theorem Core.postpone_lanes (c : Core) (i st n : Nat) : (c.postpone i st n).lanes = c.lanes := rfl

@[simp] theorem Core.postpone_dispatch (c : Core) (i st n : Nat) : (c.postpone i st n).dispatch = c.dispatch := rfl

@[simp] theorem Core.postpone_idleFrom (c : Core) (i st n : Nat) : (c.postpone i st n).idleFrom = c.idleFrom := rfl

@[simp] theorem Core.postpone_aside (c : Core) (i st n : Nat) : (c.postpone i st n).aside = c.aside := rfl

/-- The station is free that much later. -/
@[simp] theorem Core.postpone_free (c : Core) (i st n : Nat) : mget (c.postpone i st n).free 0 st = mget c.free 0 st + n := by
  simp [Core.postpone, Core.modProg]

/-! ### A self-check begun -/

@[simp] theorem Core.startCheck_counts (n : Nat) (c : Core) : (Core.startCheck n c).counts = c.counts := rfl

@[simp] theorem Core.startCheck_parityCount (n : Nat) (c : Core) : (Core.startCheck n c).parityCount = c.parityCount := rfl

@[simp] theorem Core.startCheck_bank0 (n : Nat) (c : Core) : (Core.startCheck n c).bank0 = c.bank0 := rfl

@[simp] theorem Core.startCheck_bank1 (n : Nat) (c : Core) : (Core.startCheck n c).bank1 = c.bank1 := rfl

@[simp] theorem Core.startCheck_spares (n : Nat) (c : Core) : (Core.startCheck n c).spares = c.spares := rfl

@[simp] theorem Core.startCheck_taskBase (n : Nat) (c : Core) : (Core.startCheck n c).taskBase = c.taskBase := rfl

@[simp] theorem Core.startCheck_taskBound (n : Nat) (c : Core) : (Core.startCheck n c).taskBound = c.taskBound := rfl

@[simp] theorem Core.startCheck_ls (n : Nat) (c : Core) : (Core.startCheck n c).ls = c.ls := rfl

@[simp] theorem Core.startCheck_lsBad (n : Nat) (c : Core) : (Core.startCheck n c).lsBad = c.lsBad := rfl

@[simp] theorem Core.startCheck_prog (n : Nat) (c : Core) : (Core.startCheck n c).prog = c.prog := rfl

@[simp] theorem Core.startCheck_issued (n : Nat) (c : Core) : (Core.startCheck n c).issued = c.issued := rfl

@[simp] theorem Core.startCheck_retired (n : Nat) (c : Core) : (Core.startCheck n c).retired = c.retired := rfl

@[simp] theorem Core.startCheck_retiredAt (n : Nat) (c : Core) : (Core.startCheck n c).retiredAt = c.retiredAt := rfl

@[simp] theorem Core.startCheck_free (n : Nat) (c : Core) : (Core.startCheck n c).free = c.free := rfl

@[simp] theorem Core.startCheck_slots (n : Nat) (c : Core) : (Core.startCheck n c).slots = c.slots := rfl

@[simp] theorem Core.startCheck_made (n : Nat) (c : Core) : (Core.startCheck n c).made = c.made := rfl

@[simp] theorem Core.startCheck_used (n : Nat) (c : Core) : (Core.startCheck n c).used = c.used := rfl

@[simp] theorem Core.startCheck_board (n : Nat) (c : Core) : (Core.startCheck n c).board = c.board := rfl

@[simp] theorem Core.startCheck_idled (n : Nat) (c : Core) : (Core.startCheck n c).idled = c.idled := rfl

@[simp] theorem Core.startCheck_cells (n : Nat) (c : Core) : (Core.startCheck n c).cells = c.cells := rfl

@[simp] theorem Core.startCheck_rows (n : Nat) (c : Core) : (Core.startCheck n c).rows = c.rows := rfl

@[simp] theorem Core.startCheck_tables (n : Nat) (c : Core) : (Core.startCheck n c).tables = c.tables := rfl

@[simp] theorem Core.startCheck_gridNext (n : Nat) (c : Core) : (Core.startCheck n c).gridNext = c.gridNext := rfl

@[simp] theorem Core.startCheck_lastRow (n : Nat) (c : Core) : (Core.startCheck n c).lastRow = c.lastRow := rfl

@[simp] theorem Core.startCheck_attHold (n : Nat) (c : Core) : (Core.startCheck n c).attHold = c.attHold := rfl

@[simp] theorem Core.startCheck_weights (n : Nat) (c : Core) : (Core.startCheck n c).weights = c.weights := rfl

@[simp] theorem Core.startCheck_queues (n : Nat) (c : Core) : (Core.startCheck n c).queues = c.queues := rfl

@[simp] theorem Core.startCheck_lanes (n : Nat) (c : Core) : (Core.startCheck n c).lanes = c.lanes := rfl

@[simp] theorem Core.startCheck_dispatch (n : Nat) (c : Core) : (Core.startCheck n c).dispatch = c.dispatch := rfl

@[simp] theorem Core.startCheck_idleFrom (n : Nat) (c : Core) : (Core.startCheck n c).idleFrom = c.idleFrom := rfl

@[simp] theorem Core.startCheck_aside (n : Nat) (c : Core) : (Core.startCheck n c).aside = c.aside := rfl

/-! ### A class granted at a channel -/

@[simp] theorem MemSys.rotate_hbm (m : MemSys) (ch cls : Nat) : (m.rotate ch cls).hbm = m.hbm := by
  unfold MemSys.rotate; split <;> rfl

@[simp] theorem MemSys.rotate_companion (m : MemSys) (ch cls : Nat) : (m.rotate ch cls).companion = m.companion := by
  unfold MemSys.rotate; split <;> rfl

@[simp] theorem MemSys.rotate_companions (m : MemSys) (ch cls : Nat) : (m.rotate ch cls).companions = m.companions := by
  unfold MemSys.rotate; split <;> rfl

@[simp] theorem MemSys.rotate_peers (m : MemSys) (ch cls : Nat) : (m.rotate ch cls).peers = m.peers := by
  unfold MemSys.rotate; split <;> rfl

@[simp] theorem MemSys.rotate_errs (m : MemSys) (ch cls : Nat) : (m.rotate ch cls).errs = m.errs := by
  unfold MemSys.rotate; split <;> rfl

@[simp] theorem MemSys.rotate_lost (m : MemSys) (ch cls : Nat) : (m.rotate ch cls).lost = m.lost := by
  unfold MemSys.rotate; split <;> rfl

@[simp] theorem MemSys.rotate_draws (m : MemSys) (ch cls : Nat) : (m.rotate ch cls).draws = m.draws := by
  unfold MemSys.rotate; split <;> rfl

@[simp] theorem MemSys.rotate_splitX (m : MemSys) (ch cls : Nat) : (m.rotate ch cls).splitX = m.splitX := by
  unfold MemSys.rotate; split <;> rfl

@[simp] theorem MemSys.rotate_trained (m : MemSys) (ch cls : Nat) : (m.rotate ch cls).trained = m.trained := by
  unfold MemSys.rotate; split <;> rfl

@[simp] theorem MemSys.rotate_configReject (m : MemSys) (ch cls : Nat) : (m.rotate ch cls).configReject = m.configReject := by
  unfold MemSys.rotate; split <;> rfl

@[simp] theorem MemSys.rotate_hbmStacks (m : MemSys) (ch cls : Nat) : (m.rotate ch cls).hbmStacks = m.hbmStacks := by
  unfold MemSys.rotate; split <;> rfl

@[simp] theorem MemSys.rotate_remaps (m : MemSys) (ch cls : Nat) : (m.rotate ch cls).remaps = m.remaps := by
  unfold MemSys.rotate; split <;> rfl

@[simp] theorem MemSys.rotate_ce (m : MemSys) (ch cls : Nat) : (m.rotate ch cls).ce = m.ce := by
  unfold MemSys.rotate; split <;> rfl

@[simp] theorem MemSys.rotate_ue (m : MemSys) (ch cls : Nat) : (m.rotate ch cls).ue = m.ue := by
  unfold MemSys.rotate; split <;> rfl

@[simp] theorem MemSys.rotate_odc (m : MemSys) (ch cls : Nat) : (m.rotate ch cls).odc = m.odc := by
  unfold MemSys.rotate; split <;> rfl

@[simp] theorem MemSys.rotate_hostReads (m : MemSys) (ch cls : Nat) : (m.rotate ch cls).hostReads = m.hostReads := by
  unfold MemSys.rotate; split <;> rfl

@[simp] theorem MemSys.rotate_hostWrites (m : MemSys) (ch cls : Nat) : (m.rotate ch cls).hostWrites = m.hostWrites := by
  unfold MemSys.rotate; split <;> rfl

@[simp] theorem MemSys.rotate_waitMax (m : MemSys) (ch cls : Nat) : (m.rotate ch cls).waitMax = m.waitMax := by
  unfold MemSys.rotate; split <;> rfl

@[simp] theorem MemSys.rotate_waiting (m : MemSys) (ch cls : Nat) : (m.rotate ch cls).waiting = m.waiting := by
  unfold MemSys.rotate; split <;> rfl

@[simp] theorem MemSys.rotate_cached (m : MemSys) (ch cls : Nat) : (m.rotate ch cls).cached = m.cached := by
  unfold MemSys.rotate; split <;> rfl

@[simp] theorem MemSys.rotate_nextTag (m : MemSys) (ch cls : Nat) : (m.rotate ch cls).nextTag = m.nextTag := by
  unfold MemSys.rotate; split <;> rfl

@[simp] theorem MemSys.rotate_reqs (m : MemSys) (ch cls : Nat) : (m.rotate ch cls).reqs = m.reqs := by
  unfold MemSys.rotate; split <;> rfl

/-! ### A line that the companion caches -/

@[simp] theorem MemSys.cache_hbm (m : MemSys) (l : Nat) (d : Bool) : (m.cache l d).hbm = m.hbm := by
  unfold MemSys.cache; split <;> split <;> rfl

@[simp] theorem MemSys.cache_companion (m : MemSys) (l : Nat) (d : Bool) : (m.cache l d).companion = m.companion := by
  unfold MemSys.cache; split <;> split <;> rfl

@[simp] theorem MemSys.cache_companions (m : MemSys) (l : Nat) (d : Bool) : (m.cache l d).companions = m.companions := by
  unfold MemSys.cache; split <;> split <;> rfl

@[simp] theorem MemSys.cache_peers (m : MemSys) (l : Nat) (d : Bool) : (m.cache l d).peers = m.peers := by
  unfold MemSys.cache; split <;> split <;> rfl

@[simp] theorem MemSys.cache_errs (m : MemSys) (l : Nat) (d : Bool) : (m.cache l d).errs = m.errs := by
  unfold MemSys.cache; split <;> split <;> rfl

@[simp] theorem MemSys.cache_lost (m : MemSys) (l : Nat) (d : Bool) : (m.cache l d).lost = m.lost := by
  unfold MemSys.cache; split <;> split <;> rfl

@[simp] theorem MemSys.cache_draws (m : MemSys) (l : Nat) (d : Bool) : (m.cache l d).draws = m.draws := by
  unfold MemSys.cache; split <;> split <;> rfl

@[simp] theorem MemSys.cache_splitX (m : MemSys) (l : Nat) (d : Bool) : (m.cache l d).splitX = m.splitX := by
  unfold MemSys.cache; split <;> split <;> rfl

@[simp] theorem MemSys.cache_trained (m : MemSys) (l : Nat) (d : Bool) : (m.cache l d).trained = m.trained := by
  unfold MemSys.cache; split <;> split <;> rfl

@[simp] theorem MemSys.cache_configReject (m : MemSys) (l : Nat) (d : Bool) : (m.cache l d).configReject = m.configReject := by
  unfold MemSys.cache; split <;> split <;> rfl

@[simp] theorem MemSys.cache_hbmStacks (m : MemSys) (l : Nat) (d : Bool) : (m.cache l d).hbmStacks = m.hbmStacks := by
  unfold MemSys.cache; split <;> split <;> rfl

@[simp] theorem MemSys.cache_remaps (m : MemSys) (l : Nat) (d : Bool) : (m.cache l d).remaps = m.remaps := by
  unfold MemSys.cache; split <;> split <;> rfl

@[simp] theorem MemSys.cache_ce (m : MemSys) (l : Nat) (d : Bool) : (m.cache l d).ce = m.ce := by
  unfold MemSys.cache; split <;> split <;> rfl

@[simp] theorem MemSys.cache_ue (m : MemSys) (l : Nat) (d : Bool) : (m.cache l d).ue = m.ue := by
  unfold MemSys.cache; split <;> split <;> rfl

@[simp] theorem MemSys.cache_odc (m : MemSys) (l : Nat) (d : Bool) : (m.cache l d).odc = m.odc := by
  unfold MemSys.cache; split <;> split <;> rfl

@[simp] theorem MemSys.cache_hostReads (m : MemSys) (l : Nat) (d : Bool) : (m.cache l d).hostReads = m.hostReads := by
  unfold MemSys.cache; split <;> split <;> rfl

@[simp] theorem MemSys.cache_hostWrites (m : MemSys) (l : Nat) (d : Bool) : (m.cache l d).hostWrites = m.hostWrites := by
  unfold MemSys.cache; split <;> split <;> rfl

@[simp] theorem MemSys.cache_waitMax (m : MemSys) (l : Nat) (d : Bool) : (m.cache l d).waitMax = m.waitMax := by
  unfold MemSys.cache; split <;> split <;> rfl

@[simp] theorem MemSys.cache_waiting (m : MemSys) (l : Nat) (d : Bool) : (m.cache l d).waiting = m.waiting := by
  unfold MemSys.cache; split <;> split <;> rfl

@[simp] theorem MemSys.cache_order (m : MemSys) (l : Nat) (d : Bool) : (m.cache l d).order = m.order := by
  unfold MemSys.cache; split <;> split <;> rfl

@[simp] theorem MemSys.cache_nextTag (m : MemSys) (l : Nat) (d : Bool) : (m.cache l d).nextTag = m.nextTag := by
  unfold MemSys.cache; split <;> split <;> rfl

@[simp] theorem MemSys.cache_reqs (m : MemSys) (l : Nat) (d : Bool) : (m.cache l d).reqs = m.reqs := by
  unfold MemSys.cache; split <;> split <;> rfl

/-! ### A request and its response on the SPDM connection -/

@[simp] theorem Sec.exchanged_bootB (x : Sec) (q r : List Byte) : (x.exchanged q r).bootB = x.bootB := rfl

@[simp] theorem Sec.exchanged_activeB (x : Sec) (q r : List Byte) : (x.exchanged q r).activeB = x.activeB := rfl

@[simp] theorem Sec.exchanged_fallback (x : Sec) (q r : List Byte) : (x.exchanged q r).fallback = x.fallback := rfl

@[simp] theorem Sec.exchanged_slotA (x : Sec) (q r : List Byte) : (x.exchanged q r).slotA = x.slotA := rfl

@[simp] theorem Sec.exchanged_slotB (x : Sec) (q r : List Byte) : (x.exchanged q r).slotB = x.slotB := rfl

@[simp] theorem Sec.exchanged_debug (x : Sec) (q r : List Byte) : (x.exchanged q r).debug = x.debug := rfl

@[simp] theorem Sec.exchanged_unlockNext (x : Sec) (q r : List Byte) : (x.exchanged q r).unlockNext = x.unlockNext := rfl

@[simp] theorem Sec.exchanged_minSvn (x : Sec) (q r : List Byte) : (x.exchanged q r).minSvn = x.minSvn := rfl

@[simp] theorem Sec.exchanged_raise (x : Sec) (q r : List Byte) : (x.exchanged q r).raise = x.raise := rfl

@[simp] theorem Sec.exchanged_ownerRequire (x : Sec) (q r : List Byte) : (x.exchanged q r).ownerRequire = x.ownerRequire := rfl

@[simp] theorem Sec.exchanged_keys (x : Sec) (q r : List Byte) : (x.exchanged q r).keys = x.keys := rfl

@[simp] theorem Sec.exchanged_ownerNonce (x : Sec) (q r : List Byte) : (x.exchanged q r).ownerNonce = x.ownerNonce := rfl

@[simp] theorem Sec.exchanged_debugNonce (x : Sec) (q r : List Byte) : (x.exchanged q r).debugNonce = x.debugNonce := rfl

@[simp] theorem Sec.exchanged_nonceDraws (x : Sec) (q r : List Byte) : (x.exchanged q r).nonceDraws = x.nonceDraws := rfl

@[simp] theorem Sec.exchanged_authFails (x : Sec) (q r : List Byte) : (x.exchanged q r).authFails = x.authFails := rfl

@[simp] theorem Sec.exchanged_romKey (x : Sec) (q r : List Byte) : (x.exchanged q r).romKey = x.romKey := rfl

@[simp] theorem Sec.exchanged_aliasKey (x : Sec) (q r : List Byte) : (x.exchanged q r).aliasKey = x.aliasKey := rfl

@[simp] theorem Sec.exchanged_aliasCert (x : Sec) (q r : List Byte) : (x.exchanged q r).aliasCert = x.aliasCert := rfl

@[simp] theorem Sec.exchanged_staged (x : Sec) (q r : List Byte) : (x.exchanged q r).staged = x.staged := rfl

@[simp] theorem Sec.exchanged_pldmBusy (x : Sec) (q r : List Byte) : (x.exchanged q r).pldmBusy = x.pldmBusy := rfl

@[simp] theorem Sec.exchanged_pldmDone (x : Sec) (q r : List Byte) : (x.exchanged q r).pldmDone = x.pldmDone := rfl

/-! ### A stash -/

@[simp] theorem StageMap.stash_unreleased (m : StageMap) (k n : Nat) : (m.stash k n).unreleased = m.unreleased := rfl

@[simp] theorem StageMap.stash_underflow (m : StageMap) (k n : Nat) : (m.stash k n).underflow = m.underflow := rfl

@[simp] theorem StageMap.stash_underflowStage (m : StageMap) (k n : Nat) : (m.stash k n).underflowStage = m.underflowStage := rfl

@[simp] theorem StageMap.stash_unreleasedMask (m : StageMap) (k n : Nat) : (m.stash k n).unreleasedMask = m.unreleasedMask := rfl

@[simp] theorem StageMap.stash_peak (m : StageMap) (k n : Nat) : (m.stash k n).peak = m.peak := rfl

/-! ### A release -/

@[simp] theorem StageMap.release_unreleased (m : StageMap) (k n : Nat) : (m.release k n).unreleased = m.unreleased := by
  unfold StageMap.release; simp only; split <;> rfl

@[simp] theorem StageMap.release_unreleasedMask (m : StageMap) (k n : Nat) : (m.release k n).unreleasedMask = m.unreleasedMask := by
  unfold StageMap.release; simp only; split <;> rfl

@[simp] theorem StageMap.release_peak (m : StageMap) (k n : Nat) : (m.release k n).peak = m.peak := by
  unfold StageMap.release; simp only; split <;> rfl

@[simp] theorem StageMap.release_high (m : StageMap) (k n : Nat) : (m.release k n).high = m.high := by
  unfold StageMap.release; simp only; split <;> rfl

/-! ### A store -/

@[simp] theorem Memory.write_holes (m : Memory) (a : Nat) (bs : List Byte) : (m.write a bs).holes = m.holes := rfl

end Sys2Proof.Machine
end

