-- ==== Sys2Proof/Laws/Fire.lean ====
section
/-!
SUPPORT. The shared operations of a firing's issue, of HBM's errors and of an output's arbiter: what each can change.
-/

namespace Sys2Proof.Machine

/-! ### The times of a firing that issues (R22, R24, R149) -/

/-- Setting a firing's times changes its core and nothing else. -/
theorem Work.schedule_eq (w : Work) (core idx station issued extra : Nat) (t : Times) :
    ∃ f, w.schedule core idx station issued extra t = w.modCore core f := ⟨_, rfl⟩

/-- Every other core stays. -/
theorem Work.schedule_other (w : Work) {core k : Nat} (idx station issued extra : Nat) (t : Times) (h : k ≠ core) :
    (w.schedule core idx station issued extra t).core k = w.core k := by
  obtain ⟨f, e⟩ := w.schedule_eq core idx station issued extra t
  rw [e, Work.modCore_other w f h]

/-- The station is free when the times say (R22, R24). -/
theorem Work.schedule_free (w : Work) (core idx station issued extra k : Nat) (t : Times) (h : t.free = some k) :
    mget ((w.schedule core idx station issued extra t).core core).free 0 station = issued + k + extra := by
  unfold Work.schedule
  rw [Work.modCore_core, h]
  simp [Core.modProg]

/-- What its requests wait counts as slip (R149, R153, R318). -/
theorem Work.schedule_slip (w : Work) (core idx station issued extra : Nat) (t : Times) :
    mget ((w.schedule core idx station issued extra t).core core).counts 0 Ctr.slip.off =
      mget (w.core core).counts 0 Ctr.slip.off + BitVec.ofNat 64 (t.waits + extra) := by
  unfold Work.schedule
  simp only [Work.modCore_core, Core.modProg_counts]
  split
  · rename_i h; simp [h]
  · exact Core.count_counts _ _ _

/-- What has come for a core's streams decides nothing about a firing's issue (R22, R59). -/
theorem Work.issuable_rx (w : Work) (x : List RxStream) (p : Plan) (core idx : Nat) (r : Rec) (clk : Nat) :
    { w with net.rx := x }.issuable p core idx r clk = w.issuable p core idx r clk := rfl

/-! ### An access on the scoreboard (R59, R361) -/

/-- An access that enters the scoreboard changes its core and nothing else. -/
theorem Work.enter_eq (w : Work) (p : Plan) (a : At) (e : SbEntry) : ∃ f, (w.enter p a e).1 = w.modCore a.core f := ⟨_, rfl⟩

/-- Every other core stays. -/
theorem Work.enter_other (w : Work) (p : Plan) (a : At) (e : SbEntry) {k : Nat} (h : k ≠ a.core) :
    (w.enter p a e).1.core k = w.core k := by
  obtain ⟨f, q⟩ := w.enter_eq p a e
  rw [q, Work.modCore_other w f h]

/-- An access loses no clk to accesses that do not move bytes while it does. -/
theorem SbEntry.lost_apart (e : SbEntry) (fs : List SbEntry) (h : ∀ f ∈ fs, e.meets f = false) : e.lost fs = 0 := by
  have h0 : fs.filter e.meets = [] := List.filter_eq_nil_iff.2 (fun f hf => by simp [h f hf])
  simp [SbEntry.lost, h0]

/-- No clk is lost where no access on the scoreboard moves bytes at the same time. -/
theorem Work.enter_free (w : Work) (p : Plan) (a : At) (e : SbEntry) (h : ∀ f ∈ (w.core a.core).board, e.meets f = false) :
    (w.enter p a e).2 = 0 :=
  e.lost_apart _ (fun f hf => h f (List.mem_of_mem_filter hf))

/-! ### Stores before they are visible (R24), and writes without order (R265) -/

/-- Where no station has written in the step, a reader finds what HBM holds. -/
theorem Work.hbmSeen_landed (w : Work) (t : Nat) (h : w.run.landed = []) : w.hbmSeen t = w.mem.hbm.read t := by
  simp [Work.hbmSeen, h]

/-- And a station what its region holds. -/
theorem Work.seenByte_landed (w : Work) (r : Reg) (addr : Nat) (h : w.run.landed = []) : w.seenByte r addr = w.regionByte r addr := by
  unfold Work.seenByte
  dsimp only
  split
  · rename_i g
    simp [Work.hbmSeen_landed w _ h, Work.regionByte, g.1, g.2]
  · rfl

/-- And a host or a peer what the decoder delivers. -/
theorem Work.seenBytes_landed (w : Work) (pa n : Nat) (h : w.run.landed = []) : w.seenBytes pa n = w.mem.hbmRead pa n := by
  simp [Work.seenBytes, h]

/-- A write that shares no line with an unordered one is made as it is. -/
theorem Work.settle_alone (w : Work) (acc : Acc) (space t : Nat) (bs : List Byte)
    (h : ∀ i ∈ linesOf t bs.length, w.rival acc space t bs.length i = none) : w.settle acc space t bs = [(t, bs)] := by
  unfold Work.settle
  rw [if_pos (List.all_eq_true.2 (fun i hi => by simp [h i hi]))]

/-- The writes of one firing are ordered: none of them is another's rival. -/
theorem Work.rival_own (w : Work) (acc : Acc) (space t n i : Nat)
    (h : ∀ l ∈ w.run.landed, l.core = acc.core ∧ l.firing = acc.firing) : w.rival acc space t n i = none := by
  unfold Work.rival
  exact List.find?_eq_none.2 (fun l hl => by simp [h l hl])

/-! ### A stop learnt of (R142, R1093) -/

/-- A stop learnt of sets STOP_PENDING and its origin, and holds aside idle clk of the cores; nothing else changes. -/
theorem Work.stopFrom_eq (w : Work) (origin : Nat) :
    ∃ o cs, w.stopFrom origin = { w with cad.stopPending := true, run.stopOrigin := some o, cores := cs } ∧ o ≤ origin ∧
      ∀ o', w.run.stopOrigin = some o' → o ≤ o' := by
  unfold Work.stopFrom
  dsimp only
  cases hx : w.run.stopOrigin with
  | none =>
    split
    · exact ⟨origin, _, rfl, le_refl _, by simp⟩
    · exact ⟨origin, w.cores, rfl, le_refl _, by simp⟩
  | some x =>
    split
    · exact ⟨min x origin, _, rfl, Nat.min_le_right _ _, by simp⟩
    · exact ⟨min x origin, w.cores, rfl, Nat.min_le_right _ _, by simp⟩

/-! ### Errors of HBM that show (R308, R326) -/

/-- Errors that show change the errors, and, where bytes go wrong unseen, the bytes of those lines. -/
theorem MemSys.strikeLine_eq (m : MemSys) (e : BadLine) : ∃ es, m.strikeLine e = { m with errs := es } := by
  unfold MemSys.strikeLine
  split
  · exact ⟨m.errs, rfl⟩
  · exact ⟨_, rfl⟩

theorem MemSys.strike_eq (m : MemSys) (es : List LineErr) :
    ∃ h d xs, m.strike es = { m with hbm := h, draws := d, errs := xs } := by
  induction es generalizing m with
  | nil => exact ⟨m.hbm, m.draws, m.errs, rfl⟩
  | cons e es ih =>
    simp only [MemSys.strike, List.foldl_cons] at ih ⊢
    split <;> split <;> first
      | (obtain ⟨xs, hx⟩ := MemSys.strikeLine_eq _ _
         rw [hx]
         obtain ⟨h, d, ys, hy⟩ := ih _
         exact ⟨h, d, ys, hy⟩)
      | (obtain ⟨h, d, ys, hy⟩ := ih _
         exact ⟨h, d, ys, hy⟩)

/-- What the environment shows of HBM reaches its bytes, its errors and the corrections of its stacks, and nothing else. -/
theorem MemSys.see_eq (m : MemSys) (env : Env) :
    ∃ h d xs, m.see env = { m with hbm := h, draws := d, errs := xs, odc := m.odc + BitVec.ofNat 64 env.odc } := by
  obtain ⟨h, d, xs, e⟩ := m.strike_eq env.lines
  exact ⟨h, d, xs, by unfold MemSys.see; rw [e]⟩

/-- Where no line shows an error, HBM is as it was. -/
@[simp] theorem MemSys.strike_nil (m : MemSys) : m.strike [] = m := rfl

/-! ### An output's arbiter (R768) -/

/-- An input granted takes no flit away from those that wait. -/
@[simp] theorem Arb.grant_waiting (x : Arb) (i : Nat) (f : Flit) : (x.grant i f).waiting = x.waiting := rfl

/-- An output loses no flit and makes none: those that leave and those that wait are those that waited. -/
theorem Arb.drain_perm (n : Nat) (x : Arb) :
    ((Arb.drain n x).1 ++ (Arb.drain n x).2.waiting.map (·.2)).Perm (x.waiting.map (·.2)) := by
  induction n generalizing x with
  | zero => simp [Arb.drain]
  | succ n ih =>
    unfold Arb.drain
    cases x.next with
    | none => simp
    | some i =>
      dsimp only
      cases hf : x.waiting.find? (fun y => y.1 = i) with
      | none => simp
      | some y =>
        have hm := List.mem_of_find?_eq_some hf
        have h := ih ({ x with waiting := x.waiting.erase y }.grant i y.2)
        exact ((List.Perm.cons y.2 h).trans (by simpa using ((List.perm_cons_erase hm).map (·.2)).symm))

end Sys2Proof.Machine
end

