-- ==== Sys2Proof/Laws/Ops.lean ====
section
/-!
SUPPORT. What the operations that the meanings share can do: messages to the outside leave plan work, memory, the clock
and every other block as they are; a driver command is refused where R861 does not allow it and otherwise carried out.
-/

namespace Sys2Proof.Machine

/-! ### Messages leave plan work alone -/

theorem Work.SamePlanWork.refl (w : Work) : w.SamePlanWork w := by constructor <;> rfl

theorem Work.SamePlanWork.trans {a b c : Work} (h : a.SamePlanWork b) (k : b.SamePlanWork c) : a.SamePlanWork c where
  cad := k.cad.trans h.cad
  mem := by rw [k.mem, h.mem]
  rel := by rw [k.rel, h.rel]
  cores := k.cores.trans h.cores
  plan := k.plan.trans h.plan
  run := k.run.trans h.run
  scales := k.scales.trans h.scales
  cum := k.cum.trans h.cum
  stages := k.stages.trans h.stages
  net := k.net.trans h.net
  trace := k.trace.trans h.trace

theorem Work.linkWrite_same (w : Work) (addr : Nat) (bs : List Byte) : w.SamePlanWork (w.linkWrite addr bs) := by
  unfold Work.linkWrite; split <;> constructor <;> rfl

theorem Work.interrupt_same (w : Work) : w.SamePlanWork (w.interrupt) := by
  unfold Work.interrupt; split <;> constructor <;> rfl

theorem Work.raise_same (w : Work) (b : Nat) : w.SamePlanWork (w.raise b) := by
  unfold Work.raise
  split
  · exact Work.SamePlanWork.refl w
  · simp only
    split
    · exact .trans (b := { w with dev.notify := w.dev.notify ||| BitVec.ofNat 6 (2 ^ b) }) (by constructor <;> rfl)
        (Work.interrupt_same _)
    · constructor <;> rfl

theorem Work.noteRoom_same (w : Work) : w.SamePlanWork (w.noteRoom) := by
  unfold Work.noteRoom
  split
  · exact Work.SamePlanWork.refl w
  · exact .trans (by constructor <;> rfl) (Work.raise_same _ 4)

theorem Work.note_same (w : Work) (kind core data : Nat) : w.SamePlanWork (w.note kind core data) := by
  unfold Work.note
  split
  · have l := Work.linkWrite_same w.noteRoom
      (w.noteRoom.dev.noteBase.toNat + 16 * w.noteRoom.dev.noteTail.toNat)
      (toLE 16 (pack [(kind, 8), (b2n w.noteRoom.dev.notePhase, 8), (core, 16), (data, 32),
        (w.noteRoom.cad.tickCount.toNat, 64)]))
    refine .trans (.trans ((Work.noteRoom_same w).trans l) ?_) (Work.raise_same _ 0)
    constructor <;> rfl
  · exact Work.SamePlanWork.refl w

theorem Work.event_same (w : Work) (kind sev unit sub idx addr data : Nat) : w.SamePlanWork (w.event kind sev unit sub idx addr data) := by
  unfold Work.event
  exact .trans (.trans (by constructor <;> rfl) (Work.raise_same _ 3)) (Work.note_same _ 4 0 _)

theorem Work.setState_same (w : Work) (st : DevState) (cause : Cause) : w.SamePlanWork (w.setState st cause) := by
  unfold Work.setState
  split
  · exact Work.SamePlanWork.refl w
  · exact .trans (.trans (by constructor <;> rfl) (Work.raise_same _ 2)) (Work.note_same _ 3 0 _)

theorem Work.takeSlot_same (w : Work) (slot ring opcode : Nat) : w.SamePlanWork (w.takeSlot slot ring opcode) := by
  constructor <;> rfl

theorem Work.finish_same (w : Work) (slot status : Nat) (body : List Byte) : w.SamePlanWork (w.finish slot status body) := by
  unfold Work.finish
  split
  · exact Work.SamePlanWork.refl w
  · exact .trans (.trans (by constructor <;> rfl) (Work.raise_same _ 1)) (Work.note_same _ 1 0 _)

theorem Work.compWrite_same (w : Work) (ring addr : Nat) (bs : List Byte) : w.SamePlanWork (w.compWrite ring addr bs) := by
  unfold Work.compWrite
  split
  · exact Work.linkWrite_same w addr bs
  · constructor <;> rfl

theorem Work.replyAs_same (w : Work) (ring status state : Nat) (result : List Byte) : w.SamePlanWork (w.replyAs ring status state result) := by
  unfold Work.replyAs
  simp only
  split
  · exact .trans (Work.linkWrite_same w _ _) (by constructor <;> rfl)
  · constructor <;> rfl

theorem Work.reply_same (w : Work) (ring status : Nat) (result : List Byte) : w.SamePlanWork (w.reply ring status result) := by
  exact Work.replyAs_same w ring status _ result

/-! ### The same, field by field -/

@[simp] theorem Work.linkWrite_cad (w : Work) (addr : Nat) (bs : List Byte) : (w.linkWrite addr bs).cad = w.cad := (Work.linkWrite_same w addr bs).cad

@[simp] theorem Work.linkWrite_cores (w : Work) (addr : Nat) (bs : List Byte) : (w.linkWrite addr bs).cores = w.cores := (Work.linkWrite_same w addr bs).cores

@[simp] theorem Work.linkWrite_plan (w : Work) (addr : Nat) (bs : List Byte) : (w.linkWrite addr bs).plan = w.plan := (Work.linkWrite_same w addr bs).plan

@[simp] theorem Work.linkWrite_run (w : Work) (addr : Nat) (bs : List Byte) : (w.linkWrite addr bs).run = w.run := (Work.linkWrite_same w addr bs).run

@[simp] theorem Work.linkWrite_scales (w : Work) (addr : Nat) (bs : List Byte) : (w.linkWrite addr bs).scales = w.scales := (Work.linkWrite_same w addr bs).scales

@[simp] theorem Work.linkWrite_cum (w : Work) (addr : Nat) (bs : List Byte) : (w.linkWrite addr bs).cum = w.cum := (Work.linkWrite_same w addr bs).cum

@[simp] theorem Work.linkWrite_stages (w : Work) (addr : Nat) (bs : List Byte) : (w.linkWrite addr bs).stages = w.stages := (Work.linkWrite_same w addr bs).stages

@[simp] theorem Work.linkWrite_net (w : Work) (addr : Nat) (bs : List Byte) : (w.linkWrite addr bs).net = w.net := (Work.linkWrite_same w addr bs).net

@[simp] theorem Work.linkWrite_trace (w : Work) (addr : Nat) (bs : List Byte) : (w.linkWrite addr bs).trace = w.trace := (Work.linkWrite_same w addr bs).trace

@[simp] theorem Work.linkWrite_hbm (w : Work) (addr : Nat) (bs : List Byte) : (w.linkWrite addr bs).mem.hbm = w.mem.hbm := by
  rw [(Work.linkWrite_same w addr bs).mem]

@[simp] theorem Work.linkWrite_errs (w : Work) (addr : Nat) (bs : List Byte) : (w.linkWrite addr bs).mem.errs = w.mem.errs := by
  rw [(Work.linkWrite_same w addr bs).mem]

@[simp] theorem Work.linkWrite_peers (w : Work) (addr : Nat) (bs : List Byte) : (w.linkWrite addr bs).mem.peers = w.mem.peers := by
  rw [(Work.linkWrite_same w addr bs).mem]

@[simp] theorem Work.linkWrite_lost (w : Work) (addr : Nat) (bs : List Byte) : (w.linkWrite addr bs).mem.lost = w.mem.lost := by
  rw [(Work.linkWrite_same w addr bs).mem]

@[simp] theorem Work.linkWrite_splitX (w : Work) (addr : Nat) (bs : List Byte) : (w.linkWrite addr bs).mem.splitX = w.mem.splitX := by
  rw [(Work.linkWrite_same w addr bs).mem]

@[simp] theorem Work.linkWrite_trained (w : Work) (addr : Nat) (bs : List Byte) : (w.linkWrite addr bs).mem.trained = w.mem.trained := by
  rw [(Work.linkWrite_same w addr bs).mem]

@[simp] theorem Work.linkWrite_remaps (w : Work) (addr : Nat) (bs : List Byte) : (w.linkWrite addr bs).mem.remaps = w.mem.remaps := by
  rw [(Work.linkWrite_same w addr bs).mem]

@[simp] theorem Work.linkWrite_waitMax (w : Work) (addr : Nat) (bs : List Byte) : (w.linkWrite addr bs).mem.waitMax = w.mem.waitMax := by
  rw [(Work.linkWrite_same w addr bs).mem]

@[simp] theorem Work.linkWrite_waiting (w : Work) (addr : Nat) (bs : List Byte) : (w.linkWrite addr bs).mem.waiting = w.mem.waiting := by
  rw [(Work.linkWrite_same w addr bs).mem]

@[simp] theorem Work.linkWrite_cached (w : Work) (addr : Nat) (bs : List Byte) : (w.linkWrite addr bs).mem.cached = w.mem.cached := by
  rw [(Work.linkWrite_same w addr bs).mem]

@[simp] theorem Work.linkWrite_reqs (w : Work) (addr : Nat) (bs : List Byte) : (w.linkWrite addr bs).mem.reqs = w.mem.reqs := by
  rw [(Work.linkWrite_same w addr bs).mem]

@[simp] theorem Work.linkWrite_hbmStacks (w : Work) (addr : Nat) (bs : List Byte) : (w.linkWrite addr bs).mem.hbmStacks = w.mem.hbmStacks := by
  rw [(Work.linkWrite_same w addr bs).mem]

@[simp] theorem Work.linkWrite_draws (w : Work) (addr : Nat) (bs : List Byte) : (w.linkWrite addr bs).mem.draws = w.mem.draws := by
  rw [(Work.linkWrite_same w addr bs).mem]

@[simp] theorem Work.interrupt_cad (w : Work) : (w.interrupt).cad = w.cad := (Work.interrupt_same w).cad

@[simp] theorem Work.interrupt_cores (w : Work) : (w.interrupt).cores = w.cores := (Work.interrupt_same w).cores

@[simp] theorem Work.interrupt_plan (w : Work) : (w.interrupt).plan = w.plan := (Work.interrupt_same w).plan

@[simp] theorem Work.interrupt_run (w : Work) : (w.interrupt).run = w.run := (Work.interrupt_same w).run

@[simp] theorem Work.interrupt_scales (w : Work) : (w.interrupt).scales = w.scales := (Work.interrupt_same w).scales

@[simp] theorem Work.interrupt_cum (w : Work) : (w.interrupt).cum = w.cum := (Work.interrupt_same w).cum

@[simp] theorem Work.interrupt_stages (w : Work) : (w.interrupt).stages = w.stages := (Work.interrupt_same w).stages

@[simp] theorem Work.interrupt_net (w : Work) : (w.interrupt).net = w.net := (Work.interrupt_same w).net

@[simp] theorem Work.interrupt_trace (w : Work) : (w.interrupt).trace = w.trace := (Work.interrupt_same w).trace

@[simp] theorem Work.interrupt_hbm (w : Work) : (w.interrupt).mem.hbm = w.mem.hbm := by
  rw [(Work.interrupt_same w).mem]

@[simp] theorem Work.interrupt_errs (w : Work) : (w.interrupt).mem.errs = w.mem.errs := by
  rw [(Work.interrupt_same w).mem]

@[simp] theorem Work.interrupt_peers (w : Work) : (w.interrupt).mem.peers = w.mem.peers := by
  rw [(Work.interrupt_same w).mem]

@[simp] theorem Work.interrupt_lost (w : Work) : (w.interrupt).mem.lost = w.mem.lost := by
  rw [(Work.interrupt_same w).mem]

@[simp] theorem Work.interrupt_splitX (w : Work) : (w.interrupt).mem.splitX = w.mem.splitX := by
  rw [(Work.interrupt_same w).mem]

@[simp] theorem Work.interrupt_trained (w : Work) : (w.interrupt).mem.trained = w.mem.trained := by
  rw [(Work.interrupt_same w).mem]

@[simp] theorem Work.interrupt_remaps (w : Work) : (w.interrupt).mem.remaps = w.mem.remaps := by
  rw [(Work.interrupt_same w).mem]

@[simp] theorem Work.interrupt_waitMax (w : Work) : (w.interrupt).mem.waitMax = w.mem.waitMax := by
  rw [(Work.interrupt_same w).mem]

@[simp] theorem Work.interrupt_waiting (w : Work) : (w.interrupt).mem.waiting = w.mem.waiting := by
  rw [(Work.interrupt_same w).mem]

@[simp] theorem Work.interrupt_cached (w : Work) : (w.interrupt).mem.cached = w.mem.cached := by
  rw [(Work.interrupt_same w).mem]

@[simp] theorem Work.interrupt_reqs (w : Work) : (w.interrupt).mem.reqs = w.mem.reqs := by
  rw [(Work.interrupt_same w).mem]

@[simp] theorem Work.interrupt_hbmStacks (w : Work) : (w.interrupt).mem.hbmStacks = w.mem.hbmStacks := by
  rw [(Work.interrupt_same w).mem]

@[simp] theorem Work.interrupt_draws (w : Work) : (w.interrupt).mem.draws = w.mem.draws := by
  rw [(Work.interrupt_same w).mem]

@[simp] theorem Work.raise_cad (w : Work) (b : Nat) : (w.raise b).cad = w.cad := (Work.raise_same w b).cad

@[simp] theorem Work.raise_cores (w : Work) (b : Nat) : (w.raise b).cores = w.cores := (Work.raise_same w b).cores

@[simp] theorem Work.raise_plan (w : Work) (b : Nat) : (w.raise b).plan = w.plan := (Work.raise_same w b).plan

@[simp] theorem Work.raise_run (w : Work) (b : Nat) : (w.raise b).run = w.run := (Work.raise_same w b).run

@[simp] theorem Work.raise_scales (w : Work) (b : Nat) : (w.raise b).scales = w.scales := (Work.raise_same w b).scales

@[simp] theorem Work.raise_cum (w : Work) (b : Nat) : (w.raise b).cum = w.cum := (Work.raise_same w b).cum

@[simp] theorem Work.raise_stages (w : Work) (b : Nat) : (w.raise b).stages = w.stages := (Work.raise_same w b).stages

@[simp] theorem Work.raise_net (w : Work) (b : Nat) : (w.raise b).net = w.net := (Work.raise_same w b).net

@[simp] theorem Work.raise_trace (w : Work) (b : Nat) : (w.raise b).trace = w.trace := (Work.raise_same w b).trace

@[simp] theorem Work.raise_hbm (w : Work) (b : Nat) : (w.raise b).mem.hbm = w.mem.hbm := by
  rw [(Work.raise_same w b).mem]

@[simp] theorem Work.raise_errs (w : Work) (b : Nat) : (w.raise b).mem.errs = w.mem.errs := by
  rw [(Work.raise_same w b).mem]

@[simp] theorem Work.raise_peers (w : Work) (b : Nat) : (w.raise b).mem.peers = w.mem.peers := by
  rw [(Work.raise_same w b).mem]

@[simp] theorem Work.raise_lost (w : Work) (b : Nat) : (w.raise b).mem.lost = w.mem.lost := by
  rw [(Work.raise_same w b).mem]

@[simp] theorem Work.raise_splitX (w : Work) (b : Nat) : (w.raise b).mem.splitX = w.mem.splitX := by
  rw [(Work.raise_same w b).mem]

@[simp] theorem Work.raise_trained (w : Work) (b : Nat) : (w.raise b).mem.trained = w.mem.trained := by
  rw [(Work.raise_same w b).mem]

@[simp] theorem Work.raise_remaps (w : Work) (b : Nat) : (w.raise b).mem.remaps = w.mem.remaps := by
  rw [(Work.raise_same w b).mem]

@[simp] theorem Work.raise_waitMax (w : Work) (b : Nat) : (w.raise b).mem.waitMax = w.mem.waitMax := by
  rw [(Work.raise_same w b).mem]

@[simp] theorem Work.raise_waiting (w : Work) (b : Nat) : (w.raise b).mem.waiting = w.mem.waiting := by
  rw [(Work.raise_same w b).mem]

@[simp] theorem Work.raise_cached (w : Work) (b : Nat) : (w.raise b).mem.cached = w.mem.cached := by
  rw [(Work.raise_same w b).mem]

@[simp] theorem Work.raise_reqs (w : Work) (b : Nat) : (w.raise b).mem.reqs = w.mem.reqs := by
  rw [(Work.raise_same w b).mem]

@[simp] theorem Work.raise_hbmStacks (w : Work) (b : Nat) : (w.raise b).mem.hbmStacks = w.mem.hbmStacks := by
  rw [(Work.raise_same w b).mem]

@[simp] theorem Work.raise_draws (w : Work) (b : Nat) : (w.raise b).mem.draws = w.mem.draws := by
  rw [(Work.raise_same w b).mem]

@[simp] theorem Work.noteRoom_cad (w : Work) : (w.noteRoom).cad = w.cad := (Work.noteRoom_same w).cad

@[simp] theorem Work.noteRoom_cores (w : Work) : (w.noteRoom).cores = w.cores := (Work.noteRoom_same w).cores

@[simp] theorem Work.noteRoom_plan (w : Work) : (w.noteRoom).plan = w.plan := (Work.noteRoom_same w).plan

@[simp] theorem Work.noteRoom_run (w : Work) : (w.noteRoom).run = w.run := (Work.noteRoom_same w).run

@[simp] theorem Work.noteRoom_scales (w : Work) : (w.noteRoom).scales = w.scales := (Work.noteRoom_same w).scales

@[simp] theorem Work.noteRoom_cum (w : Work) : (w.noteRoom).cum = w.cum := (Work.noteRoom_same w).cum

@[simp] theorem Work.noteRoom_stages (w : Work) : (w.noteRoom).stages = w.stages := (Work.noteRoom_same w).stages

@[simp] theorem Work.noteRoom_net (w : Work) : (w.noteRoom).net = w.net := (Work.noteRoom_same w).net

@[simp] theorem Work.noteRoom_trace (w : Work) : (w.noteRoom).trace = w.trace := (Work.noteRoom_same w).trace

@[simp] theorem Work.noteRoom_hbm (w : Work) : (w.noteRoom).mem.hbm = w.mem.hbm := by
  rw [(Work.noteRoom_same w).mem]

@[simp] theorem Work.noteRoom_errs (w : Work) : (w.noteRoom).mem.errs = w.mem.errs := by
  rw [(Work.noteRoom_same w).mem]

@[simp] theorem Work.noteRoom_peers (w : Work) : (w.noteRoom).mem.peers = w.mem.peers := by
  rw [(Work.noteRoom_same w).mem]

@[simp] theorem Work.noteRoom_lost (w : Work) : (w.noteRoom).mem.lost = w.mem.lost := by
  rw [(Work.noteRoom_same w).mem]

@[simp] theorem Work.noteRoom_splitX (w : Work) : (w.noteRoom).mem.splitX = w.mem.splitX := by
  rw [(Work.noteRoom_same w).mem]

@[simp] theorem Work.noteRoom_trained (w : Work) : (w.noteRoom).mem.trained = w.mem.trained := by
  rw [(Work.noteRoom_same w).mem]

@[simp] theorem Work.noteRoom_remaps (w : Work) : (w.noteRoom).mem.remaps = w.mem.remaps := by
  rw [(Work.noteRoom_same w).mem]

@[simp] theorem Work.noteRoom_waitMax (w : Work) : (w.noteRoom).mem.waitMax = w.mem.waitMax := by
  rw [(Work.noteRoom_same w).mem]

@[simp] theorem Work.noteRoom_waiting (w : Work) : (w.noteRoom).mem.waiting = w.mem.waiting := by
  rw [(Work.noteRoom_same w).mem]

@[simp] theorem Work.noteRoom_cached (w : Work) : (w.noteRoom).mem.cached = w.mem.cached := by
  rw [(Work.noteRoom_same w).mem]

@[simp] theorem Work.noteRoom_reqs (w : Work) : (w.noteRoom).mem.reqs = w.mem.reqs := by
  rw [(Work.noteRoom_same w).mem]

@[simp] theorem Work.noteRoom_hbmStacks (w : Work) : (w.noteRoom).mem.hbmStacks = w.mem.hbmStacks := by
  rw [(Work.noteRoom_same w).mem]

@[simp] theorem Work.noteRoom_draws (w : Work) : (w.noteRoom).mem.draws = w.mem.draws := by
  rw [(Work.noteRoom_same w).mem]

@[simp] theorem Work.note_cad (w : Work) (kind core data : Nat) : (w.note kind core data).cad = w.cad := (Work.note_same w kind core data).cad

@[simp] theorem Work.note_cores (w : Work) (kind core data : Nat) : (w.note kind core data).cores = w.cores := (Work.note_same w kind core data).cores

@[simp] theorem Work.note_plan (w : Work) (kind core data : Nat) : (w.note kind core data).plan = w.plan := (Work.note_same w kind core data).plan

@[simp] theorem Work.note_run (w : Work) (kind core data : Nat) : (w.note kind core data).run = w.run := (Work.note_same w kind core data).run

@[simp] theorem Work.note_scales (w : Work) (kind core data : Nat) : (w.note kind core data).scales = w.scales := (Work.note_same w kind core data).scales

@[simp] theorem Work.note_cum (w : Work) (kind core data : Nat) : (w.note kind core data).cum = w.cum := (Work.note_same w kind core data).cum

@[simp] theorem Work.note_stages (w : Work) (kind core data : Nat) : (w.note kind core data).stages = w.stages := (Work.note_same w kind core data).stages

@[simp] theorem Work.note_net (w : Work) (kind core data : Nat) : (w.note kind core data).net = w.net := (Work.note_same w kind core data).net

@[simp] theorem Work.note_trace (w : Work) (kind core data : Nat) : (w.note kind core data).trace = w.trace := (Work.note_same w kind core data).trace

@[simp] theorem Work.note_hbm (w : Work) (kind core data : Nat) : (w.note kind core data).mem.hbm = w.mem.hbm := by
  rw [(Work.note_same w kind core data).mem]

@[simp] theorem Work.note_errs (w : Work) (kind core data : Nat) : (w.note kind core data).mem.errs = w.mem.errs := by
  rw [(Work.note_same w kind core data).mem]

@[simp] theorem Work.note_peers (w : Work) (kind core data : Nat) : (w.note kind core data).mem.peers = w.mem.peers := by
  rw [(Work.note_same w kind core data).mem]

@[simp] theorem Work.note_lost (w : Work) (kind core data : Nat) : (w.note kind core data).mem.lost = w.mem.lost := by
  rw [(Work.note_same w kind core data).mem]

@[simp] theorem Work.note_splitX (w : Work) (kind core data : Nat) : (w.note kind core data).mem.splitX = w.mem.splitX := by
  rw [(Work.note_same w kind core data).mem]

@[simp] theorem Work.note_trained (w : Work) (kind core data : Nat) : (w.note kind core data).mem.trained = w.mem.trained := by
  rw [(Work.note_same w kind core data).mem]

@[simp] theorem Work.note_remaps (w : Work) (kind core data : Nat) : (w.note kind core data).mem.remaps = w.mem.remaps := by
  rw [(Work.note_same w kind core data).mem]

@[simp] theorem Work.note_waitMax (w : Work) (kind core data : Nat) : (w.note kind core data).mem.waitMax = w.mem.waitMax := by
  rw [(Work.note_same w kind core data).mem]

@[simp] theorem Work.note_waiting (w : Work) (kind core data : Nat) : (w.note kind core data).mem.waiting = w.mem.waiting := by
  rw [(Work.note_same w kind core data).mem]

@[simp] theorem Work.note_cached (w : Work) (kind core data : Nat) : (w.note kind core data).mem.cached = w.mem.cached := by
  rw [(Work.note_same w kind core data).mem]

@[simp] theorem Work.note_reqs (w : Work) (kind core data : Nat) : (w.note kind core data).mem.reqs = w.mem.reqs := by
  rw [(Work.note_same w kind core data).mem]

@[simp] theorem Work.note_hbmStacks (w : Work) (kind core data : Nat) : (w.note kind core data).mem.hbmStacks = w.mem.hbmStacks := by
  rw [(Work.note_same w kind core data).mem]

@[simp] theorem Work.note_draws (w : Work) (kind core data : Nat) : (w.note kind core data).mem.draws = w.mem.draws := by
  rw [(Work.note_same w kind core data).mem]

@[simp] theorem Work.event_cad (w : Work) (kind sev unit sub idx addr data : Nat) : (w.event kind sev unit sub idx addr data).cad = w.cad := (Work.event_same w kind sev unit sub idx addr data).cad

@[simp] theorem Work.event_cores (w : Work) (kind sev unit sub idx addr data : Nat) : (w.event kind sev unit sub idx addr data).cores = w.cores := (Work.event_same w kind sev unit sub idx addr data).cores

@[simp] theorem Work.event_plan (w : Work) (kind sev unit sub idx addr data : Nat) : (w.event kind sev unit sub idx addr data).plan = w.plan := (Work.event_same w kind sev unit sub idx addr data).plan

@[simp] theorem Work.event_run (w : Work) (kind sev unit sub idx addr data : Nat) : (w.event kind sev unit sub idx addr data).run = w.run := (Work.event_same w kind sev unit sub idx addr data).run

@[simp] theorem Work.event_scales (w : Work) (kind sev unit sub idx addr data : Nat) : (w.event kind sev unit sub idx addr data).scales = w.scales := (Work.event_same w kind sev unit sub idx addr data).scales

@[simp] theorem Work.event_cum (w : Work) (kind sev unit sub idx addr data : Nat) : (w.event kind sev unit sub idx addr data).cum = w.cum := (Work.event_same w kind sev unit sub idx addr data).cum

@[simp] theorem Work.event_stages (w : Work) (kind sev unit sub idx addr data : Nat) : (w.event kind sev unit sub idx addr data).stages = w.stages := (Work.event_same w kind sev unit sub idx addr data).stages

@[simp] theorem Work.event_net (w : Work) (kind sev unit sub idx addr data : Nat) : (w.event kind sev unit sub idx addr data).net = w.net := (Work.event_same w kind sev unit sub idx addr data).net

@[simp] theorem Work.event_trace (w : Work) (kind sev unit sub idx addr data : Nat) : (w.event kind sev unit sub idx addr data).trace = w.trace := (Work.event_same w kind sev unit sub idx addr data).trace

@[simp] theorem Work.event_hbm (w : Work) (kind sev unit sub idx addr data : Nat) : (w.event kind sev unit sub idx addr data).mem.hbm = w.mem.hbm := by
  rw [(Work.event_same w kind sev unit sub idx addr data).mem]

@[simp] theorem Work.event_errs (w : Work) (kind sev unit sub idx addr data : Nat) : (w.event kind sev unit sub idx addr data).mem.errs = w.mem.errs := by
  rw [(Work.event_same w kind sev unit sub idx addr data).mem]

@[simp] theorem Work.event_peers (w : Work) (kind sev unit sub idx addr data : Nat) : (w.event kind sev unit sub idx addr data).mem.peers = w.mem.peers := by
  rw [(Work.event_same w kind sev unit sub idx addr data).mem]

@[simp] theorem Work.event_lost (w : Work) (kind sev unit sub idx addr data : Nat) : (w.event kind sev unit sub idx addr data).mem.lost = w.mem.lost := by
  rw [(Work.event_same w kind sev unit sub idx addr data).mem]

@[simp] theorem Work.event_splitX (w : Work) (kind sev unit sub idx addr data : Nat) : (w.event kind sev unit sub idx addr data).mem.splitX = w.mem.splitX := by
  rw [(Work.event_same w kind sev unit sub idx addr data).mem]

@[simp] theorem Work.event_trained (w : Work) (kind sev unit sub idx addr data : Nat) : (w.event kind sev unit sub idx addr data).mem.trained = w.mem.trained := by
  rw [(Work.event_same w kind sev unit sub idx addr data).mem]

@[simp] theorem Work.event_remaps (w : Work) (kind sev unit sub idx addr data : Nat) : (w.event kind sev unit sub idx addr data).mem.remaps = w.mem.remaps := by
  rw [(Work.event_same w kind sev unit sub idx addr data).mem]

@[simp] theorem Work.event_waitMax (w : Work) (kind sev unit sub idx addr data : Nat) : (w.event kind sev unit sub idx addr data).mem.waitMax = w.mem.waitMax := by
  rw [(Work.event_same w kind sev unit sub idx addr data).mem]

@[simp] theorem Work.event_waiting (w : Work) (kind sev unit sub idx addr data : Nat) : (w.event kind sev unit sub idx addr data).mem.waiting = w.mem.waiting := by
  rw [(Work.event_same w kind sev unit sub idx addr data).mem]

@[simp] theorem Work.event_cached (w : Work) (kind sev unit sub idx addr data : Nat) : (w.event kind sev unit sub idx addr data).mem.cached = w.mem.cached := by
  rw [(Work.event_same w kind sev unit sub idx addr data).mem]

@[simp] theorem Work.event_reqs (w : Work) (kind sev unit sub idx addr data : Nat) : (w.event kind sev unit sub idx addr data).mem.reqs = w.mem.reqs := by
  rw [(Work.event_same w kind sev unit sub idx addr data).mem]

@[simp] theorem Work.event_hbmStacks (w : Work) (kind sev unit sub idx addr data : Nat) : (w.event kind sev unit sub idx addr data).mem.hbmStacks = w.mem.hbmStacks := by
  rw [(Work.event_same w kind sev unit sub idx addr data).mem]

@[simp] theorem Work.event_draws (w : Work) (kind sev unit sub idx addr data : Nat) : (w.event kind sev unit sub idx addr data).mem.draws = w.mem.draws := by
  rw [(Work.event_same w kind sev unit sub idx addr data).mem]

@[simp] theorem Work.setState_cad (w : Work) (st : DevState) (cause : Cause) : (w.setState st cause).cad = w.cad := (Work.setState_same w st cause).cad

@[simp] theorem Work.setState_cores (w : Work) (st : DevState) (cause : Cause) : (w.setState st cause).cores = w.cores := (Work.setState_same w st cause).cores

@[simp] theorem Work.setState_plan (w : Work) (st : DevState) (cause : Cause) : (w.setState st cause).plan = w.plan := (Work.setState_same w st cause).plan

@[simp] theorem Work.setState_run (w : Work) (st : DevState) (cause : Cause) : (w.setState st cause).run = w.run := (Work.setState_same w st cause).run

@[simp] theorem Work.setState_scales (w : Work) (st : DevState) (cause : Cause) : (w.setState st cause).scales = w.scales := (Work.setState_same w st cause).scales

@[simp] theorem Work.setState_cum (w : Work) (st : DevState) (cause : Cause) : (w.setState st cause).cum = w.cum := (Work.setState_same w st cause).cum

@[simp] theorem Work.setState_stages (w : Work) (st : DevState) (cause : Cause) : (w.setState st cause).stages = w.stages := (Work.setState_same w st cause).stages

@[simp] theorem Work.setState_net (w : Work) (st : DevState) (cause : Cause) : (w.setState st cause).net = w.net := (Work.setState_same w st cause).net

@[simp] theorem Work.setState_trace (w : Work) (st : DevState) (cause : Cause) : (w.setState st cause).trace = w.trace := (Work.setState_same w st cause).trace

@[simp] theorem Work.setState_hbm (w : Work) (st : DevState) (cause : Cause) : (w.setState st cause).mem.hbm = w.mem.hbm := by
  rw [(Work.setState_same w st cause).mem]

@[simp] theorem Work.setState_errs (w : Work) (st : DevState) (cause : Cause) : (w.setState st cause).mem.errs = w.mem.errs := by
  rw [(Work.setState_same w st cause).mem]

@[simp] theorem Work.setState_peers (w : Work) (st : DevState) (cause : Cause) : (w.setState st cause).mem.peers = w.mem.peers := by
  rw [(Work.setState_same w st cause).mem]

@[simp] theorem Work.setState_lost (w : Work) (st : DevState) (cause : Cause) : (w.setState st cause).mem.lost = w.mem.lost := by
  rw [(Work.setState_same w st cause).mem]

@[simp] theorem Work.setState_splitX (w : Work) (st : DevState) (cause : Cause) : (w.setState st cause).mem.splitX = w.mem.splitX := by
  rw [(Work.setState_same w st cause).mem]

@[simp] theorem Work.setState_trained (w : Work) (st : DevState) (cause : Cause) : (w.setState st cause).mem.trained = w.mem.trained := by
  rw [(Work.setState_same w st cause).mem]

@[simp] theorem Work.setState_remaps (w : Work) (st : DevState) (cause : Cause) : (w.setState st cause).mem.remaps = w.mem.remaps := by
  rw [(Work.setState_same w st cause).mem]

@[simp] theorem Work.setState_waitMax (w : Work) (st : DevState) (cause : Cause) : (w.setState st cause).mem.waitMax = w.mem.waitMax := by
  rw [(Work.setState_same w st cause).mem]

@[simp] theorem Work.setState_waiting (w : Work) (st : DevState) (cause : Cause) : (w.setState st cause).mem.waiting = w.mem.waiting := by
  rw [(Work.setState_same w st cause).mem]

@[simp] theorem Work.setState_cached (w : Work) (st : DevState) (cause : Cause) : (w.setState st cause).mem.cached = w.mem.cached := by
  rw [(Work.setState_same w st cause).mem]

@[simp] theorem Work.setState_reqs (w : Work) (st : DevState) (cause : Cause) : (w.setState st cause).mem.reqs = w.mem.reqs := by
  rw [(Work.setState_same w st cause).mem]

@[simp] theorem Work.setState_hbmStacks (w : Work) (st : DevState) (cause : Cause) : (w.setState st cause).mem.hbmStacks = w.mem.hbmStacks := by
  rw [(Work.setState_same w st cause).mem]

@[simp] theorem Work.setState_draws (w : Work) (st : DevState) (cause : Cause) : (w.setState st cause).mem.draws = w.mem.draws := by
  rw [(Work.setState_same w st cause).mem]

@[simp] theorem Work.takeSlot_cad (w : Work) (slot ring opcode : Nat) : (w.takeSlot slot ring opcode).cad = w.cad := (Work.takeSlot_same w slot ring opcode).cad

@[simp] theorem Work.takeSlot_cores (w : Work) (slot ring opcode : Nat) : (w.takeSlot slot ring opcode).cores = w.cores := (Work.takeSlot_same w slot ring opcode).cores

@[simp] theorem Work.takeSlot_plan (w : Work) (slot ring opcode : Nat) : (w.takeSlot slot ring opcode).plan = w.plan := (Work.takeSlot_same w slot ring opcode).plan

@[simp] theorem Work.takeSlot_run (w : Work) (slot ring opcode : Nat) : (w.takeSlot slot ring opcode).run = w.run := (Work.takeSlot_same w slot ring opcode).run

@[simp] theorem Work.takeSlot_scales (w : Work) (slot ring opcode : Nat) : (w.takeSlot slot ring opcode).scales = w.scales := (Work.takeSlot_same w slot ring opcode).scales

@[simp] theorem Work.takeSlot_cum (w : Work) (slot ring opcode : Nat) : (w.takeSlot slot ring opcode).cum = w.cum := (Work.takeSlot_same w slot ring opcode).cum

@[simp] theorem Work.takeSlot_stages (w : Work) (slot ring opcode : Nat) : (w.takeSlot slot ring opcode).stages = w.stages := (Work.takeSlot_same w slot ring opcode).stages

@[simp] theorem Work.takeSlot_net (w : Work) (slot ring opcode : Nat) : (w.takeSlot slot ring opcode).net = w.net := (Work.takeSlot_same w slot ring opcode).net

@[simp] theorem Work.takeSlot_trace (w : Work) (slot ring opcode : Nat) : (w.takeSlot slot ring opcode).trace = w.trace := (Work.takeSlot_same w slot ring opcode).trace

@[simp] theorem Work.takeSlot_hbm (w : Work) (slot ring opcode : Nat) : (w.takeSlot slot ring opcode).mem.hbm = w.mem.hbm := by
  rw [(Work.takeSlot_same w slot ring opcode).mem]

@[simp] theorem Work.takeSlot_errs (w : Work) (slot ring opcode : Nat) : (w.takeSlot slot ring opcode).mem.errs = w.mem.errs := by
  rw [(Work.takeSlot_same w slot ring opcode).mem]

@[simp] theorem Work.takeSlot_peers (w : Work) (slot ring opcode : Nat) : (w.takeSlot slot ring opcode).mem.peers = w.mem.peers := by
  rw [(Work.takeSlot_same w slot ring opcode).mem]

@[simp] theorem Work.takeSlot_lost (w : Work) (slot ring opcode : Nat) : (w.takeSlot slot ring opcode).mem.lost = w.mem.lost := by
  rw [(Work.takeSlot_same w slot ring opcode).mem]

@[simp] theorem Work.takeSlot_splitX (w : Work) (slot ring opcode : Nat) : (w.takeSlot slot ring opcode).mem.splitX = w.mem.splitX := by
  rw [(Work.takeSlot_same w slot ring opcode).mem]

@[simp] theorem Work.takeSlot_trained (w : Work) (slot ring opcode : Nat) : (w.takeSlot slot ring opcode).mem.trained = w.mem.trained := by
  rw [(Work.takeSlot_same w slot ring opcode).mem]

@[simp] theorem Work.takeSlot_remaps (w : Work) (slot ring opcode : Nat) : (w.takeSlot slot ring opcode).mem.remaps = w.mem.remaps := by
  rw [(Work.takeSlot_same w slot ring opcode).mem]

@[simp] theorem Work.takeSlot_waitMax (w : Work) (slot ring opcode : Nat) : (w.takeSlot slot ring opcode).mem.waitMax = w.mem.waitMax := by
  rw [(Work.takeSlot_same w slot ring opcode).mem]

@[simp] theorem Work.takeSlot_waiting (w : Work) (slot ring opcode : Nat) : (w.takeSlot slot ring opcode).mem.waiting = w.mem.waiting := by
  rw [(Work.takeSlot_same w slot ring opcode).mem]

@[simp] theorem Work.takeSlot_cached (w : Work) (slot ring opcode : Nat) : (w.takeSlot slot ring opcode).mem.cached = w.mem.cached := by
  rw [(Work.takeSlot_same w slot ring opcode).mem]

@[simp] theorem Work.takeSlot_reqs (w : Work) (slot ring opcode : Nat) : (w.takeSlot slot ring opcode).mem.reqs = w.mem.reqs := by
  rw [(Work.takeSlot_same w slot ring opcode).mem]

@[simp] theorem Work.takeSlot_hbmStacks (w : Work) (slot ring opcode : Nat) : (w.takeSlot slot ring opcode).mem.hbmStacks = w.mem.hbmStacks := by
  rw [(Work.takeSlot_same w slot ring opcode).mem]

@[simp] theorem Work.takeSlot_draws (w : Work) (slot ring opcode : Nat) : (w.takeSlot slot ring opcode).mem.draws = w.mem.draws := by
  rw [(Work.takeSlot_same w slot ring opcode).mem]

@[simp] theorem Work.finish_cad (w : Work) (slot status : Nat) (body : List Byte) : (w.finish slot status body).cad = w.cad := (Work.finish_same w slot status body).cad

@[simp] theorem Work.finish_cores (w : Work) (slot status : Nat) (body : List Byte) : (w.finish slot status body).cores = w.cores := (Work.finish_same w slot status body).cores

@[simp] theorem Work.finish_plan (w : Work) (slot status : Nat) (body : List Byte) : (w.finish slot status body).plan = w.plan := (Work.finish_same w slot status body).plan

@[simp] theorem Work.finish_run (w : Work) (slot status : Nat) (body : List Byte) : (w.finish slot status body).run = w.run := (Work.finish_same w slot status body).run

@[simp] theorem Work.finish_scales (w : Work) (slot status : Nat) (body : List Byte) : (w.finish slot status body).scales = w.scales := (Work.finish_same w slot status body).scales

@[simp] theorem Work.finish_cum (w : Work) (slot status : Nat) (body : List Byte) : (w.finish slot status body).cum = w.cum := (Work.finish_same w slot status body).cum

@[simp] theorem Work.finish_stages (w : Work) (slot status : Nat) (body : List Byte) : (w.finish slot status body).stages = w.stages := (Work.finish_same w slot status body).stages

@[simp] theorem Work.finish_net (w : Work) (slot status : Nat) (body : List Byte) : (w.finish slot status body).net = w.net := (Work.finish_same w slot status body).net

@[simp] theorem Work.finish_trace (w : Work) (slot status : Nat) (body : List Byte) : (w.finish slot status body).trace = w.trace := (Work.finish_same w slot status body).trace

@[simp] theorem Work.finish_hbm (w : Work) (slot status : Nat) (body : List Byte) : (w.finish slot status body).mem.hbm = w.mem.hbm := by
  rw [(Work.finish_same w slot status body).mem]

@[simp] theorem Work.finish_errs (w : Work) (slot status : Nat) (body : List Byte) : (w.finish slot status body).mem.errs = w.mem.errs := by
  rw [(Work.finish_same w slot status body).mem]

@[simp] theorem Work.finish_peers (w : Work) (slot status : Nat) (body : List Byte) : (w.finish slot status body).mem.peers = w.mem.peers := by
  rw [(Work.finish_same w slot status body).mem]

@[simp] theorem Work.finish_lost (w : Work) (slot status : Nat) (body : List Byte) : (w.finish slot status body).mem.lost = w.mem.lost := by
  rw [(Work.finish_same w slot status body).mem]

@[simp] theorem Work.finish_splitX (w : Work) (slot status : Nat) (body : List Byte) : (w.finish slot status body).mem.splitX = w.mem.splitX := by
  rw [(Work.finish_same w slot status body).mem]

@[simp] theorem Work.finish_trained (w : Work) (slot status : Nat) (body : List Byte) : (w.finish slot status body).mem.trained = w.mem.trained := by
  rw [(Work.finish_same w slot status body).mem]

@[simp] theorem Work.finish_remaps (w : Work) (slot status : Nat) (body : List Byte) : (w.finish slot status body).mem.remaps = w.mem.remaps := by
  rw [(Work.finish_same w slot status body).mem]

@[simp] theorem Work.finish_waitMax (w : Work) (slot status : Nat) (body : List Byte) : (w.finish slot status body).mem.waitMax = w.mem.waitMax := by
  rw [(Work.finish_same w slot status body).mem]

@[simp] theorem Work.finish_waiting (w : Work) (slot status : Nat) (body : List Byte) : (w.finish slot status body).mem.waiting = w.mem.waiting := by
  rw [(Work.finish_same w slot status body).mem]

@[simp] theorem Work.finish_cached (w : Work) (slot status : Nat) (body : List Byte) : (w.finish slot status body).mem.cached = w.mem.cached := by
  rw [(Work.finish_same w slot status body).mem]

@[simp] theorem Work.finish_reqs (w : Work) (slot status : Nat) (body : List Byte) : (w.finish slot status body).mem.reqs = w.mem.reqs := by
  rw [(Work.finish_same w slot status body).mem]

@[simp] theorem Work.finish_hbmStacks (w : Work) (slot status : Nat) (body : List Byte) : (w.finish slot status body).mem.hbmStacks = w.mem.hbmStacks := by
  rw [(Work.finish_same w slot status body).mem]

@[simp] theorem Work.finish_draws (w : Work) (slot status : Nat) (body : List Byte) : (w.finish slot status body).mem.draws = w.mem.draws := by
  rw [(Work.finish_same w slot status body).mem]

@[simp] theorem Work.compWrite_cad (w : Work) (ring addr : Nat) (bs : List Byte) : (w.compWrite ring addr bs).cad = w.cad := (Work.compWrite_same w ring addr bs).cad

@[simp] theorem Work.compWrite_cores (w : Work) (ring addr : Nat) (bs : List Byte) : (w.compWrite ring addr bs).cores = w.cores := (Work.compWrite_same w ring addr bs).cores

@[simp] theorem Work.compWrite_plan (w : Work) (ring addr : Nat) (bs : List Byte) : (w.compWrite ring addr bs).plan = w.plan := (Work.compWrite_same w ring addr bs).plan

@[simp] theorem Work.compWrite_run (w : Work) (ring addr : Nat) (bs : List Byte) : (w.compWrite ring addr bs).run = w.run := (Work.compWrite_same w ring addr bs).run

@[simp] theorem Work.compWrite_scales (w : Work) (ring addr : Nat) (bs : List Byte) : (w.compWrite ring addr bs).scales = w.scales := (Work.compWrite_same w ring addr bs).scales

@[simp] theorem Work.compWrite_cum (w : Work) (ring addr : Nat) (bs : List Byte) : (w.compWrite ring addr bs).cum = w.cum := (Work.compWrite_same w ring addr bs).cum

@[simp] theorem Work.compWrite_stages (w : Work) (ring addr : Nat) (bs : List Byte) : (w.compWrite ring addr bs).stages = w.stages := (Work.compWrite_same w ring addr bs).stages

@[simp] theorem Work.compWrite_net (w : Work) (ring addr : Nat) (bs : List Byte) : (w.compWrite ring addr bs).net = w.net := (Work.compWrite_same w ring addr bs).net

@[simp] theorem Work.compWrite_trace (w : Work) (ring addr : Nat) (bs : List Byte) : (w.compWrite ring addr bs).trace = w.trace := (Work.compWrite_same w ring addr bs).trace

@[simp] theorem Work.compWrite_hbm (w : Work) (ring addr : Nat) (bs : List Byte) : (w.compWrite ring addr bs).mem.hbm = w.mem.hbm := by
  rw [(Work.compWrite_same w ring addr bs).mem]

@[simp] theorem Work.compWrite_errs (w : Work) (ring addr : Nat) (bs : List Byte) : (w.compWrite ring addr bs).mem.errs = w.mem.errs := by
  rw [(Work.compWrite_same w ring addr bs).mem]

@[simp] theorem Work.compWrite_peers (w : Work) (ring addr : Nat) (bs : List Byte) : (w.compWrite ring addr bs).mem.peers = w.mem.peers := by
  rw [(Work.compWrite_same w ring addr bs).mem]

@[simp] theorem Work.compWrite_lost (w : Work) (ring addr : Nat) (bs : List Byte) : (w.compWrite ring addr bs).mem.lost = w.mem.lost := by
  rw [(Work.compWrite_same w ring addr bs).mem]

@[simp] theorem Work.compWrite_splitX (w : Work) (ring addr : Nat) (bs : List Byte) : (w.compWrite ring addr bs).mem.splitX = w.mem.splitX := by
  rw [(Work.compWrite_same w ring addr bs).mem]

@[simp] theorem Work.compWrite_trained (w : Work) (ring addr : Nat) (bs : List Byte) : (w.compWrite ring addr bs).mem.trained = w.mem.trained := by
  rw [(Work.compWrite_same w ring addr bs).mem]

@[simp] theorem Work.compWrite_remaps (w : Work) (ring addr : Nat) (bs : List Byte) : (w.compWrite ring addr bs).mem.remaps = w.mem.remaps := by
  rw [(Work.compWrite_same w ring addr bs).mem]

@[simp] theorem Work.compWrite_waitMax (w : Work) (ring addr : Nat) (bs : List Byte) : (w.compWrite ring addr bs).mem.waitMax = w.mem.waitMax := by
  rw [(Work.compWrite_same w ring addr bs).mem]

@[simp] theorem Work.compWrite_waiting (w : Work) (ring addr : Nat) (bs : List Byte) : (w.compWrite ring addr bs).mem.waiting = w.mem.waiting := by
  rw [(Work.compWrite_same w ring addr bs).mem]

@[simp] theorem Work.compWrite_cached (w : Work) (ring addr : Nat) (bs : List Byte) : (w.compWrite ring addr bs).mem.cached = w.mem.cached := by
  rw [(Work.compWrite_same w ring addr bs).mem]

@[simp] theorem Work.compWrite_reqs (w : Work) (ring addr : Nat) (bs : List Byte) : (w.compWrite ring addr bs).mem.reqs = w.mem.reqs := by
  rw [(Work.compWrite_same w ring addr bs).mem]

@[simp] theorem Work.compWrite_hbmStacks (w : Work) (ring addr : Nat) (bs : List Byte) : (w.compWrite ring addr bs).mem.hbmStacks = w.mem.hbmStacks := by
  rw [(Work.compWrite_same w ring addr bs).mem]

@[simp] theorem Work.compWrite_draws (w : Work) (ring addr : Nat) (bs : List Byte) : (w.compWrite ring addr bs).mem.draws = w.mem.draws := by
  rw [(Work.compWrite_same w ring addr bs).mem]

@[simp] theorem Work.replyAs_cad (w : Work) (ring status state : Nat) (result : List Byte) : (w.replyAs ring status state result).cad = w.cad := (Work.replyAs_same w ring status state result).cad

@[simp] theorem Work.replyAs_cores (w : Work) (ring status state : Nat) (result : List Byte) : (w.replyAs ring status state result).cores = w.cores := (Work.replyAs_same w ring status state result).cores

@[simp] theorem Work.replyAs_plan (w : Work) (ring status state : Nat) (result : List Byte) : (w.replyAs ring status state result).plan = w.plan := (Work.replyAs_same w ring status state result).plan

@[simp] theorem Work.replyAs_run (w : Work) (ring status state : Nat) (result : List Byte) : (w.replyAs ring status state result).run = w.run := (Work.replyAs_same w ring status state result).run

@[simp] theorem Work.replyAs_scales (w : Work) (ring status state : Nat) (result : List Byte) : (w.replyAs ring status state result).scales = w.scales := (Work.replyAs_same w ring status state result).scales

@[simp] theorem Work.replyAs_cum (w : Work) (ring status state : Nat) (result : List Byte) : (w.replyAs ring status state result).cum = w.cum := (Work.replyAs_same w ring status state result).cum

@[simp] theorem Work.replyAs_stages (w : Work) (ring status state : Nat) (result : List Byte) : (w.replyAs ring status state result).stages = w.stages := (Work.replyAs_same w ring status state result).stages

@[simp] theorem Work.replyAs_net (w : Work) (ring status state : Nat) (result : List Byte) : (w.replyAs ring status state result).net = w.net := (Work.replyAs_same w ring status state result).net

@[simp] theorem Work.replyAs_trace (w : Work) (ring status state : Nat) (result : List Byte) : (w.replyAs ring status state result).trace = w.trace := (Work.replyAs_same w ring status state result).trace

@[simp] theorem Work.replyAs_hbm (w : Work) (ring status state : Nat) (result : List Byte) : (w.replyAs ring status state result).mem.hbm = w.mem.hbm := by
  rw [(Work.replyAs_same w ring status state result).mem]

@[simp] theorem Work.replyAs_errs (w : Work) (ring status state : Nat) (result : List Byte) : (w.replyAs ring status state result).mem.errs = w.mem.errs := by
  rw [(Work.replyAs_same w ring status state result).mem]

@[simp] theorem Work.replyAs_peers (w : Work) (ring status state : Nat) (result : List Byte) : (w.replyAs ring status state result).mem.peers = w.mem.peers := by
  rw [(Work.replyAs_same w ring status state result).mem]

@[simp] theorem Work.replyAs_lost (w : Work) (ring status state : Nat) (result : List Byte) : (w.replyAs ring status state result).mem.lost = w.mem.lost := by
  rw [(Work.replyAs_same w ring status state result).mem]

@[simp] theorem Work.replyAs_splitX (w : Work) (ring status state : Nat) (result : List Byte) : (w.replyAs ring status state result).mem.splitX = w.mem.splitX := by
  rw [(Work.replyAs_same w ring status state result).mem]

@[simp] theorem Work.replyAs_trained (w : Work) (ring status state : Nat) (result : List Byte) : (w.replyAs ring status state result).mem.trained = w.mem.trained := by
  rw [(Work.replyAs_same w ring status state result).mem]

@[simp] theorem Work.replyAs_remaps (w : Work) (ring status state : Nat) (result : List Byte) : (w.replyAs ring status state result).mem.remaps = w.mem.remaps := by
  rw [(Work.replyAs_same w ring status state result).mem]

@[simp] theorem Work.replyAs_waitMax (w : Work) (ring status state : Nat) (result : List Byte) : (w.replyAs ring status state result).mem.waitMax = w.mem.waitMax := by
  rw [(Work.replyAs_same w ring status state result).mem]

@[simp] theorem Work.replyAs_waiting (w : Work) (ring status state : Nat) (result : List Byte) : (w.replyAs ring status state result).mem.waiting = w.mem.waiting := by
  rw [(Work.replyAs_same w ring status state result).mem]

@[simp] theorem Work.replyAs_cached (w : Work) (ring status state : Nat) (result : List Byte) : (w.replyAs ring status state result).mem.cached = w.mem.cached := by
  rw [(Work.replyAs_same w ring status state result).mem]

@[simp] theorem Work.replyAs_reqs (w : Work) (ring status state : Nat) (result : List Byte) : (w.replyAs ring status state result).mem.reqs = w.mem.reqs := by
  rw [(Work.replyAs_same w ring status state result).mem]

@[simp] theorem Work.replyAs_hbmStacks (w : Work) (ring status state : Nat) (result : List Byte) : (w.replyAs ring status state result).mem.hbmStacks = w.mem.hbmStacks := by
  rw [(Work.replyAs_same w ring status state result).mem]

@[simp] theorem Work.replyAs_draws (w : Work) (ring status state : Nat) (result : List Byte) : (w.replyAs ring status state result).mem.draws = w.mem.draws := by
  rw [(Work.replyAs_same w ring status state result).mem]

@[simp] theorem Work.reply_cad (w : Work) (ring status : Nat) (result : List Byte) : (w.reply ring status result).cad = w.cad := (Work.reply_same w ring status result).cad

@[simp] theorem Work.reply_cores (w : Work) (ring status : Nat) (result : List Byte) : (w.reply ring status result).cores = w.cores := (Work.reply_same w ring status result).cores

@[simp] theorem Work.reply_plan (w : Work) (ring status : Nat) (result : List Byte) : (w.reply ring status result).plan = w.plan := (Work.reply_same w ring status result).plan

@[simp] theorem Work.reply_run (w : Work) (ring status : Nat) (result : List Byte) : (w.reply ring status result).run = w.run := (Work.reply_same w ring status result).run

@[simp] theorem Work.reply_scales (w : Work) (ring status : Nat) (result : List Byte) : (w.reply ring status result).scales = w.scales := (Work.reply_same w ring status result).scales

@[simp] theorem Work.reply_cum (w : Work) (ring status : Nat) (result : List Byte) : (w.reply ring status result).cum = w.cum := (Work.reply_same w ring status result).cum

@[simp] theorem Work.reply_stages (w : Work) (ring status : Nat) (result : List Byte) : (w.reply ring status result).stages = w.stages := (Work.reply_same w ring status result).stages

@[simp] theorem Work.reply_net (w : Work) (ring status : Nat) (result : List Byte) : (w.reply ring status result).net = w.net := (Work.reply_same w ring status result).net

@[simp] theorem Work.reply_trace (w : Work) (ring status : Nat) (result : List Byte) : (w.reply ring status result).trace = w.trace := (Work.reply_same w ring status result).trace

@[simp] theorem Work.reply_hbm (w : Work) (ring status : Nat) (result : List Byte) : (w.reply ring status result).mem.hbm = w.mem.hbm := by
  rw [(Work.reply_same w ring status result).mem]

@[simp] theorem Work.reply_errs (w : Work) (ring status : Nat) (result : List Byte) : (w.reply ring status result).mem.errs = w.mem.errs := by
  rw [(Work.reply_same w ring status result).mem]

@[simp] theorem Work.reply_peers (w : Work) (ring status : Nat) (result : List Byte) : (w.reply ring status result).mem.peers = w.mem.peers := by
  rw [(Work.reply_same w ring status result).mem]

@[simp] theorem Work.reply_lost (w : Work) (ring status : Nat) (result : List Byte) : (w.reply ring status result).mem.lost = w.mem.lost := by
  rw [(Work.reply_same w ring status result).mem]

@[simp] theorem Work.reply_splitX (w : Work) (ring status : Nat) (result : List Byte) : (w.reply ring status result).mem.splitX = w.mem.splitX := by
  rw [(Work.reply_same w ring status result).mem]

@[simp] theorem Work.reply_trained (w : Work) (ring status : Nat) (result : List Byte) : (w.reply ring status result).mem.trained = w.mem.trained := by
  rw [(Work.reply_same w ring status result).mem]

@[simp] theorem Work.reply_remaps (w : Work) (ring status : Nat) (result : List Byte) : (w.reply ring status result).mem.remaps = w.mem.remaps := by
  rw [(Work.reply_same w ring status result).mem]

@[simp] theorem Work.reply_waitMax (w : Work) (ring status : Nat) (result : List Byte) : (w.reply ring status result).mem.waitMax = w.mem.waitMax := by
  rw [(Work.reply_same w ring status result).mem]

@[simp] theorem Work.reply_waiting (w : Work) (ring status : Nat) (result : List Byte) : (w.reply ring status result).mem.waiting = w.mem.waiting := by
  rw [(Work.reply_same w ring status result).mem]

@[simp] theorem Work.reply_cached (w : Work) (ring status : Nat) (result : List Byte) : (w.reply ring status result).mem.cached = w.mem.cached := by
  rw [(Work.reply_same w ring status result).mem]

@[simp] theorem Work.reply_reqs (w : Work) (ring status : Nat) (result : List Byte) : (w.reply ring status result).mem.reqs = w.mem.reqs := by
  rw [(Work.reply_same w ring status result).mem]

@[simp] theorem Work.reply_hbmStacks (w : Work) (ring status : Nat) (result : List Byte) : (w.reply ring status result).mem.hbmStacks = w.mem.hbmStacks := by
  rw [(Work.reply_same w ring status result).mem]

@[simp] theorem Work.reply_draws (w : Work) (ring status : Nat) (result : List Byte) : (w.reply ring status result).mem.draws = w.mem.draws := by
  rw [(Work.reply_same w ring status result).mem]

/-! ### The state of the device, the load under way, the link -/

@[simp] theorem Work.linkWrite_dev_state (w : Work) (addr : Nat) (bs : List Byte) : (w.linkWrite addr bs).dev.state = w.dev.state := by
  unfold Work.linkWrite; split <;> rfl

@[simp] theorem Work.interrupt_dev_state (w : Work) : (w.interrupt).dev.state = w.dev.state := by
  unfold Work.interrupt; split <;> rfl

@[simp] theorem Work.raise_dev_state (w : Work) (b : Nat) : (w.raise b).dev.state = w.dev.state := by
  unfold Work.raise; split
  · rfl
  · simp only; split <;> simp

@[simp] theorem Work.noteRoom_dev_state (w : Work) : (w.noteRoom).dev.state = w.dev.state := by
  unfold Work.noteRoom; split <;> simp

@[simp] theorem Work.note_dev_state (w : Work) (kind core data : Nat) : (w.note kind core data).dev.state = w.dev.state := by
  unfold Work.note; split <;> simp

@[simp] theorem Work.event_dev_state (w : Work) (kind sev unit sub idx addr data : Nat) : (w.event kind sev unit sub idx addr data).dev.state = w.dev.state := by
  unfold Work.event; simp

@[simp] theorem Work.takeSlot_dev_state (w : Work) (slot ring opcode : Nat) : (w.takeSlot slot ring opcode).dev.state = w.dev.state := by
  rfl

@[simp] theorem Work.finish_dev_state (w : Work) (slot status : Nat) (body : List Byte) : (w.finish slot status body).dev.state = w.dev.state := by
  unfold Work.finish; split <;> simp

@[simp] theorem Work.compWrite_dev_state (w : Work) (ring addr : Nat) (bs : List Byte) : (w.compWrite ring addr bs).dev.state = w.dev.state := by
  unfold Work.compWrite; split <;> simp

@[simp] theorem Work.replyAs_dev_state (w : Work) (ring status state : Nat) (result : List Byte) : (w.replyAs ring status state result).dev.state = w.dev.state := by
  unfold Work.replyAs; simp only; split <;> simp

@[simp] theorem Work.reply_dev_state (w : Work) (ring status : Nat) (result : List Byte) : (w.reply ring status result).dev.state = w.dev.state := by
  unfold Work.reply; simp

@[simp] theorem Work.linkWrite_dev_load (w : Work) (addr : Nat) (bs : List Byte) : (w.linkWrite addr bs).dev.load = w.dev.load := by
  unfold Work.linkWrite; split <;> rfl

@[simp] theorem Work.interrupt_dev_load (w : Work) : (w.interrupt).dev.load = w.dev.load := by
  unfold Work.interrupt; split <;> rfl

@[simp] theorem Work.raise_dev_load (w : Work) (b : Nat) : (w.raise b).dev.load = w.dev.load := by
  unfold Work.raise; split
  · rfl
  · simp only; split <;> simp

@[simp] theorem Work.noteRoom_dev_load (w : Work) : (w.noteRoom).dev.load = w.dev.load := by
  unfold Work.noteRoom; split <;> simp

@[simp] theorem Work.note_dev_load (w : Work) (kind core data : Nat) : (w.note kind core data).dev.load = w.dev.load := by
  unfold Work.note; split <;> simp

@[simp] theorem Work.event_dev_load (w : Work) (kind sev unit sub idx addr data : Nat) : (w.event kind sev unit sub idx addr data).dev.load = w.dev.load := by
  unfold Work.event; simp

@[simp] theorem Work.takeSlot_dev_load (w : Work) (slot ring opcode : Nat) : (w.takeSlot slot ring opcode).dev.load = w.dev.load := by
  rfl

@[simp] theorem Work.finish_dev_load (w : Work) (slot status : Nat) (body : List Byte) : (w.finish slot status body).dev.load = w.dev.load := by
  unfold Work.finish; split <;> simp

@[simp] theorem Work.compWrite_dev_load (w : Work) (ring addr : Nat) (bs : List Byte) : (w.compWrite ring addr bs).dev.load = w.dev.load := by
  unfold Work.compWrite; split <;> simp

@[simp] theorem Work.replyAs_dev_load (w : Work) (ring status state : Nat) (result : List Byte) : (w.replyAs ring status state result).dev.load = w.dev.load := by
  unfold Work.replyAs; simp only; split <;> simp

@[simp] theorem Work.reply_dev_load (w : Work) (ring status : Nat) (result : List Byte) : (w.reply ring status result).dev.load = w.dev.load := by
  unfold Work.reply; simp

@[simp] theorem Work.linkWrite_dev_linkUp (w : Work) (addr : Nat) (bs : List Byte) : (w.linkWrite addr bs).dev.linkUp = w.dev.linkUp := by
  unfold Work.linkWrite; split <;> rfl

@[simp] theorem Work.interrupt_dev_linkUp (w : Work) : (w.interrupt).dev.linkUp = w.dev.linkUp := by
  unfold Work.interrupt; split <;> rfl

@[simp] theorem Work.raise_dev_linkUp (w : Work) (b : Nat) : (w.raise b).dev.linkUp = w.dev.linkUp := by
  unfold Work.raise; split
  · rfl
  · simp only; split <;> simp

@[simp] theorem Work.noteRoom_dev_linkUp (w : Work) : (w.noteRoom).dev.linkUp = w.dev.linkUp := by
  unfold Work.noteRoom; split <;> simp

@[simp] theorem Work.note_dev_linkUp (w : Work) (kind core data : Nat) : (w.note kind core data).dev.linkUp = w.dev.linkUp := by
  unfold Work.note; split <;> simp

@[simp] theorem Work.event_dev_linkUp (w : Work) (kind sev unit sub idx addr data : Nat) : (w.event kind sev unit sub idx addr data).dev.linkUp = w.dev.linkUp := by
  unfold Work.event; simp

@[simp] theorem Work.takeSlot_dev_linkUp (w : Work) (slot ring opcode : Nat) : (w.takeSlot slot ring opcode).dev.linkUp = w.dev.linkUp := by
  rfl

@[simp] theorem Work.finish_dev_linkUp (w : Work) (slot status : Nat) (body : List Byte) : (w.finish slot status body).dev.linkUp = w.dev.linkUp := by
  unfold Work.finish; split <;> simp

@[simp] theorem Work.compWrite_dev_linkUp (w : Work) (ring addr : Nat) (bs : List Byte) : (w.compWrite ring addr bs).dev.linkUp = w.dev.linkUp := by
  unfold Work.compWrite; split <;> simp

@[simp] theorem Work.replyAs_dev_linkUp (w : Work) (ring status state : Nat) (result : List Byte) : (w.replyAs ring status state result).dev.linkUp = w.dev.linkUp := by
  unfold Work.replyAs; simp only; split <;> simp

@[simp] theorem Work.reply_dev_linkUp (w : Work) (ring status : Nat) (result : List Byte) : (w.reply ring status result).dev.linkUp = w.dev.linkUp := by
  unfold Work.reply; simp

@[simp] theorem Work.linkWrite_dev_jobs (w : Work) (addr : Nat) (bs : List Byte) : (w.linkWrite addr bs).dev.jobs = w.dev.jobs := by
  unfold Work.linkWrite; split <;> rfl

@[simp] theorem Work.interrupt_dev_jobs (w : Work) : (w.interrupt).dev.jobs = w.dev.jobs := by
  unfold Work.interrupt; split <;> rfl

@[simp] theorem Work.raise_dev_jobs (w : Work) (b : Nat) : (w.raise b).dev.jobs = w.dev.jobs := by
  unfold Work.raise; split
  · rfl
  · simp only; split <;> simp

@[simp] theorem Work.noteRoom_dev_jobs (w : Work) : (w.noteRoom).dev.jobs = w.dev.jobs := by
  unfold Work.noteRoom; split <;> simp

@[simp] theorem Work.note_dev_jobs (w : Work) (kind core data : Nat) : (w.note kind core data).dev.jobs = w.dev.jobs := by
  unfold Work.note; split <;> simp

@[simp] theorem Work.event_dev_jobs (w : Work) (kind sev unit sub idx addr data : Nat) : (w.event kind sev unit sub idx addr data).dev.jobs = w.dev.jobs := by
  unfold Work.event; simp

@[simp] theorem Work.takeSlot_dev_jobs (w : Work) (slot ring opcode : Nat) : (w.takeSlot slot ring opcode).dev.jobs = w.dev.jobs := by
  rfl

@[simp] theorem Work.finish_dev_jobs (w : Work) (slot status : Nat) (body : List Byte) : (w.finish slot status body).dev.jobs = w.dev.jobs := by
  unfold Work.finish; split <;> simp

@[simp] theorem Work.compWrite_dev_jobs (w : Work) (ring addr : Nat) (bs : List Byte) : (w.compWrite ring addr bs).dev.jobs = w.dev.jobs := by
  unfold Work.compWrite; split <;> simp

@[simp] theorem Work.replyAs_dev_jobs (w : Work) (ring status state : Nat) (result : List Byte) : (w.replyAs ring status state result).dev.jobs = w.dev.jobs := by
  unfold Work.replyAs; simp only; split <;> simp

@[simp] theorem Work.reply_dev_jobs (w : Work) (ring status : Nat) (result : List Byte) : (w.reply ring status result).dev.jobs = w.dev.jobs := by
  unfold Work.reply; simp

@[simp] theorem Work.linkWrite_dev_forming (w : Work) (addr : Nat) (bs : List Byte) : (w.linkWrite addr bs).dev.forming = w.dev.forming := by
  unfold Work.linkWrite; split <;> rfl

@[simp] theorem Work.interrupt_dev_forming (w : Work) : (w.interrupt).dev.forming = w.dev.forming := by
  unfold Work.interrupt; split <;> rfl

@[simp] theorem Work.raise_dev_forming (w : Work) (b : Nat) : (w.raise b).dev.forming = w.dev.forming := by
  unfold Work.raise; split
  · rfl
  · simp only; split <;> simp

@[simp] theorem Work.noteRoom_dev_forming (w : Work) : (w.noteRoom).dev.forming = w.dev.forming := by
  unfold Work.noteRoom; split <;> simp

@[simp] theorem Work.note_dev_forming (w : Work) (kind core data : Nat) : (w.note kind core data).dev.forming = w.dev.forming := by
  unfold Work.note; split <;> simp

@[simp] theorem Work.event_dev_forming (w : Work) (kind sev unit sub idx addr data : Nat) : (w.event kind sev unit sub idx addr data).dev.forming = w.dev.forming := by
  unfold Work.event; simp

@[simp] theorem Work.takeSlot_dev_forming (w : Work) (slot ring opcode : Nat) : (w.takeSlot slot ring opcode).dev.forming = w.dev.forming := by
  rfl

@[simp] theorem Work.finish_dev_forming (w : Work) (slot status : Nat) (body : List Byte) : (w.finish slot status body).dev.forming = w.dev.forming := by
  unfold Work.finish; split <;> simp

@[simp] theorem Work.compWrite_dev_forming (w : Work) (ring addr : Nat) (bs : List Byte) : (w.compWrite ring addr bs).dev.forming = w.dev.forming := by
  unfold Work.compWrite; split <;> simp

@[simp] theorem Work.replyAs_dev_forming (w : Work) (ring status state : Nat) (result : List Byte) : (w.replyAs ring status state result).dev.forming = w.dev.forming := by
  unfold Work.replyAs; simp only; split <;> simp

@[simp] theorem Work.reply_dev_forming (w : Work) (ring status : Nat) (result : List Byte) : (w.reply ring status result).dev.forming = w.dev.forming := by
  unfold Work.reply; simp

@[simp] theorem Work.linkWrite_dev_flockSelf (w : Work) (addr : Nat) (bs : List Byte) : (w.linkWrite addr bs).dev.flockSelf = w.dev.flockSelf := by
  unfold Work.linkWrite; split <;> rfl

@[simp] theorem Work.interrupt_dev_flockSelf (w : Work) : (w.interrupt).dev.flockSelf = w.dev.flockSelf := by
  unfold Work.interrupt; split <;> rfl

@[simp] theorem Work.raise_dev_flockSelf (w : Work) (b : Nat) : (w.raise b).dev.flockSelf = w.dev.flockSelf := by
  unfold Work.raise; split
  · rfl
  · simp only; split <;> simp

@[simp] theorem Work.noteRoom_dev_flockSelf (w : Work) : (w.noteRoom).dev.flockSelf = w.dev.flockSelf := by
  unfold Work.noteRoom; split <;> simp

@[simp] theorem Work.note_dev_flockSelf (w : Work) (kind core data : Nat) : (w.note kind core data).dev.flockSelf = w.dev.flockSelf := by
  unfold Work.note; split <;> simp

@[simp] theorem Work.event_dev_flockSelf (w : Work) (kind sev unit sub idx addr data : Nat) : (w.event kind sev unit sub idx addr data).dev.flockSelf = w.dev.flockSelf := by
  unfold Work.event; simp

@[simp] theorem Work.takeSlot_dev_flockSelf (w : Work) (slot ring opcode : Nat) : (w.takeSlot slot ring opcode).dev.flockSelf = w.dev.flockSelf := by
  rfl

@[simp] theorem Work.finish_dev_flockSelf (w : Work) (slot status : Nat) (body : List Byte) : (w.finish slot status body).dev.flockSelf = w.dev.flockSelf := by
  unfold Work.finish; split <;> simp

@[simp] theorem Work.compWrite_dev_flockSelf (w : Work) (ring addr : Nat) (bs : List Byte) : (w.compWrite ring addr bs).dev.flockSelf = w.dev.flockSelf := by
  unfold Work.compWrite; split <;> simp

@[simp] theorem Work.replyAs_dev_flockSelf (w : Work) (ring status state : Nat) (result : List Byte) : (w.replyAs ring status state result).dev.flockSelf = w.dev.flockSelf := by
  unfold Work.replyAs; simp only; split <;> simp

@[simp] theorem Work.reply_dev_flockSelf (w : Work) (ring status : Nat) (result : List Byte) : (w.reply ring status result).dev.flockSelf = w.dev.flockSelf := by
  unfold Work.reply; simp

@[simp] theorem Work.linkWrite_dev_counterSelect (w : Work) (addr : Nat) (bs : List Byte) : (w.linkWrite addr bs).dev.counterSelect = w.dev.counterSelect := by
  unfold Work.linkWrite; split <;> rfl

@[simp] theorem Work.interrupt_dev_counterSelect (w : Work) : (w.interrupt).dev.counterSelect = w.dev.counterSelect := by
  unfold Work.interrupt; split <;> rfl

@[simp] theorem Work.raise_dev_counterSelect (w : Work) (b : Nat) : (w.raise b).dev.counterSelect = w.dev.counterSelect := by
  unfold Work.raise; split
  · rfl
  · simp only; split <;> simp

@[simp] theorem Work.noteRoom_dev_counterSelect (w : Work) : (w.noteRoom).dev.counterSelect = w.dev.counterSelect := by
  unfold Work.noteRoom; split <;> simp

@[simp] theorem Work.note_dev_counterSelect (w : Work) (kind core data : Nat) : (w.note kind core data).dev.counterSelect = w.dev.counterSelect := by
  unfold Work.note; split <;> simp

@[simp] theorem Work.event_dev_counterSelect (w : Work) (kind sev unit sub idx addr data : Nat) : (w.event kind sev unit sub idx addr data).dev.counterSelect = w.dev.counterSelect := by
  unfold Work.event; simp

@[simp] theorem Work.takeSlot_dev_counterSelect (w : Work) (slot ring opcode : Nat) : (w.takeSlot slot ring opcode).dev.counterSelect = w.dev.counterSelect := by
  rfl

@[simp] theorem Work.finish_dev_counterSelect (w : Work) (slot status : Nat) (body : List Byte) : (w.finish slot status body).dev.counterSelect = w.dev.counterSelect := by
  unfold Work.finish; split <;> simp

@[simp] theorem Work.compWrite_dev_counterSelect (w : Work) (ring addr : Nat) (bs : List Byte) : (w.compWrite ring addr bs).dev.counterSelect = w.dev.counterSelect := by
  unfold Work.compWrite; split <;> simp

@[simp] theorem Work.replyAs_dev_counterSelect (w : Work) (ring status state : Nat) (result : List Byte) : (w.replyAs ring status state result).dev.counterSelect = w.dev.counterSelect := by
  unfold Work.replyAs; simp only; split <;> simp

@[simp] theorem Work.reply_dev_counterSelect (w : Work) (ring status : Nat) (result : List Byte) : (w.reply ring status result).dev.counterSelect = w.dev.counterSelect := by
  unfold Work.reply; simp

@[simp] theorem Work.linkWrite_dev_held (w : Work) (addr : Nat) (bs : List Byte) : (w.linkWrite addr bs).dev.held = w.dev.held := by
  unfold Work.linkWrite; split <;> rfl

@[simp] theorem Work.interrupt_dev_held (w : Work) : (w.interrupt).dev.held = w.dev.held := by
  unfold Work.interrupt; split <;> rfl

@[simp] theorem Work.raise_dev_held (w : Work) (b : Nat) : (w.raise b).dev.held = w.dev.held := by
  unfold Work.raise; split
  · rfl
  · simp only; split <;> simp

@[simp] theorem Work.noteRoom_dev_held (w : Work) : (w.noteRoom).dev.held = w.dev.held := by
  unfold Work.noteRoom; split <;> simp

@[simp] theorem Work.note_dev_held (w : Work) (kind core data : Nat) : (w.note kind core data).dev.held = w.dev.held := by
  unfold Work.note; split <;> simp

@[simp] theorem Work.event_dev_held (w : Work) (kind sev unit sub idx addr data : Nat) : (w.event kind sev unit sub idx addr data).dev.held = w.dev.held := by
  unfold Work.event; simp

@[simp] theorem Work.takeSlot_dev_held (w : Work) (slot ring opcode : Nat) : (w.takeSlot slot ring opcode).dev.held = w.dev.held := by
  rfl

@[simp] theorem Work.finish_dev_held (w : Work) (slot status : Nat) (body : List Byte) : (w.finish slot status body).dev.held = w.dev.held := by
  unfold Work.finish; split <;> simp

@[simp] theorem Work.compWrite_dev_held (w : Work) (ring addr : Nat) (bs : List Byte) : (w.compWrite ring addr bs).dev.held = w.dev.held := by
  unfold Work.compWrite; split <;> simp

@[simp] theorem Work.replyAs_dev_held (w : Work) (ring status state : Nat) (result : List Byte) : (w.replyAs ring status state result).dev.held = w.dev.held := by
  unfold Work.replyAs; simp only; split <;> simp

@[simp] theorem Work.reply_dev_held (w : Work) (ring status : Nat) (result : List Byte) : (w.reply ring status result).dev.held = w.dev.held := by
  unfold Work.reply; simp

@[simp] theorem Work.linkWrite_dev_readData (w : Work) (addr : Nat) (bs : List Byte) : (w.linkWrite addr bs).dev.readData = w.dev.readData := by
  unfold Work.linkWrite; split <;> rfl

@[simp] theorem Work.interrupt_dev_readData (w : Work) : (w.interrupt).dev.readData = w.dev.readData := by
  unfold Work.interrupt; split <;> rfl

@[simp] theorem Work.raise_dev_readData (w : Work) (b : Nat) : (w.raise b).dev.readData = w.dev.readData := by
  unfold Work.raise; split
  · rfl
  · simp only; split <;> simp

@[simp] theorem Work.noteRoom_dev_readData (w : Work) : (w.noteRoom).dev.readData = w.dev.readData := by
  unfold Work.noteRoom; split <;> simp

@[simp] theorem Work.note_dev_readData (w : Work) (kind core data : Nat) : (w.note kind core data).dev.readData = w.dev.readData := by
  unfold Work.note; split <;> simp

@[simp] theorem Work.event_dev_readData (w : Work) (kind sev unit sub idx addr data : Nat) : (w.event kind sev unit sub idx addr data).dev.readData = w.dev.readData := by
  unfold Work.event; simp

@[simp] theorem Work.takeSlot_dev_readData (w : Work) (slot ring opcode : Nat) : (w.takeSlot slot ring opcode).dev.readData = w.dev.readData := by
  rfl

@[simp] theorem Work.finish_dev_readData (w : Work) (slot status : Nat) (body : List Byte) : (w.finish slot status body).dev.readData = w.dev.readData := by
  unfold Work.finish; split <;> simp

@[simp] theorem Work.compWrite_dev_readData (w : Work) (ring addr : Nat) (bs : List Byte) : (w.compWrite ring addr bs).dev.readData = w.dev.readData := by
  unfold Work.compWrite; split <;> simp

@[simp] theorem Work.replyAs_dev_readData (w : Work) (ring status state : Nat) (result : List Byte) : (w.replyAs ring status state result).dev.readData = w.dev.readData := by
  unfold Work.replyAs; simp only; split <;> simp

@[simp] theorem Work.reply_dev_readData (w : Work) (ring status : Nat) (result : List Byte) : (w.reply ring status result).dev.readData = w.dev.readData := by
  unfold Work.reply; simp

/-- A change of state takes effect, whatever the state was. -/
@[simp] theorem Work.setState_dev_state (w : Work) (st : DevState) (cause : Cause) : (w.setState st cause).dev.state = st := by
  unfold Work.setState
  split
  · next h => exact h.symm
  · simp

@[simp] theorem Work.setState_dev_load (w : Work) (st : DevState) (cause : Cause) :
    (w.setState st cause).dev.load = w.dev.load := by
  unfold Work.setState; split <;> simp

@[simp] theorem Work.setState_dev_linkUp (w : Work) (st : DevState) (cause : Cause) :
    (w.setState st cause).dev.linkUp = w.dev.linkUp := by
  unfold Work.setState; split <;> simp

@[simp] theorem Work.setState_dev_jobs (w : Work) (st : DevState) (cause : Cause) :
    (w.setState st cause).dev.jobs = w.dev.jobs := by
  unfold Work.setState; split <;> simp

@[simp] theorem Work.setState_dev_forming (w : Work) (st : DevState) (cause : Cause) :
    (w.setState st cause).dev.forming = w.dev.forming := by
  unfold Work.setState; split <;> simp

@[simp] theorem Work.setState_dev_flockSelf (w : Work) (st : DevState) (cause : Cause) :
    (w.setState st cause).dev.flockSelf = w.dev.flockSelf := by
  unfold Work.setState; split <;> simp

@[simp] theorem Work.setState_dev_counterSelect (w : Work) (st : DevState) (cause : Cause) :
    (w.setState st cause).dev.counterSelect = w.dev.counterSelect := by
  unfold Work.setState; split <;> simp

@[simp] theorem Work.setState_dev_held (w : Work) (st : DevState) (cause : Cause) :
    (w.setState st cause).dev.held = w.dev.held := by
  unfold Work.setState; split <;> simp

@[simp] theorem Work.setState_dev_readData (w : Work) (st : DevState) (cause : Cause) :
    (w.setState st cause).dev.readData = w.dev.readData := by
  unfold Work.setState; split <;> simp

/-! ### Counting refusals of authentication -/

@[simp] theorem Sec.countAuth_bootB (x : Sec) (status : Nat) : (x.countAuth status).bootB = x.bootB := by
  unfold Sec.countAuth; split <;> rfl

@[simp] theorem Sec.countAuth_activeB (x : Sec) (status : Nat) : (x.countAuth status).activeB = x.activeB := by
  unfold Sec.countAuth; split <;> rfl

@[simp] theorem Sec.countAuth_fallback (x : Sec) (status : Nat) : (x.countAuth status).fallback = x.fallback := by
  unfold Sec.countAuth; split <;> rfl

@[simp] theorem Sec.countAuth_slotA (x : Sec) (status : Nat) : (x.countAuth status).slotA = x.slotA := by
  unfold Sec.countAuth; split <;> rfl

@[simp] theorem Sec.countAuth_slotB (x : Sec) (status : Nat) : (x.countAuth status).slotB = x.slotB := by
  unfold Sec.countAuth; split <;> rfl

@[simp] theorem Sec.countAuth_debug (x : Sec) (status : Nat) : (x.countAuth status).debug = x.debug := by
  unfold Sec.countAuth; split <;> rfl

@[simp] theorem Sec.countAuth_unlockNext (x : Sec) (status : Nat) : (x.countAuth status).unlockNext = x.unlockNext := by
  unfold Sec.countAuth; split <;> rfl

@[simp] theorem Sec.countAuth_minSvn (x : Sec) (status : Nat) : (x.countAuth status).minSvn = x.minSvn := by
  unfold Sec.countAuth; split <;> rfl

@[simp] theorem Sec.countAuth_raise (x : Sec) (status : Nat) : (x.countAuth status).raise = x.raise := by
  unfold Sec.countAuth; split <;> rfl

@[simp] theorem Sec.countAuth_ownerRequire (x : Sec) (status : Nat) : (x.countAuth status).ownerRequire = x.ownerRequire := by
  unfold Sec.countAuth; split <;> rfl

@[simp] theorem Sec.countAuth_keys (x : Sec) (status : Nat) : (x.countAuth status).keys = x.keys := by
  unfold Sec.countAuth; split <;> rfl

@[simp] theorem Sec.countAuth_ownerNonce (x : Sec) (status : Nat) : (x.countAuth status).ownerNonce = x.ownerNonce := by
  unfold Sec.countAuth; split <;> rfl

@[simp] theorem Sec.countAuth_debugNonce (x : Sec) (status : Nat) : (x.countAuth status).debugNonce = x.debugNonce := by
  unfold Sec.countAuth; split <;> rfl

@[simp] theorem Sec.countAuth_nonceDraws (x : Sec) (status : Nat) : (x.countAuth status).nonceDraws = x.nonceDraws := by
  unfold Sec.countAuth; split <;> rfl

@[simp] theorem Sec.countAuth_spdmCount (x : Sec) (status : Nat) : (x.countAuth status).spdmCount = x.spdmCount := by
  unfold Sec.countAuth; split <;> rfl

@[simp] theorem Sec.countAuth_staged (x : Sec) (status : Nat) : (x.countAuth status).staged = x.staged := by
  unfold Sec.countAuth; split <;> rfl

@[simp] theorem Sec.countAuth_spdmLog (x : Sec) (status : Nat) : (x.countAuth status).spdmLog = x.spdmLog := by
  unfold Sec.countAuth; split <;> rfl

@[simp] theorem Sec.countAuth_romKey (x : Sec) (status : Nat) : (x.countAuth status).romKey = x.romKey := by
  unfold Sec.countAuth; split <;> rfl

@[simp] theorem Sec.countAuth_aliasKey (x : Sec) (status : Nat) : (x.countAuth status).aliasKey = x.aliasKey := by
  unfold Sec.countAuth; split <;> rfl

@[simp] theorem Sec.countAuth_aliasCert (x : Sec) (status : Nat) : (x.countAuth status).aliasCert = x.aliasCert := by
  unfold Sec.countAuth; split <;> rfl

@[simp] theorem Sec.countAuth_pldmBusy (x : Sec) (status : Nat) : (x.countAuth status).pldmBusy = x.pldmBusy := by
  unfold Sec.countAuth; split <;> rfl

@[simp] theorem Sec.countAuth_pldmDone (x : Sec) (status : Nat) : (x.countAuth status).pldmDone = x.pldmDone := by
  unfold Sec.countAuth; split <;> rfl

theorem Sec.countAuth_other (x : Sec) {status : Nat} (h : status ≠ stAuthFail) : x.countAuth status = x := by
  simp [Sec.countAuth, h]

/-! ### Replies and results of the whole state -/

@[simp] theorem State.reply_pending (s : State) (ring status : Nat) (result : List Byte) :
    (s.reply ring status result).pending = s.pending := rfl

@[simp] theorem State.finish_pending (s : State) (slot status : Nat) (body : List Byte) :
    (s.finish slot status body).pending = s.pending := rfl

@[simp] theorem State.reply_fab (s : State) (ring status : Nat) (result : List Byte) :
    (s.reply ring status result).fab = s.fab := rfl

@[simp] theorem State.finish_fab (s : State) (slot status : Nat) (body : List Byte) :
    (s.finish slot status body).fab = s.fab := rfl

@[simp] theorem State.reply_pwr (s : State) (ring status : Nat) (result : List Byte) :
    (s.reply ring status result).pwr = s.pwr := rfl

@[simp] theorem State.finish_pwr (s : State) (slot status : Nat) (body : List Byte) :
    (s.finish slot status body).pwr = s.pwr := rfl

@[simp] theorem State.reply_w (s : State) (ring status : Nat) (result : List Byte) :
    (s.reply ring status result).w = s.w.reply ring status result := rfl

@[simp] theorem State.reply_sec (s : State) (ring status : Nat) (result : List Byte) :
    (s.reply ring status result).sec = s.sec.countAuth status := rfl

@[simp] theorem State.finish_w (s : State) (slot status : Nat) (body : List Byte) :
    (s.finish slot status body).w = s.w.finish slot status body := rfl

@[simp] theorem State.finish_sec (s : State) (slot status : Nat) (body : List Byte) :
    (s.finish slot status body).sec = s.sec.countAuth status := rfl

@[simp] theorem State.refuse_s (s : State) (status : Nat) : (s.refuse status).s = s := rfl

@[simp] theorem State.refuse_status (s : State) (status : Nat) : (s.refuse status).status = status := rfl

@[simp] theorem State.refuse_result (s : State) (status : Nat) : (s.refuse status).result = [] := rfl

/-! ### Driver commands (R860, R861) -/

/-- A module without power takes no command. -/
theorem State.command_off (s : State) (ring : Nat) (allowed : List DevState) (act : State → Answer)
    (h : s.w.dev.state = .off) : s.command ring allowed act = s := by simp [State.command, h]

/-- A command in a state that allows it is carried out, and its reply written. -/
theorem State.command_allowed (s : State) (ring : Nat) (allowed : List DevState) (act : State → Answer)
    (h : s.w.dev.state ∈ allowed) (h0 : s.w.dev.state ≠ .off) :
    s.command ring allowed act = (act s).s.reply ring (act s).status (act s).result := by
  simp [State.command, h, h0]

/-- A command in any other state changes nothing but its reply. -/
theorem State.command_refused (s : State) (ring : Nat) (allowed : List DevState) (act : State → Answer)
    (h : s.w.dev.state ∉ allowed) (h0 : s.w.dev.state ≠ .off) :
    s.command ring allowed act = s.reply ring stStateConflict [] := by
  simp [State.command, h, h0]

/-- Whatever relation to the state before holds of what a command does, and passes to a reply, holds of the command. -/
theorem State.command_rel (R : State → State → Prop) (refl : ∀ s, R s s)
    (reply : ∀ s t ring st res, R s t → R s (State.reply t ring st res)) (s : State) (ring : Nat)
    (allowed : List DevState) (act : State → Answer) (h : R s (act s).s) : R s (s.command ring allowed act) := by
  unfold State.command
  split
  · exact refl s
  · split
    · exact reply _ _ _ _ _ h
    · exact reply _ _ _ _ _ (refl s)

/-- A command that needs a result slot is refused with ST_BUSY when none is free (R872). -/
theorem State.withSlot_busy (s : State) (ring opcode : Nat) (act : State → Nat → State) (h : s.w.dev.freeSlot = none) :
    s.withSlot ring opcode act = s.refuse stBusy := by simp [State.withSlot, h]

/-- A command that needs a result slot takes the lowest free one and names it in its reply (R871). -/
theorem State.withSlot_free (s : State) (ring opcode k : Nat) (act : State → Nat → State)
    (h : s.w.dev.freeSlot = some k) :
    s.withSlot ring opcode act =
      { s := act { s with w := s.w.takeSlot k ring opcode } k, status := stOk, result := toLE 2 k } := by
  simp [State.withSlot, h]

/-- Whatever relation holds of what a command does with its slot, and of doing nothing, holds of the command. -/
theorem State.withSlot_rel (R : State → State → Prop) (refl : ∀ s, R s s) (s : State) (ring opcode : Nat)
    (act : State → Nat → State) (h : ∀ k, R s (act { s with w := s.w.takeSlot k ring opcode } k)) :
    R s (s.withSlot ring opcode act).s := by
  unfold State.withSlot
  split
  · exact refl s
  · exact h _

/-! ### Result slots (R871 to R873) -/

/-- The free slot that a command takes is free, and no lower one is. -/
theorem Dev.freeSlot_spec (d : Dev) {k : Nat} (h : d.freeSlot = some k) :
    k < 256 ∧ mget d.results none k = none ∧ ∀ j < k, (mget d.results none j).isSome := by
  unfold Dev.freeSlot at h
  rw [List.find?_eq_some_iff_append] at h
  obtain ⟨hk, as, bs, hl, hb⟩ := h
  have hlen : as.length + (bs.length + 1) = 256 := by
    have := congrArg List.length hl; simpa using this.symm
  have hi : ∀ i (h : i < as.length), as[i] = i := by
    intro i hi
    have := List.getElem_of_eq hl (i := i) (by simp; omega)
    simpa [List.getElem_append_left hi] using this.symm
  have ek : as.length = k := by
    have := List.getElem_of_eq hl (i := as.length) (by simp; omega)
    simpa using this
  refine ⟨by omega, by simpa using hk, ?_⟩
  intro j hj
  have h1 : as[j]'(by omega) ∈ as := List.getElem_mem _
  have := hb _ h1
  rw [hi j (by omega)] at this
  simpa using this

/-- A slot taken is taken by its command and not ready. -/
@[simp] theorem Work.takeSlot_results (w : Work) (slot ring opcode : Nat) :
    mget (w.takeSlot slot ring opcode).dev.results none slot =
      some { ring := ring, opcode := BitVec.ofNat 16 opcode, tag := BitVec.ofNat 32 (leAt (w.dev.taken ring) 4 4) } := by
  simp [Work.takeSlot]

@[simp] theorem Work.linkWrite_dev_results (w : Work) (addr : Nat) (bs : List Byte) : (w.linkWrite addr bs).dev.results = w.dev.results := by
  unfold Work.linkWrite; split <;> rfl

@[simp] theorem Work.interrupt_dev_results (w : Work) : (w.interrupt).dev.results = w.dev.results := by
  unfold Work.interrupt; split <;> rfl

@[simp] theorem Work.raise_dev_results (w : Work) (b : Nat) : (w.raise b).dev.results = w.dev.results := by
  unfold Work.raise; split
  · rfl
  · simp only; split <;> simp

@[simp] theorem Work.noteRoom_dev_results (w : Work) : (w.noteRoom).dev.results = w.dev.results := by
  unfold Work.noteRoom; split <;> simp

@[simp] theorem Work.note_dev_results (w : Work) (kind core data : Nat) : (w.note kind core data).dev.results = w.dev.results := by
  unfold Work.note; split <;> simp

@[simp] theorem Work.event_dev_results (w : Work) (kind sev unit sub idx addr data : Nat) : (w.event kind sev unit sub idx addr data).dev.results = w.dev.results := by
  unfold Work.event; simp

@[simp] theorem Work.setState_dev_results (w : Work) (st : DevState) (cause : Cause) : (w.setState st cause).dev.results = w.dev.results := by
  unfold Work.setState; split <;> simp

@[simp] theorem Work.compWrite_dev_results (w : Work) (ring addr : Nat) (bs : List Byte) : (w.compWrite ring addr bs).dev.results = w.dev.results := by
  unfold Work.compWrite; split <;> simp

@[simp] theorem Work.replyAs_dev_results (w : Work) (ring status state : Nat) (result : List Byte) : (w.replyAs ring status state result).dev.results = w.dev.results := by
  unfold Work.replyAs; simp only; split <;> simp

@[simp] theorem Work.reply_dev_results (w : Work) (ring status : Nat) (result : List Byte) : (w.reply ring status result).dev.results = w.dev.results := by
  unfold Work.reply; simp

/-- A taken slot that finishes is ready with its status and body; every other slot stays as it was. -/
theorem Work.finish_results (w : Work) (slot status : Nat) (body : List Byte) (r : RSlot)
    (h : mget w.dev.results none slot = some r) :
    mget (w.finish slot status body).dev.results none slot =
      some { r with ready := true, status := BitVec.ofNat 8 status, body := body } ∧
    ∀ j, j ≠ slot → mget (w.finish slot status body).dev.results none j = mget w.dev.results none j := by
  unfold Work.finish
  rw [h]
  refine ⟨by simp, ?_⟩
  intro j hj
  simp [mget_mset_ne _ _ _ hj]

/-- Finishing a slot that nobody holds does nothing. -/
theorem Work.finish_free (w : Work) (slot status : Nat) (body : List Byte) (h : mget w.dev.results none slot = none) :
    w.finish slot status body = w := by simp [Work.finish, h]

/-! ### NOTIFY (R838, R839) -/

/-- The bit that is raised is set. -/
theorem Work.raise_sets (w : Work) (b : Nat) (hb : b < 6) : (w.raise b).dev.notify.getLsbD b = true := by
  unfold Work.raise
  split
  · next h => exact h
  · have e : (BitVec.ofNat 6 (2 ^ b)).getLsbD b = true := by
      interval_cases b <;> decide
    have key : (w.dev.notify ||| BitVec.ofNat 6 (2 ^ b)).getLsbD b = true := by
      rw [BitVec.getLsbD_or, e, Bool.or_true]
    simp only
    split
    · simp only [Work.interrupt]
      split <;> exact key
    · exact key

/-- A bit that is already set raises nothing. -/
theorem Work.raise_again (w : Work) (b : Nat) (h : w.dev.notify.getLsbD b = true) : w.raise b = w := by
  simp [Work.raise, h]

/-! ### Replies as bytes (R853) -/

/-- A reply is 32 bytes. -/
@[simp] theorem length_replyBytes (packet : List Byte) (status state phase : Nat) (result : List Byte) :
    (replyBytes packet status state phase result).length = 32 := by simp [replyBytes]

/-- A reply of a ring of this module, while the link is up: where it stands, and nothing else of companion memory. -/
theorem Work.replyAs_companion (w : Work) (ring status state : Nat) (result : List Byte) (hr : ring < 64)
    (hl : w.dev.linkUp = true) :
    (w.replyAs ring status state result).mem.companion =
      w.mem.companion.write ((mget w.dev.rings {} ring).cqBase.toNat + 32 * (mget w.dev.rings {} ring).cqTail.toNat)
        (replyBytes (w.dev.taken ring) status state (b2n (mget w.dev.rings {} ring).phase) result) := by
  simp [Work.replyAs, hr, Work.linkWrite, hl]

/-- The ring after a reply: its next entry, and the packet no longer taken. -/
theorem Work.replyAs_ring (w : Work) (ring status state : Nat) (result : List Byte) (hr : ring < 64) :
    mget (w.replyAs ring status state result).dev.rings {} ring = (mget w.dev.rings {} ring).advance := by
  simp [Work.replyAs, hr]

/-- PHASE flips exactly when CQ_TAIL wraps to 0 (R851). -/
theorem Ring.advance_phase (r : Ring) :
    r.advance.phase = (if (r.cqTail.toNat + 1) % 2 ^ r.log2.toNat = 0 then !r.phase else r.phase) := rfl

end Sys2Proof.Machine
end

