-- ==== Sys2Proof/Tests/Slice0.lean ====
section
/-!
SUPPORT. The author's tests: a term that each check of well-formedness refuses, words and packets written out from the
manual's layouts, single steps on small states, and for each statement of the certificate a state that meets its hypotheses.
-/

namespace Sys2Proof.Tests

open Sys2Proof Sys2Proof.Machine

set_option Elab.async false

/-! ### Well-formedness: one ill-formed term for each check -/

/-- Parameters of a small herd, and parameters with a shape beyond its byte. -/
def herdP : HerdParams :=
  { xM1 := 1, yM1 := 0, zM1 := 0, herd := 1, member := 0, bellwether := 0, clockSel := 0, stretchMax := 16, slackClk := 256
    tickClk := 7200, memX := 40, uplConfig := 0x139C4A }

/-- A shape byte of 256. -/
def herdBad : HerdParams := { herdP with xM1 := 256 }

/-- A cool module. -/
def cool : Sensors :=
  { compute := [50, 50, 50, 50], eastIo := 50, westIo := 50, inlet := 25, stackTemps := [], voltMv := 54000, current := 100, watts := 1000 }

/-- A moment beyond any tick. -/
def lateEnv : Env := { clk := 131072 }

/-- A codeword with 73 wrong bytes, a word beyond local store, a row beyond the 256. -/
def badEnvs : List Env := [{ lines := [{ line := 0, bytes := 73 }] }, { words := [{ word := 1048576, flips := 1 }] }, { residues := [256] }]

theorem test_wf_refuses_env : ∀ e ∈ badEnvs, (Instr.nop 0 0 e).wf = false ∧ (Instr.hostRead 0 0 false e).wf = false := by decide +kernel

/-- A line beyond the 66 of an array. -/
def badLine : Mismatch := { core := 0, array := 0, column := false, line := 66 }

/-- A flit with its payload, and one that is a byte short. -/
def flit0 : Flit := { hdr := 0, payload := zeros 248 }

/-- A payload of 247 bytes. -/
def flitShort : Flit := { hdr := 0, payload := zeros 247 }

/-- A frame without flits, and one with a flit that is a byte short. -/
def frame0 : Frame :=
  { sci := 0, an := 0, pn := 1, etherType := 0x9C4A, srcHerd := 0, dstHerd := 1, srcMember := 0, dstMember := 0, seq := 0, ack := 0
    flits := [], icvOk := true }

/-- A frame with a short flit. -/
def frameBad : Frame := { frame0 with flits := [flitShort] }

/-- Each of these commands has one operand out of its range, and is refused. -/
def ill1 : List Instr := [
  .devNop 1088, .devInfo 1088, .devReset 1088 {}, .herdForm 1088 herdP, .herdForm 0 herdBad, .herdLeave 1088,
    .planLoad 1088 0 0 0, .planLoad 0 18446744073709551616 0 0, .planLoad 0 0 18446744073709551616 0,
    .planLoad 0 0 0 256, .planUnload 1088, .stepRun 1088 0, .stepRun 0 18446744073709551616, .stepHold 1088,
    .stepResume 1088 0, .stepResume 0 18446744073709551616, .scaleWrite 1088 0 0 0 0, .scaleWrite 0 65536 0 0 0,
    .scaleWrite 0 0 4294967296 0 0, .scaleWrite 0 0 0 4294967296 0, .scaleWrite 0 0 0 0 18446744073709551616,
    .scaleRead 1088 0 0 0 0, .scaleRead 0 65536 0 0 0, .scaleRead 0 0 4294967296 0 0, .scaleRead 0 0 0 4294967296 0,
    .scaleRead 0 0 0 0 18446744073709551616, .memCopy 1088 0 0 {}, .memCopy 0 0 0 lateEnv,
    .memCopy 0 18446744073709551616 0 {}, .memCopy 0 0 18446744073709551616 {}, .sparsePack 1088 0 0 0 {},
    .sparsePack 0 0 0 0 lateEnv, .sparsePack 0 18446744073709551616 0 0 {},
    .sparsePack 0 0 18446744073709551616 0 {}]

theorem test_wf_refuses_1 : ∀ i ∈ ill1, i.wf = false := by decide +kernel

/-- Each of these commands has one operand out of its range, and is refused. -/
def ill2 : List Instr := [
  .sparsePack 0 0 0 18446744073709551616 {}, .readResult 1088 0 0, .readResult 0 65536 0,
    .readResult 0 0 18446744073709551616, .releaseResult 1088 0, .releaseResult 0 65536, .seqOpen 1088 0 0 0 0 0,
    .seqOpen 0 65536 0 0 0 0, .seqOpen 0 0 256 0 0 0, .seqOpen 0 0 0 4294967296 0 0, .seqOpen 0 0 0 0 65536 0,
    .seqOpen 0 0 0 0 0 65536, .seqClose 1088 0, .seqClose 0 65536, .seqTruncate 1088 0 0, .seqTruncate 0 65536 0,
    .seqTruncate 0 0 4294967296, .seqInfo 1088 0 0, .seqInfo 0 65536 0, .seqInfo 0 0 256, .batchSubmit 1088 0 0,
    .batchSubmit 0 18446744073709551616 0, .batchSubmit 0 0 4294967296, .hbmScrub 1088 {} {}, .hbmScrub 0 {} lateEnv,
    .hbmScrub 0 { unit := 65536 } {}, .lsScrub 1088 {} {}, .lsScrub 0 {} lateEnv, .lsScrub 0 { unit := 65536 } {},
    .arrayCheck 1088 {} [], .arrayCheck 0 { unit := 65536 } [], .arrayCheck 0 {} [badLine], .rowRemap 1088 {} {},
    .rowRemap 0 {} lateEnv]

theorem test_wf_refuses_2 : ∀ i ∈ ill2, i.wf = false := by decide +kernel

/-- Each of these commands has one operand out of its range, and is refused. -/
def ill3 : List Instr := [
  .rowRemap 0 { unit := 65536 } {}, .channelRetire 1088 {}, .channelRetire 0 { unit := 65536 }, .spareBank 1088 {},
    .spareBank 0 { unit := 65536 }, .spareArrayLine 1088 {}, .spareArrayLine 0 { unit := 65536 }, .spareCore 1088 {},
    .spareCore 0 { unit := 65536 }, .spareLane 1088 {}, .spareLane 0 { unit := 65536 }, .sparePort 1088 {},
    .sparePort 0 { unit := 65536 }, .fwStage 1088 {}, .fwStage 0 { unit := 65536 }, .maintQuery 1088 0 0,
    .maintQuery 0 65536 0, .maintQuery 0 0 65536, .thresholdSet 1088 0 0 0 0 0, .thresholdSet 0 256 0 0 0 0,
    .thresholdSet 0 0 256 0 0 0, .thresholdSet 0 0 0 4294967296 0 0, .thresholdSet 0 0 0 0 4294967296 0,
    .thresholdSet 0 0 0 0 0 256, .spdmMessage 1088 0 0 0 0, .spdmMessage 0 18446744073709551616 0 0 0,
    .spdmMessage 0 0 4294967296 0 0, .spdmMessage 0 0 0 18446744073709551616 0, .spdmMessage 0 0 0 0 4294967296,
    .ownerKeyInstall 1088 0, .ownerKeyInstall 0 18446744073709551616, .ownerKeyRemove 1088 0,
    .ownerKeyRemove 0 18446744073709551616, .ownerRequireSet 1088 0]

theorem test_wf_refuses_3 : ∀ i ∈ ill3, i.wf = false := by decide +kernel

/-- Each of these commands has one operand out of its range, and is refused. -/
def ill4 : List Instr := [
  .ownerRequireSet 0 18446744073709551616, .macsecKey 1088 0 0 0 0 0 0 0, .macsecKey 0 256 0 0 0 0 0 0,
    .macsecKey 0 0 256 0 0 0 0 0, .macsecKey 0 0 0 256 0 0 0 0, .macsecKey 0 0 0 0 256 0 0 0,
    .macsecKey 0 0 0 0 0 4294967296 0 0, .macsecKey 0 0 0 0 0 0 18446744073709551616 0,
    .macsecKey 0 0 0 0 0 0 0 18446744073709551616, .debugSeal 1088, .debugUnlock 1088 0 {},
    .debugUnlock 0 18446744073709551616 {}, .debugRelock 1088 {}, .fwActivate 1088 0 0 0 {},
    .fwActivate 0 256 0 0 {}, .fwActivate 0 0 256 0 {}, .fwActivate 0 0 0 256 {}, .eventLogRead 1088 0 0 0,
    .eventLogRead 0 4294967296 0 0, .eventLogRead 0 0 4294967296 0, .eventLogRead 0 0 0 18446744073709551616,
    .telemetryRead 1088 0, .telemetryRead 0 18446744073709551616, .traceConfig 1088 0 0 0,
    .traceConfig 0 18446744073709551616 0 0, .traceConfig 0 0 4294967296 0, .traceConfig 0 0 0 256, .packetTake 64,
    .forwardedReply 64 0 0 [], .forwardedReply 0 256 0 [], .forwardedReply 0 0 256 [],
    .forwardedReply 0 0 0 (zeros 25), .sqDoorbell 64 0, .cqDoorbell 64 0]

theorem test_wf_refuses_4 : ∀ i ∈ ill4, i.wf = false := by decide +kernel

/-- Each of these commands has one operand out of its range, and is refused. -/
def ill5 : List Instr := [
  .ringEnable 64 0, .ringDisable 64 0, .registerWrite 65536 0 0, .registerWrite 0 9 0, .hostRead 0 0 false lateEnv,
    .hostRead 18446744073709551616 0 false {}, .hostRead 0 65536 false {}, .hostWrite 0 [] false lateEnv,
    .hostWrite 18446744073709551616 [] false {}, .hostWrite 0 (zeros 65536) false {}, .copyIn 128 0 {},
    .copyIn 0 4294967296 {}, .copyIn 0 0 lateEnv, .copyInT 128 0 {}, .copyInT 0 4294967296 {}, .copyInT 0 0 lateEnv,
    .copyOut 128 0 {}, .copyOut 0 4294967296 {}, .copyOut 0 0 lateEnv, .decode 128 0 {}, .decode 0 4294967296 {},
    .decode 0 0 lateEnv, .compact 128 0 {}, .compact 0 4294967296 {}, .compact 0 0 lateEnv, .intersect 128 0 {},
    .intersect 0 4294967296 {}, .intersect 0 0 lateEnv, .laneMac 128 0 {}, .laneMac 0 4294967296 {},
    .laneMac 0 0 lateEnv, .pass 128 0 {}, .pass 0 4294967296 {}, .pass 0 0 lateEnv]

theorem test_wf_refuses_5 : ∀ i ∈ ill5, i.wf = false := by decide +kernel

/-- Each of these commands has one operand out of its range, and is refused. -/
def ill6 : List Instr := [
  .matvec 128 0 {}, .matvec 0 4294967296 {}, .matvec 0 0 lateEnv, .drain 128 0 {}, .drain 0 4294967296 {},
    .drain 0 0 lateEnv, .clear 128 0 {}, .clear 0 4294967296 {}, .clear 0 0 lateEnv, .packOut 128 0 {},
    .packOut 0 4294967296 {}, .packOut 0 0 lateEnv, .forward 128 0 {}, .forward 0 4294967296 {},
    .forward 0 0 lateEnv, .backward 128 0 {}, .backward 0 4294967296 {}, .backward 0 0 lateEnv, .map 128 0 {},
    .map 0 4294967296 {}, .map 0 0 lateEnv, .norm 128 0 {}, .norm 0 4294967296 {}, .norm 0 0 lateEnv,
    .reduce 128 0 {}, .reduce 0 4294967296 {}, .reduce 0 0 lateEnv, .optimise 128 0 {}, .optimise 0 4294967296 {},
    .optimise 0 0 lateEnv, .convert 128 0 {}, .convert 0 4294967296 {}, .convert 0 0 lateEnv, .put 128 0 {}]

theorem test_wf_refuses_6 : ∀ i ∈ ill6, i.wf = false := by decide +kernel

/-- Each of these commands has one operand out of its range, and is refused. -/
def ill7 : List Instr := [
  .put 0 4294967296 {}, .put 0 0 lateEnv, .collective 128 0 {}, .collective 0 4294967296 {}, .collective 0 0 lateEnv,
    .take 128 0 {}, .take 0 4294967296 {}, .take 0 0 lateEnv, .nop 128 0 {}, .nop 0 4294967296 {}, .nop 0 0 lateEnv,
    .sectionOpen 128 0 {}, .sectionOpen 0 4294967296 {}, .sectionOpen 0 0 lateEnv, .markMarker 128 0 {},
    .markMarker 0 4294967296 {}, .markMarker 0 0 lateEnv, .markStash 128 0 {}, .markStash 0 4294967296 {},
    .markStash 0 0 lateEnv, .markRelease 128 0 {}, .markRelease 0 4294967296 {}, .markRelease 0 0 lateEnv,
    .sectionClose 65536 0, .sectionClose 0 131072, .elasticItemTake 128 0, .elasticItemTake 0 4294967296,
    .mergePieceSteal 128 0, .mergePieceSteal 0 64, .mergePieceRetire 128 0 0 0, .mergePieceRetire 0 64 0 0,
    .attendPageReady 128 0 0 {}, .attendPageReady 0 4294967296 0 {}, .attendPageReady 0 0 0 lateEnv]

theorem test_wf_refuses_7 : ∀ i ∈ ill7, i.wf = false := by decide +kernel

/-- Each of these commands has one operand out of its range, and is refused. -/
def ill8 : List Instr := [
  .scoreboardStallRelease 128 0 0 {}, .scoreboardStallRelease 0 4294967296 0 {},
    .scoreboardStallRelease 0 0 0 lateEnv, .firingRetire 128 0 {}, .firingRetire 0 4294967296 {},
    .firingRetire 0 0 lateEnv, .checkSlot [badLine], .idleSelfCheck [badLine], .refreshWindow 4 0,
    .refreshWindow 0 4294967296, .appendCopyDone 65536 0 0, .appendCopyDone 0 256 0, .spillDone 65536 0 0,
    .spillDone 0 256 0, .fetchDone 65536 0 0, .fetchDone 0 256 0, .deferredEviction 65536, .patrolScrub 0 lateEnv,
    .patrolScrub 384 {}, .rowRemapEffect 12 0 0, .rowRemapEffect 0 32 0, .unscheduledGrant 0 0 lateEnv,
    .unscheduledGrant 384 0 {}, .joinReceive 0 herdBad 0 0 0, .joinReceive 40 herdP 0 0 0,
    .joinReceive 0 herdP 16 0 0, .joinReceive 0 herdP 0 8 0, .joinReceive 0 herdP 0 0 8, .beatBlock 40 0,
    .holdBlock 40 0, .stretchBlock 40 0, .stopBlock 40 0, .resumeBlock 40 0, .flitReceive 0 0 flitShort 0 0 0 0]

theorem test_wf_refuses_8 : ∀ i ∈ ill8, i.wf = false := by decide +kernel

/-- Each of these commands has one operand out of its range, and is refused. -/
def ill9 : List Instr := [
  .flitReceive 40 0 flit0 0 0 0 0, .flitReceive 0 4 flit0 0 0 0 0, .peerAccessRequest 0 0 0 0 0 [] false lateEnv,
    .peerAccessRequest 1024 0 0 0 0 [] false {}, .peerAccessRequest 0 0 18446744073709551616 0 0 [] false {},
    .peerAccessRequest 0 0 0 65536 0 [] false {}, .peerAccessRequest 0 0 0 0 256 [] false {},
    .peerAccessResponse 0 0 [] lateEnv, .peerAccessResponse 0 256 [] {}, .permuteChunkSend 0 0 lateEnv,
    .permuteChunkCopy 0 0 lateEnv, .laneFailure 40 0, .laneFailure 0 5, .spareLaneTakeover 40, .linkTrained 40 0 0 0,
    .linkTrained 0 65536 0 0, .linkTrained 0 0 1024 0, .linkTrained 0 0 0 64, .sidebandChange 40 false false,
    .uplinkFrameReceive 0 frameBad, .uplinkFrameReceive 4 frame0, .uplinkResendTimeout 4 0 0, .zwinusLaneFailure 18,
    .zwinusLinkUp 19, .sensorRead 65536, .memoryCommandDone 256, .leaveReceive 40, .uplinkLinkChange 4 false,
    .priorityPauseFrame 4 false]

theorem test_wf_refuses_9 : ∀ i ∈ ill9, i.wf = false := by decide +kernel

/-- Commands at the ends of their operands' ranges are well formed. -/
theorem test_wf_accepts : ∀ i ∈ ([.devNop 1087, .stepRun 63 (2 ^ 64 - 1), .herdForm 0 herdP, .sqDoorbell 63 0,
    .thresholdSet 0 255 255 (2 ^ 32 - 1) (2 ^ 32 - 1) 255, .copyIn 127 (2 ^ 32 - 1) { clk := 131071, lines := [{ line := 0, bytes := 72 }] },
    .checkSlot [⟨127, 3, true, 65⟩], .flitReceive 39 3 flit0 0 0 0 0, .uplinkFrameReceive 3 frame0, .zwinusLinkUp 18] :
    List Instr), i.wf = true := by decide +kernel

/-! ### States that the witnesses stand on -/

/-- A module in a device state, its link up. -/
def up (d : DevState) : State := { State.reset with w := { dev := { state := d, linkUp := true } } }

/-- Numbers as bytes. -/
def bytes (xs : List Nat) : List Byte := xs.map (BitVec.ofNat 8)

/-- A packet: opcode, target, PLEN and the first parameter bytes (R852). -/
def packet (op target plen : Nat) (ps : List Nat) : List Byte :=
  bytes [op % 256, op / 256, 0, target, 1, 2, 3, 4, plen, 0, 0, 0, 0, 0, 0, 0] ++ fit 48 (bytes ps)

/-- Ring 0 with one packet at its head, in STANDBY. -/
def ringed (pk : List Byte) : State :=
  { State.reset with w := {
      dev := { state := .standby, linkUp := true, rings := [(0, { enable := true, tail := 1, sqBase := 0x1000 })] }
      mem := { companion := ({} : Memory).write 0x1000 pk } } }

/-- Ring 0 whose packet has been taken. -/
def taken (d : DevState) (pk : List Byte) : State :=
  { State.reset with w := {
      dev := { state := d, linkUp := true, rings := [(0, { enable := true, tail := 1, sqHead := 1, taken := some pk })] } } }

/-- A module with a result slot. -/
def slotted (d : DevState) (r : RSlot) : State :=
  { State.reset with w := { dev := { state := d, linkUp := true, results := [(5, some r)] } } }

/-- A module whose 256 result slots are taken. -/
def crowded (d : DevState) : State :=
  { State.reset with w := {
      dev := { state := d, linkUp := true, results := (List.range 256).map (fun k => (k, some { ring := 0, opcode := 0, tag := 0 })) } } }

/-- A plan without sections. -/
def plan0 : Plan :=
  { header := [], cls := 128, clockSel := 0, tickClk := 7200, herdSize := 1, moduleIndex := 0, stepTicks := 4, planId := 1
    digest := [], cores := [], sections := [], lists := [], descs := [], regions := [], routes := [], scales := none
    drains := [], policy := none, commits := [], switches := [], caps := [], vec := [] }

/-- A module in a device state with a plan armed and cadence lock. -/
def armed (d : DevState) (p : Plan) : State :=
  { State.reset with w := { dev := { state := d, linkUp := true }, plan := some p, cad := { lock := 2, holdLead := 1 } } }

/-- A region table entry over HBM from address 0, 2 MiB long (R296): readable, writable, STEP_OWNED as given. -/
def region0 (owned : Bool) : W128 := BitVec.ofNat 128 (1 + 2 + 4 + 8 * b2n owned + 2 ^ 67)

/-- A running step with result slot 5. -/
def step0 : StepSt := { req := { slot := 5, start := 0 }, number := 0, startTick := 1 }

/-- Its result slot, taken. -/
def rslot0 : RSlot := { ring := 0, opcode := 0x0202, tag := 7 }

/-- A module in a device state in which a plan's step runs, at a step tick. -/
def running (d : DevState) (p : Plan) (t : Nat) : State :=
  { State.reset with w := {
      dev := { state := d, linkUp := true, results := [(5, some rslot0)] }, plan := some p
      cad := { lock := 2, holdLead := 1, tickCount := BitVec.ofNat 64 (t + 1), bellwether := true }
      run := { step := some step0, tick := BitVec.ofNat 24 t, counting := true, begun := 1 } } }

/-! ### Packets written out from R852 and R866 -/

/-- MEM_COPY, READ_RESULT and SEQ_OPEN. -/
theorem test_packet_words :
    decodePacket 3 (packet 0x0302 0 16 [5, 0, 0, 0, 0, 0, 0, 0, 0, 0x10, 0, 0, 0, 0, 0, 0]) {} = some (.readResult 3 5 0x1000) ∧
    decodePacket 0 (packet 0x0300 0 16 [0, 1, 0, 0, 0, 0, 0, 0, 0, 2, 0, 0, 0, 0, 0, 0]) {} = some (.memCopy 0 0x100 0x200 {}) ∧
    decodePacket 1 (packet 0x0400 0 12 [7, 0, 1, 0, 100, 0, 0, 0, 2, 0, 3, 0]) {} = some (.seqOpen 1 7 1 100 2 3) := by decide +kernel

/-- Parameter bytes at or beyond PLEN are zero, and an opcode that R866 does not list spells no command. -/
theorem test_packet_short :
    decodePacket 0 (packet 0x0302 0 2 [5, 0, 0, 0, 0, 0, 0, 0, 0, 0x10]) {} = some (.readResult 0 5 0) ∧
    decodePacket 0 (packet 0x0003 0 0 []) {} = none := by decide +kernel

/-- The next command of a queue runs, and only it is taken off. -/
theorem test_step_queue :
    step { up .standby with pending := [.counterSelect 3, .routeSetSwitch] } =
      exec (.counterSelect 3) { up .standby with pending := [.routeSetSwitch] } := rfl

/-! ### Witnesses: the queue, packets, replies, rings -/

theorem witness_StepRunsFront : State.reset.pending = [] := rfl

theorem witness_QueueUntouched : ∃ t, exec (.counterSelect 3) (up .standby) = .next t := ⟨_, rfl⟩

theorem witness_SealAndSvnStay : ∃ t, step { up .standby with pending := [.counterSelect 3] } = .next t := ⟨_, rfl⟩

theorem witness_OwnerKeysKept :
    (up .standby).sec.KeysOk ∧ ∃ t, step { up .standby with pending := [.counterSelect 3] } = .next t :=
  ⟨⟨fun h => by simp [up, State.reset] at h, fun k _ y h => by simp [up, State.reset, mget] at h,
    fun j _ k _ y z h => by simp [up, State.reset, mget] at h⟩, _, rfl⟩

theorem witness_PacketRoundTrip : Instr.wf (.stepRun 63 (2 ^ 64 - 1)) = true ∧
    (encodePacket (.stepRun 63 (2 ^ 64 - 1)) 1 63 (2 ^ 32 - 1)).isSome = true := by decide +kernel

theorem witness_RefusedElsewhere :
    allowedIn (.ownerKeyInstall 63 0) = some [.standby] ∧ (up .boot).w.dev.state ≠ .off ∧ (up .boot).w.dev.state ∉ [DevState.standby] ∧
    leAt ((up .boot).w.compRead 63 0 256) 0 1 = 0 ∧ Instr.ring (.ownerKeyInstall 63 0) < 64 ∧ (up .boot).w.dev.linkUp = true := by
  decide +kernel

theorem witness_PacketTaken :
    (∀ pk ∈ [packet 0x0302 0 48 [], packet 0x0003 0 0 [], packet 0x0302 0 49 [], packet 0x0500 0 1 [12], packet 0x0302 1 0 []],
      (ringed pk).w.dev.state ≠ .off ∧ (ringed pk).w.nextRing = some 0 ∧ (ringed pk).w.headPacket 0 = pk ∧
      (ringed pk).w.dev.flockSelf = 0) ∧
    noRow (packet 0x0302 0 48 []) = none ∧ (noRow (packet 0x0500 0 1 [12])).isSome = true ∧
    (let s := ringed (packet 0x0302 1 0 [])
     let t : State := { s with w.dev.flockMap := [(1, BitVec.ofNat 64 (2 ^ 63))], fab.joined := true }
     t.w.nextRing = some 0 ∧ bit (mget t.w.dev.flockMap 0 1) 63 = true ∧ t.fab.reachable 0 0 = true) := by decide +kernel

theorem witness_RepliesLand :
    (let s := taken .boot (packet 0 0 0 [])
     s.w.dev.linkUp = true ∧ s.w.dev.state ≠ .off ∧ (2 : Nat) < 64) ∧
    (let s := taken .standby (packet 0 1 0 [])
     (mget s.w.dev.rings {} 0).taken = some (packet 0 1 0 []) ∧ leAt (packet 0 1 0 []) 3 1 % 64 ≠ s.w.dev.flockSelf.toNat) := by decide +kernel


/-- A ring of 16 entries, enabled, with one unread reply. -/
def ring1 : State :=
  { State.reset with w := { dev := { state := .standby, linkUp := true, rings := [(63, { enable := true, unread := 15 })] } } }

theorem witness_RingRegisters :
    (let r := mget ring1.w.dev.rings {} 63
     r.enable = true ∧ bits (15 : W64) 11 0 < 2 ^ r.log2.toNat ∧ (15 + 2 ^ r.log2.toNat - r.head.toNat) % 2 ^ r.log2.toNat ≤ r.unread ∧
     2 ^ r.log2.toNat ≤ bits (16 : W64) 11 0) ∧
    (mget ring1.w.dev.rings {} 0).enable = false ∧ bit (256 : W64) 8 = true ∧ bit (0 : W64) 8 = false := by decide +kernel

theorem witness_RegistersWritten : ((4 : Nat) ≠ 8 ∨ 0 % 8 ≠ 0) ∧ (mget ring1.w.dev.rings {} 63).enable = true := by decide +kernel

/-- CAD_CONFIG with a field layout of R163: TICK_CLK 7200, SLACK_CLK 256, STRETCH_MAX 16. -/
def cad1 : W64 := BitVec.ofNat 64 (7200 + 256 * 2 ^ 24 + 16 * 2 ^ 40)

theorem witness_ConfigsWritten :
    ((up .standby).w.dev.state = .standby ∧
      cadOk (bits cad1 16 0) (bits cad1 35 24) (bits cad1 46 40) (up .standby).pwr.clockSel = true) ∧
    ((up .joined).w.dev.state ≠ .standby ∧ cadOk 7201 256 16 false = false) ∧
    (bits (80 : W64) 6 0 ≤ (up .standby).w.mem.minGib ∧ (up .standby).w.mem.minGib < bits (81 : W64) 6 0) ∧
    (∀ h ∈ [1, 168], 1 ≤ bits (BitVec.ofNat 64 (256 * h)) 15 8 ∧ bits (BitVec.ofNat 64 (256 * h)) 15 8 ≤ 168) ∧
    (up .running).w.dev.state = .running := by decide +kernel

theorem witness_HostAccesses :
    ((up .standby).w.mem.waiting = [] ∧ (up .standby).refreshing ((up .standby).w.mem.channelOf (hbmBytes - 64)) 0 = false ∧
      (up .standby).w.barredLines (hbmBytes - 64) 64 true = [] ∧ (up .standby).w.barredLines (hbmBytes - 64) 64 false = [] ∧
      (let s := running .running { plan0 with regions := [region0 true] } 0
       s.w.barredLines 0x1FFFC0 128 true = [0x7FFF] ∧ linesOf 0x1FFFC0 128 = [0x7FFF, 0x8000] ∧ s.w.mem.waiting = [])) ∧
    ((up .standby).apertureOpen = true ∧ hbmBytes - 64 + (zeros 64).length ≤ hbmBytes ∧ (up .standby).w.hostRefused (hbmBytes - 64) true = false ∧
      (up .standby).w.hostSpoils (hbmBytes - 64) 64 = false ∧ (up .standby).w.mem.errs = [] ∧ (up .standby).w.mem.lost = [] ∧ ({} : Env).lines = [] ∧
      (up .standby).w.hostRefused (hbmBytes - 64) false = false) ∧
    hbmBytes < hbmBytes + 1 ∧
    (let p := { plan0 with regions := [region0 true] }
     let s := running .running p 0
     s.apertureOpen = true ∧ s.w.plan = some p ∧ p.regionOf? 0x1FFFFF = some (0, region0 true) ∧ Reg.owned (region0 true) = true ∧
     s.w.stepping = true ∧ 0x1FFFFF + 1 ≤ hbmBytes ∧ 0x7FFF ∈ linesOf 0x1FFFFF 1 ∧ p.regionOf? (64 * 0x7FFF) = some (0, region0 true) ∧
     s.w.barredLines 0x1FFFFF 1 false = linesOf 0x1FFFFF 1 ∧ s.w.barredLines 0x1FFFFF 1 true = linesOf 0x1FFFFF 1) := by decide +kernel

theorem witness_ResultSlots :
    (let s := slotted .fault { rslot0 with ready := true, body := zeros 64 }
     s.w.dev.state ∈ started ∧ mget s.w.dev.results none 5 = some { rslot0 with ready := true, body := zeros 64 } ∧ s.w.dev.linkUp = true) ∧
    (let s := slotted .standby rslot0
     s.w.dev.state ∈ started ∧ mget s.w.dev.results none 5 = some rslot0 ∧ rslot0.ready = false ∧ mget s.w.dev.results none 255 = none) := by
  decide +kernel

theorem witness_LogAndTelemetryRead :
    (crowded .maint).w.dev.state ∈ started ∧ (crowded .maint).w.dev.freeSlot = none ∧
    (slotted .standby rslot0).w.dev.freeSlot = some 0 := by decide +kernel

theorem witness_TraceConfigured :
    (up .loaded).w.dev.state ∈ [DevState.standby, .joined, .loaded] ∧ (4096 % 4096 = 0 ∧ 4096 + 2 ^ 30 ≤ hbmBytes) ∧
    (4095 % 4096 ≠ 0) ∧ ∃ n, 16 ≤ n ∧ n ≤ 30 ∧ 2 ^ 30 = 2 ^ n :=
  ⟨by decide +kernel, by decide +kernel, by decide, 30, by decide⟩
/-! ### Witnesses: plans, steps, scales, copies -/

/-- The least plan image: a header (R81), one section table entry (R82) and the header of a step body (R89) of 4 ticks. -/
def image0 : List Byte :=
  bytes [0x41, 0x58, 0x50, 0x4C, 0, 1, 0, 1, 128, 0, 0, 0, 0x20, 0x1C, 0, 0, 0x60, 1, 0, 0, 0, 0, 0, 0, 1, 0, 1, 0, 4, 0, 0, 0, 1] ++
  zeros 31 ++
  bytes [53, 84, 85, 41, 109, 220, 143, 189, 102, 218, 192, 183, 70, 106, 1, 59, 218, 89, 85, 205, 233, 21, 83, 166, 186, 137,
    210, 211, 231, 234, 92, 10, 2, 210, 187, 251, 116, 9, 54, 138, 60, 78, 154, 46, 54, 58, 14, 94] ++ zeros 144 ++
  bytes [11, 0, 0, 0, 255, 255, 0, 0, 0x20, 1, 0, 0, 0, 0, 0, 0, 64, 0, 0, 0, 0, 0, 0, 0, 0, 0, 0, 0, 0, 0, 0, 0, 4] ++ zeros 63

/-- A module that verifies an image. -/
def loading (img : List Byte) : State :=
  { armed .joined plan0 with w.plan := none, w.dev.load := some { slot := 5, declared := 352, image := img } }

/-- The digest of the image, computed apart from the model by the hash of FIPS 180-4, and every other check hold. -/
theorem test_image_verifies : (loading image0).planFaults image0 352 = [] := by decide +kernel

theorem witness_PlansArmed :
    ((up .joined).w.dev.state = .joined ∧ (up .joined).w.dev.load = none ∧ (up .joined).w.dev.freeSlot = some 0 ∧
      hbmBytes - 352 + 352 ≤ hbmBytes) ∧
    ((armed .loaded plan0).w.dev.state = .loaded ∧ (armed .loaded plan0).w.dev.load = none) ∧
    ((loading image0).w.dev.load.isSome = true ∧ (loading image0).w.dev.state ≠ .off ∧
      allowedIn (.planLoad 0 0 0 0) = some [.joined, .loaded] ∧ (loading image0).w.dev.state ∈ [DevState.joined, .loaded]) ∧
    ((loading []).planFaults [] 352).length = 1 ∧ (loading image0).w.changeWaits = false := by decide +kernel

theorem witness_StepsAsked :
    (let s := armed .loaded plan0
     s.w.dev.state = .loaded ∧ s.w.dev.load = none ∧ s.w.plan = some plan0 ∧ plan0.cls = s.w.rel.cls ∧ s.w.run.queued = none ∧
     s.w.dev.freeSlot = some 0) ∧
    (let s : State := { armed .running plan0 with w.run.queued := some { slot := 1, start := 0 } }
     s.w.dev.state = .running ∧ s.w.run.queued.isSome = true ∧ s.w.dev.load = none) ∧
    (let s := running .held plan0 3
     s.w.dev.state = .held ∧ s.w.cad.bellwether = true ∧ s.pwr.hot = false ∧ s.w.run.resumeAt = none ∧ s.w.run.stopped = false ∧
     s.w.run.stopOrigin = none ∧ s.w.run.wantStop = false ∧ s.w.cad.tickCount.toNat + s.w.lead ≤ 5 ∧
     (4 ≠ 0 ∧ 4 < s.w.cad.tickCount.toNat + s.w.lead)) ∧
    (armed .held plan0).w.cad.bellwether = false ∧
    (let s : State := { running .held plan0 3 with pwr.inletHigh := true, pwr.dies := BitVec.ofNat 64 (36 * 2 ^ 48) }
     s.pwr.hot = true ∧ s.w.cad.bellwether = true) := by decide +kernel

/-- A scale slot of eight FP8 channels from register 16 (R209). -/
def slot8 : W128 := BitVec.ofNat 128 (32 + 7 * 2 ^ 16 + 16 * 2 ^ 64)

theorem witness_ScaleCommands :
    (let s := armed .loaded { plan0 with scales := some { statBase := 0, slots := [slot8], init := [] } }
     s.w.dev.state = .loaded ∧ (s.w.scaleSlot 0 6 2).isSome = true ∧ s.w.dev.freeSlot = some 0 ∧ s.w.dev.linkUp = true ∧
     s.w.dev.noteEnable = false ∧ (∀ i < 2, leAt (s.w.compRead 0 0x1000 4) (2 * i) 1 ≠ 255)) ∧
    (let s := armed .loaded { plan0 with scales := some { statBase := 0, slots := [slot8], init := [] } }
     let t : State := { s with w.mem.companion := ({} : Memory).write 0x1000 (bytes [255]) }
     ∃ i < 2, leAt (t.w.compRead 0 0x1000 4) (2 * i) 1 = 255) := by decide +kernel
/-- A tensor descriptor (R243, R244): base, format code, SPARSE, sizes, strides. -/
def desc (base fmt sparse : Nat) (sizes strides : List Nat) : W512 :=
  BitVec.ofNat 512 (base + 2 ^ 66 * sizes.length + 2 ^ 69 * fmt + 2 ^ 78 * sparse +
    ((sizes.zipIdx.map (fun x => (x.1 - 1) * 2 ^ (128 + 24 * x.2))).sum) +
    ((strides.zipIdx.map (fun x => x.1 * 2 ^ (272 + 40 * x.2))).sum))

/-- A sparse extension (R288) with a number of metadata bytes. -/
def ext (base n : Nat) : W512 := BitVec.ofNat 512 (base + 2 * 2 ^ 64 + n * 2 ^ 192)

/-- Companion memory with a source descriptor at 0x1000, a destination descriptor at 0x1040 and an extension at 0x1080, a
region over HBM, and one nonzero BF16 element in the source. -/
def packing (sd dd xd : W512) : State :=
  { armed .loaded { plan0 with regions := [region0 false] } with
    w.mem.companion := ({} : Memory).write 0x1000 (toLE 64 sd.toNat ++ toLE 64 dd.toNat ++ toLE 64 xd.toNat)
    w.mem.hbm := ({} : Memory).write 0x10000 (bytes [0x80, 0x3F]) }

/-- A dense BF16 row of 128 elements. -/
def dense : W512 := desc 0x10000 9 0 [128] [1]

theorem witness_MemoryCommands :
    (let s := packing dense (desc 0x20000 9 0 [128] [1]) 0
     s.w.dev.state ∈ [DevState.standby, .joined, .loaded] ∧ s.w.copyBad (s.w.cmdDesc 0 0x1000) (s.w.cmdDesc 0 0x1040) = false ∧
     s.w.dev.freeSlot = some 0 ∧ overlaps (tensor dense) (tensor (desc 0x20000 9 0 [128] [1])) = false) ∧
    (let s := packing dense (desc 0x10080 9 0 [128] [1]) 0
     s.w.copyBad (s.w.cmdDesc 0 0x1000) (s.w.cmdDesc 0 0x1040) = false ∧
     (overlaps (tensor dense) (tensor (desc 0x10080 9 0 [128] [1])) && !swapsInPlace dense (desc 0x10080 9 0 [128] [1])) = true) ∧
    (let s := packing dense (desc 0x20000 9 0 [64] [1]) 0
     s.w.copyBad (s.w.cmdDesc 0 0x1000) (s.w.cmdDesc 0 0x1040) = true) ∧
    (let s := packing dense dense (ext 0 16)
     packBad (s.w.cmdDesc 0 0x1000) (s.w.cmdDesc 0 0x1040) (s.w.cmdDesc 0 0x1080) = true) ∧
    (let s : State := { up .standby with w.dev.jobs := [{ slot := 5, status := 0, body := [] }] }
     s.w.dev.jobs.find? (fun j => j.slot = 5) = some { slot := 5, status := 0, body := [] } ∧ s.pwr.paused = false) ∧
    ({ up .standby with pwr.paused := true } : State).pwr.paused = true := by decide +kernel

theorem witness_MemoryCommands_pack :
    (∀ n ∈ [16, 15],
      let s := packing dense (desc 0x20000 9 1 [128] [1]) (ext 0x30000 n)
      let d := tensor (s.w.cmdDesc 0 0x1040)
      packBad (s.w.cmdDesc 0 0x1000) (s.w.cmdDesc 0 0x1040) (s.w.cmdDesc 0 0x1080) = false ∧ s.w.dev.freeSlot = some 0 ∧ d.sparse ≠ 3 ∧
      d.stored.maxElem / 4 + 1 = 16 ∧ (metaOf (s.w.cmdDesc 0 0x1080)).bytes = n ∧
      s.w.reaches [((metaOf (s.w.cmdDesc 0 0x1080)).base, 16), (d.base, d.stored.extent)] true = true) ∧
    (let s := packing dense (desc (hbmBytes - 64) 9 1 [128] [1]) (ext 0x30000 16)
     let d := tensor (s.w.cmdDesc 0 0x1040)
     packBad (s.w.cmdDesc 0 0x1000) (s.w.cmdDesc 0 0x1040) (s.w.cmdDesc 0 0x1080) = false ∧
     s.w.reaches [((metaOf (s.w.cmdDesc 0 0x1080)).base, 16), (d.base, d.stored.extent)] true = false) ∧
    (∀ n ∈ [1, 0],
      let s := packing dense (desc 0x20000 9 3 [128] [1]) (ext 0x30000 n)
      let d := tensor (s.w.cmdDesc 0 0x1040)
      packBad (s.w.cmdDesc 0 0x1000) (s.w.cmdDesc 0 0x1040) (s.w.cmdDesc 0 0x1080) = false ∧ d.sparse = 3 ∧
      (({ s.w with mem := s.w.mem.see {} } : Work).gapOut (tensor (s.w.cmdDesc 0 0x1000))).codes.length = 1 ∧
      (metaOf (s.w.cmdDesc 0 0x1080)).bytes = n ∧
      (let mt := metaOf (s.w.cmdDesc 0 0x1080)
       let g := ({ s.w with mem := s.w.mem.see {} } : Work).gapOut (tensor (s.w.cmdDesc 0 0x1000))
       s.w.reaches [(mt.base, g.codes.length), (mt.rowidx, g.index.length), (d.base, d.fmt.dataOff g.vals.length)] true = true)) := by decide +kernel

/-! ### Witnesses: power, temperature, herds -/

theorem witness_Resets :
    (∀ k < 12, 16 ≤ (((up .running).w.mem.rebooted true).activeList k).length) ∧ cleanBoot {} = true ∧
    (up .running).sec.bootable {} (up .running).sec.activeB = true ∧ (up .boot).w.dev.state = .boot ∧
    (up .running).w.dev.state ∈ [DevState.standby, .joined, .loaded, .running, .held, .fault] ∧
    (up .off).sec.bootSlot { badParts := [(0, 0)] } = none := by decide +kernel

theorem witness_PowerLost : (up .boot).w.dev.state ≠ .off := by decide

/-- A module at a junction temperature. -/
def warmAt (t : Nat) : Sensors := { cool with compute := [t, 50, 50, 50] }

theorem witness_TemperatureSampled :
    heat cool = 0 ∧ heat (warmAt 95) < 2 ∧
    (∃ t, heat (warmAt t) = 2 ∧ heat (warmAt (t - 1)) = 1) ∧ (running .running plan0 1).w.run.step.isSome = true ∧
    (∃ t, 3 ≤ heat (warmAt t) ∧ heat (warmAt (t - 1)) = 2) :=
  ⟨by decide +kernel, by decide +kernel, ⟨100, by decide +kernel⟩, by decide +kernel, ⟨110, by decide +kernel⟩⟩

/-- A port up on bond 0, with the neighbour that its bond leads to. -/
def port0 : Port :=
  { st := .up, bond := 0, neighbour := 1, aliveIn := false, linkedIn := false, linkedN := false }

/-- STANDBY with port 0 up. -/
def ported (d : DevState) : State := { up d with fab.ports := [(0, port0)] }

theorem witness_HerdJoined :
    ((ported .standby).w.dev.state = .standby ∧ (ported .standby).w.cad.lock ≠ 1 ∧ (ported .standby).formOk herdP = true ∧
      (ported .standby).w.dev.freeSlot = some 0) ∧
    (ported .standby).formOk { herdP with member := 2 } = false ∧
    ((up .joined).w.dev.state = .joined ∧ herdP ≠ (up .joined).herdParams) ∧
    ((ported .standby).w.cad.lock = 0 ∧ ((ported .standby).fab.port 0).bond.toNat < 6 ∧ ((ported .standby).fab.port 0).working = true) := by
  decide +kernel

theorem witness_CadenceLocked :
    (let s : State := { slotted .standby rslot0 with w.cad.lock := 1, w.dev.forming := some 5 }
     s.w.cad.lock = 1 ∧ s.w.dev.state = .standby ∧ s.w.dev.forming = some 5 ∧ mget s.w.dev.results none 5 = some rslot0) := by
  decide +kernel

theorem witness_HerdLeft :
    (let s : State := { running .running plan0 1 with fab.ports := [(0, port0)] }
     s.w.dev.state ∈ [DevState.joined, .loaded, .running, .held] ∧ s.w.changeWaits = false ∧ s.w.policy? = none ∧ s.w.run.ended = none ∧
     s.w.run.accepted = none ∧ s.w.run.queued = none ∧ s.w.run.discarded = [] ∧ s.w.dev.load = none ∧ s.w.run.step = some step0 ∧
     mget s.w.dev.results none step0.req.slot = some rslot0 ∧ (s.fab.port 0).working = true) ∧
    (armed .held plan0).w.cad.bellwether = false ∧ (up .boot).w.dev.state ≠ .off ∧ (up .boot).w.dev.state ≠ .fault := by decide +kernel

theorem witness_BellwetherAligned :
    (let s := running .running plan0 1
     s.w.cad.bellwether = true ∧ s.w.cad.lock = 2 ∧ s.w.cad.ptpOk = false ∧ s.w.cad.anchor = none) ∧
    (let s : State := { running .running plan0 1 with w.cad.lock := 3, w.cad.ptpOk := true }
     s.w.cad.lock = 3 ∧ s.w.cad.ptpOk = true ∧ 1000 % s.anchorSeconds = 0) ∧
    (let s : State := { running .running plan0 1 with w.cad.tickClk := 7208, w.cad.ptpOk := true }
     1 % s.anchorSeconds ≠ 0) ∧
    (let s : State := { running .running plan0 1 with w.cad.anchor := some 3 }
     s.w.cad.ptpOk = false ∧ s.w.cad.anchor ≠ none ∧ s.w.cad.ppsOk = false ∧ 2 ≤ s.w.cad.lock.toNat) := by decide +kernel

theorem witness_TimingBlocks :
    (let s : State := { armed .loaded plan0 with fab.ports := [(0, port0)], w.cad.beatPort := some 0 }
     (s.fab.port 0).working = true ∧ 2 ≤ s.w.cad.lock.toNat ∧ s.w.cad.beatPort = some 0 ∧ s.w.cad.bellwether = false) ∧
    (∀ k < 5, blockOk (mkBlock k (2 ^ 24 - 1) (2 ^ 32 - 1) 1023) = true ∧ blockKind (mkBlock k (2 ^ 24 - 1) (2 ^ 32 - 1) 1023) = k) ∧
    blockOk (mkBlock 0 1 0 0 + 256) = false ∧
    (let s : State := { running .running plan0 1 with fab.ports := [(0, port0)] }
     s.w.cad.bellwether = true ∧ s.w.run.step.isSome = true) := by decide +kernel

/-! ### Witnesses: herd time and steps -/

/-- A firing record (R54): station, operation, MODE 0, TICK 0, and the fields below. -/
def record (station op srcA srcB dst desc count task param : Nat) : W128 :=
  BitVec.ofNat 128 (station * 2 ^ 124 + op * 2 ^ 116 + srcA * 2 ^ 67 + srcB * 2 ^ 61 + dst * 2 ^ 55 + desc * 2 ^ 43 + count * 2 ^ 31 +
    task * 2 ^ 27 + param * 2 ^ 11)

/-- A plan whose core 0 has one CONTROL NOP at tick 0. -/
def planNop : Plan := { plan0 with cores := [(0, { firings := [record 15 0 0 0 0 0 0 0 0] })] }

theorem witness_TicksPass :
    (let s : State := { running .running planNop 3 with w.rel.cls := 1 }
     let u := ({ s with w := { s.w with mem := s.w.mem.remapsDue } } : State).endTick.w.nextTick.sampleLag
     2 ≤ s.w.cad.lock.toNat ∧ s.w.dev.state ≠ .off ∧ s.w.plan = some planNop ∧
     (decide (s.w.dev.state = .running) && s.w.run.step.isSome && !s.w.stopDue) = true ∧ s.w.cad.bellwether = true ∧
     u.cad.slackClk.toNat < u.lag planNop) ∧
    (let s : State := { running .running plan0 3 with w.run.wantStop := true }
     s.w.run.wantStop = true ∧ s.w.run.stopOrigin = none ∧ s.w.run.stopped = false) := by decide +kernel

theorem witness_StretchAndStop :
    (let s : State := { running .running plan0 4 with w.cad.dmax := 1000, w.run.holds := [(3, 256)] }
     s.w.cad.bellwether = true ∧ s.w.run.step.isSome = true ∧ s.w.run.counting = true ∧ s.w.run.nextDecision ≤ 3 ∧
     s.w.run.tick.toNat = 3 + s.decisionLag ∧ (3, 256) ∈ s.w.run.holds) ∧
    (let s : State := { running .running plan0 4 with w.run.stopOrigin := some 4 }
     s.w.stopDue = true ∧ s.w.dev.state ∈ [DevState.loaded, .running, .held]) := by decide +kernel

/-- A herd whose step is accepted, at a tick boundary. -/
def starting : State :=
  { armed .loaded { plan0 with switches := [BitVec.ofNat 64 (2 + 2 ^ 24)] } with
    w.cad.tickCount := 5, w.run.accepted := some { slot := 5, start := 0, since := 4 } }

theorem witness_StepBegins :
    (starting.w.run.accepted = some { slot := 5, start := 0, since := 4 } ∧
      starting.mayStart { slot := 5, start := 0, since := 4 } = true ∧ starting.w.cad.tickClk ≠ 0) ∧
    (let s := running .running { plan0 with switches := [BitVec.ofNat 64 (2 + 2 ^ 24)] } 2
     [BitVec.ofNat 64 (2 + 2 ^ 24)].find? (fun e => bits e 23 0 = s.w.run.tick.toNat) = some (BitVec.ofNat 64 (2 + 2 ^ 24)) ∧
     s.w.run.counting = true ∧ s.w.run.step.isSome = true) := by decide +kernel

/-- A herd that has stopped. -/
def halted (p : Plan) : State :=
  { running .held p 3 with w.run.stopped := true, w.run.counting := false }

/-- An event of core 0. -/
def event0 : StepEvent := { time := 1, core := 0, firing := 0 }

theorem witness_StopDecided :
    (let s : State := { halted plan0 with w.run.abandon := some (0x40, event0) }
     s.w.run.stopped = true ∧ s.w.dev.state = .held ∧ s.allReported [] = true ∧ s.firstAbandon [] = some (0x40, event0) ∧
     s.w.run.step = some step0 ∧ s.w.policy? = none ∧ s.w.run.discarded = [] ∧ mget s.w.dev.results none 5 = some rslot0) ∧
    (let p := { plan0 with regions := [region0 true], commits := [BitVec.ofNat 64 (2 ^ 24)] }
     let s : State := { halted p with w.run.detections := [⟨0, .parity⟩] }
     s.firstAbandon [] = none ∧ s.w.run.detections.isEmpty = false ∧ (s.w.optedOut p).isSome = true ∧ s.w.policy? = none ∧
     s.w.run.discarded = [] ∧ mget s.w.dev.results none 5 = some rslot0) ∧
    (let s : State := { halted plan0 with w.run.detections := [⟨0, .parity⟩] }
     s.firstAbandon [] = none ∧ s.w.optedOut plan0 = none ∧ step0.sinceResume < s.w.rel.replayLimit.toNat ∧ s.w.cad.bellwether = true) ∧
    (let s : State := { halted plan0 with w.run.detections := [⟨0, .parity⟩], w.rel.replayLimit := 0 }
     s.w.rel.replayLimit.toNat ≤ step0.sinceResume) ∧
    ((halted plan0).firstAbandon [] = none ∧ (halted plan0).w.run.detections.isEmpty = true) := by decide +kernel

theorem witness_StepsGoOn :
    (∀ b ∈ [true, false], ∀ a ∈ [true, false],
      let s : State := { running .held plan0 3 with w.run.resumeAt := some 4, w.run.rerun := b, w.rel.replayActive := a }
      s.w.plan = some plan0 ∧ s.w.run.step = some step0 ∧ s.w.run.resumeAt = some 4 ∧ s.w.dev.state = .held ∧
      4 ≤ s.w.cad.tickCount.toNat ∧ s.w.run.rerun = b ∧ s.w.rel.replayActive = a) ∧
    (let s : State := { armed .held plan0 with w.run.resumeAt := some 0 }
     s.w.run.step = none ∧ s.w.run.resumeAt = some 0 ∧ 0 ≤ s.w.cad.tickCount.toNat ∧ s.w.rel.replayActive = false) ∧
    (let s : State := { running .running plan0 3 with w.run.abandon := some (0x40, event0), w.run.faulted := true }
     s.w.run.step = some step0 ∧ (0x40 : Byte).toNat ≠ stDataLost ∧ s.w.cad.offset = 0 ∧ s.w.dev.state = .running) := by decide +kernel

/-- The witness of its clause on a resumption that opens behind the slack. -/
theorem witness_StepsGoOn_lag :
    (let s : State := { running .held planNop 3 with w.run.resumeAt := some 4, w.rel.cls := 1 }
     let r : Run := { s.w.run with
      resumeAt := none, wantStop := false, tick := s.w.run.tick + 1, counting := true, step := some { step0 with sinceResume := 0 } }
     let u := (({ s.w with run := r, dev := { s.w.dev with held := false } } : Work).setState .running .command).sampleLag
     s.w.plan = some planNop ∧ s.w.run.rerun = false ∧ s.w.rel.replayActive = false ∧ s.w.cad.bellwether = true ∧
     s.w.cad.slackClk.toNat < u.lag planNop) := by decide +kernel

theorem witness_StepCommits :
    (let s := running .running plan0 5
     s.w.plan = some plan0 ∧ s.w.run.step = some step0 ∧ s.w.mayCommit plan0 = true ∧ s.w.run.queued = none ∧ plan0.policy = none ∧
     plan0.scales = none ∧ s.w.run.discarded = [] ∧ s.w.changeWaits = false ∧ mget s.w.dev.results none 5 = some rslot0) ∧
    (let s : State := { running .running plan0 5 with w.run.queued := some { slot := 6, start := 0 } }
     s.w.mayCommit plan0 = true ∧ s.w.run.queued.isSome = true) ∧
    (let p := { plan0 with regions := [region0 true, region0 true], commits := [BitVec.ofNat 64 (2 ^ 12)] }
     commitFields (BitVec.ofNat 64 (2 ^ 12)) = (0, 1, 0) ∧ 1 < p.regions.length) := by decide +kernel
/-! ### Witnesses: Cumulus -/

/-- A region of 256 MiB over HBM from address 0, readable and writable. -/
def wide : W128 := BitVec.ofNat 128 (7 + 128 * 2 ^ 67)

/-- A policy (R653): four BF16 pages of one head from 16 MiB, one layer, slot records at 64 MiB, two indirect blocks at 32 MiB,
watermarks 1 and 2, one batch position, the stall list at 48 MiB, two tier pages at 56 MiB; one append entry at step tick 0. -/
def policy0 : Policy :=
  { hdr := BitVec.ofNat 2048 (0x1000000 + 4 * 2 ^ 64 + 1 * 2 ^ 104 + 1 * 2 ^ 112 + 1 * 2 ^ 120 + 0x4000000 * 2 ^ 128 +
      0x2000000 * 2 ^ 192 + 2 * 2 ^ 256 + 1 * 2 ^ 288 + 2 * 2 ^ 320 + 1 * 2 ^ 352 + 1 * 2 ^ 368 + 0x3000000 * 2 ^ 384 +
      0x3800000 * 2 ^ 512 + 2 * 2 ^ 576)
    appends := [0] }

/-- A plan with the policy. -/
def planCum : Plan := { plan0 with regions := [wide], policy := some policy0 }

/-- A module whose slot 0 is open, with HBM as given. -/
def cached (d : DevState) (hbm : List (Nat × List Byte)) : State :=
  { running d planCum 0 with
    w.cum.openSlots := [0]
    w.mem.hbm := hbm.foldl (fun m x => m.write x.1 x.2) {} }

/-- The slot records and layer roots lie in the region. -/
theorem meta_ok (d : DevState) (hbm : List (Nat × List Byte)) : (cached d hbm).w.metaOk policy0 := by
  refine ⟨⟨rfl, rfl⟩, 0, wide, by decide +kernel, by decide +kernel, by decide +kernel, fun a h k => ?_⟩
  have hb : policy0.metaBase = 0x4000000 := by decide +kernel
  have hl : policy0.layers = 1 := by decide +kernel
  rw [hb] at h k
  rw [hl] at k
  have v : Reg.valid wide = true := by decide +kernel
  have b : Reg.vbase wide = 0 := by decide +kernel
  have z : Reg.size wide = 268435456 := by decide +kernel
  have r : Reg.read wide = true := by decide +kernel
  have w : Reg.write wide = true := by decide +kernel
  have n : a < 268435456 := by omega
  constructor <;> simp [Work.permit, cached, running, planCum, Plan.region?, v, b, z, r, w, n]

/-- The slot record and the layer root of slot 0 (R662, R663): BUDGET 4, and the layer's TOKENS, HELD and first entry. -/
def rec0 (tokens held entry : Nat) : List (Nat × List Byte) :=
  [(0x4000000, toLE 1 1 ++ zeros 7 ++ toLE 4 4), (0x4400000, toLE 4 tokens ++ toLE 4 held ++ toLE 8 entry)]

theorem witness_SequencesOpenClose :
    (let s : State := { cached .loaded [] with w.cum.openSlots := [], w.run.step := none }
     s.w.policy? = some policy0 ∧ s.w.dev.state ∈ [DevState.loaded, .running, .held] ∧ 0 ∉ s.w.cum.openSlots ∧ 2 + 3 + 1 ≤ 6) ∧
    (let s := cached .held (rec0 64 1 (2 ^ 24))
     s.w.policy? = some policy0 ∧ 0 ∈ s.w.cum.openSlots ∧ s.w.slotBusy 0 = false ∧ s.w.cum.deferred = [] ∧ s.w.cum.fetchQueue = [] ∧
     s.w.spillWanted policy0 = false ∧ (∀ l < policy0.layers, s.w.tokens policy0 0 l ≤ 1024 ∧ ∀ k ∈ s.w.heldPages policy0 0 l, 64 * k < 1)) ∧
    (let s : State := { cached .running [] with w.cum.batch := [BitVec.ofNat 64 (2 ^ 16)] }
     s.w.slotBusy 0 = true) := by decide +kernel

theorem witness_SequencesOpenClose_meta : (cached .held []).w.metaOk policy0 := meta_ok _ _

theorem witness_SequenceTables :
    (let s := cached .running (rec0 64 1 (2 ^ 24))
     s.w.dev.state ∈ [DevState.loaded, .running, .held] ∧ s.w.policy? = some policy0 ∧ 0 ∈ s.w.cum.openSlots ∧ 0 < policy0.layers ∧
     policy0.layers ≤ 1 ∧ s.w.plan = some planCum) ∧
    (let s : State := { cached .loaded [] with
      w.run.step := none, w.mem.companion := ({} : Memory).write 0x1000 (toLE 8 (2 ^ 16)) }
     8 = 8 * policy0.rows ∧ s.w.batchBad planCum policy0 (words 64 8 policy0.rows (s.w.compRead 0 0x1000 8)) = false) ∧
    (let s : State := { cached .loaded [] with
      w.run.step := none, w.mem.companion := ({} : Memory).write 0x1000 (toLE 8 (2 ^ 16 + 1)) }
     s.w.batchBad planCum policy0 (words 64 8 policy0.rows (s.w.compRead 0 0x1000 8)) = true) ∧
    ((armed .loaded plan0).w.policy? = none ∧ (armed .loaded plan0).w.dev.state ≠ .off) := by decide +kernel

/-- A module that comes to append entry 0 for one position of slot 0 with `n` rows. -/
def appending (n : Nat) (hbm : List (Nat × List Byte)) : State :=
  { cached .running hbm with w.cum.batch := [BitVec.ofNat 64 (2 ^ 16 + n * 2 ^ 32)] }

/-- The hypotheses of `AppendOutcomes` that every case shares. -/
def atAppend (s : State) (b : W64) : Bool :=
  decide (s.w.plan = some planCum) && decide (planCum.policy = some policy0) && decide (policy0.appends[0]? = some 0) &&
  decide (s.w.dev.state = .running) && s.w.run.step.isSome && decide ((appendEnt 0).tick ≤ s.w.run.tick.toNat) &&
  decide (0 ∉ s.w.cum.treated) && decide (s.w.cum.batch = [b]) && bit b 16 && decide (0 < batchAppend b) &&
  decide (s.w.mem.errs = []) && decide (s.w.mem.lost = []) && decide (batchSlot b ∈ s.w.cum.openSlots) && !s.w.evictEn policy0 (batchSlot b)

/-- What `AppendOutcomes` distinguishes: over the budget, enough blocks, new pages, room, free pages. -/
def outcome (s : State) (n : Nat) : Bool × Bool × Nat × Nat × Nat :=
  let c := policy0
  let t := s.w.tokens c 0 0 + n
  let fresh := (List.range (pagesOf t)).filter (pagesOf (s.w.tokens c 0 0) ≤ ·)
  (decide (s.w.budget c 0 < (s.w.heldPages c 0 0).length + fresh.length), decide (s.w.lackBlocks c 0 0 fresh ≤ s.w.freeBlocks c),
   fresh.length, s.w.freePages c + (s.w.spillsComing - s.w.cum.deferred.length) + min (s.w.candidates c).length (s.w.freeTier c),
   s.w.freePages c)

theorem witness_AppendOutcomes :
    (let s : State := { appending 1 (rec0 0 0 0) with w.cum.stalls := [{ slot := 0, pos := 0, layer := 0, status := 0 }] }
     atAppend s (BitVec.ofNat 64 (2 ^ 16 + 2 ^ 32)) = true ∧ s.w.stalled 0 = true) ∧
    (let s := appending 65 (rec0 0 0 0)
     atAppend s (BitVec.ofNat 64 (2 ^ 16 + 65 * 2 ^ 32)) = true ∧ s.w.stalled 0 = false ∧ outcome s 65 = (false, true, 2, 4, 4)) ∧
    (let s := appending 65 []
     atAppend s (BitVec.ofNat 64 (2 ^ 16 + 65 * 2 ^ 32)) = true ∧ outcome s 65 = (true, true, 2, 4, 4)) ∧
    (let m : PageMove := { slot := 1, layer := 0, page := 0 }
     let s : State := { appending 65 (rec0 0 0 0) with w.cum.pages := [0, 1, 2], w.cum.spilling := [m] }
     atAppend s (BitVec.ofNat 64 (2 ^ 16 + 65 * 2 ^ 32)) = true ∧ outcome s 65 = (false, true, 2, 2, 1)) ∧
    (let s : State := { appending 65 (rec0 0 0 0) with w.cum.pages := [0, 1, 2] }
     atAppend s (BitVec.ofNat 64 (2 ^ 16 + 65 * 2 ^ 32)) = true ∧ outcome s 65 = (false, true, 2, 1, 1)) := by decide +kernel

theorem witness_AppendOutcomes_blocks :
    (let s : State := { appending 1 (rec0 1024 0 0) with w.cum.blocks := [0, 1] }
     atAppend s (BitVec.ofNat 64 (2 ^ 16 + 2 ^ 32)) = true ∧ outcome s 1 = (false, false, 1, 4, 4)) ∧
    (let s := appending 1 (rec0 16777216 0 0)
     atAppend s (BitVec.ofNat 64 (2 ^ 16 + 2 ^ 32)) = true ∧ 16777216 < s.w.tokens policy0 0 0 + 1) := by decide +kernel

/-- A page move of page 0 of slot 0. -/
def move0 : PageMove := { slot := 0, layer := 0, page := 0, pool := 1, tier := 1 }

theorem witness_PageMoves :
    (let s : State := { cached .loaded [] with w.cum.deferred := [move0] }
     s.w.policy? = some policy0 ∧ s.w.cum.deferred = [move0] ∧ 0 < s.w.freePages policy0) ∧
    (let here (m : PageMove) : Bool := m.slot = 0 ∧ m.layer = 0 ∧ m.page = 0
     let s : State := { cached .loaded (rec0 64 1 (2 * 2 ^ 24)) with w.cum.filling := [move0] }
     s.w.cum.filling.find? here = some move0 ∧ s.w.cum.fetching.any here = false ∧ s.w.cum.unplaced 0 0 0 = false ∧
     entState (s.w.ent policy0 0 0 0) = 2 ∧ s.w.copyWaits (policy0.pool (entPage (s.w.ent policy0 0 0 0))) policy0.pageBytes = false ∧ move0.rows = [] ∧ 0 < policy0.layers) ∧
    (let here (m : PageMove) : Bool := m.slot = 0 ∧ m.layer = 0 ∧ m.page = 0
     let s : State := { cached .loaded [] with
      w.cum.spilling := [move0], w.cum.fetching := [move0], w.cum.tiers := [1], w.cum.pages := [0, 1, 2] }
     s.w.cum.spilling.find? here = some move0 ∧ s.w.cum.fetching.find? here = some move0 ∧ s.w.cum.deferred = [] ∧
     s.w.cum.fetchQueue = [] ∧ s.w.cum.spillOn = false ∧ s.w.copyWaits (policy0.pool 1) policy0.pageBytes = false ∧
     s.w.copyWaits (policy0.tier 1) policy0.pageBytes = false ∧ s.w.cutOff (policy0.tier 1) = false ∧ policy0.low ≤ s.w.freePages policy0 ∧ s.w.slotSpillable 0 = true ∧ s.w.inProgress 0 = false) := by
  decide +kernel

/-! ### Witnesses: maintenance -/

/-- A scrub of channel 31 of stack 11. -/
def scrub : MaintArgs := { unit := 11, sub := 31 }

/-- An activity of a code in a state. -/
def act (code : Nat) (slot : Option Nat) (st : ActState) : Activity :=
  { code := code, auto := false, slot := slot, args := scrub, state := st }

theorem witness_MaintenanceStarts :
    (maintRow (.hbmScrub 0 scrub {}) = some (0x01, 0, scrub) ∧
      (up .standby).w.dev.state ∈ [DevState.standby, .joined, .loaded, .running, .held]) ∧
    ((up .standby).targetOk 0x01 { unit := 12 } = false ∧ (up .standby).targetOk 0x01 scrub = true) ∧
    (let s : State := { up .standby with w.rel.acts := [act 0x01 (some 1) .running] }
     (s.w.rel.inTheWay 0x01 scrub).isSome = true ∧ s.targetOk 0x01 scrub = true) ∧
    ((up .standby).w.rel.inTheWay 0x01 scrub = none ∧ (up .standby).w.dev.freeSlot = some 0) ∧
    ((up .standby).targetOk 0x0B {} = true ∧ (up .standby).w.rel.inTheWay 0x0B {} = none ∧ (up .standby).sec.pldmBusy = false) := by
  decide +kernel

/-- A corrected line of channel 0 of stack 0. -/
def corrected : BadLine := { line := 0, lost := false }

theorem witness_MaintenanceRuns :
    (let s : State := { up .standby with w.rel.acts := [act 0x06 none .waiting] }
     s.w.rel.acts = [act 0x06 none .waiting] ∧ (act 0x06 none .waiting).state = .waiting) ∧
    (∀ code ∈ [0x01, 0x0B],
      let s : State := { slotted .standby rslot0 with w.rel.acts := [act code (some 5) .running] }
      s.w.rel.acts[0]? = some (act code (some 5) .running) ∧ s.pwr.paused = false ∧ s.advances (act code (some 5) .running) = true ∧
      (code = 0x0B ∨ ({ running .running plan0 33 with w.rel.acts := s.w.rel.acts } : State).advances (act code (some 5) .running) = false) ∧
      mget s.w.dev.results none 5 = some rslot0) ∧
    (∀ b ∈ [true, false],
      let r : Remap := { stack := 11, channel := 31, row := 0, copied := b, due := b, zeroed := if b then [0] else [] }
      let s : State := { up .standby with w.mem.remaps := [r] }
      s.w.mem.remaps = [r] ∧ r.inEffect = false ∧ s.w.cad.offset = 0 ∧ r.zeroed.all (fun l => decide (l = 0)) = true ∧
      (s.w.maintTime 0 && s.quiet 11 31 0) = true) ∧
    ((running .running plan0 33).w.maintTime 0 = false ∧ (running .running plan0 32).w.maintTime 3599 = true ∧
      (running .running plan0 32).w.maintTime 3600 = false) ∧
    (let s : State := { up .standby with w.mem.errs := [corrected] }
     s.w.dev.state ∈ started ∧ s.pwr.paused = false ∧ s.w.mem.errs = [corrected] ∧ corrected.lost = false ∧ s.w.mem.lost = [] ∧
     s.w.rel.acts = [] ∧ s.quiet 0 0 0 = true ∧ s.w.maintTime 0 = true ∧ (s.w.mem.place 0).channel = 0 ∧ (s.w.mem.place 0).stack < 12) := by decide +kernel

theorem witness_MaintenanceAsked :
    (let s : State := { slotted .standby { rslot0 with maint := some (act 0x01 (some 5) .running) } with
      w.rel.acts := [act 0x02 (some 1) .pending] }
     s.w.dev.state ∈ started ∧ s.w.rel.acts[0]? = some (act 0x02 (some 1) .pending) ∧ s.w.rel.acts.length ≤ 1 ∧
     s.w.rel.acts.find? (fun a => a.slot = some 5) = none ∧
     mget s.w.dev.results none 5 = some { rslot0 with maint := some (act 0x01 (some 5) .running) } ∧
     s.w.rel.acts.find? (fun a => a.slot = some 255) = none ∧ mget s.w.dev.results none 255 = none) ∧
    (thresholdOk 0 0 1 3600 0 = true ∧ thresholdOk 0 0 17 3600 0 = false ∧
      (up .loaded).w.dev.state ∈ [DevState.standby, .joined, .loaded]) := by decide +kernel

theorem witness_SelfChecks :
    (let s := running .running plan0 1023
     127 < s.w.rel.cls ∧ s.w.run.step.isSome = true ∧ s.w.dev.state = .running ∧ s.w.run.tick.toNat % 1024 = 1023) ∧
    (let s : State := { up .standby with w.cad.tickCount := 1023 }
     s.w.dev.state ∈ started ∧ s.w.run.step = none ∧ s.w.cad.tickCount.toNat % 1024 = 1023) ∧
    (running .running plan0 1022).w.run.tick.toNat % 1024 ≠ 1023 ∧ (up .standby).w.cad.tickCount.toNat % 1024 ≠ 1023 := by decide +kernel

/-! ### Witnesses: security and management -/

/-- An owner key of P-384, made apart from the model. -/
def key0 : OwnerKey :=
  { keyId := 1
    x := 0xbfd152465458e5b9f1a903eafef03095ebfd52c5f9ea97be74de9194355fcfb40ec097315adf6afdefba21f44b625b48
    y := 0x17058eff9a1ad175a4675e9c730cb028ec76aec544f7a56d58164d8cfc0402b489c4e74c918dc3a77f5c219d31b8e245 }

/-- A block that removes the key of slot 0 under nonce 7, signed apart from the model by the key's owner. -/
def removal : List Byte :=
  toLE 16 1 ++ toLE 104 7 ++
  toLE 48 0x8121ac2577caa610831c5c346f86dfcf8abef0b0aeef354b9d8aff1fc686101554ed9a77f57ba6eabef9f34bafb67503 ++
  toLE 48 0xd284964dcfc3b2e1e0a56206ff4f49d203ec037487449a6c80f9b637e03979f2f08a158c1ae8c0cec01def26be2a6973

/-- A block that installs that key in slot 0. -/
def install : List Byte := toLE 8 0 ++ toLE 16 1 ++ toLE 48 key0.x ++ toLE 48 key0.y

/-- STANDBY with a block in companion memory, nonce 7 and the keys given. -/
def keyed (ks : SMap (Option OwnerKey)) (bs : List Byte) : State :=
  { up .standby with sec.keys := ks, sec.ownerNonce := 7, w.mem.companion := ({} : Memory).write 0x1000 bs }

theorem witness_OwnerKeysChanged :
    (let s := keyed [] install
     let b := keyBlock (s.w.compRead 0 0x1000 256)
     s.w.dev.state = .standby ∧ s.w.dev.freeSlot = some 0 ∧ b.op = 0 ∧ s.sec.authorised b = true ∧ (s.sec.installKey b).isSome = true) ∧
    (let s := keyed [(0, some key0)] removal
     let b := keyBlock (s.w.compRead 0 0x1000 256)
     b.op = 1 ∧ s.sec.authorised b = true ∧ (s.sec.removeKey b).isSome = true) ∧
    (let s := keyed [] [2]
     let b := keyBlock (s.w.compRead 0 0x1000 256)
     b.op = 2 ∧ s.sec.authorised b = true ∧ (s.sec.setRequire b).isSome = true) ∧
    (let s := keyed [(1, some key0)] install
     let b := keyBlock (s.w.compRead 0 0x1000 256)
     b.op = 0 ∧ s.sec.authorised b = false) ∧
    (let s := keyed [] [1]
     let b := keyBlock (s.w.compRead 0 0x1000 256)
     b.op = 1 ∧ s.sec.authorised b = true ∧ (s.sec.removeKey b).isNone = true) ∧
    3 ≤ (keyBlock ((keyed [] [3]).w.compRead 0 0x1000 256)).op := by decide +kernel

theorem witness_DebugAndFirmware :
    (∀ d ∈ [Debug.sealed, .unlocked, .locked],
      let s : State := { up .standby with sec.debug := d }
      s.w.dev.state = .standby ∧ s.w.dev.freeSlot = some 0 ∧ s.sec.debug = d ∧ cleanBoot {} = true ∧
      s.sec.bootable {} s.sec.activeB = true ∧ s.sec.unlockNext = false) ∧
    (∀ k < 12, 16 ≤ (((up .standby).w.mem.rebooted true).activeList k).length) ∧
    (let s : State := { up .standby with sec.slotB := some { version := 2, svn := 1 } }
     ∀ b ∈ [true, false], s.holdsSlot b = false ∧ (s.sec.reverify b).isSome = true) ∧
    ((up .standby).holdsSlot true = false ∧ (up .standby).sec.reverify true = none) := by decide +kernel

theorem witness_ManagementAnswers :
    ((up .fault).w.dev.state ∈ started ∧ (up .fault).w.dev.freeSlot = some 0 ∧ (up .fault).w.dev.linkUp = true ∧
      (up .fault).w.dev.noteEnable = false) ∧
    ((up .standby).w.dev.state ∈ [DevState.standby, .joined, .loaded, .running, .held] ∧ (up .standby).w.net.upq = [] ∧
      (channelsOf ((up .standby).fab.uplink 3).rx).length < 1024 ∧ ((up .standby).fab.uplink 3).txUse ≠ some 3) ∧
    (let s : State := { up .standby with fab.uplinks := [(3, { txUse := some 3 })] }
     (s.fab.uplink 3).txUse = some 3) ∧
    (let s : State := { up .standby with pwr.aliveN := false, sec.pldmBusy := true, sec.pldmDone := true, sec.slotB := some {} }
     s.pwr.aliveN = false ∧ s.sec.pldmBusy = true ∧ s.sec.pldmDone = true ∧ (s.sec.reverify (!s.sec.bootB)).isSome = true ∧
     s.sensor 1 = some 0 ∧ s.sensor 65535 = none) := by decide +kernel
/-! ### Witnesses: firings -/

/-- A plan of one firing on core 0, with a 2 × 2 BF16 tensor at 64 KiB, stream 0 of task 0 with two slots of 8 KiB, and a
route set whose slot 0 leads to core 3, stream 5 of member 0. -/
def planOf (rs : List W128) : Plan :=
  { plan0 with
    cores := [(0, { firings := rs, streams := [BitVec.ofNat 64 (8192 * 2 ^ 26 + 2 ^ 42)] })]
    descs := [desc 0x10000 9 0 [2, 2] [1, 2]]
    regions := [wide]
    routes := [{ valid := true, slots := [BitVec.ofNat 128 (3 * 2 ^ 21 + 5 * 2 ^ 28)] }] }

/-- A module whose step of such a plan runs, task 0 of core 0 having 64 KiB; core 0 as given besides. -/
def firing (p : Plan) (c : Core) : State :=
  { running .running p 1 with w.cores := [(0, { c with taskBound := [(0, 16)] })], w.rel.cls := 1 }

/-- A full slot at the front of stream 0. -/
def full0 : Core := { slots := [(0, { phase := .full, mask := 3 })] }

/-- The moment of a firing, with nothing met. -/
def calm : Env := { clk := 10 }

/-- A BF16 element is loaded where its descriptor puts it: row 1, column 0 of the tile is element 2 of the tensor. -/
theorem test_copy_in_places :
    (let s : State := { firing (planOf [record 0 1 0 0 0 0 1 0 0]) {} with w.mem.hbm := ({} : Memory).write 0x10004 (bytes [0xCD, 0xAB]) }
     match exec (.copyIn 0 0 calm) s with
     | .next t => ((t.w.core 0).ls.readN 128 2, ((t.w.core 0).slot 0 0).phase, ((t.w.core 0).slot 0 0).mask)
     | _ => ([], .empty, 0)) = (bytes [0xCD, 0xAB], .full, 3) := by decide +kernel

/-- COPY_IN_T puts the same element at row 0, column 1. -/
theorem test_copy_in_t_places :
    (let s : State := { firing (planOf [record 0 2 0 0 0 0 1 0 0]) {} with w.mem.hbm := ({} : Memory).write 0x10004 (bytes [0xCD, 0xAB]) }
     match exec (.copyInT 0 0 calm) s with
     | .next t => (t.w.core 0).ls.readN 2 2
     | _ => []) = bytes [0xCD, 0xAB] := by decide +kernel

/-- COPY_OUT stores row 1, column 0 of the stream tile as element 2 of the tensor. -/
theorem test_copy_out_places :
    (let s := firing (planOf [record 1 1 0 0 0 0 1 0 0]) { full0 with ls := ({} : Memory).write 128 (bytes [0xCD, 0xAB]) }
     match exec (.copyOut 0 0 calm) s with
     | .next t => (t.w.mem.hbm.readN 0x10004 2, ((t.w.core 0).slot 0 0).phase)
     | _ => ([], .full)) = (bytes [0xCD, 0xAB], .empty) := by decide +kernel

/-- A section of core 0 with one MERGE list of one item, opened. -/
def planList : Plan :=
  { plan0 with
    cores := [(0, { firings := [BitVec.ofNat 128 (15 * 2 ^ 124 + 1 * 2 ^ 116 + 7 * 2 ^ 61 + 2 ^ (11 + 2)),
      BitVec.ofNat 128 (2 * 2 ^ 124 + 1 * 2 ^ 116 + 1 * 2 ^ 114)] })]
    sections := [{ number := 7, members := 1, lists := [0] }], lists := [{ kind := 1, items := [0] }]
    descs := [desc 0x10000 9 0 [2, 2] [1, 2]], regions := [wide] }

/-- That section open on core 0, its list as given. -/
def opened (next retired : Nat) (c : Core) : State :=
  { firing planList { c with issued := 0 :: c.issued, retired := 0 :: c.retired } with
    w.run.sections := [{ number := 7, opened := 1, lists := [(0, next, retired)] }] }

theorem witness_FiringsRun :
    (tileRow (.copyIn 0 0 calm) = some (0, 0, calm, 0, 1) ∧ tileRow (.put 0 0 calm) = some (0, 0, calm, 8, 1) ∧ quietEnv calm = true) ∧
    (∀ station ∈ [0, 8],
      let r := record station 1 0 0 0 0 1 0 0
      let p := planOf [r]
      let s := firing p full0
      s.w.plan = some p ∧ p.firing? 0 0 = some r ∧ s.w.issuable p 0 0 r calm.clk = true ∧ Rec.trace r = false ∧
      (s.w.lateBy (Rec.tick r) 0 calm.clk).isSome = true) ∧
    (let p := planOf [record 0 1 0 0 0 0 1 0 0]
     let s := firing p { issued := [0] }
     s.w.issuable p 0 0 (record 0 1 0 0 0 0 1 0 0) calm.clk = false ∧ s.w.net.upq = []) ∧
    (let s := firing (planOf [record 0 1 0 0 0 0 1 0 0]) { free := [(0, 11)] }
     s.w.now calm.clk = 10 ∧ mget (s.w.core 0).free 0 0 = 11) := by decide +kernel

/-- The witness of its clause on the items a firing takes: a list with an item left, and one with none. -/
theorem witness_FiringsRun_items :
    ∀ n ∈ [0, 1],
      let s := opened n 0 {}
      let r := (planList.firing? 0 1).getD 0
      planList.firing? 0 1 = some r ∧ Rec.station r = 2 ∧ Rec.op r = 1 ∧ itemRow (.decode 0 1 calm) = some (0, 1, calm, 2, 1) ∧
        s.w.issuable planList 0 1 r calm.clk = true ∧
        (((s.w.start 0 1 r calm {}).takeItem planList 0 1 r).progAt { core := 0, firing := 1, time := 0 }).item =
          if n = 0 then some (0, 0) else none := by decide +kernel

/-- A CONTROL record: operation and PARAM. -/
def ctl (op param : Nat) : W128 := record 15 op 0 0 0 0 1 0 param

/-- A SECTION_OPEN of section 7. -/
def open7 : W128 := BitVec.ofNat 128 (15 * 2 ^ 124 + 1 * 2 ^ 116 + 7 * 2 ^ 61 + 100 * 2 ^ 31)

theorem witness_ControlFirings :
    (∀ k < 5,
      let r := [ctl 0 0, open7, ctl 3 0, ctl 3 31, ctl 3 47].getD k 0
      let p := planOf [r]
      let s := firing p {}
      s.w.plan = some p ∧ p.firing? 0 0 = some r ∧ Rec.station r = 15 ∧ s.w.issuable p 0 0 r calm.clk = true ∧
      quietEnv calm = true ∧ Rec.trace r = false ∧ Rec.notify r = false ∧ (p.tensor (Rec.desc r)).extent < 2 ^ 56) ∧
    (Rec.op (ctl 0 0) = 0 ∧ Rec.op open7 = 1 ∧ Rec.op (ctl 3 0) = 3 ∧ Rec.action (ctl 3 0) = 0 ∧ Rec.action (ctl 3 31) = 1 ∧
      Rec.action (ctl 3 47) = 2 ∧ Rec.stage (ctl 3 47) = 15) ∧
    (let s := firing (planOf [open7]) {}
     s.w.run.sec? 7 = none) ∧
    ((opened 0 0 {}).w.run.sec? 7).isSome = true ∧
    (let n := ((planOf [ctl 3 47]).tensor 0).extent
     let s : State := { firing (planOf [ctl 3 47]) {} with w.stages.live := [(15, BitVec.ofNat 56 n)] }
     n ≤ (mget s.w.stages.live 0 15).toNat ∧ (mget s.w.stages.live 0 14).toNat < n ∧ s.w.stages.underflow = false) := by decide +kernel

/-- A SECTION_OPEN opens its section on its core, due at its declared end. -/
theorem test_section_open :
    (match exec (.sectionOpen 0 0 calm) (firing (planOf [open7]) {}) with
     | .next t => t.w.run.sections
     | _ => []) = [{ number := 7, opened := 1, due := 100 }] := by decide +kernel

/-- The record of COPY_IN (operation 1) or COPY_IN_T (operation 2) of tile 0 of the tensor into stream 0. -/
def inRec (op : Nat) : W128 := record 0 op 0 0 0 0 1 0 0

/-- The plan of that firing. -/
def inPlan (op : Nat) : Plan := planOf [inRec op]

/-- Its tensor. -/
def inTensor : Tensor := (inPlan 1).tensor 0

/-- The runs of addresses the firing reads are each of one region that permits the read, whichever way it is turned. -/
theorem loads_permitted :
    (cutRuns ((inPlan 1).loadAddrs inTensor false 0 (((inPlan 1).core 0).weightStream 0))).all
      (fun q => decide ((firing (inPlan 1) {}).w.permit q.1 false = some (0, wide))) = true ∧
    (cutRuns ((inPlan 1).loadAddrs inTensor true 0 (((inPlan 1).core 0).weightStream 0))).all
      (fun q => decide ((firing (inPlan 1) {}).w.permit q.1 false = some (0, wide))) = true := by decide +kernel

/-- The module with the firing issued. -/
def tileLoading : Work :=
  let s := firing (inPlan 1) {}
  s.w.start 0 0 (inRec 1) calm ((loadJob s.fab false (inPlan 1) (inRec 1) { core := 0, firing := 0, time := s.w.now calm.clk }).times s.w)

/-- The firing has a tile with nothing wrong in it, of 8 KiB. -/
theorem loads_tile :
    ((inPlan 1).loadTile inTensor false 0 (((inPlan 1).core 0).weightStream 0) tileLoading.devByte).1 = [] ∧
    ((inPlan 1).loadTile inTensor false 0 (((inPlan 1).core 0).weightStream 0) tileLoading.devByte).2.2.length = 8192 := by
  decide +kernel

/-- The firing can issue, with nothing amiss in the module and room for its tile. -/
theorem loads_issuable :
    (let s := firing (inPlan 1) {}
     let a : At := { core := 0, firing := 0, time := s.w.now calm.clk }
     s.w.plan = some (inPlan 1) ∧ (inPlan 1).firing? 0 0 = some (inRec 1) ∧ Rec.station (inRec 1) = 0 ∧ Rec.op (inRec 1) = 1 ∧
      Rec.count (inRec 1) = 1 ∧ Rec.trace (inRec 1) = false ∧ s.w.issuable (inPlan 1) 0 0 (inRec 1) calm.clk = true ∧
      (s.w.core 0).progOf 0 = none ∧ s.w.mem.errs = [] ∧ s.w.mem.lost = [] ∧ s.w.dev.linkUp = true ∧
      tileLoading.room (inPlan 1) a 0 0 inTensor.slotUse = none ∧
      ((inPlan 1).stream 0 0).slotOff 0 + 8192 ≤ ((s.w.core 0).window ((inPlan 1).stream 0 0).task).2) ∧
    (let s := firing (inPlan 2) {}
     s.w.plan = some (inPlan 2) ∧ (inPlan 2).firing? 0 0 = some (inRec 2) ∧ Rec.op (inRec 2) = 2 ∧
      s.w.issuable (inPlan 2) 0 0 (inRec 2) calm.clk = true) := by decide +kernel

theorem witness_TilesLoaded :
    ∃ (p : Plan) (s : State) (r : Rec) (w : Work), s.w.plan = some p ∧ p.firing? 0 0 = some r ∧ Rec.station r = 0 ∧ Rec.op r = 1 ∧
      Rec.count r = 1 ∧ Rec.trace r = false ∧ quietEnv calm = true ∧ s.w.issuable p 0 0 r calm.clk = true ∧
      (s.w.core 0).progOf 0 = none ∧ s.w.mem.errs = [] ∧ s.w.mem.lost = [] ∧ s.w.dev.linkUp = true ∧
      (∀ q ∈ cutRuns (p.loadAddrs inTensor false 0 ((p.core 0).weightStream 0)),
        ∃ i g, s.w.permit q.1 false = some (i, g) ∧ Reg.target g = 0) ∧
      (let a : At := { core := 0, firing := 0, time := s.w.now calm.clk }
       w = s.w.start 0 0 r calm ((loadJob s.fab false p r a).times s.w) ∧
       (p.loadTile inTensor false 0 ((p.core 0).weightStream 0) w.devByte).1 = [] ∧ w.room p a 0 0 inTensor.slotUse = none ∧
       (p.stream 0 0).slotOff 0 + (p.loadTile inTensor false 0 ((p.core 0).weightStream 0) w.devByte).2.2.length ≤
         ((s.w.core 0).window (p.stream 0 0).task).2) := by
  obtain ⟨⟨h1, h2, h3, h4, h5, h6, h7, h8, h9, h10, h11, h12, h13⟩, -⟩ := loads_issuable
  refine ⟨inPlan 1, firing (inPlan 1) {}, inRec 1, tileLoading, h1, h2, h3, h4, h5, h6, by decide, h7, h8, h9, h10, h11,
    fun q hq => ⟨0, wide, ?_, by decide⟩, rfl, loads_tile.1, h12, (congrArg (((inPlan 1).stream 0 0).slotOff 0 + ·) loads_tile.2).trans_le h13⟩
  exact of_decide_eq_true (List.all_eq_true.1 loads_permitted.1 q hq)

theorem witness_TilesStored :
    (let r := record 1 1 0 0 0 0 1 0 0
     let p := planOf [r]
     let s := firing p full0
     let T := p.tensor 0
     let c := s.w.core 0
     let m := p.stream 0 0
     let n := T.tf.bytes + T.sideBytes
     let rows := T.tilePuts T.innerT 0 (unpackTile T.tf (c.ls.readN 0 n))
     s.w.plan = some p ∧ p.firing? 0 0 = some r ∧ Rec.station r = 1 ∧ Rec.op r = 1 ∧ Rec.count r = 1 ∧ Rec.trace r = false ∧
     s.w.issuable p 0 0 r calm.clk = true ∧ c.progOf 0 = none ∧ s.w.mem.errs = [] ∧ s.w.mem.lost = [] ∧ s.w.mem.remaps = [] ∧
     T.twoFour = false ∧ T.outlier = false ∧ (c.slot 0 0).phase = .full ∧ (c.window m.task).1 + m.slotOff 0 = 0 ∧
     (let a : At := { core := 0, firing := 0, time := s.w.now calm.clk }
      let at1 := ((s.w.start 0 0 r calm ((storeJob s.fab p r a).times s.w)).useOf a false 0 0).start
      (c.slot 0 0).since ≤ at1 ∧ c.blocked 0 0 n false at1 = none) ∧ s.w.run.landed = [] ∧
     m.slotOff 0 + n ≤ (c.window m.task).2 ∧ c.lsBad = [] ∧ Reg.target wide = 0 ∧
     ∀ ps ∈ rows, ∀ q ∈ ps, s.w.permit q.addr true = some (0, wide)) ∧
    (let s := firing (planOf []) {}
     let ps : List Put := [⟨0x10000, 0xFF, 1⟩, ⟨0xFFFFFFF, 0x0F, 2⟩]
     s.w.mem.errs = [] ∧ s.w.mem.lost = [] ∧ s.w.run.landed = [] ∧ (∀ q ∈ ps, s.w.permit q.addr true = some (0, wide)) ∧
     ps.Pairwise (fun q q' => q.addr ≠ q'.addr)) := by decide +kernel

theorem witness_TalliesExact :
    (let q : Partial := { v := ⟨1, -96⟩, c := -96 }
     let x : Cell := {}
     let lim := min (x.top.toInt + 38) q.v.e
     x.ovf = false ∧ q.inexact = false ∧
     (q.v.n.natAbs : Int) * (2 ^ (q.v.e - lim).toNat : Nat) ≤ (1 : Int) * (2 ^ (x.top.toInt + 38 - lim).toNat : Nat) ∧
     q.v.eq ⟨1, x.top.toInt - 96⟩ = true ∧ -(2 ^ 159 : Int) ≤ x.t.toInt + 1 ∧ x.t.toInt + 1 < 2 ^ 159 ∧ x.resOk = true) ∧
    (let q : Partial := { v := ⟨2 ^ 38 + 1, 0⟩, c := 0 }
     let lim := min 38 q.v.e
     q.v.n ≠ 0 ∧ ¬ (q.v.n.natAbs : Int) * (2 ^ (q.v.e - lim).toNat : Nat) ≤ (1 : Int) * (2 ^ (38 - lim).toNat : Nat)) ∧
    (let t := tensor (desc 0x10000 9 0 [200, 2] [1, 200])
     let e : WElem := ⟨199, 3, 127, 0⟩
     t.g = 0 ∧ 0 < 128 ∧ e.e = 127 ∧ e.pos < t.s 0) ∧
    (let r := record 5 2 0 0 0 0 1 0 (9 * 2 ^ 8)
     let p := planOf [r]
     let s := firing p {}
     s.w.plan = some p ∧ p.firing? 0 0 = some r ∧ Rec.station r = 5 ∧ Rec.op r = 2 ∧ Rec.trace r = false ∧
     s.w.issuable p 0 0 r calm.clk = true ∧ (s.w.core 0).progOf 0 = none ∧ (s.w.core 0).prog = [] ∧ tallyArrays r = [0, 3]) := by
  decide +kernel

/-- What CLEAR of arrays 0 and 3 does to a full cell and to its row: all zero, valid, and array 1 stays (R494). -/
theorem test_clear :
    (let r := record 5 2 0 0 0 0 1 0 (9 * 2 ^ 8)
     let s := firing (planOf [r]) { cells := [(5, { t := 9 }), (4096 + 5, { t := 9 })], rows := [(0, { kpos := 4 })] }
     match exec (.clear 0 0 calm) s with
     | .next t => ((mget (t.w.core 0).cells {} 5).t, (mget (t.w.core 0).cells {} (4096 + 5)).t, (t.w.core 0).trow 0 0)
     | _ => (1, 1, {})) = (0, 9, { valid := true, kpos := 0 }) := by decide +kernel

theorem witness_TilesTravel :
    (let r := record 8 1 0 0 0 0 1 0 0
     let p := planOf [r]
     let s := firing p full0
     let n := (p.tensor 0).slotUse
     let sl := (p.route s.w.run.activeSet.toNat).slots.getD 0 0
     (p.route s.w.run.activeSet.toNat).slots[0]? = some sl ∧ s.w.plan = some p ∧ p.firing? 0 0 = some r ∧ Rec.count r = 1 ∧ Rec.trace r = false ∧
       s.w.issuable p 0 0 r calm.clk = true ∧ (s.w.core 0).progOf 0 = none ∧ s.w.net.upq = [] ∧ s.w.run.sets = [] ∧ Rec.station r = 8 ∧
       Rec.op r = 1 ∧ slotKind sl = 0 ∧ slotDest sl = s.fab.member.toNat ∧ ((s.w.core 0).slot 0 0).phase = .full ∧
       (let a : At := { core := 0, firing := 0, time := s.w.now calm.clk }
        let at1 := ((s.w.start 0 0 r calm ((putJob s.fab p r a).times s.w)).useOf a false 0 0).start
        ((s.w.core 0).slot 0 0).since ≤ at1 ∧ (s.w.core 0).blocked 0 0 n false at1 = none) ∧
       (let a : At := { core := 0, firing := 0, time := s.w.now calm.clk }
        s.w.noCredit s.fab p sl (8 + n) ((s.w.start 0 0 r calm ((putJob s.fab p r a).times s.w)).useOf a false 0 0).start = false) ∧ (p.stream 0 0).slotOff 0 + n ≤ ((s.w.core 0).window 0).2 ∧ (s.w.core 0).lsBad = []) := by decide +kernel

/-- Stream 0 of core 0 with `b` bytes received. -/
def arrived (b : List Byte) : State := { firing (planOf [record 9 1 0 0 0 0 1 0 0]) {} with w.net.rx := [{ core := 0, stream := 0, bytes := b }] }

/-- The witness of its clauses on TAKE, whatever bytes have come: 8200 are a tile and its mask, 8199 are not. -/
theorem witness_TilesTravel_take (b : List Byte) :
    let r := record 9 1 0 0 0 0 1 0 0
    let p := planOf [r]
    let s := arrived b
    (p.tensor 0).slotUse = 8192 ∧ s.w.plan = some p ∧ s.w.issuable p 0 0 r calm.clk = true ∧ Rec.station r = 9 ∧ Rec.op r = 1 ∧
      s.w.net.rx.find? (fun x => decide (x.core = 0 ∧ x.stream = 0)) = some { core := 0, stream := 0, bytes := b } ∧
      (p.stream 0 0).slotOff 0 + 8192 ≤ ((s.w.core 0).window 0).2 ∧
      Rec.count r = 1 ∧ (s.w.core 0).progOf 0 = none ∧ s.w.net.upq = [] ∧ s.w.run.sets = [] :=
  ⟨by decide +kernel, rfl, (Work.issuable_rx _ _ _ _ _ _ _).trans (by decide +kernel), by decide +kernel, by decide +kernel, rfl, Nat.le_of_ble_eq_true rfl, by decide +kernel, rfl, rfl, rfl⟩

/-- With them the stream has room for the tile, at the clk at which it comes. -/
theorem witness_TilesTravel_room :
    (let r := record 9 1 0 0 0 0 1 0 0
     let s := arrived (zeros 8200)
     let a : At := { core := 0, firing := 0, time := s.w.now calm.clk }
     (s.w.start 0 0 r calm {}).room (planOf [r]) a 0 0 8192 = none) := by decide +kernel

/-! ### Witnesses: elastic work, stalls, the end of firings -/

/-- A firing in progress. -/
def prog1 : Prog := { idx := 1, issued := 0, late := 0 }

/-- A piece of lane work. -/
def piece (k : Nat) : Piece := { num := k, firing := 1, row := 0, seg := 0, noSteal := false, parts := [], products := 3 }

/-- The cache's plan with an ATTEND FORWARD firing whose list has one item that names batch position 0. -/
def planPaged : Plan :=
  { planCum with
    cores := [(0, { firings := [record 6 1 0 0 0 0 1 0 0] })]
    lists := [{ kind := 2, items := [BitVec.ofNat 512 (2 ^ 152)] }] }

theorem witness_ElasticWork :
    ((opened 1 1 { issued := [1], retired := [1] }).w.plan = some planList ∧
      (opened 1 1 { issued := [1], retired := [1] }).w.mayClose planList 7 = true ∧ (opened 0 0 {}).w.mayClose planList 7 = false) ∧
    (∀ n ∈ [0, 1],
      let s := opened n 0 { prog := [prog1] }
      let r := (planList.firing? 0 1).getD 0
      planList.firing? 0 1 = some r ∧ (s.w.core 0).progOf 1 = some prog1 ∧ (itemJobOf s.fab r).isSome = true ∧ Rec.param r = 0 ∧
        s.w.nextItem planList 0 1 r = (if n = 0 then some (7, 0) else none) ∧ (planList.core 0).sectionOf 1 = some 7 ∧
        ((s.w.run.sec? 7).bind (·.list? 0)) = some (0, n, 0)) ∧
    (let c : Core := { queues := [(1, [piece 0, piece 1])] }
     c.lane 0 = none ∧ c.queue 0 = [] ∧
      (neighbours 0).findSome? (fun n => (stealable (c.queue n)).map (fun x => (n, x))) = some (1, piece 1)) ∧
    (let c : Core := { lanes := [(0, some (piece 0))] }
     c.lane 0 = some (piece 0) ∧ c.progOf 1 = none) ∧
    (∀ k ∈ [0, 5],
      -- a LANE_MAC firing behind a firing that reads no tallies, or behind a DRAIN that has still to read them
      let p : Plan := { planOf [record k 1 0 0 0 0 1 0 (2 ^ 8), record 2 4 0 0 0 0 1 0 0] with lists := [{ kind := 1, items := [0] }] }
      let s := firing p { lanes := [(0, some (piece 0))] }
      (s.w.core 0).lane 0 = some (piece 0) ∧ s.w.pieceWaits p 0 (piece 0) = decide (k = 5)) := by decide +kernel

theorem witness_ElasticWork_page :
    (let s : State := { cached .running (rec0 64 1 (2 ^ 24)) with
      w.plan := some planPaged, w.cum.batch := [BitVec.ofNat 64 (2 ^ 16)] }
     let x : Prog := { prog1 with idx := 0, item := some (0, 0), stall := some .page }
     let r := (planPaged.firing? 0 0).getD 0
     planPaged.firing? 0 0 = some r ∧ Rec.station r = 6 ∧ s.w.pageCame planPaged x = true) := by decide +kernel

/-- A firing of core 0 in progress. -/
def inWork (r : W128) (c : Core) (x : Prog) : State := firing (planOf [r]) { c with issued := [0], prog := [x] }

theorem witness_StallsAndRetires :
    (∀ k < 2,
      let x : Prog := { idx := 0, issued := 0, late := 0, stall := some .peer }
      let r := [record 5 2 0 0 0 0 1 0 (9 * 2 ^ 8), record 9 1 0 0 0 0 1 0 0].getD k 0
      let p : Plan := { planOf [r] with cores := [(0, { firings := [r], streams := [BitVec.ofNat 64 (8192 * 2 ^ 26 + 2 ^ 42 + 9 * 2 ^ 48)] })] }
      let s := firing p { issued := [0], prog := [x] }
      s.w.plan = some p ∧ p.firing? 0 0 = some r ∧ (s.w.core 0).progOf 0 = some x ∧ x.released = true ∧ s.w.net.upq = [] ∧
      (let w1 := s.w.observe 0 calm
       let w2 := w1.modCore 0 (fun c => ((w1.idleUp 0 (w1.now calm.clk) c).postpone 0 (Rec.station r) 5).modProg 0 (fun y => y))
       x.moved (((w2.goOn s.fab p r { core := 0, firing := 0, time := w1.now calm.clk }).core 0).progOf 0) = decide (k = 0) ∧
       (k = 0 ∨ w1.fromPeer p 0 (Rec.dst r) = true) ∧ (s.w.core 0).prog = [x] ∧ w1.stepping = true ∧ w1.run.rerun = false ∧ w1.heldSince = none ∧ s.w.run.tick.toNat % 64 ≠ 32 ∧
       calm.clk ≤ s.w.period ∧ s.w.cad.time ≤ max (s.w.core 0).idleFrom x.stallFrom)) ∧
    (let p := planOf [record 0 1 0 0 0 0 1 0 0 + 2 ^ 3]
     let x : Prog := { idx := 0, issued := 0, late := 0, done := true }
     let s : State := { inWork (record 0 1 0 0 0 0 1 0 0 + 2 ^ 3) {} x with w.dev.noteEnable := true, w.dev.noteLog2 := 4 }
     s.w.plan = some p ∧ (s.w.core 0).progOf 0 = some x ∧ x.stall = none ∧ max x.ends x.doneAt ≤ s.w.now calm.clk ∧
     (let y : Prog := { x with doneAt := 11 }
      s.w.now calm.clk < max y.ends y.doneAt) ∧ s.w.dev.linkUp = true ∧ s.w.dev.noteCount < s.w.dev.noteEntries ∧
     ((p.firing? 0 0).map Rec.notify) = some true ∧ ((p.firing? 0 0).map Rec.trace) = some false) := by
  decide +kernel

/-! ### Witnesses: fabric and links -/

/-- A member of a herd of four along x, one port up on bond 0. -/
def herd4 (s : State) (member : Nat) : State :=
  { s with fab := { s.fab with xM1 := 3, joined := true, member := BitVec.ofNat 10 member, ports := [(0, port0)] } }

/-- A data flit (R746) for core 3, stream 5 of member 2: TYPE 1, DEST 2, CORE 3, STREAM 5, LEN 1, with its CRC. -/
def flit2 : Flit := mkFlit (1 + 2 * 2 ^ 4 + 3 * 2 ^ 14 + 5 * 2 ^ 21 + 1 * 2 ^ 35) (bytes [0xAB, 0xCD])

theorem witness_FlitsAndPeers :
    (((up .joined).fab.port 0).masked = true ∧ ((herd4 (up .joined) 2).fab.port 0).masked = false ∧
      flitOk { flit2 with hdr := flit2.hdr + 2 ^ 60 } = false) ∧
    (flitOk flit2 = true ∧ bits flit2.hdr 3 0 = 1 ∧ bits flit2.hdr 13 4 = (herd4 (up .joined) 2).fab.member.toNat) ∧
    (let f := (herd4 (up .joined) 1).fab
     f.nextBond 1 2 (bits flit2.hdr 29 27) (bits flit2.hdr 32 30) = some 0 ∧ f.portFor 0 (f.port 0).bondIndex.toNat = some 0) ∧
    (hbmBytes < 2 ^ 40 + 1 ∧ 64 + 32 ≤ hbmBytes ∧ (herd4 (up .joined) 0).fab.joined = true) ∧
    (let a : UAcc := { channel := 5, cls := 0, write := false, addr := 64, len := 8, data := [], peer := 1, tag := 3 }
     let m : MemSys := { waiting := [{ a with cls := 2, tag := 1 }, a] }
     m.granted 5 = some a ∧ (up .joined).refreshing 5 0 = false ∧ (up .joined).refreshing 5 1799 = true ∧ (up .joined).refreshing 5 1800 = false ∧
     (up .joined).refreshing ((up .joined).w.mem.channelOf 64) 0 = false ∧ (up .joined).w.mem.errs = [] ∧ (up .joined).w.mem.lost = [] ∧ (up .joined).w.hostSpoils 64 8 = false ∧ ((up .joined).w.rebar { a with cls := 2, write := true }).2.barred = []) ∧
    (let q : Req := { tag := 3, peer := 1, addr := 64, len := 8, write := false, core := 0, firing := 0, region := 0 }
     let s : State := { inWork (record 0 1 0 0 0 0 1 0 0) {} { idx := 0, issued := 0, late := 0, tags := [3], stall := some .peer } with w.mem.reqs := [q] }
     s.w.mem.reqs.find? (fun q => decide (q.tag = 3)) = some q ∧ s.w.mem.reqs.find? (fun q => decide (q.tag = 4)) = none ∧
     s.w.net.upq = [] ∧ ((s.w.core 0).progOf 0).isSome = true) := by decide +kernel

/-- An unscheduled packet's only flit (R746): TYPE 4, DEST 2, FIRST and LAST. -/
def flit4 : Flit := mkFlit (4 + 2 * 2 ^ 4 + 2 ^ 33 + 2 ^ 34) (zeros 1)

/-- The witness of its clauses on unscheduled flits: an output that is free, and one that another input's packet holds. -/
theorem witness_FlitsAndPeers_unscheduled :
    (let s := herd4 (up .joined) 1
     flitOk flit4 = true ∧ bits flit4.hdr 3 0 ∉ [1, 2] ∧ s.fab.nextUnscheduled 1 (bits flit4.hdr 13 4) = some 0 ∧
     s.fab.portFor 0 (s.fab.port 0).bondIndex.toNat = some 0 ∧ (mget s.w.net.arbs {} 0).holder = none ∧ (mget s.w.net.arbs {} 0).waiting = []) ∧
    (let x : Arb := { holder := some 7 }
     x.holder = some 7 ∧ x.waiting.any (fun y => y.1 = 7) = false) := by decide +kernel

/-- A flit that comes while another input's packet holds the output waits for that packet's last flit (R768). -/
theorem test_output_held :
    (let s : State := { herd4 (up .joined) 1 with w.net.arbs := [(0, { holder := some 7 })] }
     match exec (.flitReceive 0 0 flit4 0 0 0 0) s with
     | .next t => (t.w.out.length, (mget t.w.net.arbs {} 0).waiting.length)
     | _ => (9, 9)) = (0, 1) := by decide +kernel

/-- A collective entry: OP, FORM 2 (BF16 tiles), two members along x with stride 1, landing in stream 5 of core 3. -/
def entry2 (op : Nat) : W512 := BitVec.ofNat 512 (op + 2 * 2 ^ 3 + 1 * 2 ^ 8 + 1 * 2 ^ 18 + 3 * 2 ^ 38 + 5 * 2 ^ 45)

/-- A route set whose collective entry 0 is as given, and a COLLECTIVE that names it. -/
def planColl (e : W512) : Plan :=
  { planOf [record 8 2 0 0 0 0 1 0 0] with
    routes := [{ valid := true, slots := [BitVec.ofNat 128 2], colls := [e] }] }

theorem witness_FiringsRun_collective :
    (let r := record 8 2 0 0 0 0 1 0 0
     let s := firing (planColl (entry2 1)) full0
     tileRow (.collective 0 0 calm) = some (0, 0, calm, 8, 2) ∧ s.w.plan = some (planColl (entry2 1)) ∧
     (planColl (entry2 1)).firing? 0 0 = some r ∧ s.w.issuable (planColl (entry2 1)) 0 0 r calm.clk = true) := by decide +kernel

/-- Its contribution of four short units, with the parts treated. -/
def coll0 (parts : List (Nat × Nat × Nat)) : Coll :=
  { set := 0, entry := 0, core := 0, firing := 0, units := List.replicate 4 (1, zeros 4), parts := parts }

/-- Member 0 of the herd of four, the collective in progress. -/
def collecting (e : W512) (c : Coll) : State := herd4 { firing (planColl e) {} with w.net.colls := [c] } 0

/-- The hypotheses of a ring step: the part, its origin, this member's ring and position, the part's range, whether the part is
this member's to treat, and whether all earlier stages and then all stages are over. -/
def ringFacts (op ring shard : Nat) (parts : List (Nat × Nat × Nat)) : Nat × (Nat × Nat) × (Nat × Nat) × Bool × Bool × Bool :=
  let s := collecting (entry2 op) (coll0 parts)
  let x : CollEnt := entry2 op
  match x.stages with
  | [] => (0, (0, 0), (0, 0), false, false, false)
  | st :: _ =>
    (s.w.partOrigin s.fab x st ring shard, s.w.ringOf s.fab x st, s.w.partRange s.fab x st 4 ring shard,
      decide ((ring, shard) ∈ s.w.stageParts s.fab x st 4 ∧ (0, ring, shard) ∉ parts), s.w.stagesDone s.fab x (coll0 parts) 0,
      s.w.stagesDone s.fab x (coll0 (parts ++ [(0, ring, shard)])) x.stages.length)

theorem witness_CollectiveMoves :
    ((0 : Nat) < 4 ∧ ((0, 4) : Nat × Nat).1 ≤ ((0, 4) : Nat × Nat).2) ∧
    (let s := collecting (entry2 2) (coll0 [])
     s.w.plan = some (planColl (entry2 2)) ∧
     s.w.net.colls.find? (fun c => decide (c.entry = 0 ∧ ((planColl (entry2 2)).coll c).op ≠ 4)) = some (coll0 []) ∧
     ((planColl (entry2 2)).coll (coll0 [])).stages[0]? = some { reduce := false, dim := some 0, cuts := 0 }) := by decide +kernel

/-- The ring steps that its clauses distinguish: an own part, one that came, the last; and of a sum, the last member's and one
passed on. -/
theorem witness_CollectiveMoves_parts :
    ringFacts 2 0 0 [] = (0, (2, 0), (0, 1), true, true, false) ∧
    ringFacts 2 0 1 [] = (1, (2, 0), (2, 3), true, true, false) ∧
    ringFacts 2 0 1 [(0, 0, 0), (0, 1, 0), (0, 1, 1)] = (1, (2, 0), (2, 3), true, true, true) ∧
    ringFacts 1 0 0 [] = (1, (2, 0), (0, 1), true, true, false) ∧
    ringFacts 1 0 1 [] = (0, (2, 0), (2, 3), true, true, false) :=
  ⟨by decide +kernel, by decide +kernel, by decide +kernel, by decide +kernel, by decide +kernel⟩

/-- A part that came replaces this member's: unit 2 of four, of the shard of the other member. -/
theorem test_ring_step :
    (match exec (.collectiveRingStep 0 0 0 1 [toLE 8 7 ++ bytes [1, 2, 3, 4]] 0) (collecting (entry2 2) (coll0 [])) with
     | .next t => t.w.net.colls.map (fun c => c.units[2]?)
     | _ => []) = [some (7, bytes [1, 2, 3, 4])] := by decide +kernel

/-- The permute entry of two members: OP 4, member 0 sends to member 1 (its MAP at 0x20000), swap slot at 0x30000. -/
def entry4 : W512 := BitVec.ofNat 512 (4 + 1 * 2 ^ 8 + 1 * 2 ^ 18 + 0x30000 * 2 ^ 64 + 0x20000 * 2 ^ 128)

/-- A permute of the tensor of 8 bytes, as far as given. -/
def permuting (c : Coll) : State :=
  herd4 { firing (planColl entry4) { prog := [{ idx := 0, issued := 0, late := 0, stall := some .engine }] } with
    w.net.colls := [c], w.run.sets := [(0, 0, 0)], w.mem.hbm := ({} : Memory).write 0x20000 (toLE 2 1) } 0

theorem witness_CollectiveMoves_permute :
    ∀ sent ∈ [0, 1],
      let c : Coll := { set := 0, entry := 0, core := 0, firing := 0, sent := sent, swap := if sent = 1 then some 0 else none }
      let s := permuting c
      let p := planColl entry4
      let r := record 8 2 0 0 0 0 1 0 0
      s.w.permute? 0 = some (p, c, r) ∧ s.w.net.colls = [c] ∧ (p.route 0).slots[Rec.param r]? = some (BitVec.ofNat 128 2) ∧
      slotColl (BitVec.ofNat 128 2) = 0 ∧ s.w.run.sets = [(c.core, c.firing, c.set)] ∧ ((s.w.core 0).progOf 0).map (·.pos) = some 0 ∧
      s.w.mem.errs = [] ∧ s.w.mem.lost = [] ∧ s.w.run.landed = [] ∧ (p.tensor 0).chunks = 1 ∧ (p.tensor 0).chunk 0 = (0x10000, 8) ∧
      s.fab.nextBond 0 (s.w.target s.fab (p.coll c)) (p.coll c).ring 0 = some 0 ∧ (∀ i < 6, (s.fab.portFor 0 i).isSome = true) ∧
      (∀ j < 8, s.w.permit (0x10000 + j) true = some (0, wide)) := by decide +kernel

/-- A port serves a bond index as it serves that index modulo 6. -/
theorem portFor_mod (f : Fab) (b i : Nat) : f.portFor b i = f.portFor b (i % 6) := by simp [Fab.portFor]

theorem witness_PortsChange :
    (let s : State := ported .joined
     (s.fab.port 0).st = .up ∧ 3 ∉ (s.fab.port 0).failed ∧ (s.fab.port 0).takeover = none ∧ (s.fab.port 0).spareUsed = false ∧
     s.w.stepping = false) ∧
    (let s : State := { ported .joined with fab.ports := [(0, { port0 with takeover := some 2 })] }
     (s.fab.port 0).takeover = some 2) ∧
    (let s : State := { ported .joined with fab.ports := [(0, { port0 with st := .training }), (1, { port0 with st := .absent })] }
     (s.fab.port 0).st = .training ∧ s.w.rel.portSpares = [] ∧ s.w.rel.laneSpares = [] ∧ (s.fab.port 1).st = .absent) ∧
    (let s : State := herd4 (running .running plan0 1) 0
     s.w.stepping = true ∧ (s.fab.port 0).st = .up ∧ s.usedBond (s.fab.port 0).bond.toNat = true ∧ s.w.run.abandon = none) := by decide +kernel

/-- A good frame of member 1 of herd 2, with sequence number 0. -/
def upFrame : Frame :=
  { sci := 4, an := 0, pn := 1, etherType := 0x9C4A, srcHerd := 2, dstHerd := 0, srcMember := 1, dstMember := 0, seq := 0, ack := 0
    flits := [flit2], icvOk := true }

/-- Uplink 0 up with the key of that association. -/
def uplinked (u : Uplink) : State :=
  { herd4 (up .joined) 2 with
    fab.uplinks := [(0, { u with linkUp := true, rx := [{ sci := 4, an := 0, ssci := 0, key := [] }] })] }

theorem witness_LinksChange :
    (let s := uplinked {}
     (s.fab.uplink 0).linkUp = true ∧ s.w.net.upq = [] ∧ (s.fab.uplink 0).early = [] ∧ s.fab.frameOk 0 upFrame = true ∧
     s.fab.frameOk 0 { upFrame with icvOk := false } = false ∧ s.fab.frameOk 0 { upFrame with seq := 1 } = true ∧
     mget (s.fab.uplink 0).expect 0 (peerKey 2 1) = 0 ∧ bits flit2.hdr 13 4 = s.fab.member.toNat ∧ s.fab.pfcEn = true) ∧
    (∀ n ∈ [1, 4],
      let fr : TxFrame := { herd := 2, member := 1, seq := 9, flits := [], sends := n }
      let s := uplinked { unacked := [fr] }
      (s.fab.uplink 0).unacked.find? (fun t => decide (peerKey t.herd t.member = peerKey 2 1 ∧ t.seq = 9)) = some fr) ∧
    ((running .running plan0 1).w.stepping = true ∧ (running .running plan0 1).w.run.abandon = none) ∧
    ((up .joined).w.dev.linkUp = true ∧ (up .joined).w.dev.zSpares = 0 ∧ State.reset.w.dev.linkUp = false ∧ State.reset.w.dev.state ≠ .off) := by
  decide +kernel

/-! ### Witnesses: codes and addresses -/

/-- Positions 0 and 300 have the gap codes 0, 255 and 44 (R538): 299 elements lie between them. -/
theorem witness_GapRoundTrip :
    gapCodes 0 [0, 300] = bytes [0, 255, 44] ∧ ([0, 300] : List Nat).Pairwise (· < ·) ∧ (∀ x ∈ ([0, 300] : List Nat), x < 301) := by
  decide +kernel

theorem witness_AddressMap : ∀ k < 12, (State.reset.w.mem).activeList k ≠ [] := by decide +kernel

end Sys2Proof.Tests
end

section
/-!
SUPPORT. Idle clk, an environment that shows nothing, and all logical cores changed together: what each changes, and that
everything else stays.
-/

namespace Sys2Proof.Machine

/-! ### Idle clk (R73, R158, R1093) -/

/-- The counters under which idle clk count. -/
def idleCtrs : List Ctr := [.elasticIdle, .idleReplay, .idleMaint, .idleHost, .idleSlip, .idlePeer, .idleCadence]

/-- Two cores that agree in everything but what idle clk change: counters of idle clk, the clk held aside, and how far idle
clk are counted. -/
structure Core.SameButIdle (c d : Core) : Prop where
  eq : d = { c with counts := d.counts, aside := d.aside, idleFrom := d.idleFrom, idled := d.idled }
  counts : ∀ k, k ∉ idleCtrs → mget d.counts 0 k.off = mget c.counts 0 k.off

theorem Core.SameButIdle.refl (c : Core) : c.SameButIdle c := ⟨rfl, fun _ _ => rfl⟩

theorem Core.SameButIdle.trans {a b c : Core} (h : a.SameButIdle b) (k : b.SameButIdle c) : a.SameButIdle c :=
  ⟨by rw [k.eq, h.eq], fun i hi => (k.counts i hi).trans (h.counts i hi)⟩

/-- Idle clk counted under one of their counters. -/
theorem Core.count_sameButIdle (c : Core) {k : Ctr} (n : Nat) (h : k ∈ idleCtrs) : c.SameButIdle (c.count k n) :=
  ⟨rfl, fun _ hj => c.count_other n (fun e => hj (e ▸ h))⟩

/-- Idle clk are counted under the counters of their parts. -/
theorem Core.idle_sameButIdle (lo : Nat) (xs : List (Ctr × Nat)) (h : ∀ x ∈ xs, x.1 ∈ idleCtrs) (c : Core) :
    c.SameButIdle (c.idle lo xs) := by
  induction xs generalizing c with
  | nil => exact .refl c
  | cons x xs ih =>
    have rest := ih (fun y hy => h y (List.mem_cons_of_mem x hy))
    by_cases hx : x.2 = 0
    · simpa [Core.idle, hx] using rest c
    · have one : c.SameButIdle { (c.count x.1 x.2) with idled := c.idled ++ [(lo, x.1.off, x.2)] } :=
        ⟨rfl, (c.count_sameButIdle x.2 (h x (by simp))).counts⟩
      simpa [Core.idle, hx] using one.trans (rest _)

/-- Idle clk held aside leave the counters as they are. -/
theorem Core.hold_sameButIdle (c : Core) (xs : List (Ctr × Nat)) : c.SameButIdle (c.hold xs) := ⟨rfl, fun _ _ => rfl⟩

/-- The parts of an idle span count as idle clk. -/
theorem Work.idleParts_ctr (w : Work) (core lo hi : Nat) (peer : Bool) :
    ∀ x ∈ w.idleParts core lo hi peer, x.1 ∈ idleCtrs := by
  unfold Work.idleParts
  simp only
  split
  · cases peer <;> simp [idleCtrs]
  · split <;> simp [idleCtrs]

/-- Counting a core's idle clk changes nothing else of it. -/
theorem Work.idleUp_sameButIdle (w : Work) (core hi : Nat) (c : Core) : c.SameButIdle (w.idleUp core hi c) := by
  unfold Work.idleUp
  extract_lets lo cuts parts c1
  have hparts : ∀ a b, ∀ x ∈ parts a b, x.1 ∈ idleCtrs := by
    intro a b x hx
    obtain ⟨s, -, hs⟩ := List.mem_flatMap.1 hx
    exact w.idleParts_ctr _ _ _ _ x hs
  have counted : c.SameButIdle c1 := by
    unfold c1
    split
    · exact .refl c
    · split
      · exact c.count_sameButIdle _ (by simp [idleCtrs])
      · split
        · exact c.idle_sameButIdle lo _ (hparts _ _)
        · exact (c.idle_sameButIdle lo _ (hparts _ _)).trans (Core.hold_sameButIdle _ _)
  exact counted.trans ⟨rfl, fun _ _ => rfl⟩

/-! ### An environment that shows nothing but the moment -/

/-- The moment of a firing is all that a quiet environment shows. -/
theorem Work.observe_quiet (w : Work) (core : Nat) {env : Env} (h : quietEnv env = true) :
    w.observe core env = { w with cad.offset := w.clkOf env.clk } := by
  obtain ⟨clk, lines, words, residues, table, tableCe, wait, odc, held, dead⟩ := env
  simp [quietEnv] at h
  simp [Work.observe, Work.tableErrors, MemSys.see, h]

/-! ### All logical cores changed together -/

/-- The value at a key of a table tabulated over the keys below a bound, its default entries left out. -/
theorem mget_tabulate {α : Type} [DecidableEq α] (n : Nat) (d : α) (f : Nat → α) (rest : SMap α) {k : Nat} (hk : k < n)
    (hr : rest.lookup k = none) :
    mget (((List.range n).map (fun c => (c, f c))).filter (fun x => decide (x.2 ≠ d)) ++ rest) d k = f k := by
  induction n generalizing rest with
  | zero => omega
  | succ n ih =>
    have split : ((List.range (n + 1)).map (fun c => (c, f c))).filter (fun x => decide (x.2 ≠ d)) ++ rest =
        ((List.range n).map (fun c => (c, f c))).filter (fun x => decide (x.2 ≠ d)) ++
          (([(n, f n)] : SMap α).filter (fun x => decide (x.2 ≠ d)) ++ rest) := by
      simp [List.range_succ]
    rw [split]
    by_cases hn : k = n
    · subst hn
      have below : (((List.range k).map (fun c => (c, f c))).filter (fun x => decide (x.2 ≠ d))).lookup k = none := by
        rw [List.lookup_eq_none_iff]
        intro c hc
        obtain ⟨j, hj, rfl⟩ := List.mem_map.1 (List.mem_of_mem_filter hc)
        simpa using (Nat.ne_of_lt (List.mem_range.1 hj)).symm
      unfold mget
      rw [lookup_append, below, lookup_append, hr]
      by_cases hv : f k = d <;> simp [hv]
    · apply ih _ (by omega)
      rw [lookup_append, hr]
      by_cases hv : f n = d <;> simp [hv, lookup_cons_ne _ _ hn]

/-- A logical core after all are changed together. -/
theorem Work.mapCores_core (w : Work) (f : Nat → Core → Core) {c : Nat} (h : c < w.rel.cls) :
    (w.mapCores f).core c = f c (w.core c) := by
  have none : (w.cores.filter (fun x => decide (w.rel.cls ≤ x.1))).lookup c = none :=
    lookup_filter_neg w.cores (fun k => decide (w.rel.cls ≤ k)) c (by simpa using h)
  simpa [Work.mapCores, Work.core] using mget_tabulate w.rel.cls {} (fun c => f c (w.core c)) _ h none

end Sys2Proof.Machine
end

section
/-!
The start of a step (O31): how the tick before it is lengthened, what an attempt starts from, and that a scratch region is all
that touches HBM.
-/

namespace Sys2Proof.Machine

/-! ### The grid (R109, R113) -/

/-- The lengthening is what is missing to the grid, and less than a tick. -/
theorem Work.lengthening_spec (w : Work) (h : w.cad.tickClk ≠ 0) :
    ((w.lengthening : Int) - (w.aim - w.cad.drift)) % w.period = 0 ∧ (w.lengthening : Int) < w.period := by
  have hp : (0 : Int) < w.period := by
    have : w.cad.tickClk.toNat ≠ 0 := fun e => h (BitVec.eq_of_toNat_eq (by simpa using e))
    unfold Work.period; omega
  have cast : (w.lengthening : Int) = (w.aim - w.cad.drift) % w.period := Int.toNat_of_nonneg (Int.emod_nonneg _ hp.ne')
  rw [cast]
  exact ⟨by simp [Int.sub_emod], Int.emod_lt_of_pos _ hp⟩

/-- Lengthening moves herd time and its drift, counts idle clk on the cores, and changes nothing else. -/
theorem Work.lengthen_eq (w : Work) : ∃ cs, w.lengthen =
    { w with cores := cs, cad := { w.cad with time := w.cad.time + w.lengthening, drift := w.cad.drift + w.lengthening } } :=
  ⟨_, rfl⟩

/-! ### Undefined regions (R903) -/

/-- A region made undefined changes the memory that it lies in and nothing else. -/
theorem Work.undefRegion_eq (w : Work) (r : Reg) : ∃ m, w.undefRegion r = { w with mem := m } := by
  unfold Work.undefRegion
  dsimp only
  split
  · exact ⟨_, rfl⟩
  · exact ⟨_, rfl⟩
  · exact ⟨w.mem, rfl⟩

/-- Scratch regions made undefined change memory and nothing else. -/
theorem Work.undefScratch_eq (w : Work) (p : Plan) : ∃ m, w.undefScratch p = { w with mem := m } := by
  unfold Work.undefScratch
  generalize p.commits.filter _ = es
  induction es generalizing w with
  | nil => exact ⟨w.mem, rfl⟩
  | cons e es ih =>
    obtain ⟨m, hm⟩ := w.undefRegion_eq (p.regions.getD (commitFields e).1 0)
    rw [List.foldl_cons, hm]
    exact ih { w with mem := m }

/-- A plan without a scratch region makes nothing undefined. -/
theorem Work.undefScratch_none (w : Work) (p : Plan) (h : ∀ e ∈ p.commits, (commitFields e).2.2 ≠ 2) :
    w.undefScratch p = w := by
  have none : p.commits.filter (fun e => (commitFields e).2.2 = 2) = [] := List.filter_eq_nil_iff.2 (by simpa using h)
  simp [Work.undefScratch, none]

/-! ### What an attempt starts from -/

/-- What a core holds at tick 0 (R46, R367): no firing issued or in progress, every slot empty, the tallies clear, its local store
undefined. -/
structure Core.AtTick0 (c : Core) : Prop where
  prog : c.prog = []
  issued : c.issued = []
  retired : c.retired = []
  slots : c.slots = []
  board : c.board = []
  cells : c.cells = []
  ls : ∃ d, ∀ a < 8388608, c.ls.read a = Config.freeByte d a

theorem Core.fresh_atTick0 (d : Nat) (c : Core) : (c.fresh d).AtTick0 where
  prog := rfl
  issued := rfl
  retired := rfl
  slots := rfl
  board := rfl
  cells := rfl
  ls := ⟨d, fun a ha => by simp [Core.fresh, Memory.read, Memory.unlisted, holeByte, ha]⟩

/-- The run block of an attempt: what outlives an attempt is kept, everything else is as at reset (R41, R141, R761). -/
def Run.attempted (r : Run) (p : Plan) : Run :=
  { accepted := r.accepted, queued := r.queued, step := r.step, begun := r.begun, commits := r.commits
    wantStop := r.wantStop, stopOrigin := r.stopOrigin, thermalStop := r.thermalStop, holdCmd := r.holdCmd
    discarded := r.discarded, counting := true, factors := p.vecFactors (r.commits + 1) }

/-- An attempt changes the cores, memory, Cumulus's notes of the attempt, and the run, net and stage blocks; the cores stand at
tick 0, and HBM stays where no region is scratch. -/
theorem Work.attempt_spec (w : Work) (p : Plan) : ∃ cs m, w.attempt p =
      { w with cores := cs, mem := m, run := w.run.attempted p, net := w.net.clear
               stages := { w.stages with live := [], high := [] }, cum := { w.cum with treated := [], journal := [] } } ∧
    (∀ c < w.rel.cls, (mget cs {} c).AtTick0) ∧
    ((∀ e ∈ p.commits, (commitFields e).2.2 ≠ 2) → m.hbm = w.mem.hbm) := by
  obtain ⟨m, hm⟩ := (w.recall p).undefScratch_eq p
  unfold Work.attempt
  rw [hm]
  refine ⟨_, _, rfl, fun c hc => ?_, fun hs => ?_⟩
  · have fresh := Work.mapCores_core { w.recall p with mem := m } (fun c x => x.fresh (m.draws + c)) hc
    rw [Work.core] at fresh
    rw [fresh]
    exact Core.fresh_atTick0 _ _
  · have e : w.recall p = { w.recall p with mem := m } := ((w.recall p).undefScratch_none p hs).symm.trans hm
    exact (congrArg (fun v : Work => v.mem.hbm) e).symm

/-! ### STEP_START -/

/-- The run block in which a step of a request has begun. -/
def Run.begunWith (r : Run) (q : StepReq) (startTick : Nat) : Run :=
  { r with accepted := none, step := some { req := q, number := r.begun, startTick := startTick }, begun := r.begun + 1 }

/-- A step begun: an attempt at it on the grid, in RUNNING (R109, R113, R867). -/
theorem State.beginStep_spec (s : State) (p : Plan) (q : StepReq) : ∃ cs m cum, s.beginStep p q =
      { s with w := ({ s.w with
          cores := cs
          mem := m
          cad := { s.w.cad with time := s.w.cad.time + s.w.lengthening, drift := s.w.cad.drift + s.w.lengthening }
          run := (s.w.run.begunWith q s.w.cad.tickCount.toNat).attempted p
          net := s.w.net.clear
          stages := { s.w.stages with live := [], high := [] }
          cum := cum
          rel := { s.w.rel with replaysThisStep := 0 } } : Work).setState .running .command } ∧
    (∀ c < s.w.rel.cls, (mget cs {} c).AtTick0) ∧
    ((∀ e ∈ p.commits, (commitFields e).2.2 ≠ 2) → m.hbm = s.w.mem.hbm) := by
  obtain ⟨cs, hl⟩ := s.w.lengthen_eq
  unfold State.beginStep
  rw [hl]
  dsimp only
  obtain ⟨cs', m, ha, hc, hm⟩ := Work.attempt_spec _ p
  rw [ha]
  exact ⟨cs', m, _, rfl, hc, hm⟩

/-- A step that may start begins. -/
theorem exec_stepStart_begins (s : State) {p : Plan} {q : StepReq} (hp : s.w.plan = some p) (ha : s.w.run.accepted = some q)
    (hm : s.mayStart q = true) : exec .stepStart s = .next (s.beginStep p q) := by
  show execStepStart s = _
  simp [execStepStart, hp, ha, hm]

end Sys2Proof.Machine

open Sys2Proof Sys2Proof.Machine

/-- Settles O31: a step that may start is `State.beginStep_spec`'s state, whose cores stand at tick 0; the switch listed for the
step tick is the one that ROUTE_SET_SWITCH finds. -/
theorem stepBegins : Obligations.StepBegins := by
  unfold Obligations.StepBegins
  intro group window p s hp
  refine ⟨fun q ha hm => ⟨s.beginStep p q, exec_stepStart_begins s hp ha hm, ?_⟩, fun e he hc hs => ?_, fun he => ?_, rfl⟩
  · obtain ⟨cs, m, cum, eq, cores, hbm⟩ := s.beginStep_spec p q
    rw [eq]
    simp only [Work.core, Work.setState_dev_state, Work.setState_cad, Work.setState_run, Work.setState_stages,
      Work.setState_net, Work.setState_hbm, Work.setState_plan, Work.setState_scales, Work.setState_cores]
    have grid : s.w.cad.tickClk ≠ 0 →
        (((s.w.cad.time + s.w.lengthening : Nat) : Int) - s.w.cad.time - (s.w.aim - s.w.cad.drift)) % s.w.period = 0 ∧
          ((s.w.cad.time + s.w.lengthening : Nat) : Int) - s.w.cad.time < s.w.period :=
      fun h => by simpa using s.w.lengthening_spec h
    refine ⟨trivial, rfl, rfl, rfl, rfl, rfl, rfl, rfl, rfl, rfl, rfl, rfl, rfl, rfl, grid, by simp, trivial, trivial, trivial,
      rfl, rfl, fun c hc => ?_, hbm, hp, trivial, ⟨rfl, rfl, rfl, rfl⟩⟩
    obtain ⟨prog, issued, retired, slots, board, cells, ls⟩ := cores c hc
    exact ⟨prog, issued, retired, slots, board, cells, ls⟩
  · show execRouteSetSwitch s = _
    simp [execRouteSetSwitch, hp, he, hc, hs]
  · show execRouteSetSwitch s = _
    simp [execRouteSetSwitch, hp, he]
end

section
/-!
Firings that issue (O46): which job each row of a firing runs, what the row answers where its firing may issue and where not, and
what the beginning of a firing changes.
-/

namespace Sys2Proof.Machine

/-! ### The rows of tile firings -/

/-- The job of a row of a tile firing (R24); of any other row one without tiles. -/
def tileJob (fab : Fab) : Instr → Plan → Rec → At → Job
  | .copyIn _ _ _ => loadJob fab false
  | .copyInT _ _ _ => loadJob fab true
  | .copyOut _ _ _ => storeJob fab
  | .pass _ _ _ => passJob
  | .matvec _ _ _ => sweepJob fab
  | .drain _ _ _ => drainJob fab
  | .clear _ _ _ => clearJob
  | .packOut _ _ _ => packOutJob
  | .map _ _ _ => mapJob
  | .norm _ _ _ => normJob
  | .reduce _ _ _ => reduceJob
  | .optimise _ _ _ => optimiseJob
  | .convert _ _ _ => convertJob
  | .put _ _ _ => putJob fab
  | .collective _ _ _ => collJob fab
  | .take _ _ _ => takeJob
  | _ => fun _ _ _ => { n := 0, unit := fun w _ _ => .ok w }

/-- A row's job is the one that records of its station and operation name. -/
theorem jobOf_tileRow {i : Instr} {core idx st op : Nat} {env : Env} (h : tileRow i = some (core, idx, env, st, op)) (fab : Fab)
    (p : Plan) {r : Rec} (a : At) (hs : r.station = st) (ho : r.op = op) : jobOf fab p r a = some (tileJob fab i p r a) := by
  unfold jobOf
  rw [hs, ho]
  unfold tileRow at h
  split at h <;> cases h <;> rfl

/-- The state after a row of a tile firing whose plan work leaves `w`: a SEND's arbiter counts its dead clk (R770), and what a PUT
queued for the uplinks is sent on. -/
def State.afterTile (s : State) (core : Nat) (env : Env) (st op : Nat) (w : Work) : State :=
  if st = 8 then if op = 1 then State.uplinks (s.injected core env w) else s.injected core env w else { s with w := w }

/-- Every row of a tile firing issues the job of its station and operation. -/
theorem exec_tileRow {i : Instr} {core idx st op : Nat} {env : Env} (h : tileRow i = some (core, idx, env, st, op)) (s : State) :
    exec i s = .next (s.afterTile core env st op (s.w.issue core idx env st op (tileJob s.fab i))) := by
  unfold tileRow at h
  split at h <;> cases h <;> rfl

/-- With nothing queued for the uplinks nothing is sent on. -/
theorem State.uplinks_idle (s : State) (h : s.w.net.upq = []) : State.uplinks s = s := by
  simp [State.uplinks, h, State.flush]

/-- Where the plan work is left as it was, no dead clk count. -/
@[simp] theorem State.injected_self (s : State) (core : Nat) (env : Env) : s.injected core env s.w = s := by
  simp [State.injected]

/-- A row that leaves the plan work as it was changes nothing. -/
theorem State.afterTile_self (s : State) (core : Nat) (env : Env) (st op : Nat) (h : s.w.net.upq = []) :
    s.afterTile core env st op s.w = s := by
  unfold State.afterTile
  split
  · rw [State.injected_self, State.uplinks_idle s h, ite_self]
  · rfl

/-! ### Issue -/

section
variable {w : Work} {p : Plan} {core idx : Nat} {r : Rec} (hp : w.plan = some p) (hr : p.firing? core idx = some r)
include hp hr

/-- A firing that may issue begins with its times and goes on with its job. -/
theorem Work.issue_runs {st op : Nat} {env : Env} (job : Plan → Rec → At → Job) (hs : r.station = st) (ho : r.op = op)
    (hi : w.issuable p core idx r env.clk = true) :
    w.issue core idx env st op job =
      (w.start core idx r env ((job p r { core := core, firing := idx, time := w.now env.clk }).times w)).advance core idx
        (job p r { core := core, firing := idx, time := w.now env.clk }) := by
  simp [Work.issue, hp, hr, hs, ho, hi]

/-- A firing that may not issue changes nothing. -/
theorem Work.issue_waits {env : Env} (st op : Nat) (job : Plan → Rec → At → Job) (hi : w.issuable p core idx r env.clk = false) :
    w.issue core idx env st op job = w := by
  simp [Work.issue, hp, hr, hi]

/-- A firing over a work list that may issue begins, takes its first item where one is left, and works on it. -/
theorem Work.issueItems_runs {st op : Nat} {env : Env} (onTake : Plan → Rec → At → W512 → Work → Work) (ij : ItemJob)
    (hs : r.station = st) (ho : r.op = op) (hi : w.issuable p core idx r env.clk = true) :
    let a : At := { core := core, firing := idx, time := w.now env.clk }
    let w' := (w.start core idx r env {}).takeItem p core idx r
    (∀ l k, (w'.progAt a).item = some (l, k) →
      w.issueItems core idx env st op onTake ij = (onTake p r a ((p.items l).getD k 0) w').workItem p r a ij) ∧
    ((w'.progAt a).item = none → w.issueItems core idx env st op onTake ij = w'.workItem p r a ij) := by
  constructor
  · intro l k hit
    simp [Work.issueItems, hp, hr, hs, ho, hi, hit]
  · intro hit
    simp [Work.issueItems, hp, hr, hs, ho, hi, hit]

/-- A firing over a work list that may not issue changes nothing. -/
theorem Work.issueItems_waits {env : Env} (st op : Nat) (onTake : Plan → Rec → At → W512 → Work → Work) (ij : ItemJob)
    (hi : w.issuable p core idx r env.clk = false) : w.issueItems core idx env st op onTake ij = w := by
  simp [Work.issueItems, hp, hr, hi]

end

/-! ### The rows of item firings -/

/-- The item job of a row of a MERGE or ATTEND firing; of any other row one without tiles. -/
def itemJob (fab : Fab) : Instr → ItemJob
  | .decode _ _ _ => decodeItem fab
  | .compact _ _ _ => compactItem fab
  | .intersect _ _ _ => crossItem fab
  | .laneMac _ _ _ => laneItem fab
  | .forward _ _ _ => attItem fab false
  | .backward _ _ _ => attItem fab true
  | _ => fun _ _ _ _ _ _ => { n := 0, unit := fun w _ _ => .ok w }

/-- A row's item job is the one that records of its station and operation name. -/
theorem itemJobOf_itemRow {i : Instr} {core idx st op : Nat} {env : Env} (h : itemRow i = some (core, idx, env, st, op)) (fab : Fab)
    {r : Rec} (hs : r.station = st) (ho : r.op = op) : itemJobOf fab r = some (itemJob fab i) := by
  unfold itemJobOf
  rw [hs, ho]
  unfold itemRow at h
  split at h <;> cases h <;> rfl

/-- Every row of an item firing issues the item job of its station and operation; only ATTEND does something as it takes one. -/
theorem exec_itemRow {i : Instr} {core idx st op : Nat} {env : Env} (h : itemRow i = some (core, idx, env, st, op)) (s : State) :
    exec i s = .next
      { s with w := s.w.issueItems core idx env st op (if st = 6 then attTake else noTake) (itemJob s.fab i) } := by
  unfold itemRow at h
  split at h <;> cases h <;> rfl

/-! ### The beginning of a firing (R23) -/

/-- A firing does not issue while its station is not free (R22). -/
theorem Work.issuable_busy (w : Work) (p : Plan) (core idx : Nat) (r : Rec) (clk : Nat) (hs : r.station ≠ 15)
    (h : w.now clk < mget (w.core core).free 0 r.station) : w.issuable p core idx r clk = false := by
  simp [Work.issuable, Work.ready, hs, Nat.not_le.2 h]

/-- A core `e` that is `c` with a firing begun: idle clk counted up to its issue, the firing marked issued and in progress,
`slip` clk counted as slip and `stall` under SB_STALL_CLK. -/
def Core.Begun (c : Core) (idx slip stall : Nat) (e : Core) : Prop :=
  ∃ d x, c.SameButIdle d ∧ x.idx = idx ∧
    e = ({ d with issued := d.issued ++ [idx], prog := d.prog ++ [x] }.count .slip slip).count .sbStall stall

/-- Beginning marks the firing issued; what has retired, the local store, the tallies and the slots stay. -/
theorem Core.Begun.frame {c e : Core} {idx slip stall : Nat} (h : c.Begun idx slip stall e) :
    e.issued = c.issued ++ [idx] ∧ e.retired = c.retired ∧ e.ls = c.ls ∧ e.cells = c.cells ∧ e.slots = c.slots := by
  obtain ⟨d, x, hd, -, rfl⟩ := h
  rw [hd.eq]
  exact ⟨rfl, rfl, rfl, rfl, rfl⟩

/-- Nothing else of a beginning counts as slip. -/
theorem Core.Begun.slip {c e : Core} {idx slip stall : Nat} (h : c.Begun idx slip stall e) :
    mget e.counts 0 Ctr.slip.off = mget c.counts 0 Ctr.slip.off + BitVec.ofNat 64 slip := by
  obtain ⟨d, x, hd, -, rfl⟩ := h
  rw [Core.count_other _ _ (by decide), Core.count_counts]
  exact congrArg (· + _) (hd.counts .slip (by decide))

/-- The clk that count as slip when a firing issues: those by which a timed firing is late, and those for which an elastic one has
stalled on its first slot (R23, R64). -/
def Work.slipAtIssue (w : Work) (core idx : Nat) (r : Rec) (clk : Nat) : Nat :=
  if r.mode = 0 then (w.lateBy r.tick r.offset clk).getD 0 else w.stalledAtIssue core idx r clk

/-- Beginning a firing without a trace record, where nothing but the moment shows, changes the moment, the firing's core and the
list of unordered writes. -/
theorem Work.begin_quiet (w : Work) (core idx : Nat) (r : Rec) {env : Env} (ht : r.trace = false) (hq : quietEnv env = true) :
    ∃ e landed,
      (w.core core).Begun idx (w.slipAtIssue core idx r env.clk) (w.stalledAtIssue core idx r env.clk) e ∧
      w.begin core idx r env = { w with
        cad.offset := w.clkOf env.clk
        run.landed := landed
        cores := (w.modCore core (fun _ => e)).cores } := by
  have same := Work.idleUp_sameButIdle { w with cad.offset := w.clkOf env.clk } core (w.now env.clk) (w.core core)
  have slip : w.slipAtIssue core idx r env.clk =
      if r.mode = 0 then if r.mode = 0 then (w.lateBy r.tick r.offset env.clk).getD 0 else 0
      else w.stalledAtIssue core idx r env.clk := by
    by_cases hm : r.mode = 0 <;> simp [Work.slipAtIssue, hm]
  unfold Work.begin
  rw [slip, w.observe_quiet core hq, ht]
  exact ⟨_, _, ⟨_, _, same, rfl, rfl⟩, rfl⟩

/-- A core reads as in any state with the same cores. -/
theorem Work.core_congr {v w : Work} (h : v.cores = w.cores) (c : Nat) : v.core c = w.core c := by rw [Work.core, h, Work.core]

end Sys2Proof.Machine

open Sys2Proof Sys2Proof.Machine

/-- Settles O46: each row issues the job of its station and operation (`exec_tileRow`, `exec_itemRow`), and beginning a firing
counts its lateness, and nothing else, as slip (`Work.begin_quiet`). -/
theorem firingsRun : Obligations.FiringsRun := by
  unfold Obligations.FiringsRun
  refine ⟨fun i core idx st op env p r s hp hr => ⟨fun hrow => ⟨fun hs ho hi => ?_, fun hi hq => ?_⟩, fun hrow =>
    ⟨fun hs ho hi => ?_, fun hi => ?_⟩⟩, fun core idx env r w ht hq => ?_⟩
  · refine ⟨_, _, jobOf_tileRow hrow s.fab p _ hs ho, exec_tileRow hrow s, ?_⟩
    rw [Work.issue_runs hp hr _ hs ho hi]
    exact ⟨fun h => by simp [State.afterTile, h], fun h k => by simp [State.afterTile, h, k],
      fun h k => by simp [State.afterTile, h, k]⟩
  · rw [exec_tileRow hrow, Work.issue_waits hp hr st op _ hi, s.afterTile_self core env st op hq]
  · obtain ⟨takes, empty⟩ := Work.issueItems_runs hp hr (onTakeOf r) (itemJob s.fab i) hs ho hi
    have row := exec_itemRow hrow s
    rw [← hs, ← onTakeOf, hs] at row
    exact ⟨_, itemJobOf_itemRow hrow s.fab hs ho, fun l k hit => by rw [row, takes l k hit], fun hit => by rw [row, empty hit]⟩
  · rw [exec_itemRow hrow, Work.issueItems_waits hp hr st op _ _ hi]
  · obtain ⟨e, landed, begun, eq⟩ := w.begin_quiet core idx r ht hq
    have cores : (w.begin core idx r env).cores = (w.modCore core (fun _ => e)).cores := by rw [eq]
    have here : (w.begin core idx r env).core core = e := (Work.core_congr cores core).trans (Work.modCore_core w core _)
    have elsewhere (c : Nat) (hc : c ≠ core) : (w.begin core idx r env).core c = w.core c :=
      (Work.core_congr cores c).trans (Work.modCore_other w _ hc)
    obtain ⟨issued, retired, ls, cells, slots⟩ := begun.frame
    dsimp only
    rw [here]
    refine ⟨issued, retired, ls, cells, slots, fun n hm hn => ?_, elsewhere, by rw [eq], by rw [eq], by rw [eq], by rw [eq],
      fun p hs hf => w.issuable_busy p core idx r env.clk hs hf⟩
    rw [begun.slip, Work.slipAtIssue, if_pos hm, hn, Option.getD_some]
end

section
/-!
Registers built from fields, and undefined memory: a field of a register reads back as the value packed into it, and every address
of a range made undefined reads as a free value.
-/

namespace Sys2Proof

/-- The field of a word at its place fits its width. -/
theorem toNat_ofNat_bits {w : Nat} (x : BitVec w) (hi lo : Nat) :
    (BitVec.ofNat (hi + 1 - lo) (bits x hi lo)).toNat = bits x hi lo := by
  simp [bits]

/-- A bit of a word as a field of one bit. -/
theorem b2n_bit {w : Nat} (x : BitVec w) (i : Nat) : b2n (bit x i) = bits x i i := by
  have one : i + 1 - i = 1 := by omega
  rcases Nat.mod_two_eq_zero_or_one (x.toNat >>> i) with h | h <;>
    simp [b2n, bit, bits, one, BitVec.getLsbD, Nat.testBit, h]

/-- A field of a word is that field of the number stored in it, where the word has its bits. -/
theorem bits_ofNat (x : Nat) {m hi lo : Nat} (h : hi < m) : bits (BitVec.ofNat m x) hi lo = x / 2 ^ lo % 2 ^ (hi + 1 - lo) := by
  rw [bits, BitVec.toNat_ofNat, ← Nat.shiftRight_eq_div_pow]
  refine Nat.eq_of_testBit_eq fun i => ?_
  by_cases hi' : i < hi + 1 - lo
  · have inside : lo + i < m := by omega
    simp [Nat.testBit_mod_two_pow, Nat.testBit_shiftRight, inside]
  · simp [Nat.testBit_mod_two_pow, hi']

/-- Whether a number is odd, as a bit. -/
theorem b2n_odd (n : Nat) : b2n (decide (n % 2 = 1)) = n % 2 := by
  rcases Nat.mod_two_eq_zero_or_one n with h | h <;> simp [b2n, h]

end Sys2Proof

namespace Sys2Proof.Machine

/-- The number packed from fields, behind the bits that the first of them take. -/
theorem pack_append_div (fs gs : List (Nat × Nat)) : pack (fs ++ gs) / 2 ^ (fs.map (·.2)).sum = pack gs := by
  induction fs with
  | nil => simp
  | cons f fs ih =>
    have first : (f.1 % 2 ^ f.2 + 2 ^ f.2 * pack (fs ++ gs)) / 2 ^ f.2 = pack (fs ++ gs) := by
      rw [Nat.add_mul_div_left _ _ (Nat.two_pow_pos _), Nat.div_eq_of_lt (Nat.mod_lt _ (Nat.two_pow_pos _)), Nat.zero_add]
    rw [List.map_cons, List.sum_cons, Nat.pow_add, ← Nat.div_div_eq_div_mul]
    exact (congrArg (· / _) first).trans ih

/-- A field of a register reads back as the value that was packed at its place, as far as its bits go. -/
theorem bits_pack (fs rest : List (Nat × Nat)) (v n : Nat) {m hi lo : Nat} (hlo : lo = (fs.map (·.2)).sum) (hm : hi < m)
    (hn : hi + 1 - lo ≤ n) : bits (BitVec.ofNat m (pack (fs ++ (v, n) :: rest))) hi lo = v % 2 ^ (hi + 1 - lo) := by
  rw [bits_ofNat _ hm, hlo, pack_append_div, ← hlo, pack, Nat.add_mod, Nat.mod_mod_of_dvd _ (Nat.pow_dvd_pow 2 hn),
    Nat.mod_eq_zero_of_dvd ((Nat.pow_dvd_pow 2 hn).mul_right _), Nat.add_zero, Nat.mod_mod]

/-- An address of a range made undefined reads as the free value of the range's draw. -/
theorem Memory.read_undef_in (m : Memory) {lo hi a : Nat} (draw : Nat) (hlo : lo ≤ a) (hhi : a < hi) :
    (m.undef lo hi draw).read a = Config.freeByte draw a := by
  have below := lookup_filter_neg m.cells (fun x => decide (x < lo)) a (by simpa using hlo)
  have above := lookup_filter_neg m.cells (fun x => decide (hi ≤ x) && decide (lo ≤ x)) a (by simp; omega)
  simp [Memory.read, Memory.undef, Memory.unlisted, holeByte, lookup_append, below, above, hlo, hhi]

end Sys2Proof.Machine
end

section
/-!
The writes of the configuration registers (O12): when CAD_CONFIG, MEM_SPLIT, UPL_CONFIG and REL_CONFIG take a value, and what they
read as then.
-/

namespace Sys2Proof.Machine

/-- CAD_CONFIG's fields fill the registers of the cadence block. -/
theorem Cad.config_fields (c : Cad) (v : W64) :
    let c' := c.config (bits v 16 0) (bits v 35 24) (bits v 46 40)
    c'.tickClk.toNat = bits v 16 0 ∧ c'.slackClk.toNat = bits v 35 24 ∧ c'.stretchMax.toNat = bits v 46 40 :=
  ⟨toNat_ofNat_bits v 16 0, toNat_ofNat_bits v 35 24, toNat_ofNat_bits v 46 40⟩

/-- UPL_CONFIG reads as the 21 bits written. -/
theorem Fab.uplConfig_setUpl (f : Fab) (v : Nat) : (f.setUpl v).uplConfig = v % 2 ^ 21 := by
  simp only [Fab.uplConfig, Fab.setUpl, pack, b2n_odd, BitVec.toNat_ofNat]
  omega

/-- What REL_CONFIG holds after a write that is taken. -/
def Rel.config (r : Rel) (v : W64) : Rel :=
  { r with replayLimit := BitVec.ofNat 4 (bits v 3 0), autoSpare := bit v 4, patrolHours := BitVec.ofNat 8 (bits v 15 8) }

/-- REL_CONFIG reads as written, field by field. -/
theorem readReg_relConfig (s : State) (v : W64) :
    let t : State := { s with w := { s.w with rel := s.w.rel.config v } }
    bits (t.readReg 0x1C08) 3 0 = bits v 3 0 ∧ bits (t.readReg 0x1C08) 4 4 = bits v 4 4 ∧
      bits (t.readReg 0x1C08) 15 8 = bits v 15 8 := by
  intro t
  have read : t.readReg 0x1C08 = BitVec.ofNat 64 (pack [(t.w.rel.replayLimit.toNat, 4), (b2n t.w.rel.autoSpare, 4),
      (t.w.rel.patrolHours.toNat, 8)]) := rfl
  have limit : t.w.rel.replayLimit.toNat = bits v 3 0 := toNat_ofNat_bits v 3 0
  have spare : b2n t.w.rel.autoSpare = bits v 4 4 := b2n_bit v 4
  have hours : t.w.rel.patrolHours.toNat = bits v 15 8 := toNat_ofNat_bits v 15 8
  rw [read, limit, spare, hours]
  exact ⟨(bits_pack [] _ _ 4 rfl (by decide) (by decide)).trans (Nat.mod_mod _ _),
    (bits_pack [_] _ _ 4 rfl (by decide) (Nat.le_of_ble_eq_true rfl)).trans (Nat.mod_mod _ _),
    (bits_pack [_, _] _ _ 8 rfl (by decide) (Nat.le_of_ble_eq_true rfl)).trans (Nat.mod_mod _ _)⟩

end Sys2Proof.Machine

open Sys2Proof Sys2Proof.Machine

/-- Settles O12: each write is taken under its own condition; a register whose fields are packed reads back what was written
(`bits_pack`), and HBM undefined reads as free values (`Memory.read_undef_in`). -/
theorem configsWritten : Obligations.ConfigsWritten := by
  unfold Obligations.ConfigsWritten
  refine ⟨fun v s => ⟨fun hs ok => ?_, fun refused => ?_, fun hs fits => ?_, fun refused => ?_⟩,
    fun v s => ⟨fun hs => ?_, fun hs => ?_, fun hs lo hi => ?_, fun hs => ?_⟩⟩
  · obtain ⟨tick, slack, stretch⟩ := s.w.cad.config_fields v
    refine ⟨_, ?_, tick, slack, stretch, rfl⟩
    show execCadConfigWrite v s = _
    simp [execCadConfigWrite, hs, ok]
  · have barred : ¬ (s.w.dev.state = .standby ∧ cadOk (bits v 16 0) (bits v 35 24) (bits v 46 40) s.pwr.clockSel = true) := by
      simpa [imp_iff_not_or] using refused
    show execCadConfigWrite v s = _
    simp only [execCadConfigWrite, if_neg barred]
  · refine ⟨{ s with w := s.w.split (bits v 6 0) }, ?_, toNat_ofNat_bits v 6 0, fun a ha => ?_, rfl, rfl, rfl, rfl,
      ⟨rfl, rfl, rfl, rfl⟩⟩
    · show execMemSplitWrite v s = _
      simp only [execMemSplitWrite, if_pos (And.intro hs fits)]
    · exact s.w.mem.hbm.read_undef_in s.w.mem.draws (Nat.zero_le a) ha
  · have barred : ¬ (s.w.dev.state = .standby ∧ bits v 6 0 ≤ s.w.mem.minGib) := by
      simpa [imp_iff_not_or] using refused
    show execMemSplitWrite v s = _
    simp only [execMemSplitWrite, if_neg barred]
  · refine ⟨{ s with fab := s.fab.setUpl v.toNat }, ?_, ?_, rfl, rfl, rfl⟩
    · show execUplConfigWrite v s = _
      simp only [execUplConfigWrite, if_pos hs]
    · show (BitVec.ofNat 64 (s.fab.setUpl v.toNat).uplConfig).toNat = _
      rw [Fab.uplConfig_setUpl, BitVec.toNat_ofNat]
      omega
  · show execUplConfigWrite v s = _
    simp only [execUplConfigWrite, if_neg hs]
  · have taken : ¬ (s.w.dev.state = .running ∨ bits v 15 8 < 1 ∨ 168 < bits v 15 8) := by simp [hs]; omega
    obtain ⟨limit, spare, hours⟩ := readReg_relConfig s v
    refine ⟨_, ?_, limit, spare, hours, rfl, rfl, rfl, ⟨rfl, rfl, rfl, rfl⟩⟩
    show execRelConfigWrite v s = _
    simp only [execRelConfigWrite, if_neg taken]
    rfl
  · show execRelConfigWrite v s = _
    simp only [execRelConfigWrite, if_pos (Or.inl hs)]
end

section
/-!
Stretches and stops (O30): the largest hold request of an origin bounds the stretch decided from it, and a stop is the run block
stopped and then HELD entered.
-/

namespace Sys2Proof.Machine

/-! ### Messages and the device block -/

/-- Two device blocks that agree in everything but NOTIFY, the notification ring and what waits for the link. -/
def Dev.SameButNotices (d e : Dev) : Prop :=
  e = { d with notify := e.notify, noteHead := e.noteHead, noteTail := e.noteTail, notePhase := e.notePhase
               noteCount := e.noteCount, noteLost := e.noteLost, parked := e.parked }

theorem Dev.SameButNotices.trans {a b c : Dev} (h : a.SameButNotices b) (k : b.SameButNotices c) : a.SameButNotices c := by
  unfold Dev.SameButNotices at *
  rw [k, h]

/-- A bit of NOTIFY that is set, and its message. -/
theorem Work.raise_notices (w : Work) (b : Nat) : w.dev.SameButNotices (w.raise b).dev := by
  unfold Work.raise Work.interrupt
  split
  · rfl
  · dsimp only
    split
    · split <;> rfl
    · rfl

/-- A notification changes nothing else of the device block. -/
theorem Work.note_notices (w : Work) (kind core data : Nat) : w.dev.SameButNotices (w.note kind core data).dev := by
  have room : w.dev.SameButNotices w.noteRoom.dev := by
    unfold Work.noteRoom
    split
    · rfl
    · exact .trans (by rfl) (Work.raise_notices _ 4)
  have link (w : Work) (addr : Nat) (bs : List Byte) : w.dev.SameButNotices (w.linkWrite addr bs).dev := by
    unfold Work.linkWrite
    split <;> rfl
  unfold Work.note
  split
  · exact ((room.trans (link _ _ _)).trans (by rfl)).trans (Work.raise_notices _ 0)
  · rfl

/-- What a change of DEV_STATE.STATE makes of the device block. -/
theorem Work.setState_dev (w : Work) {st : DevState} (cause : Cause) (h : st ≠ w.dev.state) :
    Dev.SameButNotices { w.dev with prev := w.dev.state, state := st, cause := cause } (w.setState st cause).dev := by
  unfold Work.setState
  rw [if_neg h]
  exact (Work.raise_notices _ 2).trans (Work.note_notices _ 3 0 _)

/-- A change of state carries its cause. -/
theorem Work.setState_dev_cause (w : Work) {st : DevState} (cause : Cause) (h : st ≠ w.dev.state) :
    (w.setState st cause).dev.cause = cause := by
  rw [w.setState_dev cause h]

/-! ### Stretches (R133) -/

/-- The largest amount that a hold of an origin requests. -/
def Run.largest (r : Run) (origin : Nat) : Nat := ((r.holds.filter (fun x => x.1 = origin)).map (·.2)).foldl max 0

/-- The largest amount of an origin is 0 or requested, and none requested is larger. -/
theorem Run.largest_spec (r : Run) (origin : Nat) :
    (r.largest origin = 0 ∨ (origin, r.largest origin) ∈ r.holds) ∧ ∀ q, (origin, q) ∈ r.holds → q ≤ r.largest origin := by
  have top : (0 :: (r.holds.filter (fun x => x.1 = origin)).map (·.2)).max? = some (r.largest origin) := List.max?_cons'
  have requested (q : Nat) : q ∈ (r.holds.filter (fun x => x.1 = origin)).map (·.2) ↔ (origin, q) ∈ r.holds := by
    simp
  obtain ⟨mem, bound⟩ := List.max?_eq_some_iff.1 top
  exact ⟨(List.mem_cons.1 mem).imp_right (requested _).1, fun q hq => bound q (List.mem_cons_of_mem _ ((requested q).2 hq))⟩

/-- The stretch decided from the holds of an origin (R133). -/
def Work.stretchOf (w : Work) (origin : Nat) : Nat :=
  min (w.run.largest origin - w.run.decided) (w.cad.stretchMax.toNat * w.cad.slackClk.toNat)

/-- The run block after the decision on an origin. -/
def Work.stretched (w : Work) (origin : Nat) : Run :=
  let st := w.stretchOf origin
  { w.run with
    decided := w.run.decided + st
    nextDecision := origin + 1
    stretches := if st = 0 then w.run.stretches else w.run.stretches ++ [(origin + w.lead, st)] }

/-- The bellwether of a running step decides on an origin once its tick has come. -/
theorem exec_stretchDecision (s : State) (origin : Nat) (hb : s.w.cad.bellwether = true) (hs : s.w.run.step.isSome = true)
    (hc : s.w.run.counting = true) (hn : s.w.run.nextDecision ≤ origin) (ht : s.w.run.tick.toNat = origin + s.decisionLag) :
    exec (.stretchDecision origin) s = .next { s with
      w := { s.w with run := s.w.stretched origin }.timing 2 (origin + s.w.lead) (s.w.stretchOf origin) s.fab.member.toNat } := by
  show execStretchDecision origin s = _
  unfold execStretchDecision
  rw [if_pos ⟨hb, hs, hc, hn, ht⟩]
  rfl

/-! ### Stops (R143, R864) -/

/-- The step queued behind another, where there is one, is discarded. -/
theorem Run.discardQueued_eq (r : Run) :
    r.discardQueued = { r with queued := none, discarded := r.discarded ++ r.queued.toList } := by
  unfold Run.discardQueued
  split
  · next q h => rw [h]; rfl
  · next h => rw [h, Option.toList_none, List.append_nil, ← h]

/-- The run block of a herd that has stopped. -/
def Run.halted (r : Run) : Run :=
  { r with stopOrigin := none, stopped := true, wantStop := r.wantStop && r.ended.isSome, queued := none
           discarded := r.discarded ++ r.queued.toList }

/-- The cause of HELD after a stop (R836). -/
def Run.haltCause (r : Run) : Cause := if r.thermalStop then .thermal else if r.holdCmd then .command else .herdStop

/-- A stop ends the run of the herd and enters HELD. -/
theorem Work.halt_eq (w : Work) : w.halt =
    ({ w with run := w.run.halted, cad := { w.cad with stopPending := false }
              dev := { w.dev with held := w.run.step.isSome } } : Work).setState .held w.run.haltCause := by
  unfold Work.halt
  simp only [Run.discardQueued_eq]
  split
  · next held => exact (if_pos held.symm).symm
  · rfl

/-- Where its stop is due, a module with a plan halts, and a member reports to the bellwether. -/
theorem exec_herdStop (s : State) (due : s.w.stopDue = true) (hs : s.w.dev.state ∈ [DevState.loaded, .running, .held]) :
    exec .herdStop s = .next { s with w := { s.w.halt with
      out := if s.w.cad.bellwether then s.w.halt.out else s.w.halt.out ++ [Out.report s.ownReport] } } := by
  have state : s.w.dev.state = .loaded ∨ s.w.dev.state = .running ∨ s.w.dev.state = .held := by simpa using hs
  have bell : s.w.halt.cad.bellwether = s.w.cad.bellwether := by simp [Work.halt_eq]
  show execHerdStop s = _
  unfold execHerdStop
  dsimp only
  rw [if_pos due, if_pos state, bell]
  split <;> rfl

end Sys2Proof.Machine

open Sys2Proof Sys2Proof.Machine

/-- Settles O30: the stretch is `Work.stretchOf`, bounded by the largest request (`Run.largest_spec`); a stop is `Work.halt_eq`. -/
theorem stretchAndStop : Obligations.StretchAndStop := by
  unfold Obligations.StretchAndStop
  refine fun origin s => ⟨fun hb hs hc hn ht => ?_, fun due hs => ?_⟩
  · obtain ⟨attained, bound⟩ := s.w.run.largest_spec origin
    refine ⟨_, s.w.stretchOf origin, exec_stretchDecision s origin hb hs hc hn ht, Nat.min_le_right _ _, fun q hq => ?_,
      fun pos => ⟨s.w.run.largest origin, ?_⟩, rfl, rfl, rfl, rfl, rfl, ⟨rfl, rfl, rfl, rfl⟩⟩
    · have := bound q hq
      unfold Work.stretchOf
      omega
    · have excess : s.w.stretchOf origin ≤ s.w.run.largest origin - s.w.run.decided := Nat.min_le_left _ _
      exact ⟨attained.resolve_left (by omega), by omega⟩
  · refine ⟨_, exec_herdStop s due hs, ?_⟩
    rw [s.w.halt_eq]
    simp only [Work.setState_dev_state, Work.setState_run, Work.setState_cad, Work.setState_dev_held, Work.setState_hbm,
      Work.setState_cores, Work.setState_plan]
    refine ⟨trivial, rfl, rfl, trivial, rfl, rfl, rfl, rfl, trivial, fun h => ?_, fun h => ?_, trivial, trivial, trivial,
      ⟨rfl, rfl, rfl, rfl⟩⟩
    · exact Work.setState_dev_cause _ _ (Ne.symm h)
    · simp [h]
end

section
/-!
The physical address map (O60): an address and its stack and place determine each other, so each layer of the map (stack,
channel, byte) is inverted on its own.
-/

namespace Sys2Proof.Machine

/-! ### Stacks (R309 to R311) -/

/-- An address of the interleaved pool: its 4 KiB units go round the twelve stacks. -/
theorem MemSys.stackOf_pool (m : MemSys) {pa : Nat} (h : pa < 12 * (m.splitX.toNat * gib)) :
    m.stackOf pa = (pa / 4096 % 12, pa / 4096 / 12 * 4096 + pa % 4096) := by
  simp [MemSys.stackOf, h]

/-- An address of the home-stack pools: one range per stack, above the stack's share of the interleaved pool. -/
theorem MemSys.stackOf_home (m : MemSys) {pa : Nat} (h : 12 * (m.splitX.toNat * gib) ≤ pa) :
    m.stackOf pa = ((pa - 12 * (m.splitX.toNat * gib)) / (80 * gib - m.splitX.toNat * gib),
      m.splitX.toNat * gib + (pa - 12 * (m.splitX.toNat * gib)) % (80 * gib - m.splitX.toNat * gib)) := by
  simp [MemSys.stackOf, Nat.not_lt.2 h]

/-- The interleaved pool takes the first X GiB of each stack, the stack's home pool what lies above. -/
theorem MemSys.stackOf_lt_iff (m : MemSys) (pa : Nat) :
    (m.stackOf pa).2 < m.splitX.toNat * gib ↔ pa < 12 * (m.splitX.toNat * gib) := by
  by_cases h : pa < 12 * (m.splitX.toNat * gib)
  · simp only [m.stackOf_pool h, h, iff_true]
    unfold gib at *
    omega
  · simp [m.stackOf_home (Nat.not_lt.1 h), h]

/-- The stack and the address within it determine the address. -/
theorem MemSys.stackOf_injective (m : MemSys) : Function.Injective m.stackOf := by
  intro a b hab
  have side : a < 12 * (m.splitX.toNat * gib) ↔ b < 12 * (m.splitX.toNat * gib) := by
    rw [← m.stackOf_lt_iff, ← m.stackOf_lt_iff, hab]
  by_cases h : a < 12 * (m.splitX.toNat * gib)
  · rw [m.stackOf_pool h, m.stackOf_pool (side.1 h), Prod.ext_iff] at hab
    omega
  · have ha := Nat.not_lt.1 h
    have hb := Nat.not_lt.1 (mt side.2 h)
    simp only [m.stackOf_home ha, m.stackOf_home hb, Prod.ext_iff, Nat.add_left_cancel_iff] at hab
    obtain ⟨stack, inner⟩ := hab
    have beyond : a - 12 * (m.splitX.toNat * gib) = b - 12 * (m.splitX.toNat * gib) := by
      rw [← Nat.div_add_mod (a - _) (80 * gib - m.splitX.toNat * gib), stack, inner, Nat.div_add_mod]
    omega

/-- Every address of HBM lies in one of the twelve stacks. -/
theorem MemSys.stackOf_fst_lt (m : MemSys) {pa : Nat} (h : pa < hbmBytes) : (m.stackOf pa).1 < 12 := by
  by_cases hp : pa < 12 * (m.splitX.toNat * gib)
  · simp only [m.stackOf_pool hp]
    omega
  · rw [m.stackOf_home (Nat.not_lt.1 hp)]
    refine Nat.div_lt_of_lt_mul ?_
    unfold hbmBytes at h
    omega

/-- Byte `o` of block `k`, where the blocks are `r` bytes each. -/
theorem block_div_mod (k : Nat) {o r : Nat} (h : o < r) : (k * r + o) / r = k ∧ (k * r + o) % r = o := by
  have quot : (o + k * r) / r = k := by
    rw [Nat.add_mul_div_right _ _ (Nat.zero_lt_of_lt h), Nat.div_eq_of_lt h, Nat.zero_add]
  rw [Nat.mul_add_mod_self_right, Nat.mod_eq_of_lt h, Nat.add_comm, quot]
  exact ⟨rfl, rfl⟩

/-- Byte `o` of the home-stack pool of stack `k`. -/
theorem MemSys.stackOf_home_byte (m : MemSys) (k : Nat) {o : Nat} (ho : o < 80 * gib - m.splitX.toNat * gib) :
    m.stackOf (12 * (m.splitX.toNat * gib) + k * (80 * gib - m.splitX.toNat * gib) + o) = (k, m.splitX.toNat * gib + o) := by
  obtain ⟨quot, rem⟩ := block_div_mod k ho
  rw [m.stackOf_home (Nat.le_add_right_of_le (Nat.le_add_right _ _)), Nat.add_assoc, Nat.add_sub_cancel_left, quot, rem]

/-! ### Channels and bytes (R312, R341) -/

/-- A place lies in the stack of its address. The pair is named first, so that the kernel does not evaluate `stackOf`. -/
@[simp] theorem MemSys.place_stack (m : MemSys) (pa : Nat) : (m.place pa).stack = (m.stackOf pa).1 := by
  obtain ⟨sa, h⟩ : ∃ sa, m.stackOf pa = sa := ⟨_, rfl⟩
  simp only [MemSys.place, h]

/-- The 256-byte units of a stack go round its active channels. -/
theorem MemSys.place_offset (m : MemSys) (pa : Nat) : (m.place pa).offset =
    (m.stackOf pa).2 / 256 / (m.activeList (m.stackOf pa).1).length * 256 + (m.stackOf pa).2 % 256 := by
  rw [MemSys.place]

/-- The channels that a stack's list names are its active ones. -/
theorem MemSys.mem_activeList {m : MemSys} {s c : Nat} :
    c ∈ m.activeList s ↔ c < 32 ∧ (m.stack s).active.getLsbD c = true := by
  simp [MemSys.activeList]

/-- A channel is listed once. -/
theorem MemSys.activeList_nodup (m : MemSys) (s : Nat) : (m.activeList s).Nodup := List.nodup_range.filter _

/-- The active channel that a 256-byte unit of a stack lies in: its number modulo the active channels picks it. -/
theorem MemSys.place_channel (m : MemSys) (pa : Nat) (h : m.activeList (m.stackOf pa).1 ≠ []) :
    (m.place pa).channel = (m.activeList (m.stackOf pa).1)[(m.stackOf pa).2 / 256 % (m.activeList (m.stackOf pa).1).length]'(
      Nat.mod_lt _ (List.length_pos_iff.2 h)) := by
  simp only [MemSys.place]
  exact List.getD_eq_getElem _ _ _

/-- A place lies in an active channel of its stack. -/
theorem MemSys.place_channel_mem (m : MemSys) (pa : Nat) (h : m.activeList (m.stackOf pa).1 ≠ []) :
    (m.place pa).channel ∈ m.activeList (m.stackOf pa).1 := by
  rw [m.place_channel pa h]
  exact List.getElem_mem _

/-- While every stack has an active channel, no two addresses of HBM share a place. -/
theorem MemSys.place_injOn (m : MemSys) (hact : ∀ k < 12, m.activeList k ≠ []) {a b : Nat} (ha : a < hbmBytes)
    (hab : m.place a = m.place b) : a = b := by
  have stack : (m.stackOf a).1 = (m.stackOf b).1 := by simpa using congrArg Place.stack hab
  have ne : m.activeList (m.stackOf b).1 ≠ [] := hact _ (stack ▸ m.stackOf_fst_lt ha)
  have channel := congrArg Place.channel hab
  have offset := congrArg Place.offset hab
  rw [m.place_channel a (stack ▸ ne), m.place_channel b ne] at channel
  simp only [m.place_offset, stack] at channel offset
  have turn := (m.activeList_nodup _).getElem_inj_iff.1 channel
  have round : (m.stackOf a).2 / 256 / (m.activeList (m.stackOf b).1).length =
      (m.stackOf b).2 / 256 / (m.activeList (m.stackOf b).1).length := by omega
  have unit : (m.stackOf a).2 / 256 = (m.stackOf b).2 / 256 := by
    rw [← Nat.div_add_mod ((m.stackOf a).2 / 256), round, turn, Nat.div_add_mod]
  exact m.stackOf_injective (Prod.ext stack (by omega))

/-- A backed address lies within the 2.5 GiB of its channel. -/
theorem MemSys.place_offset_lt (m : MemSys) {pa : Nat} (h : m.backed pa = true) : 2 * (m.place pa).offset < 5 * gib := by
  simp only [MemSys.backed, Bool.decide_and, Bool.and_eq_true, decide_eq_true_eq] at h
  have units : (m.stackOf pa).2 / 256 < (m.activeList (m.stackOf pa).1).length * (5 * gib / 512) := by
    unfold gib at *
    omega
  have round := Nat.div_lt_of_lt_mul units
  rw [m.place_offset]
  unfold gib at *
  omega

end Sys2Proof.Machine

open Sys2Proof Sys2Proof.Machine

/-- Settles O60: the map is injective layer by layer (`MemSys.stackOf_injective`, `MemSys.place_injOn`), and each address's
stack, channel and byte stand within their bounds. -/
theorem addressMap : Obligations.AddressMap := by
  unfold Obligations.AddressMap
  refine fun m hact => ⟨fun a b ha _ hab => m.place_injOn hact ha hab, fun a ha => ?_,
    fun k o _ _ ho => m.stackOf_home_byte k ho⟩
  have stack := m.stackOf_fst_lt ha
  obtain ⟨channel, active⟩ := MemSys.mem_activeList.1 (m.place_channel_mem a (hact _ stack))
  simp only [m.place_stack]
  exact ⟨stack, channel, active, fun hp => by rw [m.stackOf_pool hp], m.place_offset_lt⟩
end

section
/-!
Host accesses (O13): what a read leaves as it was, where a write's bytes stand and which lines it reaches, and that the runs of a
store outside the lines refused share no line.
-/

namespace Sys2Proof.Machine

/-! ### The lines and the bytes of an extent -/

/-- The lines that an extent touches are those of its bytes. -/
theorem mem_linesOf {l pa n : Nat} : l ∈ linesOf pa n ↔ ∃ i < n, (pa + i) / 64 = l := by
  unfold linesOf
  split
  · next h => simp [h]
  · next h =>
    simp only [List.mem_map, List.mem_range]
    constructor
    · rintro ⟨j, hj, rfl⟩
      exact ⟨max (64 * (j + pa / 64)) pa - pa, by omega, by omega⟩
    · rintro ⟨i, hi, rfl⟩
      exact ⟨(pa + i) / 64 - pa / 64, by omega, by omega⟩

/-- The lines that a write covers in part are lines that it touches. -/
theorem partialLines_subset {l pa n : Nat} (h : l ∈ partialLines pa n) : l ∈ linesOf pa n := by
  have ends : 0 < n ∧ (l = pa / 64 ∨ l = (pa + n - 1) / 64) := by
    unfold partialLines at h
    split at h
    · simp at h
    · refine ⟨by omega, (List.mem_append.1 h).imp (fun front => ?_) (fun back => ?_)⟩
      · split at front
        · exact List.mem_singleton.1 front
        · simp at front
      · split at back
        · exact List.mem_singleton.1 back
        · simp at back
  obtain ⟨pos, rfl | rfl⟩ := ends
  · exact mem_linesOf.2 ⟨0, pos, rfl⟩
  · exact mem_linesOf.2 ⟨n - 1, by omega, by congr 1; omega⟩

/-- The bytes of a list, numbered from an address on, as the model's runs number them. -/
theorem zipIdx_map_eq_number (a k : Nat) (bs : List Byte) :
    (bs.zipIdx k).map (fun b => (a + b.2, b.1)) = number (a + k) bs := by
  induction bs generalizing k with
  | nil => rfl
  | cons b bs ih => simpa [number, Nat.add_assoc] using ih (k + 1)

/-- A byte of a numbered list. -/
theorem mem_number {a x : Nat} {b : Byte} {bs : List Byte} : (x, b) ∈ number a bs ↔ ∃ i, bs[i]? = some b ∧ x = a + i := by
  rw [← Nat.add_zero a, ← zipIdx_map_eq_number, Nat.add_zero]
  simp only [List.mem_map, Prod.exists, Prod.ext_iff, List.mk_mem_zipIdx_iff_getElem?]
  constructor
  · rintro ⟨c, i, hi, rfl, rfl⟩
    exact ⟨i, hi, rfl⟩
  · rintro ⟨i, hi, rfl⟩
    exact ⟨b, i, hi, rfl, rfl⟩

/-- Every address of an extent has its byte. -/
theorem exists_mem_number {a x : Nat} {bs : List Byte} (lo : a ≤ x) (hi : x < a + bs.length) : ∃ b, (x, b) ∈ number a bs :=
  ⟨bs[x - a], mem_number.2 ⟨x - a, List.getElem?_eq_getElem (by omega), by omega⟩⟩

/-- The lines of an extent are those of its numbered bytes. -/
theorem mem_linesOf_number {l a : Nat} {bs : List Byte} :
    l ∈ linesOf a bs.length ↔ ∃ x b, (x, b) ∈ number a bs ∧ x / 64 = l := by
  rw [mem_linesOf]
  constructor
  · rintro ⟨i, hi, rfl⟩
    obtain ⟨b, hb⟩ := exists_mem_number (a := a) (x := a + i) (bs := bs) (by omega) (by omega)
    exact ⟨_, b, hb, rfl⟩
  · rintro ⟨x, b, hx, rfl⟩
    have keys := number_keys a bs _ hx
    exact ⟨x - a, by omega, by congr 1; omega⟩

/-! ### What a read of HBM leaves (R328, R330) -/

/-- Two work states that agree in the plan, the bytes of HBM and the counts of refused host accesses. -/
structure Work.SameStored (w v : Work) : Prop where
  plan : v.plan = w.plan
  hbm : v.mem.hbm = w.mem.hbm
  hostReads : v.mem.hostReads = w.mem.hostReads
  hostWrites : v.mem.hostWrites = w.mem.hostWrites

theorem Work.SameStored.refl (w : Work) : w.SameStored w := ⟨rfl, rfl, rfl, rfl⟩

theorem Work.SameStored.trans {a b c : Work} (h : a.SameStored b) (k : b.SameStored c) : a.SameStored c :=
  ⟨k.plan.trans h.plan, k.hbm.trans h.hbm, k.hostReads.trans h.hostReads, k.hostWrites.trans h.hostWrites⟩

/-- An event logged. -/
theorem Work.event_sameStored (w : Work) (kind sev unit sub idx addr data : Nat) :
    w.SameStored (w.event kind sev unit sub idx addr data) := by
  have same := w.event_same kind sev unit sub idx addr data
  exact ⟨same.plan, by rw [same.mem], by rw [same.mem], by rw [same.mem]⟩

/-- A lasting fault. -/
theorem Work.lasting_sameStored (w : Work) (part unit sub idx : Nat) : w.SameStored (w.lasting part unit sub idx) := by
  unfold Work.lasting
  extract_lets part' rel w1 w2 w3
  have logged : w.SameStored w2 := .trans (b := w1) ⟨rfl, rfl, rfl, rfl⟩ (w1.event_sameStored _ _ _ _ _ _ _)
  have marked : w2.SameStored w3 := by
    unfold w3
    split <;> exact ⟨rfl, rfl, rfl, rfl⟩
  have acted := logged.trans marked
  split
  · exact acted.trans ⟨rfl, rfl, rfl, rfl⟩
  · split
    · split
      · exact acted.trans ⟨rfl, rfl, rfl, rfl⟩
      · exact acted
    · exact acted

/-- Events of a part, counted. -/
theorem Work.partEvent_sameStored (w : Work) (part crit unit sub idx n : Nat) :
    w.SameStored (w.partEvent part crit unit sub idx n) := by
  unfold Work.partEvent
  extract_lets r w1
  have counted : w.SameStored w1 := ⟨rfl, rfl, rfl, rfl⟩
  split
  · exact counted.trans (w1.lasting_sameStored _ _ _ _)
  · exact counted

/-- A line read through the decoder. -/
theorem Work.readLine_sameStored (w : Work) (rq l : Nat) : w.SameStored (w.readLine rq l) := by
  unfold Work.readLine
  extract_lets p mem corrected lost logged
  split
  · exact .refl w
  · have counted : w.SameStored corrected := ⟨rfl, rfl, rfl, rfl⟩
    exact (counted.trans (corrected.partEvent_sameStored _ _ _ _ _ _)).trans (Work.partEvent_sameStored _ _ _ _ _ _ _)
  · have counted : w.SameStored lost := ⟨rfl, rfl, rfl, rfl⟩
    exact ((counted.trans (lost.event_sameStored _ _ _ _ _ _ _)).trans (logged.lasting_sameStored _ _ _ _)).trans
      (Work.partEvent_sameStored _ _ _ _ _ _ _)

/-- A read's effects. -/
theorem Work.readEffects_sameStored (w : Work) (rq pa n : Nat) : w.SameStored (w.readEffects rq pa n) :=
  List.foldlRecOn _ _ (.refl w) (fun v hv l _ => hv.trans (v.readLine_sameStored rq l))

/-- A lost line listed. -/
theorem Work.listLost_sameStored (w : Work) (l : Nat) : w.SameStored (w.listLost l) := by
  unfold Work.listLost
  split
  · exact .refl w
  · dsimp only
    split
    · exact .trans (b := { w with mem.lost := w.mem.lost ++ [l] }) ⟨rfl, rfl, rfl, rfl⟩
        (Work.event_sameStored _ _ _ _ _ _ _ _)
    · exact .trans (b := { w with rel.lostListFull := true }) ⟨rfl, rfl, rfl, rfl⟩ (Work.event_sameStored _ _ _ _ _ _ _ _)

/-! ### What a write to HBM reaches (R1092) -/

/-- A write that reached no line but some of HBM, and left the plan and the count of refused stores. -/
structure Work.WrittenIn (ls : List Nat) (w v : Work) : Prop where
  plan : v.plan = w.plan
  hostWrites : v.mem.hostWrites = w.mem.hostWrites
  other : ∀ a, a / 64 ∉ ls → v.mem.hbm.read a = w.mem.hbm.read a

theorem Work.SameStored.writtenIn {w v : Work} (h : w.SameStored v) (ls : List Nat) : w.WrittenIn ls v :=
  ⟨h.plan, h.hostWrites, fun a _ => by rw [h.hbm]⟩

theorem Work.WrittenIn.trans {ls : List Nat} {a b c : Work} (h : a.WrittenIn ls b) (k : b.WrittenIn ls c) : a.WrittenIn ls c :=
  ⟨k.plan.trans h.plan, k.hostWrites.trans h.hostWrites, fun x hx => (k.other x hx).trans (h.other x hx)⟩

/-- A line that a write covers in part changes alone. -/
theorem Work.mergeLine_writtenIn (w : Work) (rq : Nat) {l : Nat} {ls : List Nat} (hl : l ∈ ls) :
    w.WrittenIn ls (w.mergeLine rq l) := by
  unfold Work.mergeLine
  split
  · exact (Work.SameStored.refl w).writtenIn ls
  · extract_lets w1
    have read : w.SameStored w1 := w.readLine_sameStored rq l
    exact (read.writtenIn ls).trans ⟨rfl, rfl, fun _ _ => rfl⟩
  · extract_lets listed w1 mem w2
    have read : w.SameStored w1 := by
      unfold w1
      split
      · exact .refl w
      · exact w.readLine_sameStored rq l
    have zeroed : w1.WrittenIn ls w2 := ⟨rfl, rfl, fun a ha => by
      have other : a / 64 ≠ l := fun e => ha (e ▸ hl)
      exact Memory.read_write_out _ _ _ _ (by rw [length_zeros]; omega)⟩
    have merged := (read.writtenIn ls).trans zeroed
    split
    · exact merged
    · exact merged.trans ((w2.listLost_sameStored l).writtenIn ls)

/-- Copies of rows that start again change the remaps, and nothing else. -/
theorem MemSys.restartCopy_eq (m : MemSys) (pa n : Nat) : ∃ rs, m.restartCopy pa n = { m with remaps := rs } := by
  unfold MemSys.restartCopy
  split
  · exact ⟨m.remaps, rfl⟩
  · exact ⟨_, rfl⟩

/-- A write to HBM is a store of its bytes where its partial lines have been merged; without listed errors there is nothing to
merge. -/
theorem Work.hbmWrite_eq (w : Work) (rq pa : Nat) (bs : List Byte) : ∃ v rs, w.WrittenIn (linesOf pa bs.length) v ∧
    (w.mem.errs = [] → w.mem.lost = [] → v = w) ∧
    w.hbmWrite rq pa bs = { v with mem := { v.mem with remaps := rs, hbm := v.mem.hbm.write pa bs } } := by
  have store (v : Work) : ∃ rs, { v with mem := { (v.mem.restartCopy pa bs.length) with hbm := v.mem.hbm.write pa bs } } =
      { v with mem := { v.mem with remaps := rs, hbm := v.mem.hbm.write pa bs } } := by
    obtain ⟨rs, e⟩ := v.mem.restartCopy_eq pa bs.length
    exact ⟨rs, by rw [e]⟩
  unfold Work.hbmWrite
  extract_lets n parts w1 whole mem v
  obtain ⟨rs, e⟩ := store v
  refine ⟨v, rs, ?_, fun he hl => by simp [v, he, hl], e⟩
  unfold v
  split
  · exact (Work.SameStored.refl w).writtenIn _
  · have merged : w.WrittenIn (linesOf pa bs.length) w1 :=
      List.foldlRecOn _ _ ((Work.SameStored.refl w).writtenIn _)
        (fun v hv l hl => hv.trans (v.mergeLine_writtenIn rq (partialLines_subset hl)))
    exact merged.trans ⟨rfl, rfl, fun _ _ => rfl⟩

/-- A write reaches the lines that it touches. -/
theorem Work.hbmWrite_writtenIn (w : Work) (rq pa : Nat) (bs : List Byte) :
    w.WrittenIn (linesOf pa bs.length) (w.hbmWrite rq pa bs) := by
  obtain ⟨v, rs, written, -, e⟩ := w.hbmWrite_eq rq pa bs
  rw [e]
  refine written.trans ⟨rfl, rfl, fun a ha => Memory.read_write_out _ _ _ _ ?_⟩
  by_contra inside
  exact ha (mem_linesOf.2 ⟨a - pa, by omega, by congr 1; omega⟩)

/-- A write's bytes stand in HBM. -/
theorem Work.hbmWrite_read (w : Work) (rq pa : Nat) (bs : List Byte) {x : Nat} {b : Byte} (h : (x, b) ∈ number pa bs) :
    (w.hbmWrite rq pa bs).mem.hbm.read x = b := by
  obtain ⟨i, hi, rfl⟩ := mem_number.1 h
  obtain ⟨v, rs, -, -, e⟩ := w.hbmWrite_eq rq pa bs
  have inside := (List.getElem?_eq_some_iff.1 hi).1
  rw [e]
  show (v.mem.hbm.write pa bs).read (pa + i) = b
  rw [Memory.read_write, if_pos (by omega), Nat.add_sub_cancel_left, hi, Option.getD_some]

/-! ### The runs of a host store (R351, R831) -/

/-- The runs of a host store that reach HBM: those outside the lines refused. -/
def hostRuns (bad : List Nat) (addr : Nat) (data : List Byte) : List (Nat × List Byte) :=
  if bad.isEmpty then [(addr, data)] else outside bad addr data

/-- The first run of some bytes begins with the first of them. -/
theorem byteRuns_cons (x : Nat × Byte) (xs : List (Nat × Byte)) : ∃ bs rs, byteRuns (x :: xs) = (x.1, x.2 :: bs) :: rs := by
  unfold byteRuns
  split
  · exact ⟨[], [], rfl⟩
  · next a bs rs _ =>
    by_cases h : a = x.1 + 1
    · exact ⟨bs, rs, if_pos h⟩
    · exact ⟨[], (a, bs) :: rs, if_neg h⟩

/-- Runs hold the bytes that they join. -/
theorem byteRuns_flatMap_number (xs : List (Nat × Byte)) : (byteRuns xs).flatMap (fun r => number r.1 r.2) = xs := by
  induction xs with
  | nil => rfl
  | cons x xs ih =>
    unfold byteRuns
    split
    · next h => simpa [number, h] using ih
    · next a bs rs h =>
      rw [h] at ih
      split
      · next adjacent => simp_all [number]
      · simpa [number] using ih

/-- Two runs of which the first lies in lower lines. -/
def Below (r q : Nat × List Byte) : Prop := ∀ l ∈ linesOf r.1 r.2.length, ∀ k ∈ linesOf q.1 q.2.length, l < k

/-- The line of a run's first byte is the lowest. -/
theorem first_line_le {a l : Nat} {bs : List Byte} (h : l ∈ linesOf a bs.length) : a / 64 ≤ l := by
  obtain ⟨i, -, rfl⟩ := mem_linesOf.1 h
  omega

/-- Where bytes follow one another or go on in a higher line, their runs share no line. -/
theorem byteRuns_pairwise_below (xs : List (Nat × Byte))
    (h : xs.IsChain (fun x y => y.1 = x.1 + 1 ∨ x.1 / 64 < y.1 / 64)) : (byteRuns xs).Pairwise Below := by
  induction xs with
  | nil => exact .nil
  | cons x xs ih =>
    cases xs with
    | nil => exact List.pairwise_singleton _ _
    | cons y ys =>
      obtain ⟨next, rest⟩ := List.isChain_cons_cons.1 h
      obtain ⟨bs, rs, e⟩ := byteRuns_cons y ys
      have tail := ih rest
      have first : y.1 / 64 ∈ linesOf y.1 (y.2 :: bs).length := mem_linesOf.2 ⟨0, by simp, rfl⟩
      rw [e] at tail
      obtain ⟨below, apart⟩ := List.pairwise_cons.1 tail
      rw [byteRuns, e]
      dsimp only
      split
      · next adjacent =>
        refine List.pairwise_cons.2 ⟨fun q hq l hl k hk => ?_, apart⟩
        obtain ⟨i, hi, rfl⟩ := mem_linesOf.1 hl
        cases i with
        | zero =>
          have := below q hq _ first k hk
          omega
        | succ i => exact below q hq _ (mem_linesOf.2 ⟨i, by simpa using hi, by rw [adjacent]; congr 1; omega⟩) k hk
      · next gap =>
        have higher : x.1 / 64 < y.1 / 64 := next.resolve_left gap
        refine List.pairwise_cons.2 ⟨fun q hq l hl k hk => ?_, tail⟩
        obtain ⟨i, hi, rfl⟩ := mem_linesOf.1 hl
        have start : i = 0 := by simpa using hi
        have above : y.1 / 64 ≤ k := by
          rcases List.mem_cons.1 hq with rfl | hq
          · exact first_line_le hk
          · exact (below q hq _ first k hk).le
        omega

/-- The bytes of a store outside some lines follow one another or go on in a higher line. -/
theorem number_filter_isChain (ls : List Nat) (a : Nat) (bs : List Byte) :
    ((number a bs).filter (fun x => x.1 / 64 ∉ ls)).IsChain (fun x y => y.1 = x.1 + 1 ∨ x.1 / 64 < y.1 / 64) := by
  induction bs generalizing a with
  | nil => simp [number]
  | cons b bs ih =>
    by_cases refused : a / 64 ∈ ls
    · simpa [number, refused] using ih (a + 1)
    · have kept : (number a (b :: bs)).filter (fun x => x.1 / 64 ∉ ls) =
          (a, b) :: (number (a + 1) bs).filter (fun x => x.1 / 64 ∉ ls) := by simp [number, refused]
      rw [kept]
      refine List.isChain_cons.2 ⟨fun y hy => ?_, ih (a + 1)⟩
      cases bs with
      | nil => simp [number] at hy
      | cons c cs =>
        by_cases after : (a + 1) / 64 ∈ ls
        · obtain ⟨hm, hl⟩ := List.mem_filter.1 (List.mem_of_mem_head? hy)
          have keys := number_keys _ _ _ hm
          have other : y.1 / 64 ≠ (a + 1) / 64 := fun e => by simp [e, after] at hl
          exact .inr (by omega)
        · refine .inl ?_
          simp [number, after] at hy
          rw [← hy]

/-- A byte of a store is in a run that reaches HBM exactly where its line is not refused. -/
theorem mem_hostRuns {bad : List Nat} {addr x : Nat} {data : List Byte} {b : Byte} :
    (∃ r ∈ hostRuns bad addr data, (x, b) ∈ number r.1 r.2) ↔ (x, b) ∈ number addr data ∧ x / 64 ∉ bad := by
  unfold hostRuns
  split
  · next h => simp [List.isEmpty_iff.1 h]
  · rw [← List.mem_flatMap, outside, byteRuns_flatMap_number, zipIdx_map_eq_number, Nat.add_zero]
    simp [List.mem_filter]

/-- The runs of a host store share no line. -/
theorem hostRuns_pairwise_below (bad : List Nat) (addr : Nat) (data : List Byte) : (hostRuns bad addr data).Pairwise Below := by
  unfold hostRuns
  split
  · exact List.pairwise_singleton _ _
  · rw [outside, zipIdx_map_eq_number]
    exact byteRuns_pairwise_below _ (number_filter_isChain bad addr data)

/-- The lines that the runs of a host store touch are those of the store that are not refused. -/
theorem hostRuns_lines {bad : List Nat} {addr l : Nat} {data : List Byte} {r : Nat × List Byte}
    (hr : r ∈ hostRuns bad addr data) (hl : l ∈ linesOf r.1 r.2.length) :
    l ∈ (linesOf addr data.length).filter (· ∉ bad) := by
  obtain ⟨x, b, hx, rfl⟩ := mem_linesOf_number.1 hl
  obtain ⟨stored, taken⟩ := mem_hostRuns.1 ⟨r, hr, hx⟩
  exact List.mem_filter.2 ⟨mem_linesOf_number.2 ⟨x, b, stored, rfl⟩, by simpa using taken⟩

/-- No run of a host store leaves its extent. -/
theorem hostRuns_within {bad : List Nat} {addr a : Nat} {data : List Byte} {r : Nat × List Byte}
    (hr : r ∈ hostRuns bad addr data) (ha : a < addr ∨ addr + data.length ≤ a) : a < r.1 ∨ r.1 + r.2.length ≤ a := by
  by_contra inside
  obtain ⟨b, hb⟩ := exists_mem_number (a := r.1) (x := a) (bs := r.2) (by omega) (by omega)
  have keys := number_keys addr data _ (mem_hostRuns.1 ⟨r, hr, hb⟩).1
  omega

/-! ### Runs written one after the other -/

/-- Runs written to HBM one after the other. -/
def Work.hbmWrites (w : Work) (rq : Nat) (rs : List (Nat × List Byte)) : Work := rs.foldl (fun w r => w.hbmWrite rq r.1 r.2) w

/-- Runs reach the lines that they touch. -/
theorem Work.hbmWrites_writtenIn (w : Work) (rq : Nat) {rs : List (Nat × List Byte)} {ls : List Nat}
    (h : ∀ r ∈ rs, ∀ l ∈ linesOf r.1 r.2.length, l ∈ ls) : w.WrittenIn ls (w.hbmWrites rq rs) :=
  List.foldlRecOn _ _ ((Work.SameStored.refl w).writtenIn ls) (fun v hv r hr => hv.trans
    (let one := v.hbmWrite_writtenIn rq r.1 r.2
     ⟨one.plan, one.hostWrites, fun a ha => one.other a (fun hl => ha (h r hr _ hl))⟩))

/-- The bytes of runs that share no line all stand in HBM. -/
theorem Work.hbmWrites_read (w : Work) (rq : Nat) {rs : List (Nat × List Byte)} (apart : rs.Pairwise Below)
    {r : Nat × List Byte} (hr : r ∈ rs) {x : Nat} {b : Byte} (hx : (x, b) ∈ number r.1 r.2) :
    (w.hbmWrites rq rs).mem.hbm.read x = b := by
  induction rs generalizing w with
  | nil => simp at hr
  | cons q rs ih =>
    obtain ⟨below, rest⟩ := List.pairwise_cons.1 apart
    rcases List.mem_cons.1 hr with rfl | hr
    · have own : x / 64 ∈ linesOf r.1 r.2.length := mem_linesOf_number.2 ⟨x, b, hx, rfl⟩
      have later := (w.hbmWrite rq r.1 r.2).hbmWrites_writtenIn rq (rs := rs)
        (ls := rs.flatMap (fun q => linesOf q.1 q.2.length)) (fun q hq l hl => List.mem_flatMap.2 ⟨q, hq, hl⟩)
      have untouched : x / 64 ∉ rs.flatMap (fun q => linesOf q.1 q.2.length) := fun hl => by
        obtain ⟨q, hq, hl⟩ := List.mem_flatMap.1 hl
        exact (below q hq _ own _ hl).false
      exact (later.other x untouched).trans (w.hbmWrite_read rq r.1 r.2 hx)
    · exact ih _ rest hr

/-- Without listed errors runs change remaps and the bytes that they hold, and nothing else. -/
theorem Work.hbmWrites_clean (w : Work) (rq : Nat) (rs : List (Nat × List Byte)) (he : w.mem.errs = []) (hl : w.mem.lost = []) :
    ∃ ms h, w.hbmWrites rq rs = { w with mem := { w.mem with remaps := ms, hbm := h } } ∧
      ∀ a, (∀ r ∈ rs, a < r.1 ∨ r.1 + r.2.length ≤ a) → h.read a = w.mem.hbm.read a := by
  induction rs generalizing w with
  | nil => exact ⟨w.mem.remaps, w.mem.hbm, rfl, fun _ _ => rfl⟩
  | cons r rs ih =>
    obtain ⟨v, ms, -, same, one⟩ := w.hbmWrite_eq rq r.1 r.2
    cases same he hl
    have cons : w.hbmWrites rq (r :: rs) = (w.hbmWrite rq r.1 r.2).hbmWrites rq rs := rfl
    obtain ⟨ms', h, all, bytes⟩ := ih { w with mem := { w.mem with remaps := ms, hbm := w.mem.hbm.write r.1 r.2 } } he hl
    refine ⟨ms', h, by rw [cons, one, all], fun a ha => ?_⟩
    exact (bytes a (fun q hq => ha q (List.mem_cons_of_mem _ hq))).trans
      (Memory.read_write_out _ _ _ _ (ha r List.mem_cons_self))

/-! ### A host store's runs, written -/

/-- A byte of a host store whose line is not refused stands in HBM. -/
theorem Work.hostRuns_read (w : Work) {bad : List Nat} {addr i : Nat} {data : List Byte} {b : Byte} (hi : data[i]? = some b)
    (taken : (addr + i) / 64 ∉ bad) : (w.hbmWrites 1 (hostRuns bad addr data)).mem.hbm.read (addr + i) = b := by
  obtain ⟨r, hr, hx⟩ := mem_hostRuns.2 ⟨mem_number.2 ⟨i, hi, rfl⟩, taken⟩
  exact w.hbmWrites_read 1 (hostRuns_pairwise_below bad addr data) hr hx

/-- A host store reaches its lines that are not refused. -/
theorem Work.hostRuns_writtenIn (w : Work) (bad : List Nat) (addr : Nat) (data : List Byte) :
    w.WrittenIn ((linesOf addr data.length).filter (· ∉ bad)) (w.hbmWrites 1 (hostRuns bad addr data)) :=
  w.hbmWrites_writtenIn 1 (fun _ hr _ hl => hostRuns_lines hr hl)

/-- Without listed errors a host store changes remaps and the bytes of its extent, and nothing else. -/
theorem Work.hostRuns_clean (w : Work) (bad : List Nat) (addr : Nat) (data : List Byte) (he : w.mem.errs = [])
    (hl : w.mem.lost = []) :
    ∃ ms h, w.hbmWrites 1 (hostRuns bad addr data) = { w with mem := { w.mem with remaps := ms, hbm := h } } ∧
      ∀ a, a < addr ∨ addr + data.length ≤ a → h.read a = w.mem.hbm.read a := by
  obtain ⟨ms, h, all, bytes⟩ := w.hbmWrites_clean 1 (hostRuns bad addr data) he hl
  exact ⟨ms, h, all, fun a out => bytes a (fun _ hr => hostRuns_within hr out)⟩

/-! ### What the environment shows, and the companion's cache -/

/-- Memory with other counts of the host accesses that were refused. -/
def MemSys.counted (m : MemSys) (rd wr : W64) : MemSys := { m with hostReads := rd, hostWrites := wr }

theorem MemSys.strikeLine_counted (m : MemSys) (rd wr : W64) (e : BadLine) :
    (m.counted rd wr).strikeLine e = (m.strikeLine e).counted rd wr := by
  unfold MemSys.strikeLine MemSys.counted
  dsimp only
  split <;> rfl

/-- Memory in which the bytes of a line that is wrong unseen are free values (R326). -/
def MemSys.wronged (m : MemSys) (e : LineErr) : MemSys :=
  if wrongLine e then { m with hbm := m.hbm.undef (64 * e.line) (64 * e.line + 64) m.draws, draws := m.draws + 1 } else m

theorem MemSys.wronged_counted (m : MemSys) (rd wr : W64) (e : LineErr) :
    (m.counted rd wr).wronged e = (m.wronged e).counted rd wr := by
  unfold MemSys.wronged
  split <;> rfl

/-- An error that shows: bytes that go wrong unseen, then what the decoder finds. -/
theorem MemSys.strike_cons (m : MemSys) (e : LineErr) (es : List LineErr) :
    m.strike (e :: es) = ((foundLine e).elim (m.wronged e) (m.wronged e).strikeLine).strike es := by
  unfold MemSys.strike
  rw [List.foldl_cons]
  cases foundLine e <;> rfl

/-- Errors that show neither touch the counts of refused accesses nor look at them. -/
theorem MemSys.strike_counted (m : MemSys) (rd wr : W64) (es : List LineErr) :
    (m.counted rd wr).strike es = (m.strike es).counted rd wr := by
  induction es generalizing m with
  | nil => rfl
  | cons e es ih =>
    rw [MemSys.strike_cons, MemSys.strike_cons, MemSys.wronged_counted, ← ih]
    cases foundLine e with
    | none => rfl
    | some b => exact congrArg (·.strike es) ((m.wronged e).strikeLine_counted rd wr b)

/-- Nor does the rest of what the environment shows. -/
theorem MemSys.see_counted (m : MemSys) (rd wr : W64) (env : Env) :
    (m.counted rd wr).see env = (m.see env).counted rd wr := by
  unfold MemSys.see
  rw [MemSys.strike_counted]
  rfl

/-- Where no line shows an error, only the stacks' corrections are counted. -/
theorem MemSys.see_quiet (m : MemSys) {env : Env} (quiet : env.lines = []) :
    m.see env = { m with odc := m.odc + BitVec.ofNat 64 env.odc } := by
  unfold MemSys.see
  rw [quiet, MemSys.strike_nil]

/-- Lines that the companion caches change what it caches, and nothing else. -/
theorem MemSys.cacheAll_eq (m : MemSys) (ls : List Nat) (modified : Bool) :
    ∃ cs, ls.foldl (fun m l => m.cache l modified) m = { m with cached := cs } := by
  have one (m : MemSys) (l : Nat) : ∃ cs, m.cache l modified = { m with cached := cs } := by
    unfold MemSys.cache
    split <;> split
    · exact ⟨_, rfl⟩
    · exact ⟨m.cached, rfl⟩
    · exact ⟨m.cached, rfl⟩
    · exact ⟨_, rfl⟩
  induction ls generalizing m with
  | nil => exact ⟨m.cached, rfl⟩
  | cons l ls ih =>
    obtain ⟨cs, first⟩ := one m l
    rw [List.foldl_cons, first]
    obtain ⟨cs', rest⟩ := ih { m with cached := cs }
    exact ⟨cs', rest⟩

/-- The class granted at a channel changes the order of its classes, and nothing else. -/
theorem MemSys.rotate_eq (m : MemSys) (ch cls : Nat) : ∃ o, m.rotate ch cls = { m with order := o } := by
  unfold MemSys.rotate
  split
  · exact ⟨_, rfl⟩
  · exact ⟨m.order, rfl⟩

/-! ### A host access at a free channel (R322, R346) -/

/-- Memory as a host access finds it: the refused accesses counted, what the environment shows, and the lines that the companion
caches. -/
def MemSys.hostView (m : MemSys) (rd wr : W64) (env : Env) (ls : List Nat) (modified : Bool) : MemSys :=
  ls.foldl (fun m l => m.cache l modified) ((m.counted rd wr).see env)

theorem MemSys.hostView_eq (m : MemSys) (rd wr : W64) (env : Env) (ls : List Nat) (modified : Bool) :
    ∃ cs, m.hostView rd wr env ls modified = { (m.see env).counted rd wr with cached := cs } := by
  unfold MemSys.hostView
  rw [MemSys.see_counted]
  exact MemSys.cacheAll_eq _ ls modified

/-- What waits is what waited, and an address has the channel that it had. -/
theorem MemSys.hostView_channels (m : MemSys) (rd wr : W64) (env : Env) (ls : List Nat) (modified : Bool) :
    (m.hostView rd wr env ls modified).waiting = m.waiting ∧
      ∀ pa, (m.hostView rd wr env ls modified).channelOf pa = m.channelOf pa := by
  obtain ⟨cs, viewed⟩ := m.hostView_eq rd wr env ls modified
  obtain ⟨h, d, xs, seen⟩ := m.see_eq env
  rw [viewed, seen]
  exact ⟨rfl, fun _ => rfl⟩

/-- A host access at a channel. -/
def hostAcc (ch addr len : Nat) (wr : Bool) (data : List Byte) (bad : List Nat) : UAcc :=
  { channel := ch, cls := 2, write := wr, addr := addr, len := len, data := data, peer := 0, tag := 0, barred := bad }

/-- The work state in which a host access is served: what the environment shows of HBM, the refused accesses counted, and the
companion's cache and the order of the channel's classes as they are by now. -/
def Work.served (w : Work) (rd wr : W64) (env : Env) (cs : List (Nat × Bool)) (o : SMap (List Nat)) : Work :=
  { w with mem := { (w.mem.see env).counted rd wr with cached := cs, order := o } }

/-- A host access whose channel is not claimed, out of its refresh window and not waited for is served at once. -/
theorem State.unscheduled_host (s : State) (addr len : Nat) (wr : Bool) (data : List Byte) (bad : List Nat) (env : Env)
    (ls : List Nat) (reads writes : W64)
    (free : ∀ b ∈ s.w.mem.waiting, b.channel ≠ s.w.mem.channelOf addr)
    (calm : s.refreshing (s.w.mem.channelOf addr) env.clk = false) :
    ∃ cs o, ({ s with w := { s.w with mem := s.w.mem.hostView reads writes env ls wr } } : State).unscheduled
        (hostAcc ((s.w.mem.hostView reads writes env ls wr).channelOf addr) addr len wr data bad) false env.clk =
      (s.w.served reads writes env cs o).serve (hostAcc (s.w.mem.channelOf addr) addr len wr data bad) := by
  obtain ⟨cs, viewed⟩ := s.w.mem.hostView_eq reads writes env ls wr
  obtain ⟨waiting, channel⟩ := s.w.mem.hostView_channels reads writes env ls wr
  obtain ⟨o, rotated⟩ := (s.w.mem.hostView reads writes env ls wr).rotate_eq (s.w.mem.channelOf addr) 2
  refine ⟨cs, o, ?_⟩
  have alone :
      (s.w.mem.hostView reads writes env ls wr).waiting.any (fun b => b.channel = s.w.mem.channelOf addr) = false := by
    rw [waiting]
    simpa using free
  have granted : ¬ (false || s.refreshing (s.w.mem.channelOf addr) env.clk ||
      (s.w.mem.hostView reads writes env ls wr).waiting.any (fun b => b.channel = s.w.mem.channelOf addr)) = true := by
    rw [calm, alone]
    exact Bool.false_ne_true
  rw [channel]
  refine (if_neg granted).trans ?_
  dsimp only [hostAcc]
  rw [rotated, viewed]
  rfl

/-! ### The host's store and load, served -/

/-- Where a store touches no area that R661 names, nothing of the Cumulus pool is lost. -/
theorem Work.hostSpoil_none (w : Work) {pa n : Nat} (h : w.hostSpoils pa n = false) : w.hostSpoil pa n = w := by
  unfold Work.hostSpoils at h
  unfold Work.hostSpoil Work.spoil
  split
  · next a found =>
    rw [found] at h
    have clear : w.spoils a n = false := h
    split
    · rfl
    · split
      · rfl
      · simp [clear]
  · rfl

/-- Which stores touch such an area is the plan's to say. -/
theorem Work.hostSpoils_congr {w v : Work} (h : v.plan = w.plan) (pa n : Nat) : v.hostSpoils pa n = w.hostSpoils pa n := by
  unfold Work.hostSpoils Work.hostAddr Work.spoils Work.policy?
  rw [h]

/-- A host store that touches no area that R661 names writes its runs outside the lines refused. -/
theorem Work.serve_hostStore (w : Work) (ch addr len : Nat) (data : List Byte) (bad : List Nat)
    (clear : w.hostSpoils addr data.length = false) :
    w.serve (hostAcc ch addr len true data bad) = w.hbmWrites 1 (hostRuns bad addr data) := by
  have runs : (if bad.isEmpty then w.hbmWrite 1 addr data
      else (outside bad addr data).foldl (fun w r => w.hbmWrite 1 r.1 r.2) w) = w.hbmWrites 1 (hostRuns bad addr data) := by
    unfold hostRuns
    split <;> rfl
  unfold Work.serve
  simp only [hostAcc, classRequester, runs]
  exact Work.hostSpoil_none _ ((Work.hostSpoils_congr (w.hostRuns_writtenIn bad addr data).plan _ _).trans clear)

/-- A host load delivers the bytes of its lines that are not refused. -/
theorem Work.serve_hostLoad (w : Work) (ch addr len : Nat) (data : List Byte) (bad : List Nat) : ∃ v, w.SameStored v ∧
    w.serve (hostAcc ch addr len false data bad) =
      { v with dev := { v.dev with readData := blank bad addr (w.seenBytes addr len) } } := by
  have read (rs : List (Nat × List Byte)) : w.SameStored (rs.foldl (fun w r => w.readEffects 1 r.1 r.2.length) w) :=
    List.foldlRecOn _ _ (.refl w) (fun v hv r _ => hv.trans (v.readEffects_sameStored 1 r.1 r.2.length))
  unfold Work.serve
  simp only [hostAcc, classRequester]
  refine ⟨_, ?_, rfl⟩
  split
  · exact w.readEffects_sameStored 1 addr len
  · exact read _

/-! ### Lines refused (R350, R351, R832) -/

/-- The lines refused are among those of the access. -/
theorem Work.barredLines_sublist (w : Work) (addr n : Nat) (wr : Bool) : (w.barredLines addr n wr).Sublist (linesOf addr n) := by
  unfold Work.barredLines
  split
  · exact List.nil_sublist _
  · exact List.filter_sublist

/-- An access of which some line is not refused is not one of refused lines alone. -/
theorem Work.not_all_barred (w : Work) {addr n : Nat} {wr : Bool}
    (h : w.barredLines addr n wr = [] ∨ w.barredLines addr n wr ≠ linesOf addr n) :
    ¬ ((w.barredLines addr n wr).length = (linesOf addr n).length ∧ w.barredLines addr n wr ≠ []) := by
  rintro ⟨len, nonempty⟩
  exact h.elim nonempty (fun ne => ne ((w.barredLines_sublist addr n wr).eq_of_length len))

/-- An access of refused lines alone. -/
theorem Work.all_barred (w : Work) {addr n : Nat} {wr : Bool} (pos : 0 < n) (h : w.barredLines addr n wr = linesOf addr n) :
    (w.barredLines addr n wr).length = (linesOf addr n).length ∧ w.barredLines addr n wr ≠ [] := by
  rw [h]
  exact ⟨rfl, List.ne_nil_of_mem (mem_linesOf.2 ⟨0, pos, rfl⟩)⟩

/-- A line of a step-owned region is refused while a step runs. -/
theorem Work.owned_mem_barredLines (w : Work) {p : Plan} {k l addr n : Nat} {r : Reg} (wr : Bool) (hp : w.plan = some p)
    (hl : l ∈ linesOf addr n) (hr : p.regionOf? (64 * l) = some (k, r)) (owned : Reg.owned r = true) (run : w.stepping = true) :
    l ∈ w.barredLines addr n wr := by
  have refused : w.hostRefused (64 * l) wr = true := by simp [Work.hostRefused, hp, hr, owned, run]
  simp [Work.barredLines, hp, hl, refused]

/-! ### The host's commands -/

/-- A host store of which some line is not refused, at a free channel, writes its runs; it touches no area that R661 names. -/
theorem State.hostStore_free (s : State) (addr : Nat) (data : List Byte) (env : Env)
    (free : ∀ b ∈ s.w.mem.waiting, b.channel ≠ s.w.mem.channelOf addr)
    (calm : s.refreshing (s.w.mem.channelOf addr) env.clk = false) (clear : s.w.hostSpoils addr data.length = false)
    (part : s.w.barredLines addr data.length true = [] ∨ s.w.barredLines addr data.length true ≠ linesOf addr data.length) :
    ∃ writes cs o, writes = s.w.mem.hostWrites + BitVec.ofNat 64 (s.w.barredLines addr data.length true).length ∧
      s.hostStore addr data false env =
        (s.w.served s.w.mem.hostReads writes env cs o).hbmWrites 1
          (hostRuns (s.w.barredLines addr data.length true) addr data) := by
  unfold State.hostStore
  rw [if_neg (s.w.not_all_barred part)]
  obtain ⟨cs, o, once⟩ := s.unscheduled_host addr data.length true data (s.w.barredLines addr data.length true) env
    ((linesOf addr data.length).filter (· ∉ s.w.barredLines addr data.length true)) s.w.mem.hostReads
    (s.w.mem.hostWrites + BitVec.ofNat 64 (s.w.barredLines addr data.length true).length) free calm
  exact ⟨_, cs, o, rfl, once.trans (Work.serve_hostStore _ _ _ _ _ _ clear)⟩

/-- A host load of which some line is not refused, at a free channel, delivers the bytes of the lines that are not. -/
theorem State.hostLoad_free (s : State) (addr len : Nat) (env : Env)
    (free : ∀ b ∈ s.w.mem.waiting, b.channel ≠ s.w.mem.channelOf addr)
    (calm : s.refreshing (s.w.mem.channelOf addr) env.clk = false)
    (part : s.w.barredLines addr len false = [] ∨ s.w.barredLines addr len false ≠ linesOf addr len) :
    ∃ reads cs o v, reads = s.w.mem.hostReads + BitVec.ofNat 64 (s.w.barredLines addr len false).length ∧
      (s.w.served reads s.w.mem.hostWrites env cs o).SameStored v ∧
      s.hostLoad addr len false env = { v with
        dev := { v.dev with
          readData := blank (s.w.barredLines addr len false) addr
            ((s.w.served reads s.w.mem.hostWrites env cs o).seenBytes addr len) } } := by
  unfold State.hostLoad
  rw [if_neg (s.w.not_all_barred part)]
  obtain ⟨cs, o, once⟩ := s.unscheduled_host addr len false [] (s.w.barredLines addr len false) env
    ((linesOf addr len).filter (· ∉ s.w.barredLines addr len false))
    (s.w.mem.hostReads + BitVec.ofNat 64 (s.w.barredLines addr len false).length) s.w.mem.hostWrites free calm
  obtain ⟨v, same, delivered⟩ := Work.serve_hostLoad (s.w.served _ _ env cs o) (s.w.mem.channelOf addr) addr len []
    (s.w.barredLines addr len false)
  exact ⟨_, cs, o, v, rfl, same, once.trans delivered⟩

/-- Through an open aperture HOST_WRITE is the host's store. -/
theorem exec_hostWrite (s : State) (addr : Nat) (data : List Byte) (busy : Bool) (env : Env) (aperture : s.apertureOpen = true)
    (fits : addr + data.length ≤ hbmBytes) :
    exec (.hostWrite addr data busy env) s = .next { s with w := s.hostStore addr data busy env } := by
  show execHostWrite addr data busy env s = _
  unfold execHostWrite
  rw [if_neg (Nat.not_lt.2 fits), if_pos aperture]

/-- And HOST_READ its load. -/
theorem exec_hostRead (s : State) (addr len : Nat) (busy : Bool) (env : Env) (aperture : s.apertureOpen = true)
    (fits : addr + len ≤ hbmBytes) :
    exec (.hostRead addr len busy env) s = .next { s with w := s.hostLoad addr len busy env } := by
  show execHostRead addr len busy env s = _
  unfold execHostRead
  rw [if_neg (Nat.not_lt.2 fits), if_pos aperture]

end Sys2Proof.Machine

open Sys2Proof Sys2Proof.Machine

/-- Settles O13: a store is the runs of `hostRuns`, which share no line, so that each byte stands as written
(`Work.hostRuns_read`) and no other line is reached (`Work.hostRuns_writtenIn`); a load is `Work.serve_hostLoad`. -/
theorem hostAccesses : Obligations.HostAccesses := by
  unfold Obligations.HostAccesses
  refine ⟨fun addr len data env s aperture free calm => ⟨fun fits clear part => ?_, fun fits part => ?_⟩,
    fun addr len data busy env s => ⟨fun far => ?_, fun far => ?_,
      fun p k r l wr hp hl hr owned run => s.w.owned_mem_barredLines wr hp hl hr owned run,
      fun aperture => ⟨fun fits pos all => ?_, fun fits nonempty all => ?_⟩⟩⟩
  · obtain ⟨writes, cs, o, count, stored⟩ := s.hostStore_free addr data env free calm clear part
    have written := (s.w.served s.w.mem.hostReads writes env cs o).hostRuns_writtenIn
      (s.w.barredLines addr data.length true) addr data
    refine ⟨_, exec_hostWrite s addr data false env aperture fits, ?_⟩
    dsimp only
    rw [stored]
    refine ⟨fun i b hi taken => Work.hostRuns_read _ hi taken, fun a ha => written.other a (fun reached => ?_),
      written.hostWrites.trans count, written.plan, ⟨rfl, rfl, rfl, rfl⟩, fun errs lost quiet => ?_⟩
    · obtain ⟨touched, taken⟩ := List.mem_filter.1 reached
      exact ha.elim (by simpa using taken) (fun out => out touched)
    · have seen := s.w.mem.see_quiet quiet
      obtain ⟨ms, h, all, bytes⟩ := (s.w.served s.w.mem.hostReads writes env cs o).hostRuns_clean
        (s.w.barredLines addr data.length true) addr data ((congrArg MemSys.errs seen).trans errs)
        ((congrArg MemSys.lost seen).trans lost)
      rw [all]
      have hbm : (s.w.mem.see env).hbm = s.w.mem.hbm := by rw [seen]
      exact ⟨fun a out => (bytes a out).trans (congrArg (·.read a) hbm), rfl, rfl, rfl, rfl⟩
  · obtain ⟨reads, cs, o, v, count, same, loaded⟩ := s.hostLoad_free addr len env free calm part
    refine ⟨_, exec_hostRead s addr len false env aperture fits, ?_⟩
    dsimp only
    rw [loaded]
    exact ⟨rfl, same.hbm, same.hostReads.trans count, same.plan, ⟨rfl, rfl, rfl, rfl⟩⟩
  · show execHostRead addr len busy env s = _
    exact if_pos far
  · show execHostWrite addr data busy env s = _
    exact if_pos far
  · refine ⟨_, exec_hostRead s addr len busy env aperture fits, ?_⟩
    unfold State.hostLoad
    rw [if_pos (s.w.all_barred pos all), all]
    exact ⟨rfl, rfl, rfl, ⟨rfl, rfl, rfl, rfl⟩⟩
  · rw [exec_hostWrite s addr data busy env aperture fits]
    unfold State.hostStore
    rw [if_pos (s.w.all_barred (List.length_pos_iff.2 nonempty) all), all]
end

section
/-!
The tallies (O50): the value of a dyadic number as a rational, a partial placed in a cell's window, the partials of a SWEEP over
unscaled operands, and CLEAR with no partial on its way.
-/

namespace Sys2Proof.Machine

/-! ### The value of a dyadic number -/

/-- The rational that a dyadic number stands for. -/
def Dyad.rat (x : Dyad) : ℚ := x.n * 2 ^ x.e

/-- As a multiple of a smaller power of two a dyadic number has the same value. -/
theorem Dyad.at_mul (x : Dyad) {q : Int} (h : q ≤ x.e) : (x.at q : ℚ) * 2 ^ q = x.rat := by
  have lift : ((x.e - q).toNat : Int) = x.e - q := Int.toNat_of_nonneg (by omega)
  have shift : (2 : ℚ) ^ (x.e - q).toNat * 2 ^ q = 2 ^ x.e := by
    rw [← zpow_natCast, lift, ← zpow_add₀ two_ne_zero, Int.sub_add_cancel]
  rw [Dyad.at, Dyad.rat, ← shift]
  push_cast
  ring

/-- Dyadic numbers are equal when their values are. -/
theorem Dyad.eq_iff (x y : Dyad) : x.eq y = true ↔ x.rat = y.rat := by
  have scale : (2 : ℚ) ^ min x.e y.e ≠ 0 := zpow_ne_zero _ two_ne_zero
  rw [← x.at_mul (min_le_left x.e y.e), ← y.at_mul (min_le_right x.e y.e), mul_left_inj' scale]
  simp [Dyad.eq]

/-- The sum is exact. -/
@[simp] theorem Dyad.add_rat (x y : Dyad) : (x.add y).rat = x.rat + y.rat := by
  rw [← x.at_mul (min_le_left x.e y.e), ← y.at_mul (min_le_right x.e y.e), ← add_mul]
  simp [Dyad.add, Dyad.rat]

/-- Zero has the value zero whatever its exponent. -/
theorem Dyad.rat_zero {x : Dyad} (h : x.n = 0) : x.rat = 0 := by simp [Dyad.rat, h]

/-- Multiples of one power of two add. -/
theorem Dyad.rat_split (a b e : Int) : Dyad.rat ⟨a + b, e⟩ = Dyad.rat ⟨a, e⟩ + Dyad.rat ⟨b, e⟩ := by
  simp [Dyad.rat, add_mul]

/-! ### Rounding a whole number of units (R197) -/

/-- A whole number of units rounds to itself. -/
theorem nearest_exact (m j : Nat) {s : Int} (h : m * 2 ^ s.toNat = j * 2 ^ (-s).toNat) : nearest m 1 s = j := by
  unfold nearest
  dsimp only
  by_cases hs : 0 ≤ s
  · have none : (-s).toNat = 0 := by omega
    rw [none, pow_zero, mul_one] at h
    rw [if_pos hs, if_pos hs, Nat.shiftLeft_eq, h]
    omega
  · have none : s.toNat = 0 := by omega
    rw [none, pow_zero, mul_one] at h
    have pos : 0 < 2 * 2 ^ (-s).toNat := by positivity
    rw [if_neg hs, if_neg hs, Nat.shiftLeft_eq, h, one_mul,
      show 2 * (j * 2 ^ (-s).toNat) + 2 ^ (-s).toNat = 2 ^ (-s).toNat + 2 * 2 ^ (-s).toNat * j by ring,
      Nat.add_mul_div_left _ _ pos, Nat.div_eq_of_lt (by omega), Nat.zero_add]

/-- A dyadic number that is a whole number of units rounds to that number. -/
theorem Dyad.roundAt_exact {x : Dyad} {k q : Int} (h : x.eq ⟨k, q⟩ = true) : x.roundAt q = k := by
  have units : x.n * (2 : Int) ^ (x.e - q).toNat = k * 2 ^ (-(x.e - q)).toNat := by
    have whole : x.at (min x.e q) = Dyad.at ⟨k, q⟩ (min x.e q) := of_decide_eq_true h
    have up : (x.e - min x.e q).toNat = (x.e - q).toNat := by omega
    have down : (q - min x.e q).toNat = (-(x.e - q)).toNat := by omega
    simpa only [Dyad.at, up, down, Nat.cast_pow, Nat.cast_ofNat] using whole
  have mag : x.n.natAbs * 2 ^ (x.e - q).toNat = k.natAbs * 2 ^ (-(x.e - q)).toNat := by
    simpa [Int.natAbs_mul, Int.natAbs_pow] using congrArg Int.natAbs units
  have up : (0 : Int) < 2 ^ (x.e - q).toNat := by positivity
  have down : (0 : Int) < 2 ^ (-(x.e - q)).toNat := by positivity
  have sign : 0 ≤ x.n ↔ 0 ≤ k := by
    rw [← mul_nonneg_iff_of_pos_right up, units, mul_nonneg_iff_of_pos_right down]
  unfold Dyad.roundAt toInt
  rw [nearest_exact _ _ mag]
  dsimp only
  split
  · next neg => have := of_decide_eq_true neg; omega
  · next nonneg => have := of_decide_eq_false (Bool.not_eq_true _ ▸ nonneg); omega

/-! ### A partial placed in its window (R472 to R476) -/

/-- R473's bound on a partial over `n` elements: its magnitude is at most n × 2^(TOP + 38). -/
def Cell.Within (x : Cell) (n : Nat) (v : Dyad) : Prop :=
  let lim := min (x.top.toInt + 38) v.e
  Dyad.at ⟨v.n.natAbs, v.e⟩ lim ≤ Dyad.at ⟨n, x.top.toInt + 38⟩ lim

/-- A cell with OVER set takes nothing (R475). -/
theorem Cell.place_over (x : Cell) (n : Nat) (q : Partial) (h : x.ovf = true) : x.place n q = x := by
  rw [Cell.place, if_pos h]

section
variable {x : Cell} {q : Partial} (n : Nat) (hx : x.ovf = false)
include hx

/-- A partial that is zero leaves the sum. -/
theorem Cell.place_zero (hq : q.v.n = 0) : x.place n q = { x with inexact := x.inexact || q.inexact } := by
  simp [Cell.place, hx, hq]

/-- A partial beyond the bound sets OVER and nothing else of the sum (R475). -/
theorem Cell.place_beyond (hq : q.v.n ≠ 0) (far : ¬ x.Within n q.v) :
    x.place n q = { x with inexact := x.inexact || q.inexact, ovf := true } := by
  unfold Cell.place
  rw [if_neg (by simp [hx]), if_neg hq]
  exact if_pos (Int.not_le.1 far)

/-- A whole number `k` of units within the bound is added to T, and to RES modulo 7 (R472, R498). -/
theorem Cell.place_units {k : Int} (hq : q.v.n ≠ 0) (near : x.Within n q.v) (units : q.v.eq ⟨k, x.top.toInt - 96⟩ = true) :
    x.place n q = { x with
      t := x.t + BitVec.ofInt 160 k
      res := BitVec.ofNat 3 (((x.res.toNat : Int) + k) % 7).toNat
      inexact := x.inexact || q.inexact } := by
  unfold Cell.place
  rw [if_neg (by simp [hx]), if_neg hq]
  refine (if_neg (Int.not_lt.2 near)).trans ?_
  simp [Dyad.roundAt_exact units, units]

end

/-- T after a sum that fits its 160 bits. -/
theorem toInt_add_ofInt (t : BitVec 160) {k : Int} (lo : -(2 ^ 159 : Int) ≤ t.toInt + k) (hi : t.toInt + k < 2 ^ 159) :
    (t + BitVec.ofInt 160 k).toInt = t.toInt + k := by
  rw [BitVec.toInt_add, BitVec.toInt_ofInt, Int.add_bmod_bmod]
  exact Int.bmod_eq_of_le (by simpa using lo) (by simpa using hi)

/-- RES after a sum agrees with T when it did before (R498). -/
theorem residue_add {res : BitVec 3} {t : Int} (k : Int) (h : (res.toNat : Int) = t % 7) :
    ((BitVec.ofNat 3 (((res.toNat : Int) + k) % 7).toNat).toNat : Int) = (t + k) % 7 := by
  rw [BitVec.toNat_ofNat, h]
  omega

/-- A whole number of units within the bound adds its value to the cell's, exactly, and RES goes on agreeing with T. -/
theorem Cell.place_exact {x : Cell} {n : Nat} {q : Partial} {k : Int} (hx : x.ovf = false) (exact : q.inexact = false)
    (near : x.Within n q.v) (units : q.v.eq ⟨k, x.top.toInt - 96⟩ = true) (lo : -(2 ^ 159 : Int) ≤ x.t.toInt + k)
    (hi : x.t.toInt + k < 2 ^ 159) :
    (x.place n q).value.eq (x.value.add q.v) = true ∧ (x.place n q).inexact = x.inexact ∧ (x.place n q).ovf = false ∧
      (x.resOk = true → (x.place n q).resOk = true) := by
  by_cases hq : q.v.n = 0
  · rw [Cell.place_zero n hx hq, exact, Bool.or_false]
    refine ⟨?_, rfl, hx, id⟩
    rw [Dyad.eq_iff, Dyad.add_rat, Dyad.rat_zero hq, add_zero]
  · rw [Cell.place_units n hx hq near units, exact, Bool.or_false]
    have sum := toInt_add_ofInt x.t lo hi
    refine ⟨?_, rfl, hx, fun ok => ?_⟩
    · rw [Dyad.eq_iff, Dyad.add_rat, (Dyad.eq_iff _ _).1 units]
      simp only [Cell.value, Cell.sum, Dyad.add_rat, sum, Dyad.rat_split, add_assoc]
    · simp only [Cell.resOk, decide_eq_true_eq, sum] at ok ⊢
      exact residue_add k ok

/-! ### Intervals of one length (R382) -/

/-- As many intervals of a positive length as `ceilDiv` says reach to the end. -/
theorem le_ceilDiv_mul (n : Nat) {g : Nat} (hg : 0 < g) : n ≤ ceilDiv n g * g := by
  have rest := Nat.mod_lt (n + g - 1) hg
  have whole := Nat.div_add_mod' (n + g - 1) g
  unfold ceilDiv
  omega

/-- The lengths of the first `k` intervals of `n` positions reach as far as the intervals do. -/
theorem sum_interval_lengths (n g k : Nat) :
    ((List.range k).map (fun i => min g (n - i * g))).sum = min (k * g) n := by
  induction k with
  | zero => simp
  | succ k ih =>
    rw [List.range_succ, List.map_append, List.sum_append, ih, Nat.succ_mul, List.map_singleton, List.sum_singleton]
    omega

/-- What lies below `a` and what lies from `a` to `b` sum to what lies below `b`. -/
theorem sum_filter_split {α : Type} (pos : α → Nat) (f : α → Int) (xs : List α) {a b : Nat} (h : a ≤ b) :
    ((xs.filter (fun e => pos e < a)).map f).sum + ((xs.filter (fun e => a ≤ pos e ∧ pos e < b)).map f).sum =
      ((xs.filter (fun e => pos e < b)).map f).sum := by
  induction xs with
  | nil => rfl
  | cons e xs ih =>
    rcases Nat.lt_or_ge (pos e) a with below | above
    · have : ¬ a ≤ pos e := by omega
      have : pos e < b := by omega
      simp [*, ← ih, add_assoc]
    · have : ¬ pos e < a := by omega
      by_cases pos e < b <;> simp [*, ← ih, add_left_comm]

/-- Sums over consecutive intervals of one length are the sum over all of them. -/
theorem sum_intervals {α : Type} (pos : α → Nat) (f : α → Int) (xs : List α) (g k : Nat) :
    ((List.range k).map (fun i => ((xs.filter (fun e => i * g ≤ pos e ∧ pos e < (i + 1) * g)).map f).sum)).sum =
      ((xs.filter (fun e => pos e < k * g)).map f).sum := by
  induction k with
  | zero => simp
  | succ k ih =>
    rw [List.range_succ, List.map_append, List.sum_append, ih, ← sum_filter_split pos f xs (Nat.mul_le_mul_right g (Nat.le_succ k))]
    simp

/-! ### The partials of a SWEEP over unscaled operands (R382, R467, R468) -/

/-- An unscaled element has the scale byte 127. -/
theorem Act.scale_unscaled {act : Act} (h : act.x.g = 0) (m pos : Nat) : act.scale m pos = 127 := by
  simp [Act.scale, TileRow.elem, h]

/-- Under weight exponent 127 on both sides a group's sum counts units of the operands. -/
theorem groupExact_unscaled (u sum : Int) : groupExact u 127 127 sum = { v := ⟨sum, u⟩, c := u } := by
  simp [groupExact]

/-- The first of some elements with scale byte 127, or the default of none, has that scale byte. -/
theorem headD_scale {ws : List WElem} (h : ∀ e ∈ ws, e.e = 127) : (ws.headD ⟨0, 0, 127, 0⟩).e = 127 := by
  cases ws with
  | nil => rfl
  | cons e ws => exact h e (by simp)

/-- Over unscaled operands a SWEEP's output has one partial for each span of the reduction, of that span's products. -/
theorem sweepCol_unscaled {act : Act} {wt : Tensor} {ws : List WElem} (span m : Nat) (ha : act.x.g = 0)
    (hw : wt.g = 0 ∨ wt.sparse = 3) (scale : ∀ e ∈ ws, e.e = 127) :
    sweepCol act wt span m ws = (List.range (ceilDiv (wt.s 0) span)).map (fun g =>
      (min span (wt.s 0 - g * span),
        { v := ⟨((ws.filter (fun e => g * span ≤ e.pos ∧ e.pos < (g + 1) * span)).map (fun e => act.int m e.pos * e.k)).sum,
                act.x.fmt.unit + wt.fmt.unit⟩
          c := act.x.fmt.unit + wt.fmt.unit })) := by
  have group : passGroup act.x.g (if wt.sparse = 3 then 0 else wt.g) span = span := by
    rcases hw with h | h <;> simp [passGroup, ha, h]
  unfold sweepCol
  simp only [group, act.scale_unscaled ha, headD_scale (fun e he => scale e (List.mem_of_mem_filter he)), groupExact_unscaled]

/-- They sum to the dot product and cover the reduction. -/
theorem sweepCol_exact {act : Act} {wt : Tensor} {ws : List WElem} {span : Nat} (m : Nat) (ha : act.x.g = 0)
    (hw : wt.g = 0 ∨ wt.sparse = 3) (hs : 0 < span) (hws : ∀ e ∈ ws, e.e = 127 ∧ e.pos < wt.s 0) :
    ((sweepCol act wt span m ws).map (fun q => q.2.v.n)).sum = (ws.map (fun e => act.int m e.pos * e.k)).sum ∧
      ((sweepCol act wt span m ws).map (·.1)).sum = wt.s 0 := by
  have reach := le_ceilDiv_mul (wt.s 0) hs
  have all : ws.filter (fun e => e.pos < ceilDiv (wt.s 0) span * span) = ws :=
    List.filter_eq_self.2 (fun e he => decide_eq_true ((hws e he).2.trans_le reach))
  rw [sweepCol_unscaled span m ha hw (fun e he => (hws e he).1), List.map_map, List.map_map]
  exact ⟨(sum_intervals WElem.pos _ ws span _).trans (by rw [all]),
    (sum_interval_lengths _ span _).trans (Nat.min_eq_right reach)⟩

/-! ### A firing of one tile step, begun and run -/

/-- A core keeps its local store and its tallies. -/
structure Core.SameTallies (c d : Core) : Prop where
  ls : d.ls = c.ls
  cells : d.cells = c.cells
  rows : d.rows = c.rows
  tables : d.tables = c.tables

theorem Core.SameTallies.trans {a b c : Core} (h : a.SameTallies b) (k : b.SameTallies c) : a.SameTallies c :=
  ⟨k.ls.trans h.ls, k.cells.trans h.cells, k.rows.trans h.rows, k.tables.trans h.tables⟩

/-- Beginning a firing keeps them. -/
theorem Core.Begun.sameTallies {c e : Core} {idx slip stall : Nat} (h : c.Begun idx slip stall e) : c.SameTallies e := by
  obtain ⟨d, x, same, -, rfl⟩ := h
  rw [same.eq]
  exact ⟨rfl, rfl, rfl, rfl⟩

/-- The plan work changes on one core, and elsewhere at most in the moment and the list of unordered writes. -/
structure Work.ChangesCore (core : Nat) (w v : Work) : Prop where
  other : ∀ c, c ≠ core → v.core c = w.core c
  mem : v.mem = w.mem
  dev : v.dev = w.dev
  run : v.run = { w.run with landed := v.run.landed }

/-- A further change of that core. -/
theorem Work.ChangesCore.modCore {core : Nat} {w v : Work} (h : w.ChangesCore core v) (f : Core → Core) :
    w.ChangesCore core (v.modCore core f) :=
  ⟨fun c hc => (v.modCore_other f hc).trans (h.other c hc), h.mem, h.dev, h.run⟩

/-- Setting a firing's times keeps the tallies. -/
theorem Work.schedule_sameTallies (w : Work) (core idx station issued extra : Nat) (t : Times) :
    (w.core core).SameTallies ((w.schedule core idx station issued extra t).core core) := by
  unfold Work.schedule
  rw [Work.modCore_core]
  split <;> exact ⟨rfl, rfl, rfl, rfl⟩

/-- Of the firings in progress it changes its own: the uses to come, and when it may retire. -/
theorem Work.schedule_prog (w : Work) (core idx station issued extra : Nat) (t : Times) :
    ∃ uses n, ((w.schedule core idx station issued extra t).core core).prog =
      ((w.core core).modProg idx (fun x => { x with uses := uses, ends := max x.ends n })).prog := by
  unfold Work.schedule
  rw [Work.modCore_core]
  split <;> exact ⟨_, _, rfl⟩

section
variable (w : Work) (core idx : Nat) (r : Rec) {env : Env} (ht : r.trace = false) (hq : quietEnv env = true)
include ht hq

/-- The firings in progress once one more has begun. -/
theorem Work.begin_prog :
    ∃ late resent, ((w.begin core idx r env).core core).prog =
      (w.core core).prog ++ [{ idx := idx, issued := w.now env.clk, late := late, resent := resent }] := by
  have same := Work.idleUp_sameButIdle { w with cad.offset := w.clkOf env.clk } core (w.now env.clk) (w.core core)
  have prog := congrArg Core.prog same.eq
  unfold Work.begin
  rw [w.observe_quiet core hq, ht, if_neg Bool.false_ne_true]
  simp only [Work.core, Work.modCore, mget_mmod_same, Core.count_prog]
  exact ⟨_, _, congrArg (· ++ _) prog⟩

/-- A firing that issues changes its core. -/
theorem Work.start_changesCore (t : Times) : w.ChangesCore core (w.start core idx r env t) := by
  obtain ⟨e, landed, -, eq⟩ := w.begin_quiet core idx r ht hq
  have begun : w.ChangesCore core (w.begin core idx r env) := by
    rw [eq]
    exact ⟨fun c hc => w.modCore_other (fun _ => e) hc, rfl, rfl, rfl⟩
  exact begun.modCore _

/-- It keeps the core's tallies. -/
theorem Work.start_sameTallies (t : Times) : (w.core core).SameTallies ((w.start core idx r env t).core core) := by
  obtain ⟨e, landed, begun, eq⟩ := w.begin_quiet core idx r ht hq
  have cores : (w.begin core idx r env).cores = (w.modCore core (fun _ => e)).cores := by rw [eq]
  have here : (w.begin core idx r env).core core = e := (Work.core_congr cores core).trans (Work.modCore_core w core _)
  have same := begun.sameTallies
  rw [← here] at same
  exact same.trans (Work.schedule_sameTallies _ core idx _ _ _ t)

/-- It is in progress behind those that were, at its first tile step, and delivers nothing yet. -/
theorem Work.start_prog (t : Times) (fresh : (w.core core).progOf idx = none) :
    ∃ x : Prog, ((w.start core idx r env t).core core).prog = (w.core core).prog ++ [x] ∧
      x.idx = idx ∧ x.pos = 0 ∧ x.stall = none ∧ x.rows = [] := by
  obtain ⟨late, resent, begun⟩ := w.begin_prog core idx r ht hq
  obtain ⟨uses, n, timed⟩ := (w.begin core idx r env).schedule_prog core idx r.station (w.now env.clk)
    (if r.station = 8 then env.held else env.wait) t
  have others (f : Prog → Prog) : (w.core core).prog.map (fun y => if y.idx = idx then f y else y) = (w.core core).prog :=
    List.map_congr_left (fun y hy => if_neg (by simpa using List.find?_eq_none.1 fresh y hy)) |>.trans (List.map_id _)
  rw [Core.modProg, begun, List.map_append, others, List.map_cons, if_pos rfl, List.map_nil] at timed
  exact ⟨_, timed, rfl, rfl, rfl, rfl⟩

end

/-- A job of one tile step that does not wait changes, beyond that step, only how the firing stands. -/
theorem Work.advance_once {w v : Work} {core idx : Nat} {x : Prog} {j : Job} (here : (w.core core).progOf idx = some x)
    (pos : x.pos = 0) (going : x.stall = none) (one : j.n = 1) (ran : j.unit w 0 false = .ok v) :
    ∃ f, w.advance core idx j = v.modCore core (fun c => c.modProg idx f) := by
  have run : j.run 1 0 false w = (v, 1, none) := by simp [Job.run, one, ran]
  unfold Work.advance
  simp only [here, pos, going, one, run, Nat.sub_zero, reduceCtorEq, false_and, if_false, decide_false]
  exact ⟨_, rfl⟩

/-! ### CLEAR (R483, R494) -/

/-- The value at a key of a table after a value is written at some keys. -/
theorem mget_foldl_mset {α : Type} [DecidableEq α] (key : Nat → Nat) (d v : α) (j : Nat) (xs : List Nat) (m : SMap α) :
    mget (xs.foldl (fun m i => mset m d (key i) v) m) d j = if j ∈ xs.map key then v else mget m d j := by
  induction xs generalizing m with
  | nil => rfl
  | cons i xs ih =>
    rw [List.foldl_cons, ih, mget_mset, List.map_cons]
    by_cases rest : j ∈ xs.map key
    · rw [if_pos rest, if_pos (List.mem_cons_of_mem _ rest)]
    · simp only [rest, List.mem_cons, or_false, if_false]

/-- Rows of different arrays have different keys. -/
theorem rowKey_inj {a k i row : Nat} (hi : i < 64) (hr : row < 64) : rowKey k row = rowKey a i ↔ k = a ∧ row = i := by
  unfold rowKey
  omega

section
variable (c : Core) (table pos array : Nat)

/-- The row of a cleared array is valid and its KPOS 0; every other stays. -/
theorem Core.clearArray_trow (k : Nat) {row : Nat} (hr : row < 64) :
    (c.clearArray table pos array).trow k row = if k = array then { valid := true, kpos := 0 } else c.trow k row := by
  have rows : rowKey k row ∈ (List.range 64).map (rowKey array) ↔ k = array := by
    simp only [List.mem_map, List.mem_range]
    constructor
    · rintro ⟨i, hi, same⟩
      exact ((rowKey_inj hi hr).1 same.symm).1
    · rintro rfl
      exact ⟨row, hr, rfl⟩
  simp only [Core.trow, Core.clearArray, mget_foldl_mset, rows]

/-- The cells of a cleared array are empty; every other stays. -/
theorem Core.clearArray_cell (k : Nat) {row col : Nat} (hr : row < 64) (hc : col < 64) :
    mget (c.clearArray table pos array).cells {} (64 * rowKey k row + col) =
      if k = array then {} else mget c.cells {} (64 * rowKey k row + col) := by
  have key : 64 * rowKey k row + col = 4096 * k + (64 * row + col) := by unfold rowKey; ring
  unfold mget Core.clearArray
  dsimp only
  split
  · next same =>
    rw [lookup_filter_neg c.cells (fun x => decide (x < 4096 * array ∨ 4096 * array + 4096 ≤ x)) _ (decide_eq_false (by omega)),
      Option.getD_none]
  · next other =>
    rw [lookup_filter_pos c.cells (fun x => decide (x < 4096 * array ∨ 4096 * array + 4096 ≤ x)) _ (decide_eq_true (by omega))]

/-- The window of a cleared array follows the table; every other stays. -/
theorem Core.clearArray_table (k : Nat) :
    mget (c.clearArray table pos array).tables 0 k = if k = array then table + 256 * pos else mget c.tables 0 k :=
  mget_mset _ _ _ _ _

end

/-- Items of a list without repetition are treated in turn, each with its place, and what is `seen` of item `k` changes only when `k`
is treated: after all of them it is what the place of `k` makes it. -/
theorem foldl_zipIdx_seen {σ β : Type} (seen : σ → β) (treat : σ → Nat × Nat → σ) (k : Nat) (made : Nat → β)
    (one : ∀ s x, seen (treat s x) = if k = x.1 then made x.2 else seen s) {xs : List Nat} (distinct : xs.Nodup) (n : Nat) (s : σ) :
    seen ((xs.zipIdx n).foldl treat s) = if k ∈ xs then made (n + xs.idxOf k) else seen s := by
  induction xs generalizing n s with
  | nil => rfl
  | cons x xs ih =>
    obtain ⟨fresh, rest⟩ := List.nodup_cons.1 distinct
    rw [List.zipIdx_cons, List.foldl_cons, ih rest, one]
    by_cases here : k = x
    · subst here
      simp [fresh]
    · simp [here, List.idxOf_cons_ne _ (Ne.symm here), Nat.add_comm, Nat.add_left_comm]

/-- The arrays that a TALLY firing names, cleared in their order. -/
def Core.clearNamed (c : Core) (r : Rec) : Core :=
  (tallyArrays r).zipIdx.foldl (fun c k => c.clearArray (r.param % 256) k.2 k.1) c

/-- A TALLY firing names an array once. -/
theorem tallyArrays_nodup (r : Rec) : (tallyArrays r).Nodup := List.nodup_range.filter _

section
variable (c : Core) (r : Rec) (k : Nat)

/-- A row after the named arrays are cleared. -/
theorem Core.clearNamed_trow {row : Nat} (hr : row < 64) :
    (c.clearNamed r).trow k row = if k ∈ tallyArrays r then { valid := true, kpos := 0 } else c.trow k row :=
  foldl_zipIdx_seen (fun c => c.trow k row) _ k (fun _ => _) (fun c x => c.clearArray_trow _ x.2 x.1 k hr) (tallyArrays_nodup r) 0 c

/-- A cell after the named arrays are cleared. -/
theorem Core.clearNamed_cell {row col : Nat} (hr : row < 64) (hc : col < 64) :
    mget (c.clearNamed r).cells {} (64 * rowKey k row + col) =
      if k ∈ tallyArrays r then {} else mget c.cells {} (64 * rowKey k row + col) :=
  foldl_zipIdx_seen (fun c => mget c.cells {} (64 * rowKey k row + col)) _ k (fun _ => _)
    (fun c x => c.clearArray_cell _ x.2 x.1 k hr hc) (tallyArrays_nodup r) 0 c

/-- An array's window after the named arrays are cleared. -/
theorem Core.clearNamed_table :
    mget (c.clearNamed r).tables 0 k =
      if k ∈ tallyArrays r then r.param % 256 + 256 * (tallyArrays r).idxOf k else mget c.tables 0 k := by
  have seen := foldl_zipIdx_seen (fun c : Core => mget c.tables 0 k) _ k (fun n => r.param % 256 + 256 * n)
    (fun c x => c.clearArray_table (r.param % 256) x.2 x.1 k) (tallyArrays_nodup r) 0 c
  rwa [Nat.zero_add] at seen

/-- Clearing arrays leaves the local store. -/
theorem Core.clearNamed_ls : (c.clearNamed r).ls = c.ls :=
  List.foldlRecOn _ _ (motive := fun d : Core => d.ls = c.ls) rfl (fun _ same _ _ => same)

end

/-- CLEAR with no partial on its way clears the named arrays and nothing else. -/
theorem clearUnit_calm (p : Plan) (r : Rec) (a : At) (w : Work) (calm : ∀ y ∈ (w.core a.core).prog, y.rows = []) :
    clearUnit p r a w = .ok (w.modCore a.core (fun _ => (w.core a.core).clearNamed r)) := by
  have none : (w.core a.core).prog.flatMap (·.rows) = [] := List.flatMap_eq_nil_iff.2 calm
  have here : mget w.cores {} a.core = w.core a.core := rfl
  simp only [clearUnit, Work.modCore, mmod, here, none, List.filter_nil, List.foldl_nil, Core.clearNamed]

/-- CLEAR that issues with no partial on its way changes its core: the core as the firing's beginning left it, with the named
arrays cleared. -/
theorem exec_clear_calm {s : State} {core idx : Nat} {env : Env} {p : Plan} {r : Rec} (hp : s.w.plan = some p)
    (hr : p.firing? core idx = some r) (hs : r.station = 5) (ho : r.op = 2) (ht : r.trace = false) (hq : quietEnv env = true)
    (hi : s.w.issuable p core idx r env.clk = true) (fresh : (s.w.core core).progOf idx = none)
    (calm : ∀ y ∈ (s.w.core core).prog, y.rows = []) :
    ∃ v c, exec (.clear core idx env) s = .next { s with w := v } ∧ s.w.ChangesCore core v ∧
      (s.w.core core).SameTallies c ∧ (c.clearNamed r).SameTallies (v.core core) := by
  have changes := s.w.start_changesCore core idx r ht hq { free := some 1 }
  have tallies := s.w.start_sameTallies core idx r ht hq { free := some 1 }
  obtain ⟨x, prog, hx, pos, going, quiet⟩ := s.w.start_prog core idx r ht hq { free := some 1 } fresh
  set w := s.w.start core idx r env { free := some 1 }
  have here : (w.core core).progOf idx = some x := by
    rw [Core.progOf, prog, List.find?_append, ← Core.progOf, fresh]
    simp [hx]
  have still : ∀ y ∈ (w.core core).prog, y.rows = [] := by
    rw [prog]
    simpa [or_imp, forall_and, quiet] using calm
  obtain ⟨f, run⟩ := Work.advance_once (j := clearJob p r { core := core, firing := idx, time := s.w.now env.clk }) here pos going
    rfl (clearUnit_calm p r _ w still)
  have issued := (Work.issue_runs hp hr clearJob hs ho hi).trans run
  have executed := (exec_tileRow (i := .clear core idx env) rfl s).trans (congrArg (fun w => Host.Outcome.next { s with w := w }) issued)
  refine ⟨_, w.core core, executed, (changes.modCore _).modCore _, tallies, ?_⟩
  rw [Work.modCore_core, Work.modCore_core]
  exact ⟨rfl, rfl, rfl, rfl⟩

end Sys2Proof.Machine

open Sys2Proof Sys2Proof.Machine

/-- Settles O50: a partial in its window is `Cell.place_exact` and one beyond it `Cell.place_beyond`; a SWEEP's partials are
`sweepCol_unscaled`, which `sweepCol_exact` sums; CLEAR is `Core.clearNamed` on the core that its beginning left
(`exec_clear_calm`). -/
theorem talliesExact : Obligations.TalliesExact := by
  unfold Obligations.TalliesExact
  refine ⟨fun x n q k hx exact => ⟨fun near units lo hi => Cell.place_exact hx exact near units lo hi, fun hq far => ?_,
    Cell.place_over _ n q rfl⟩, fun act wt span m ws ha hw hs hws => ⟨fun q hq => ?_, sweepCol_exact m ha hw hs hws⟩,
    fun core idx env p r s hp hr hs ho ht hq hi fresh calm => ?_⟩
  · rw [Cell.place_beyond n hx hq far]
    exact ⟨rfl, rfl⟩
  · rw [sweepCol_unscaled span m ha hw (fun e he => (hws e he).1)] at hq
    obtain ⟨g, -, rfl⟩ := List.mem_map.1 hq
    exact ⟨rfl, rfl, rfl⟩
  · obtain ⟨v, c, run, changes, before, after⟩ := exec_clear_calm hp hr hs ho ht hq hi fresh calm
    have row (k : Nat) {i : Nat} (hi : i < 64) : (v.core core).trow k i =
        if k ∈ tallyArrays r then { valid := true, kpos := 0 } else (s.w.core core).trow k i := by
      rw [Core.trow, after.rows, ← Core.trow, c.clearNamed_trow r k hi, Core.trow, before.rows, ← Core.trow]
    have cell (k : Nat) {i j : Nat} (hi : i < 64) (hj : j < 64) : mget (v.core core).cells {} (64 * rowKey k i + j) =
        if k ∈ tallyArrays r then {} else mget (s.w.core core).cells {} (64 * rowKey k i + j) := by
      rw [after.cells, c.clearNamed_cell r k hi hj, before.cells]
    refine ⟨_, run, fun k _ hk i hi => ⟨?_, fun j hj => ?_⟩, fun k _ hk => ?_, fun k _ hk i hi => ⟨?_, fun j hj => ?_⟩, ?_,
      changes.other, changes.mem, changes.run, changes.dev, ⟨rfl, rfl, rfl, rfl⟩⟩
    · exact (row k hi).trans (if_pos hk)
    · exact (cell k hi hj).trans (if_pos hk)
    · rw [after.tables, c.clearNamed_table r k, if_pos hk]
    · exact (row k hi).trans (if_neg hk)
    · exact (cell k hi hj).trans (if_neg hk)
    · rw [after.ls, c.clearNamed_ls r, before.ls]
end

section
/-!
Cumulus's tables (O36): what an access of Cumulus to memory leaves unchanged, what fetches and spills leave unchanged, and how a
sequence command is answered with and without a policy.
-/

namespace Sys2Proof.Machine

/-! ### What an access to memory leaves unchanged (R327 to R330, R827, R923) -/

/-- Two work states that agree in everything but what an access to memory can change: memory itself, the device block with what
waits for the Zwinus Link, the reliability block, and what is sent out. -/
structure Work.SameButAccess (w v : Work) : Prop where
  cad : v.cad = w.cad
  cores : v.cores = w.cores
  plan : v.plan = w.plan
  run : v.run = w.run
  scales : v.scales = w.scales
  cum : v.cum = w.cum
  stages : v.stages = w.stages
  net : v.net = w.net
  trace : v.trace = w.trace

theorem Work.SameButAccess.refl (w : Work) : w.SameButAccess w := by constructor <;> rfl

theorem Work.SameButAccess.trans {a b c : Work} (h : a.SameButAccess b) (k : b.SameButAccess c) : a.SameButAccess c where
  cad := k.cad.trans h.cad
  cores := k.cores.trans h.cores
  plan := k.plan.trans h.plan
  run := k.run.trans h.run
  scales := k.scales.trans h.scales
  cum := k.cum.trans h.cum
  stages := k.stages.trans h.stages
  net := k.net.trans h.net
  trace := k.trace.trans h.trace

/-- Messages to the outside change no more than an access does. -/
theorem Work.SamePlanWork.access {w v : Work} (h : w.SamePlanWork v) : w.SameButAccess v :=
  ⟨h.cad, h.cores, h.plan, h.run, h.scales, h.cum, h.stages, h.net, h.trace⟩

/-- Accesses one after the other. -/
theorem Work.SameButAccess.foldl {α : Type} {f : Work → α → Work} (h : ∀ (v : Work) x, v.SameButAccess (f v x)) (w : Work) (xs : List α) :
    w.SameButAccess (xs.foldl f w) :=
  List.foldlRecOn xs f (.refl w) (fun v hv x _ => hv.trans (h v x))

/-- A lasting fault. -/
theorem Work.lasting_access (w : Work) (part unit sub idx : Nat) : w.SameButAccess (w.lasting part unit sub idx) := by
  unfold Work.lasting
  extract_lets part' rel w1 w2 w3
  have logged : w.SameButAccess w2 := .trans (b := w1) (by constructor <;> rfl) (w1.event_same _ _ _ _ _ _ _).access
  have marked : w2.SameButAccess w3 := by
    unfold w3
    split <;> constructor <;> rfl
  refine (logged.trans marked).trans ?_
  split
  · constructor <;> rfl
  · split
    · split
      · constructor <;> rfl
      · exact .refl w3
    · exact .refl w3

/-- Events of a part, counted. -/
theorem Work.partEvent_access (w : Work) (part crit unit sub idx n : Nat) :
    w.SameButAccess (w.partEvent part crit unit sub idx n) := by
  unfold Work.partEvent
  extract_lets r w1
  have counted : w.SameButAccess w1 := by constructor <;> rfl
  split
  · exact counted.trans (w1.lasting_access _ _ _ _)
  · exact counted

/-- A line read through the decoder. -/
theorem Work.readLine_access (w : Work) (rq l : Nat) : w.SameButAccess (w.readLine rq l) := by
  unfold Work.readLine
  extract_lets p mem corrected lost logged
  split
  · exact .refl w
  · have counted : w.SameButAccess corrected := by constructor <;> rfl
    exact (counted.trans (corrected.partEvent_access _ _ _ _ _ _)).trans (Work.partEvent_access _ _ _ _ _ _ _)
  · have counted : w.SameButAccess lost := by constructor <;> rfl
    exact ((counted.trans (lost.event_same _ _ _ _ _ _ _).access).trans (logged.lasting_access _ _ _ _)).trans
      (Work.partEvent_access _ _ _ _ _ _ _)

/-- A read's effects. -/
theorem Work.readEffects_access (w : Work) (rq pa n : Nat) : w.SameButAccess (w.readEffects rq pa n) :=
  .foldl (fun v l => v.readLine_access rq l) w _

/-- A lost line listed. -/
theorem Work.listLost_access (w : Work) (l : Nat) : w.SameButAccess (w.listLost l) := by
  unfold Work.listLost
  split
  · exact .refl w
  · dsimp only
    split
    · exact .trans (b := { w with mem.lost := w.mem.lost ++ [l] }) (by constructor <;> rfl) (Work.event_same _ _ _ _ _ _ _ _).access
    · exact .trans (b := { w with rel.lostListFull := true }) (by constructor <;> rfl) (Work.event_same _ _ _ _ _ _ _ _).access

/-- A line that a write covers in part. -/
theorem Work.mergeLine_access (w : Work) (rq l : Nat) : w.SameButAccess (w.mergeLine rq l) := by
  unfold Work.mergeLine
  split
  · exact .refl w
  · exact (w.readLine_access rq l).trans (by constructor <;> rfl)
  · extract_lets listed w1 mem w2
    have read : w.SameButAccess w1 := by
      unfold w1
      split
      · exact .refl w
      · exact w.readLine_access rq l
    have zeroed : w1.SameButAccess w2 := by constructor <;> rfl
    split
    · exact read.trans zeroed
    · exact (read.trans zeroed).trans (w2.listLost_access l)

/-- A write to HBM. -/
theorem Work.hbmWrite_access (w : Work) (rq pa : Nat) (bs : List Byte) : w.SameButAccess (w.hbmWrite rq pa bs) := by
  unfold Work.hbmWrite
  extract_lets n parts w1 whole mem v
  have merged : w.SameButAccess w1 := .foldl (fun v l => v.mergeLine_access rq l) w _
  have ready : w.SameButAccess v := by
    unfold v
    split
    · exact .refl w
    · exact merged.trans (by constructor <;> rfl)
  exact ready.trans (by constructor <;> rfl)

/-! ### Cumulus's own accesses -/

/-- A read by Cumulus. -/
theorem Work.cumReads_access (w : Work) (a n : Nat) : w.SameButAccess (w.cumReads a n) := by
  unfold Work.cumReads
  split
  · exact .refl w
  · refine .foldl (fun v r => ?_) w _
    split
    · split
      · exact v.readEffects_access _ _ _
      · exact .refl v
    · exact .refl v

/-- A write by Cumulus, to local HBM, to a peer's or to companion memory. -/
theorem Work.cumWrite_access (w : Work) (a : Nat) (bs : List Byte) : w.SameButAccess (w.cumWrite a bs) := by
  unfold Work.cumWrite
  refine .foldl (fun v piece => ?_) w _
  extract_lets data
  split
  · exact .refl v
  · extract_lets t
    split
    · exact v.hbmWrite_access _ _ _
    · constructor <;> rfl
    · exact (v.linkWrite_same _ _).access

/-- Cumulus reading a slot's record, a layer's root and its blocks. -/
theorem Work.tableReads_access (w : Work) (p : Policy) (s l : Nat) : w.SameButAccess (w.tableReads p s l) := by
  unfold Work.tableReads
  split
  · exact .refl w
  · exact ((w.cumReads_access _ _).trans (Work.cumReads_access _ _ _)).trans (.foldl (fun v b => v.cumReads_access _ _) _ _)

/-- With no line in error Cumulus's reading of its tables has no effect. -/
theorem Work.tableReads_of_noErrors {w : Work} (h : w.noErrors) (p : Policy) (s l : Nat) : w.tableReads p s l = w := by
  obtain ⟨errs, lost⟩ := h
  simp [Work.tableReads, errs, lost]

/-- An entry stored. -/
theorem Work.setEnt_access (w : Work) (p : Policy) (s l k x : Nat) : w.SameButAccess (w.setEnt p s l k x) := by
  unfold Work.setEnt
  split
  · exact w.cumWrite_access _ _
  · exact .refl w

/-- A copy's accesses that wait at their channels. -/
theorem Work.queueCopy_access (w : Work) (src dst n : Nat) : w.SameButAccess (w.queueCopy src dst n) := by
  constructor <;> rfl

/-- Requests for a peer's bytes. -/
theorem Work.peerRead_access (w : Work) (a n : Nat) : w.SameButAccess (w.peerRead a n) := by
  unfold Work.peerRead
  refine .foldl (fun v r => ?_) w _
  split
  · split
    · constructor <;> rfl
    · exact .refl v
  · exact .refl v

/-! ### What moves of pages leave unchanged (R699, R701, R703, R704) -/

/-- Two work states that agree in the plan, the run, the cores, the open slots and the batch tables. -/
structure Work.SameTables (w v : Work) : Prop where
  plan : v.plan = w.plan
  run : v.run = w.run
  cores : v.cores = w.cores
  openSlots : v.cum.openSlots = w.cum.openSlots
  batch : v.cum.batch = w.cum.batch
  next : v.cum.next = w.cum.next

theorem Work.SameTables.refl (w : Work) : w.SameTables w := by constructor <;> rfl

theorem Work.SameTables.trans {a b c : Work} (h : a.SameTables b) (k : b.SameTables c) : a.SameTables c where
  plan := k.plan.trans h.plan
  run := k.run.trans h.run
  cores := k.cores.trans h.cores
  openSlots := k.openSlots.trans h.openSlots
  batch := k.batch.trans h.batch
  next := k.next.trans h.next

/-- An access changes no table. -/
theorem Work.SameButAccess.tables {w v : Work} (h : w.SameButAccess v) : w.SameTables v :=
  ⟨h.plan, h.run, h.cores, congrArg Cum.openSlots h.cum, congrArg Cum.batch h.cum, congrArg Cum.next h.cum⟩

/-- Changes one after the other. -/
theorem Work.SameTables.foldl {α : Type} {f : Work → α → Work} (h : ∀ (v : Work) x, v.SameTables (f v x)) (w : Work) (xs : List α) :
    w.SameTables (xs.foldl f w) :=
  List.foldlRecOn xs f (.refl w) (fun v hv x _ => hv.trans (h v x))

/-- A spill started. -/
theorem Work.startSpill_tables (w : Work) (p : Policy) (c : Nat × Nat × Nat) : w.SameTables (w.startSpill p c) := by
  unfold Work.startSpill
  exact .trans (by constructor <;> rfl) (((Work.queueCopy_access _ _ _ _).trans (Work.setEnt_access _ _ _ _ _ _)).tables)

/-- TIER_FULL brought up to date. -/
theorem Work.tierStatus_tables (w : Work) (p : Policy) : w.SameTables (w.tierStatus p) := by constructor <;> rfl

/-- Spills started as far as they are wanted. -/
theorem Work.spill_tables (w : Work) (p : Policy) : w.SameTables (w.spill p) := by
  unfold Work.spill
  split
  · extract_lets w1 want w2
    have read : w.SameTables w1 := .foldl (fun v s => (v.cumReads_access _ _).tables) w _
    have started : w1.SameTables w2 := .foldl (fun v c => v.startSpill_tables p c) w1 _
    exact (read.trans started).trans (.trans (by constructor <;> rfl) (Work.tierStatus_tables _ p))
  · exact .trans (by constructor <;> rfl) (Work.tierStatus_tables _ p)

/-- A fetch started. -/
theorem Work.startFetch_tables (w : Work) (p : Policy) (f : LateEvict) : w.SameTables (w.startFetch p f) := by
  unfold Work.startFetch
  split
  · exact .refl w
  · exact .trans (by constructor <;> rfl)
      (((Work.peerRead_access _ _ _).trans (Work.queueCopy_access _ _ _ _)).trans (Work.setEnt_access _ _ _ _ _ _)).tables

/-- Queued fetches started while pool pages are free. -/
theorem Work.fetches_tables (p : Policy) (n : Nat) (w : Work) : w.SameTables (Work.fetches p n w) := by
  induction n generalizing w with
  | zero => exact .refl w
  | succ n ih =>
    unfold Work.fetches
    split
    · exact .refl w
    · split
      · exact .refl w
      · exact (Work.SameTables.trans (by constructor <;> rfl) (Work.startFetch_tables _ p _)).trans (ih _)

/-- Fetches and spills that go on. -/
theorem Work.cumRun_tables (w : Work) (p : Policy) : w.SameTables (w.cumRun p) :=
  (Work.fetches_tables p _ w).trans (Work.spill_tables _ p)

/-- Spills given up for a slot. -/
theorem Work.keepSpills_tables (w : Work) (s : Nat) : w.SameTables (w.keepSpills s) := by constructor <;> rfl

/-- A slot's spilled pages queued for fetching. -/
theorem Work.queueFetches_tables (w : Work) (p : Policy) (s : Nat) : w.SameTables (w.queueFetches p s) := by
  unfold Work.queueFetches
  extract_lets w1 fs
  have read : (w.keepSpills s).SameTables w1 := .foldl (fun v l => (v.tableReads_access p s l).tables) _ _
  exact ((w.keepSpills_tables s).trans read).trans (by constructor <;> rfl)

/-- What is done for every valid entry of a table. -/
theorem Work.SameTables.forEntries {f : Work → W64 → Work} (h : ∀ (v : Work) e, v.SameTables (f v e)) (w : Work) (t : List W64) :
    w.SameTables (t.foldl (fun w e => if bit e 16 then f w e else w) w) := by
  refine .foldl (fun v e => ?_) w t
  split
  · exact h v e
  · exact .refl v

/-! ### Numbers in a result -/

/-- A field that lies in the front part of a result. -/
theorem leAt_append_left {a : List Byte} (rest : List Byte) {o n : Nat} (h : o + n ≤ a.length) :
    leAt (a ++ rest) o n = leAt a o n := by
  have front : o ≤ a.length := by omega
  rw [leAt, List.drop_append_of_le_length front, List.take_append_of_le_length (by rw [List.length_drop]; omega), ← leAt]

@[simp] theorem Work.length_cumBytes (w : Work) (a n : Nat) : (w.cumBytes a n).length = n := by simp [Work.cumBytes]

/-- A field of bytes at a device address is the number at its own address. -/
theorem Work.leAt_cumBytes (w : Work) (a : Nat) {o n m : Nat} (h : o + n ≤ m) : leAt (w.cumBytes a m) o n = w.cumNum (a + o) n := by
  rw [leAt, Work.cumNum]
  congr 1
  refine List.ext_getElem (by simp; omega) (fun i _ _ => ?_)
  simp [Work.cumBytes, Nat.add_assoc]

/-! ### Sequence commands (R674, R724, R725) -/

/-- Without a policy a sequence command is refused as a state conflict, whatever the state. -/
theorem State.seqCommand_without_policy {s : State} (on : s.w.dev.state ≠ .off) (h : s.w.policy? = none) (ring : Nat)
    (act : Policy → State → Answer) : s.seqCommand ring act = s.reply ring stStateConflict [] := by
  unfold State.seqCommand
  by_cases allowed : s.w.dev.state ∈ [DevState.loaded, .running, .held]
  · rw [State.command_allowed s ring _ _ allowed on, h]
    rfl
  · exact State.command_refused s ring _ _ allowed on

/-- With a policy, in a state that allows it, a sequence command is carried out. -/
theorem State.seqCommand_with_policy {s : State} {c : Policy} (allowed : s.w.dev.state ∈ [DevState.loaded, .running, .held])
    (h : s.w.policy? = some c) (ring : Nat) (act : Policy → State → Answer) :
    s.seqCommand ring act = (act c s).s.reply ring (act c s).status (act c s).result := by
  have on : s.w.dev.state ≠ .off := by
    intro off
    simp [off] at allowed
  unfold State.seqCommand
  rw [State.command_allowed s ring _ _ allowed on, h]

/-- A successful reply touches neither the tables nor another block. -/
theorem State.reply_ok_frame (s : State) {w : Work} (ring : Nat) (result : List Byte) :
    w.SameTables (State.reply { s with w := w } ring stOk result).w ∧ s.SameBlocks (State.reply { s with w := w } ring stOk result) :=
  ⟨(w.reply_same ring stOk result).access.tables, rfl, rfl, rfl, rfl⟩

/-- The bytes that SEQ_INFO answers (R724). -/
def Work.seqInfoBytes (w : Work) (c : Policy) (slot layer : Nat) : List Byte :=
  w.cumBytes (c.root slot layer) 8 ++ w.cumBytes (c.record slot + 0x1C) 4 ++ w.cumBytes (c.record slot + 0x10) 8

/-- SEQ_INFO's bytes are TOKENS and HELD of the layer, SPILLED and LAST_STEP of the slot. -/
theorem Work.seqInfoBytes_fields (w : Work) (c : Policy) (slot layer : Nat) :
    leAt (w.seqInfoBytes c slot layer) 0 4 = w.tokens c slot layer ∧ leAt (w.seqInfoBytes c slot layer) 4 4 = w.held c slot layer ∧
    leAt (w.seqInfoBytes c slot layer) 8 4 = w.cumNum (c.record slot + 0x1C) 4 ∧
    leAt (w.seqInfoBytes c slot layer) 12 8 = w.cumNum (c.record slot + 0x10) 8 := by
  unfold Work.seqInfoBytes
  refine ⟨?_, ?_, ?_, ?_⟩
  · rw [leAt_append_left _ (by simp), leAt_append_left _ (by simp), w.leAt_cumBytes _ (by omega)]
    rfl
  · rw [leAt_append_left _ (by simp), leAt_append_left _ (by simp), w.leAt_cumBytes _ (by omega)]
    rfl
  · rw [leAt_append_left _ (by simp), leAt_skip _ _ _ _ (by simp)]
    exact (w.leAt_cumBytes _ (by simp)).trans (by simp)
  · rw [leAt_skip _ _ _ _ (by simp)]
    exact (w.leAt_cumBytes _ (by simp)).trans (by simp)

section
variable {s : State} {c : Policy} (ring : Nat) (allowed : s.w.dev.state ∈ [DevState.loaded, .running, .held])
  (armed : s.w.policy? = some c)
include allowed armed

/-- SEQ_INFO of a layer of an open slot. -/
theorem exec_seqInfo_open {slot layer : Nat} (isOpen : slot ∈ s.w.cum.openSlots) (hs : slot < 65536) (hl : layer < c.layers) :
    exec (.seqInfo ring slot layer) s =
      .next (State.reply { s with w := s.w.tableReads c slot layer } ring stOk (s.w.seqInfoBytes c slot layer)) := by
  show execSeqInfo ring slot layer s = _
  rw [execSeqInfo, State.seqCommand_with_policy allowed armed, if_neg (by omega), if_neg (not_not.2 isOpen)]
  rfl

/-- SEQ_INFO of a slot that is not open, or of a layer that the policy does not have. -/
theorem exec_seqInfo_bad {slot layer : Nat} (h : slot ∉ s.w.cum.openSlots ∨ c.layers ≤ layer) :
    exec (.seqInfo ring slot layer) s = .next (s.reply ring stBadParam []) := by
  show execSeqInfo ring slot layer s = _
  rw [execSeqInfo, State.seqCommand_with_policy allowed armed]
  split
  · rfl
  · rw [if_pos (h.resolve_right (by omega))]
    rfl

variable {p : Plan} (plan : s.w.plan = some p) {addr bytes : Nat}
include plan

/-- A table that R674 refuses. -/
theorem exec_batchSubmit_bad
    (h : bytes ≠ 8 * c.rows ∨ s.w.batchBad p c (words 64 8 c.rows (s.w.compRead ring addr bytes)) = true) :
    exec (.batchSubmit ring addr bytes) s = .next (s.reply ring stBadParam []) := by
  show execBatchSubmit ring addr bytes s = _
  rw [execBatchSubmit, State.seqCommand_with_policy allowed armed, plan]
  dsimp only
  rw [if_pos h]
  rfl

variable {tab : List W64} (size : bytes = 8 * c.rows) (read : words 64 8 c.rows (s.w.compRead ring addr bytes) = tab)
  (good : s.w.batchBad p c tab = false)
include size read good

/-- While a step runs, or a next table waits, a good table is the next one; fetches begin for its slots (R675, R703). -/
theorem exec_batchSubmit_next (h : s.w.stepping = true ∨ s.w.cum.next.isSome = true) :
    ∃ v, Work.SameTables { s.w with cum.next := some tab } v ∧
      exec (.batchSubmit ring addr bytes) s = .next (State.reply { s with w := v } ring stOk []) := by
  refine ⟨_, .trans (.forEntries (fun v e => v.queueFetches_tables c (batchSlot e)) _ tab) (Work.cumRun_tables _ c), ?_⟩
  show execBatchSubmit ring addr bytes s = _
  rw [execBatchSubmit, State.seqCommand_with_policy allowed armed, plan]
  dsimp only
  rw [read, if_neg (by simp [size, good]), if_pos h]

/-- Otherwise it is in force at once; the pages of its slots that are being spilled stay (R676, R702). -/
theorem exec_batchSubmit_now (h : ¬(s.w.stepping = true ∨ s.w.cum.next.isSome = true)) :
    ∃ v, Work.SameTables { s.w with cum.batch := tab } v ∧
      exec (.batchSubmit ring addr bytes) s = .next (State.reply { s with w := v } ring stOk []) := by
  refine ⟨_, .forEntries (fun v e => v.keepSpills_tables (batchSlot e)) _ tab, ?_⟩
  show execBatchSubmit ring addr bytes s = _
  rw [execBatchSubmit, State.seqCommand_with_policy allowed armed, plan]
  dsimp only
  rw [read, if_neg (by simp [size, good]), if_neg h]

end

end Sys2Proof.Machine

open Sys2Proof Sys2Proof.Machine

/-- Settles O36: SEQ_INFO's bytes are `Work.seqInfoBytes_fields`; a good table is set and then left alone by the fetches and spills
that follow (`Work.cumRun_tables`); without a policy every sequence command is `State.seqCommand_without_policy`. -/
theorem sequenceTables : Obligations.SequenceTables := by
  unfold Obligations.SequenceTables
  intro ring slot layer addr bytes s on
  refine ⟨fun c allowed armed => ⟨fun isOpen hs hl => ?_, exec_seqInfo_bad ring allowed armed, fun p plan =>
    ⟨fun size good => ?_, exec_batchSubmit_bad ring allowed armed plan⟩⟩, fun none ev budget sink recent count i hi => ?_⟩
  · exact ⟨_, exec_seqInfo_open ring allowed armed isOpen hs hl, by simp [Work.seqInfoBytes],
      fun clean => Work.tableReads_of_noErrors clean c slot layer, s.w.seqInfoBytes_fields c slot layer⟩
  · by_cases waits : s.w.run.step.isSome = true ∨ s.w.cum.next.isSome = true
    · obtain ⟨v, set, run⟩ := exec_batchSubmit_next ring allowed armed plan size rfl good waits
      obtain ⟨replied, blocks⟩ := s.reply_ok_frame (w := v) ring []
      have same := set.trans replied
      refine ⟨_, run, ?_, same.openSlots, same.run, same.cores, same.plan, blocks⟩
      rw [if_pos waits]
      exact ⟨same.next, same.batch⟩
    · obtain ⟨v, set, run⟩ := exec_batchSubmit_now ring allowed armed plan size rfl good waits
      obtain ⟨replied, blocks⟩ := s.reply_ok_frame (w := v) ring []
      have same := set.trans replied
      refine ⟨_, run, ?_, same.openSlots, same.run, same.cores, same.plan, blocks⟩
      rw [if_neg waits]
      refine ⟨same.batch, same.next.trans ?_⟩
      simpa using (not_or.1 waits).2
  · have refused := s.seqCommand_without_policy on none ring
    simp only [List.mem_cons, List.not_mem_nil, or_false] at hi
    rcases hi with rfl | rfl | rfl | rfl | rfl <;> exact congrArg Host.Outcome.next (refused _)
end

section
/-!
SEQ_OPEN behind a STORE (O35): the bytes that a STORE has moved are not visible until its time (R24), and a reader finds the bytes
before it until then, whatever Cumulus has written in between.
-/

namespace Sys2Proof.Machine

/-- A policy whose slot records begin at device address 0, with one layer. -/
def openPolicy : Policy := { hdr := BitVec.ofNat 2048 (2 ^ 112), appends := [] }

/-- A region of 32 MiB over HBM from address 0, valid, readable and writable. -/
def openRegion : Reg := BitVec.ofNat 128 (7 + 16 * 2 ^ 67)

/-- A plan with that policy and region. -/
def openPlan : Plan :=
  { header := [], cls := 128, clockSel := 0, tickClk := 7200, herdSize := 1, moduleIndex := 0, stepTicks := 4, planId := 1
    digest := [], cores := [], sections := [], lists := [], descs := [], regions := [openRegion], routes := [], scales := none
    drains := [], policy := some openPolicy, commits := [], switches := [], caps := [], vec := [] }

/-- A STORE of firing 0 of core 0, issued at clk 0, whose bytes in the record of slot 0 are visible from clk 512 on: zeros lay
there before. -/
def recordStore : Landed :=
  { core := 0, firing := 0, from_ := 0, until_ := 512, lo := 0, hi := 64, seen := 512, base := [(0, zeros 64)] }

/-- A module in RUNNING at clk 0 with that plan and that STORE, every slot closed. -/
def storeUnseen : State :=
  { State.reset with w := { dev := { state := .running, linkUp := true }, plan := some openPlan
                            run := { step := some { req := { slot := 0, start := 0 }, number := 0, startTick := 0 }
                                     counting := true, landed := [recordStore] } } }

/-- The region permits reads and writes of its every byte. -/
theorem storeUnseen_permit {a : Nat} (h : a < 33554432) (wr : Bool) : storeUnseen.w.permit a wr = some (0, openRegion) := by
  have valid : Reg.valid openRegion = true := by decide +kernel
  have base : Reg.vbase openRegion = 0 := by decide +kernel
  have size : Reg.size openRegion = 33554432 := by decide +kernel
  have read : Reg.read openRegion = true := by decide +kernel
  have write : Reg.write openRegion = true := by decide +kernel
  cases wr <;> simp [Work.permit, storeUnseen, openPlan, Plan.region?, valid, base, size, read, write, h]

/-- The slot records and layer roots lie in it. -/
theorem storeUnseen_metaOk : storeUnseen.w.metaOk openPolicy := by
  have base : openPolicy.metaBase = 0 := by decide +kernel
  have layers : openPolicy.layers = 1 := by decide +kernel
  refine ⟨⟨rfl, rfl⟩, 0, openRegion, by decide +kernel, by decide +kernel, by decide +kernel, fun a _ h => ?_⟩
  rw [base, layers] at h
  exact ⟨storeUnseen_permit (by omega) false, storeUnseen_permit (by omega) true⟩

/-- SEQ_OPEN of slot 0 succeeds, and a reader still finds the byte that lay at its OPEN field before the STORE. -/
theorem exec_seqOpen_storeUnseen {t : State} (h : exec (.seqOpen 0 0 0 1 0 0) storeUnseen = .next t) :
    t.w.cum.openSlots = [0] ∧ t.w.mem.hbm.read 0 = 1 ∧ t.w.cumNum (openPolicy.record 0) 1 = 0 := by
  obtain rfl := Host.Outcome.next.inj h
  decide +kernel

end Sys2Proof.Machine

open Sys2Proof Sys2Proof.Machine

/-- Refutes O35: SEQ_OPEN writes its record to HBM, yet while a STORE to the record's line is not visible, a read of the line
delivers the bytes before that STORE (R24, log 174), so that the slot's record does not hold what SEQ_OPEN wrote. The statement
asks of the record's region that it permits accesses and has no line in error, not that no STORE to it is under way. -/
theorem not_sequencesOpenClose : ¬ Obligations.SequencesOpenClose := by
  unfold Obligations.SequencesOpenClose
  intro h
  obtain ⟨opens, -⟩ := h 0 0 0 1 0 0 0 openPolicy storeUnseen rfl (by decide) (by decide)
  obtain ⟨closed, -⟩ := opens (by decide) (by decide) (by decide) (by decide) (by decide)
  obtain ⟨t, run, -, -, -, -, -, -, fields⟩ := closed (by decide) (.inl rfl)
  obtain ⟨isOpen, -⟩ := fields storeUnseen_metaOk
  obtain ⟨-, -, before⟩ := exec_seqOpen_storeUnseen run
  exact absurd (before.symm.trans isOpen) (by decide)
end

section
/-!
Lanes, ports, training and the sideband (O57): what a change of one port leaves unchanged, and each command as an update of
that port.
-/

namespace Sys2Proof.Machine

/-! ### What an event sends goes out behind what went out before -/

theorem Work.interrupt_out (w : Work) : ∃ xs, w.interrupt.out = w.out ++ xs := by
  unfold Work.interrupt
  split
  · exact ⟨_, rfl⟩
  · exact ⟨[], (List.append_nil _).symm⟩

theorem Work.raise_out (w : Work) (b : Nat) : ∃ xs, (w.raise b).out = w.out ++ xs := by
  unfold Work.raise
  split
  · exact ⟨[], (List.append_nil _).symm⟩
  · extract_lets d w1
    split
    · exact w1.interrupt_out
    · exact ⟨[], (List.append_nil _).symm⟩

theorem Work.noteRoom_out (w : Work) : ∃ xs, w.noteRoom.out = w.out ++ xs := by
  unfold Work.noteRoom
  split
  · exact ⟨[], (List.append_nil _).symm⟩
  · exact Work.raise_out _ 4

theorem Work.linkWrite_out (w : Work) (addr : Nat) (bs : List Byte) : (w.linkWrite addr bs).out = w.out := by
  unfold Work.linkWrite
  split <;> rfl

theorem Work.note_out (w : Work) (kind core data : Nat) : ∃ xs, (w.note kind core data).out = w.out ++ xs := by
  unfold Work.note
  split
  · extract_lets w1 d w2 t
    obtain ⟨xs, room⟩ := w.noteRoom_out
    have written : w2.out = w.out ++ xs := (w1.linkWrite_out _ _).trans room
    obtain ⟨ys, raised⟩ := Work.raise_out _ 0
    exact ⟨xs ++ ys, by rw [raised, written, List.append_assoc]⟩
  · exact ⟨[], (List.append_nil _).symm⟩

theorem Work.event_out (w : Work) (kind sev unit sub idx addr data : Nat) :
    ∃ xs, (w.event kind sev unit sub idx addr data).out = w.out ++ xs := by
  unfold Work.event
  extract_lets e full d r w1
  obtain ⟨xs, raised⟩ := w1.raise_out 3
  obtain ⟨ys, noted⟩ := (w1.raise 3).note_out 4 0 w.dev.logNext.toNat
  exact ⟨xs ++ ys, by rw [noted, raised, List.append_assoc]⟩

/-! ### The event that abandons a step (R304, R880) -/

/-- A step that is blamed is abandoned. -/
theorem Run.blame_abandon_isSome (r : Run) (status : Nat) (e : StepEvent) : (r.blame status e).abandon.isSome = true := by
  unfold Run.blame
  dsimp only
  split
  · rfl
  · split <;> rfl

/-- The first event to come is the one that abandons it. -/
theorem Run.blame_abandon_first {r : Run} (h : r.abandon = none) (status : Nat) (e : StepEvent) :
    (r.blame status e).abandon = some (BitVec.ofNat 8 status, e) := by
  simp [Run.blame, h]

/-! ### One port changed -/

/-- Two states that agree in everything but a port, the fabric's counts, where the beat comes from, and what messages to the
outside change. -/
structure State.OnlyPort (port : Nat) (s t : State) : Prop where
  ports : ∀ q, q ≠ port → t.fab.port q = s.fab.port q
  dims : t.fab.dims = s.fab.dims
  hbm : t.w.mem.hbm = s.w.mem.hbm
  cores : t.w.cores = s.w.cores
  plan : t.w.plan = s.w.plan
  run : t.w.run = s.w.run
  net : t.w.net = s.w.net
  pwr : t.pwr = s.pwr
  sec : t.sec = s.sec
  pending : t.pending = s.pending

theorem State.OnlyPort.refl (port : Nat) (s : State) : s.OnlyPort port s := by constructor <;> intros <;> rfl

theorem State.OnlyPort.trans {port : Nat} {a b c : State} (h : a.OnlyPort port b) (k : b.OnlyPort port c) : a.OnlyPort port c where
  ports q hq := (k.ports q hq).trans (h.ports q hq)
  dims := k.dims.trans h.dims
  hbm := k.hbm.trans h.hbm
  cores := k.cores.trans h.cores
  plan := k.plan.trans h.plan
  run := k.run.trans h.run
  net := k.net.trans h.net
  pwr := k.pwr.trans h.pwr
  sec := k.sec.trans h.sec
  pending := k.pending.trans h.pending

/-- A port changed in place. -/
theorem State.modPort_onlyPort (s : State) (port : Nat) (g : Port → Port) :
    s.OnlyPort port { s with fab := s.fab.modPort port g } := by
  constructor
  case ports => exact fun q hq => s.fab.modPort_other g hq
  all_goals rfl

/-- A port that enters a state. -/
@[simp] theorem State.portState_port (s : State) (port : Nat) (st : PortSt) :
    (s.portState port st).fab.port port = { s.fab.port port with st := st } := by
  unfold State.portState
  split
  · next same => rw [← same]
  · exact s.fab.modPort_port _ _

@[simp] theorem State.portState_retrans (s : State) (port : Nat) (st : PortSt) :
    (s.portState port st).fab.retrans = s.fab.retrans := by
  unfold State.portState
  split <;> rfl

/-- It is logged, and nothing else changes. -/
theorem State.portState_onlyPort (s : State) (port : Nat) (st : PortSt) : s.OnlyPort port (s.portState port st) := by
  unfold State.portState
  split
  · exact .refl port s
  · constructor
    case ports => exact fun q hq => s.fab.modPort_other _ hq
    case hbm => exact Work.event_hbm _ _ _ _ _ _ _ _
    case cores => exact Work.event_cores _ _ _ _ _ _ _ _
    case plan => exact Work.event_plan _ _ _ _ _ _ _ _
    case run => exact Work.event_run _ _ _ _ _ _ _ _
    case net => exact Work.event_net _ _ _ _ _ _ _ _
    all_goals rfl

theorem State.portState_out (s : State) (port : Nat) (st : PortSt) : ∃ xs, (s.portState port st).w.out = s.w.out ++ xs := by
  unfold State.portState
  split
  · exact ⟨[], (List.append_nil _).symm⟩
  · exact Work.event_out _ _ _ _ _ _ _ _

/-- Where the beat comes from is the cadence's (R104). -/
theorem State.beatFrom_eq (s : State) (port : Nat) :
    ∃ b, s.beatFrom port = { s with w := { s.w with cad.beatPort := b } } := by
  unfold State.beatFrom
  split
  · exact ⟨_, rfl⟩
  · exact ⟨s.w.cad.beatPort, rfl⟩

theorem State.beatFrom_onlyPort (s : State) (port : Nat) : s.OnlyPort port (s.beatFrom port) := by
  obtain ⟨b, e⟩ := s.beatFrom_eq port
  rw [e]
  constructor <;> intros <;> rfl

@[simp] theorem State.beatFrom_fab (s : State) (port : Nat) : (s.beatFrom port).fab = s.fab := by
  obtain ⟨b, e⟩ := s.beatFrom_eq port
  rw [e]

@[simp] theorem State.beatFrom_out (s : State) (port : Nat) : (s.beatFrom port).w.out = s.w.out := by
  obtain ⟨b, e⟩ := s.beatFrom_eq port
  rw [e]

/-! ### Lanes (R736 to R738) -/

/-- A port one of whose active lanes has failed: the spare lane starts its training for it where it is free. -/
def Port.loseLane (p : Port) (lane : Nat) : Port :=
  { p with failed := p.failed ++ [lane]
           takeover := if p.spareUsed ∨ p.spareBad ∨ p.takeover.isSome then p.takeover else some lane }

/-- A state one of whose ports has lost a lane, with the codewords in flight asked for again. -/
def State.loseLane (s : State) (port lane : Nat) : State :=
  { s with fab := { s.fab.modPort port (·.loseLane lane) with retrans := s.fab.retrans + 1 }
           w := { s.w with out := s.w.out ++ [Out.retransmit port] } }

@[simp] theorem State.loseLane_port (s : State) (port lane : Nat) :
    (s.loseLane port lane).fab.port port = (s.fab.port port).loseLane lane :=
  s.fab.modPort_port port (·.loseLane lane)

theorem State.loseLane_onlyPort (s : State) (port lane : Nat) : s.OnlyPort port (s.loseLane port lane) :=
  (s.modPort_onlyPort port (·.loseLane lane)).trans (by constructor <;> intros <;> rfl)

/-- The state after a lane's failure: with fewer than two lanes the port is down, and the beat comes from another (R104, R737). -/
def State.laneLost (s : State) (port lane : Nat) : State :=
  if ((s.fab.port port).loseLane lane).lanes < 2 then ((s.loseLane port lane).portState port .down).beatFrom port
  else s.loseLane port lane

theorem State.laneLost_onlyPort (s : State) (port lane : Nat) : s.OnlyPort port (s.laneLost port lane) := by
  have lost := s.loseLane_onlyPort port lane
  unfold State.laneLost
  split
  · exact (lost.trans (State.portState_onlyPort _ port .down)).trans (State.beatFrom_onlyPort _ port)
  · exact lost

theorem State.laneLost_port (s : State) (port lane : Nat) : (s.laneLost port lane).fab.port port =
    { (s.fab.port port).loseLane lane with
      st := if ((s.fab.port port).loseLane lane).lanes < 2 then .down else (s.fab.port port).st } := by
  unfold State.laneLost
  split <;> simp [Port.loseLane]

theorem State.laneLost_retrans (s : State) (port lane : Nat) : (s.laneLost port lane).fab.retrans = s.fab.retrans + 1 := by
  unfold State.laneLost
  split
  · simp [State.loseLane]
  · rfl

theorem State.laneLost_out (s : State) (port lane : Nat) : Out.retransmit port ∈ (s.laneLost port lane).w.out := by
  have asked : Out.retransmit port ∈ (s.loseLane port lane).w.out := by simp [State.loseLane]
  unfold State.laneLost
  split
  · obtain ⟨xs, sent⟩ := (s.loseLane port lane).portState_out port .down
    rw [State.beatFrom_out, sent]
    exact List.mem_append_left _ asked
  · exact asked

theorem exec_laneFailure {s : State} {port lane : Nat} (hl : lane < 4) (up : (s.fab.port port).st = .up)
    (fresh : lane ∉ (s.fab.port port).failed) :
    exec (.laneFailure port lane) s = .next (s.laneLost port lane) := by
  have active : ¬((s.fab.port port).st ≠ .up ∨ 4 < lane ∨ lane ∈ (s.fab.port port).failed ∨
      (lane = 4 ∧ (s.fab.port port).spareBad = true)) := by
    rintro (h | h | h | ⟨h, -⟩)
    · exact h up
    · omega
    · exact fresh h
    · omega
  have lost : (fun p : Port => if lane = 4 ∧ !p.spareUsed then { p with spareBad := true, takeover := none } else p.loseLane lane) =
      (·.loseLane lane) := by
    funext p
    rw [if_neg (fun h => by omega)]
  rw [State.laneLost, ← s.loseLane_port, State.loseLane, ← lost]
  show execLaneFailure port lane s = _
  unfold execLaneFailure
  exact congrArg Host.Outcome.next (if_neg active)

/-! ### Training (R740 to R742) -/

/-- Ports belong to the six bonds, or are spares, and have one of six indices there. -/
theorem portBond_portIndex_lt : ∀ port < 40, portBond port < 7 ∧ portIndex port < 6 := by decide +kernel

/-- A port that finishes training, where no repair record stands against it. -/
def Port.train (p : Port) (port raw nb nbPort : Nat) : Port :=
  { p with rawNs := BitVec.ofNat 16 raw, cabled := decide (200 < raw), linkedN := false
           neighbour := BitVec.ofNat 10 nb, neighbourPort := BitVec.ofNat 6 nbPort
           bond := if raw ≤ 400 then BitVec.ofNat 3 (portBond port) else 7
           bondIndex := if raw ≤ 400 ∧ portBond port ≠ 7 then BitVec.ofNat 3 (portIndex port) else 0 }

/-- The state that a port takes at the end of its training (R741, R742). -/
def trainedState (port raw : Nat) : PortSt := if 400 < raw then .tooLong else if portBond port = 6 then .idleSpare else .up

/-- The state after a port has finished its training (R801). -/
def State.linkTrained (s : State) (port raw nb nbPort : Nat) : State :=
  let u := s.portState port (trainedState port raw)
  let fab := u.fab.modPort port (·.train port raw nb nbPort)
  { u with fab := { fab with trained := fab.allTrained } }

theorem State.linkTrained_onlyPort (s : State) (port raw nb nbPort : Nat) :
    s.OnlyPort port (s.linkTrained port raw nb nbPort) :=
  ((s.portState_onlyPort port (trainedState port raw)).trans
    (State.modPort_onlyPort _ port (·.train port raw nb nbPort))).trans (by constructor <;> intros <;> rfl)

theorem State.linkTrained_port (s : State) (port raw nb nbPort : Nat) :
    (s.linkTrained port raw nb nbPort).fab.port port =
      { (s.fab.port port).train port raw nb nbPort with st := trainedState port raw } := by
  refine (Fab.modPort_port _ port (·.train port raw nb nbPort)).trans ?_
  rw [s.portState_port]
  rfl

theorem exec_linkTrained {s : State} {port : Nat} (hp : port < 40) (training : (s.fab.port port).st = .training)
    (noPorts : s.w.rel.portSpares = []) (noLanes : s.w.rel.laneSpares = []) (raw nb nbPort : Nat) :
    exec (.linkTrained port raw nb nbPort) s = .next (s.linkTrained port raw nb nbPort) := by
  have known : ¬(40 ≤ port ∨ (s.fab.port port).st ≠ .training) := by
    rw [not_or, not_not]
    exact ⟨by omega, training⟩
  show execLinkTrained port raw nb nbPort s = _
  unfold execLinkTrained
  rw [if_neg known]
  simp only [noPorts, noLanes, List.find?_nil, List.any_nil, Option.map_none, Option.getD_none, Option.isSome_none, Bool.or_false,
    Bool.false_eq_true, if_false]
  rfl

/-! ### The sideband (R1074 to R1077) -/

/-- A state one of whose ports finds new levels of its incoming sideband. -/
def State.sideband (s : State) (port : Nat) (alive linked : Bool) : State :=
  { s with fab := s.fab.modPort port (fun p => { p with aliveIn := alive, linkedIn := linked }) }

theorem State.sideband_onlyPort (s : State) (port : Nat) (alive linked : Bool) : s.OnlyPort port (s.sideband port alive linked) :=
  s.modPort_onlyPort port _

@[simp] theorem State.sideband_port (s : State) (port : Nat) (alive linked : Bool) :
    (s.sideband port alive linked).fab.port port = { s.fab.port port with aliveIn := alive, linkedIn := linked } :=
  s.fab.modPort_port port _

/-- Which bonds a plan uses is the shape of the herd to say. -/
theorem State.OnlyPort.usedBond {port : Nat} {s t : State} (h : s.OnlyPort port t) (bond : Nat) : t.usedBond bond = s.usedBond bond := by
  unfold State.usedBond
  rw [h.dims]

/-- A step abandoned because the peer behind a port is lost (R771). -/
def State.missPeer (s : State) (p : Port) : State :=
  let e : StepEvent := { time := s.w.cad.time, core := 0, firing := 0, which := p.neighbour.toNat }
  { s with w := { s.w with run := s.w.run.blame stPeerLost e } }

/-- A port in use whose neighbour's ALIVE_N rises: what it leaves before the peer is missed. -/
def State.portGone (s : State) (port : Nat) (linked : Bool) : State :=
  ((s.sideband port true linked).portState port .absent).beatFrom port

theorem State.portGone_onlyPort (s : State) (port : Nat) (linked : Bool) : s.OnlyPort port (s.portGone port linked) :=
  ((s.sideband_onlyPort port true linked).trans (State.portState_onlyPort _ port .absent)).trans (State.beatFrom_onlyPort _ port)

@[simp] theorem State.portGone_port (s : State) (port : Nat) (linked : Bool) :
    (s.portGone port linked).fab.port port = { s.fab.port port with st := .absent, aliveIn := true, linkedIn := linked } := by
  simp [State.portGone]

/-- Where its bond is used during a step, the peer is lost. -/
theorem exec_sidebandChange_rise {s : State} {port : Nat} (hp : port < 40) (up : (s.fab.port port).st = .up) (linked : Bool) :
    exec (.sidebandChange port true linked) s = .next
      (let t := s.portGone port linked
       if s.w.stepping = true ∧ s.usedBond (s.fab.port port).bond.toNat = true then
         t.missPeer (s.fab.port port)
       else t) := by
  have stepping : (s.portGone port linked).w.stepping = s.w.stepping :=
    congrArg (fun r : Run => r.step.isSome) (s.portGone_onlyPort port linked).run
  have used := (s.portGone_onlyPort port linked).usedBond (s.fab.port port).bond.toNat
  have far : ¬ 40 ≤ port := by omega
  rw [← stepping, ← used]
  show execSidebandChange port true linked s = _
  unfold execSidebandChange
  simp only [if_neg far, up, reduceCtorEq, or_self, if_false, if_true, and_true]
  rfl

/-- A port that was absent or down trains once ALIVE_N falls. -/
theorem exec_sidebandChange_fall {s : State} {port : Nat} (hp : port < 40)
    (idle : (s.fab.port port).st = .absent ∨ (s.fab.port port).st = .down) (linked : Bool) :
    exec (.sidebandChange port false linked) s = .next
      (((s.sideband port false linked).beatFrom port).portState port .training) := by
  have far : ¬ 40 ≤ port := by omega
  have off : ((s.sideband port false linked).fab.port port).working = false := by
    rcases idle with h | h <;> simp [Port.working, h]
  show execSidebandChange port false linked s = _
  unfold execSidebandChange
  rw [if_neg far]
  show Host.Outcome.next (if (s.fab.port port).st = .absent ∨ (s.fab.port port).st = .down then
      (if ((s.sideband port false linked).fab.port port).working = true then s.sideband port false linked
        else (s.sideband port false linked).beatFrom port).portState port .training
    else _) = _
  rw [if_pos idle, off]
  rfl

end Sys2Proof.Machine

open Sys2Proof Sys2Proof.Machine

/-- Settles O57: each command is one update of its port (`State.laneLost_port`, `State.linkTrained_port`, `State.portGone_port`,
`State.portState_port`) that leaves everything else (`State.OnlyPort`); a lost peer is `Run.blame_abandon_first`. -/
theorem portsChange : Obligations.PortsChange := by
  unfold Obligations.PortsChange
  intro port s P others
  have frame {t : State} (h : s.OnlyPort port t) : others t :=
    ⟨h.ports, h.hbm, h.cores, h.plan, h.net, h.pwr, h.sec, h.pending⟩
  refine ⟨fun lane hl up fresh => ?_, fun l _ training => ?_, fun idle => ?_, fun raw nb nbPort hp training noPorts noLanes hraw => ?_,
    fun linked hp => ⟨fun up => ?_, fun idle => ?_⟩⟩
  · have lanes : (P.loseLane lane).lanes = 4 - (P.failed.length + 1) + b2n P.spareUsed := by
      simp [Port.lanes, Port.loseLane]
    refine ⟨_, exec_laneFailure hl up fresh, frame (s.laneLost_onlyPort port lane), ?_⟩
    rw [s.laneLost_port, ← lanes, show (s.fab.port port).st = .up from up]
    refine ⟨rfl, rfl, fun free good idle => ?_, fun taken => ?_, rfl, s.laneLost_retrans port lane, s.laneLost_out port lane⟩
    · exact if_neg (by simp [free, good, idle, show s.fab.port port = P from rfl])
    · exact if_pos (by rw [← or_assoc]; exact .inl taken)
  · refine ⟨_, rfl, rfl, frame (s.modPort_onlyPort port _), (s.fab.modPort_port port _).trans ?_⟩
    rw [show (s.fab.port port).takeover = some l from training]
  · refine ⟨_, rfl, rfl, frame (s.modPort_onlyPort port _), (s.fab.modPort_port port _).trans ?_⟩
    rw [show (s.fab.port port).takeover = none from idle]
  · obtain ⟨bond, index⟩ := portBond_portIndex_lt port hp
    refine ⟨_, exec_linkTrained hp training noPorts noLanes raw nb nbPort, frame (s.linkTrained_onlyPort port raw nb nbPort), ?_⟩
    simp only [s.linkTrained_port]
    refine ⟨Nat.mod_eq_of_lt hraw, rfl, rfl, rfl, rfl, fun near => ⟨?_, ?_⟩, rfl⟩
    · simp only [Port.train, if_pos near, BitVec.toNat_ofNat]
      omega
    · have known : raw ≤ 400 ∧ portBond port ≠ 7 := ⟨near, by omega⟩
      simp only [Port.train, if_pos known, BitVec.toNat_ofNat]
      omega
  · have gone := s.portGone_onlyPort port linked
    have entered := s.portGone_port port linked
    refine ⟨_, exec_sidebandChange_rise hp up linked, ?_⟩
    split
    · next missed =>
      have missing : others ((s.portGone port linked).missPeer P) := frame (t := s.portGone port linked) gone
      refine ⟨missing, congrArg Port.st entered, congrArg Port.aliveIn entered, congrArg Port.linkedIn entered,
        fun _ _ => ⟨Run.blame_abandon_isSome _ _ _, fun first => ⟨_, Run.blame_abandon_first (gone.run ▸ first) _ _, rfl⟩⟩,
        fun unused => ?_⟩
      rcases unused with h | h
      · simp [h] at missed
      · simp [h, P] at missed
    · next kept =>
      exact ⟨frame gone, congrArg Port.st entered, congrArg Port.aliveIn entered, congrArg Port.linkedIn entered,
        fun step used => absurd ⟨step, used⟩ kept, fun _ => gone.run⟩
  · have aside := s.sideband_onlyPort port false linked
    have change := (aside.trans (State.beatFrom_onlyPort _ port)).trans (State.portState_onlyPort _ port .training)
    refine ⟨_, exec_sidebandChange_fall hp idle linked, frame change, ?_⟩
    rw [State.portState_port, State.beatFrom_fab, State.sideband_port]
    exact ⟨rfl, rfl, rfl, change.run⟩
end

section
/-!
A grant to Cumulus (O55): its accesses are those of a copy, whose bytes move when the copy is over and not at a grant (R686,
R706).
-/

namespace Sys2Proof.Machine

/-- Memory after a grant at a channel, before the access is served: its class has the lowest priority, and it waits no longer. -/
def MemSys.afterGrant (m : MemSys) (ch wait : Nat) (env : Env) (a : UAcc) : MemSys :=
  let r := (m.see env).rotate ch a.cls
  { r with waiting := r.waiting.erase a, waitMax := BitVec.ofNat 64 (max r.waitMax.toNat wait) }

/-- Where no line shows an error, its bytes are what they were. -/
theorem MemSys.afterGrant_hbm (m : MemSys) (ch wait : Nat) {env : Env} (a : UAcc) (quiet : env.lines = []) :
    (m.afterGrant ch wait env a).hbm = m.hbm := by
  simp [MemSys.afterGrant, MemSys.see_quiet m quiet]

/-- Out of its refresh window a channel serves the access that it grants. -/
theorem exec_unscheduledGrant {s : State} {ch : Nat} {a : UAcc} {env : Env} (wait : Nat)
    (granted : s.w.mem.granted ch = some a) (calm : s.refreshing ch env.clk = false) :
    exec (.unscheduledGrant ch wait env) s = .next
      (let x := Work.rebar { s.w with mem := s.w.mem.afterGrant ch wait env a } a
       { s with w := x.1.serve x.2 }) := by
  show execUnscheduledGrant ch wait env s = _
  unfold execUnscheduledGrant
  rw [granted]
  dsimp only
  rw [calm]
  rfl

/-- A grant to Cumulus serves no byte. -/
theorem exec_unscheduledGrant_cumulus {s : State} {ch : Nat} {a : UAcc} {env : Env} (wait : Nat)
    (granted : s.w.mem.granted ch = some a) (calm : s.refreshing ch env.clk = false) (cumulus : a.cls = 1) :
    exec (.unscheduledGrant ch wait env) s = .next { s with w := { s.w with mem := s.w.mem.afterGrant ch wait env a } } := by
  have unbarred (w : Work) : w.rebar a = (w, a) := if_pos (by rw [cumulus]; decide)
  have served (w : Work) : w.serve a = w := if_pos cumulus
  rw [exec_unscheduledGrant wait granted calm, unbarred]
  dsimp only
  rw [served]

/-- A write of Cumulus to the byte at address 0, which carries its byte. -/
def copyWrite : UAcc := { channel := 0, cls := 1, write := true, addr := 0, len := 1, data := [1], peer := 0, tag := 0 }

/-- A module after reset at whose channel 0 that write waits. -/
def copyWaiting : State := { State.reset with w := { mem := { waiting := [copyWrite] } } }

/-- The write is the access that its channel grants next, out of the refresh window, and no line of it is refused. -/
theorem copyWaiting_granted :
    copyWaiting.w.mem.channelOf 0 = 0 ∧ copyWaiting.w.mem.granted 0 = some copyWrite ∧ copyWaiting.refreshing 0 0 = false ∧
      (copyWaiting.w.rebar copyWrite).2.barred = [] ∧ copyWaiting.w.mem.hbm.readN 0 1 = [0] := by decide +kernel

end Sys2Proof.Machine

open Sys2Proof Sys2Proof.Machine

/-- Refutes O55: a grant to Cumulus moves no byte (`exec_unscheduledGrant_cumulus`), yet the statement has the data of every granted
write stand in HBM and makes an exception of host stores alone. In `copyWaiting` a write of Cumulus that carries a byte is granted,
and the byte in HBM stays. (The copies that the model itself queues carry no data, `Work.queueRun`; the statement is about every
state and does not ask that of what waits.) -/
theorem not_flitsAndPeers : ¬ Obligations.FlitsAndPeers := by
  unfold Obligations.FlitsAndPeers
  rintro ⟨-, -, grants, -⟩
  obtain ⟨-, granted, calm, unbarred, before⟩ := copyWaiting_granted
  obtain ⟨-, out⟩ := grants 0 0 {} copyWaiting copyWrite granted ⟨rfl, rfl⟩ rfl
  obtain ⟨t, run, -, -, -, -, -, -, written, -⟩ := out calm
  obtain rfl := Host.Outcome.next.inj (run.symm.trans (exec_unscheduledGrant_cumulus 0 granted calm rfl))
  have stands : (copyWaiting.w.mem.afterGrant 0 0 {} copyWrite).hbm.readN 0 1 = [1] :=
    written rfl unbarred (fun host => absurd host (by decide))
  rw [MemSys.afterGrant_hbm _ 0 0 copyWrite rfl, before] at stands
  exact absurd stands (by decide)
end

section
/-!
CONTROL firings (O47): one lemma says what a CONTROL firing that issues leaves unchanged, whatever its operation does to the elastic
sections and to the stage counts; and what opening a section, a stash and a release do to those.
-/

namespace Sys2Proof.Machine

/-! ### The retirement of a firing (R24) -/

/-- A core `e` that is `c` with a firing retired: idle clk counted up to its retirement, the firing no longer in progress, its ranges
released. -/
def Core.Retired (c : Core) (idx : Nat) (e : Core) : Prop :=
  ∃ d at_, c.SameButIdle d ∧
    e = { d with prog := d.prog.filter (·.idx ≠ idx), retired := d.retired ++ [idx], retiredAt := at_
                 board := d.board.filter (·.firing ≠ idx) }

/-- Retiring marks the firing retired and no longer in progress; what has issued, the local store, the tallies and the slots stay. -/
theorem Core.Retired.frame {c e : Core} {idx : Nat} (h : c.Retired idx e) :
    e.issued = c.issued ∧ e.retired = c.retired ++ [idx] ∧ e.progOf idx = none ∧ e.ls = c.ls ∧ e.cells = c.cells ∧
      e.slots = c.slots := by
  obtain ⟨d, at_, same, rfl⟩ := h
  rw [same.eq]
  exact ⟨rfl, rfl, by simp [Core.progOf], rfl, rfl, rfl⟩

/-- Retiring a firing that neither notifies nor traces changes its core and the route sets in use. -/
theorem Work.retire_quiet (w : Work) (core idx : Nat) {r : Rec} (t : Nat) (hn : r.notify = false) (ht : r.trace = false) :
    ∃ e sets, (w.core core).Retired idx e ∧
      w.retire core idx r t = { w with run.sets := sets, cores := (w.modCore core (fun _ => e)).cores } := by
  have same := w.idleUp_sameButIdle core t (w.core core)
  unfold Work.retire
  rw [hn, ht]
  exact ⟨_, _, ⟨_, _, same, rfl⟩, rfl⟩

/-! ### A CONTROL firing passes (R55) -/

/-- Plan work `v` is `w` but for the elastic sections and the stage counts. -/
def Work.SameButSections (w v : Work) : Prop :=
  v = { w with run.sections := v.run.sections, stages := v.stages }

/-- Plan work `v` is `w` with a CONTROL firing of a core issued and retired, as far as its operation does not name it. -/
structure Work.Passed (core idx : Nat) (w v : Work) : Prop where
  issued : (v.core core).issued = (w.core core).issued ++ [idx]
  retired : (v.core core).retired = (w.core core).retired ++ [idx]
  prog : (v.core core).progOf idx = none
  ls : (v.core core).ls = (w.core core).ls
  cells : (v.core core).cells = (w.core core).cells
  slots : (v.core core).slots = (w.core core).slots
  other : ∀ c, c ≠ core → v.core c = w.core c
  mem : v.mem = w.mem
  dev : v.dev = w.dev
  plan : v.plan = w.plan
  scales : v.scales = w.scales
  cum : v.cum = w.cum
  net : v.net = w.net
  time : v.cad.time = w.cad.time

/-- A firing that begins and retires with nothing between but changes of the sections and the stage counts. -/
theorem Work.retire_passed {w v : Work} {core idx : Nat} {r : Rec} {env : Env} (t : Nat) (hq : quietEnv env = true)
    (ht : r.trace = false) (hn : r.notify = false) (h : (w.begin core idx r env).SameButSections v) :
    w.Passed core idx (v.retire core idx r t) := by
  obtain ⟨e, landed, begun, eqB⟩ := w.begin_quiet core idx r ht hq
  obtain ⟨e', sets, retired, eqR⟩ := v.retire_quiet core idx t hn ht
  unfold Work.SameButSections at h
  rw [eqB] at h
  have coresV : v.cores = (w.modCore core (fun _ => e)).cores := by rw [h]
  have hereV : v.core core = e := (Work.core_congr coresV core).trans (w.modCore_core core _)
  have coresT : (v.retire core idx r t).cores = (v.modCore core (fun _ => e')).cores := by rw [eqR]
  have here : (v.retire core idx r t).core core = e' := (Work.core_congr coresT core).trans (v.modCore_core core _)
  have elsewhere (c : Nat) (hc : c ≠ core) : (v.retire core idx r t).core c = w.core c := by
    rw [Work.core_congr coresT c, v.modCore_other _ hc, Work.core_congr coresV c, w.modCore_other _ hc]
  obtain ⟨issuedB, retiredB, lsB, cellsB, slotsB⟩ := begun.frame
  obtain ⟨issuedR, retiredR, progR, lsR, cellsR, slotsR⟩ := (hereV ▸ retired).frame
  refine ⟨?_, ?_, ?_, ?_, ?_, ?_, elsewhere, ?_, ?_, ?_, ?_, ?_, ?_, ?_⟩
  · rw [here, issuedR, issuedB]
  · rw [here, retiredR, retiredB]
  · rw [here, progR]
  · rw [here, lsR, lsB]
  · rw [here, cellsR, cellsB]
  · rw [here, slotsR, slotsB]
  all_goals rw [eqR, h]

/-- A CONTROL firing that may issue passes, and does to the sections and the stage counts what its operation does to those that
stand (R55). -/
theorem Work.control_passes {w : Work} {p : Plan} {core idx op : Nat} {r : Rec} {env : Env} (hp : w.plan = some p)
    (hr : p.firing? core idx = some r) (hs : r.station = 15) (hi : w.issuable p core idx r env.clk = true)
    (hq : quietEnv env = true) (ht : r.trace = false) (hn : r.notify = false) (ho : r.op = op)
    {fits : Rec → Bool} (hf : fits r = true) {act : Plan → Rec → Work → Work} (keeps : ∀ b : Work, b.SameButSections (act p r b)) :
    let v := w.control core idx env op fits act
    w.Passed core idx v ∧ ∃ b : Work, b.run.sections = w.run.sections ∧ b.stages = w.stages ∧ b.period = w.period ∧
      v.run.sections = (act p r b).run.sections ∧ v.stages = (act p r b).stages := by
  intro v
  have runs : v = (act p r (w.begin core idx r env)).retire core idx r (w.now env.clk) := by
    simp [v, Work.control, hp, hr, hs, ho, hf, hi]
  obtain ⟨e, landed, -, eqB⟩ := w.begin_quiet core idx r ht hq
  obtain ⟨e', sets, -, eqR⟩ := (act p r (w.begin core idx r env)).retire_quiet core idx (w.now env.clk) hn ht
  rw [runs]
  refine ⟨Work.retire_passed _ hq ht hn (keeps _), w.begin core idx r env, ?_, ?_, ?_, ?_, ?_⟩
  · rw [eqB]
  · rw [eqB]
  · rw [eqB]; rfl
  · rw [eqR]
  · rw [eqR]

/-! ### A section opened (R67) -/

/-- A section's state reads as in any run with the same sections. -/
theorem Run.sec?_congr {q r : Run} (h : q.sections = r.sections) (n : Nat) : q.sec? n = r.sec? n := by
  rw [Run.sec?, h, Run.sec?]

/-- A change that keeps the number of a section changes that section alone. -/
theorem Run.sec?_modSec (q : Run) (n m : Nat) {f : SecRun → SecRun} (number : ∀ x, (f x).number = x.number) :
    (q.modSec n f).sec? m = if m = n then (q.sec? n).map f else q.sec? m := by
  simp only [Run.sec?, Run.modSec]
  induction q.sections with
  | nil => simp
  | cons x xs ih => grind

/-- An opening of a section on a core, with the declared end that its record gives (R67, R98). -/
def SecRun.openOn (x : SecRun) (core due : Nat) : SecRun :=
  { x with opened := x.opened ||| BitVec.ofNat 128 (2 ^ core), due := max x.due due }

/-- An opening of a section changes that section alone. -/
theorem Run.sec?_openOn (q : Run) (n m core due : Nat) :
    (q.modSec n (·.openOn core due)).sec? m = if m = n then (q.sec? n).map (·.openOn core due) else q.sec? m :=
  q.sec?_modSec n m (fun _ => rfl)

/-- The section is open on the core. -/
theorem SecRun.openOn_opened (x : SecRun) {core : Nat} (due : Nat) (h : core < 128) :
    (x.openOn core due).opened.getLsbD core = true := by
  have own : (BitVec.ofNat 128 (2 ^ core)).getLsbD core = true := by
    rw [BitVec.getLsbD_ofNat, Nat.testBit_two_pow_self, decide_eq_true h, Bool.and_true]
  rw [SecRun.openOn, BitVec.getLsbD_or, own, Bool.or_true]

/-- A section that no core has opened: no item of its lists is taken. -/
def SecRun.fresh (n : Nat) (ls : List Nat) : SecRun := { number := n, lists := ls.map (fun l => (l, 0, 0)) }

/-- The declared end that a SECTION_OPEN gives its section, in plan time. -/
def Work.dueOf (w : Work) (r : Rec) : Nat := r.tick * w.period + r.offset + r.declared

section
variable (w : Work) (p : Plan) (core : Nat) (r : Rec)

/-- Where a core has opened the section, it is opened on a further one. -/
theorem Work.openSection_again {y : SecRun} (h : w.run.sec? r.section = some y) :
    w.openSection p core r = { w with run := w.run.modSec r.section (·.openOn core (w.dueOf r)) } := by
  unfold Work.openSection
  simp only [h]
  rfl

/-- Where no core has, the section is listed first. -/
theorem Work.openSection_first (h : w.run.sec? r.section = none) :
    ∃ ls, w.openSection p core r = { w with run :=
      { w.run with sections := w.run.sections ++ [SecRun.fresh r.section ls] }.modSec r.section (·.openOn core (w.dueOf r)) } := by
  unfold Work.openSection
  simp only [h]
  exact ⟨_, rfl⟩

/-- Opening a section changes the sections alone. -/
theorem Work.openSection_eq : ∃ ss, w.openSection p core r = { w with run.sections := ss } := by
  cases h : w.run.sec? r.section with
  | none =>
    obtain ⟨ls, first⟩ := w.openSection_first p core r h
    exact ⟨_, first⟩
  | some y => exact ⟨_, w.openSection_again p core r h⟩

/-- The section then, where a core had opened it. -/
theorem Work.openSection_sec?_again {y : SecRun} (h : w.run.sec? r.section = some y) :
    (w.openSection p core r).run.sec? r.section = some (y.openOn core (w.dueOf r)) := by
  rw [w.openSection_again p core r h]
  exact (w.run.sec?_openOn _ _ _ _).trans (by rw [if_pos rfl, h, Option.map_some])

/-- The section then, where no core had. -/
theorem Work.openSection_sec?_first (h : w.run.sec? r.section = none) :
    ∃ ls, (w.openSection p core r).run.sec? r.section = some ((SecRun.fresh r.section ls).openOn core (w.dueOf r)) := by
  obtain ⟨ls, first⟩ := w.openSection_first p core r h
  have listed : { w.run with sections := w.run.sections ++ [SecRun.fresh r.section ls] }.sec? r.section =
      some (SecRun.fresh r.section ls) := by
    rw [Run.sec?, List.find?_append, ← Run.sec?, h, Option.none_or]
    exact List.find?_cons_of_pos (decide_eq_true rfl)
  rw [first]
  exact ⟨ls, (Run.sec?_openOn _ _ _ _ _).trans (by rw [if_pos rfl, listed, Option.map_some])⟩

/-- Every other section stays. -/
theorem Work.openSection_sec?_other {m : Nat} (hm : m ≠ r.section) :
    (w.openSection p core r).run.sec? m = w.run.sec? m := by
  cases h : w.run.sec? r.section with
  | none =>
    obtain ⟨ls, first⟩ := w.openSection_first p core r h
    rw [first]
    refine (Run.sec?_openOn _ _ _ _ _).trans ((if_neg hm).trans ?_)
    simp [Run.sec?, SecRun.fresh, hm.symm]
  | some y =>
    rw [w.openSection_again p core r h]
    exact (w.run.sec?_openOn _ _ _ _).trans (if_neg hm)

end

/-! ### Stage counts (R811 to R813) -/

/-- STAGE has four bits. -/
theorem Rec.stage_lt (r : Rec) : r.stage < 16 := Nat.mod_lt _ (by decide)

/-- A stash adds to the live count of its stage, as far as the count goes, and raises the high mark to it. -/
theorem StageMap.stash_same (m : StageMap) (k n : Nat) (fits : (mget m.live 0 k).toNat + n < 2 ^ 56) :
    (mget (m.stash k n).live 0 k).toNat = (mget m.live 0 k).toNat + n ∧
    (mget (m.stash k n).high 0 k).toNat = max (mget m.high 0 k).toNat ((mget m.live 0 k).toNat + n) := by
  have sum : (mget m.live 0 k + BitVec.ofNat 56 n).toNat = (mget m.live 0 k).toNat + n := by
    rw [BitVec.toNat_add, BitVec.toNat_ofNat, Nat.add_mod_mod, Nat.mod_eq_of_lt fits]
  simp only [StageMap.stash, mget_mset_same, BitVec.lt_def, sum, true_and]
  split <;> omega

/-- A stash leaves every other stage's counts. -/
theorem StageMap.stash_other (m : StageMap) {k j : Nat} (n : Nat) (h : j ≠ k) :
    mget (m.stash k n).live 0 j = mget m.live 0 j ∧ mget (m.stash k n).high 0 j = mget m.high 0 j :=
  ⟨mget_mset_ne _ _ _ h, mget_mset_ne _ _ _ h⟩

/-- A release that its stage's live count covers: it is subtracted, and nothing is flagged. -/
theorem StageMap.release_covered (m : StageMap) {k n : Nat} (h : n ≤ (mget m.live 0 k).toNat) :
    m.release k n = { m with live := mset m.live 0 k (BitVec.ofNat 56 ((mget m.live 0 k).toNat - n)) } := if_pos h

/-- A release that would take its stage's live count below zero: the count is zero, and the first such stage is recorded. -/
theorem StageMap.release_beyond (m : StageMap) {k n : Nat} (h : (mget m.live 0 k).toNat < n) :
    m.release k n = { m with
      live := mset m.live 0 k 0, underflow := true
      underflowStage := if m.underflow then m.underflowStage else BitVec.ofNat 4 k } := if_neg (Nat.not_le.2 h)

/-- A release takes its stage's live count down, to zero at the least. -/
theorem StageMap.release_live (m : StageMap) (k n : Nat) :
    (mget (m.release k n).live 0 k).toNat = (mget m.live 0 k).toNat - n := by
  rcases Nat.lt_or_ge (mget m.live 0 k).toNat n with h | h
  · simp only [m.release_beyond h, mget_mset_same]
    exact (Nat.sub_eq_zero_of_le h.le).symm
  · simp only [m.release_covered h, mget_mset_same, BitVec.toNat_ofNat]
    exact Nat.mod_eq_of_lt ((Nat.sub_le _ _).trans_lt (mget m.live 0 k).isLt)

/-- A release leaves every other stage's live count. -/
theorem StageMap.release_live_other (m : StageMap) {k j : Nat} (n : Nat) (h : j ≠ k) :
    mget (m.release k n).live 0 j = mget m.live 0 j := by
  rcases Nat.lt_or_ge (mget m.live 0 k).toNat n with below | covered
  · rw [m.release_beyond below]
    exact mget_mset_ne _ _ _ h
  · rw [m.release_covered covered]
    exact mget_mset_ne _ _ _ h

end Sys2Proof.Machine

open Sys2Proof Sys2Proof.Machine

/-- Settles O47: a CONTROL firing that issues passes, and changes only the sections and the stage counts, as its operation says
(`Work.control_passes`): `Work.openSection_again` and `Work.openSection_first`, `StageMap.stash_same`, `StageMap.release_live`. -/
theorem controlFirings : Obligations.ControlFirings := by
  unfold Obligations.ControlFirings
  intro core idx env p r s hp hr hs hi hq ht hn done same live high n
  have passes {op : Nat} := Work.control_passes (op := op) hp hr hs hi hq ht hn
  have frame {v : Work} (h : s.w.Passed core idx v) : done { s with w := v } :=
    ⟨h.issued, h.retired, h.prog, h.ls, h.cells, h.slots, h.other, h.mem, h.dev, h.plan, h.scales, h.cum, h.net, h.time,
      rfl, rfl, rfl, rfl⟩
  refine ⟨fun ho => ?_, fun ho hc => ?_, fun ho ha => ?_, fun ho ha => ?_, fun ho ha => ?_⟩
  · obtain ⟨passed, b, sections, stages, -, sections', stages'⟩ :=
      passes ho (fits := fun _ => true) rfl (act := fun _ _ w => w) (fun _ => rfl)
    exact ⟨_, rfl, frame passed, sections'.trans sections, stages'.trans stages⟩
  · have opens (b : Work) : b.SameButSections (b.openSection p core r) := by
      obtain ⟨ss, eq⟩ := b.openSection_eq p core r
      rw [eq]; rfl
    obtain ⟨passed, b, sections, stages, period, sections', stages'⟩ := passes ho (fits := fun _ => true) rfl
      (act := fun p r w => w.openSection p core r) opens
    have before (m : Nat) : b.run.sec? m = s.w.run.sec? m := Run.sec?_congr sections m
    have after (m : Nat) := Run.sec?_congr sections' m
    have due : b.dueOf r = r.tick * s.w.period + r.offset + r.declared := by rw [Work.dueOf, period]
    have others (m : Nat) (hm : m ≠ r.section) := (after m).trans ((b.openSection_sec?_other p core r hm).trans (before m))
    obtain ⟨ss, eq⟩ := b.openSection_eq p core r
    have kept : (b.openSection p core r).stages = s.w.stages := by rw [eq]; exact stages
    cases h : s.w.run.sec? r.section with
    | none =>
      obtain ⟨ls, first⟩ := b.openSection_sec?_first p core r ((before _).trans h)
      rw [due] at first
      exact ⟨_, _, rfl, frame passed, stages'.trans kept, (after _).trans first, SecRun.openOn_opened _ _ hc,
        Nat.le_max_right _ _, fun _ => ⟨rfl, Nat.zero_max _, by simp [SecRun.openOn, SecRun.fresh]⟩, fun _ hy => (nomatch hy), others⟩
    | some y =>
      have again := b.openSection_sec?_again p core r ((before _).trans h)
      rw [due] at again
      exact ⟨_, _, rfl, frame passed, stages'.trans kept, (after _).trans again, SecRun.openOn_opened _ _ hc,
        Nat.le_max_right _ _, fun hy => (nomatch hy), fun _ hy => Option.some.inj hy ▸ ⟨rfl, rfl⟩, others⟩
  · obtain ⟨passed, b, sections, stages, -, sections', stages'⟩ := passes ho (fits := fun r => r.action = 0) (decide_eq_true ha)
      (act := fun _ r w => if r.trace then w.traceRecord 3 (Rec.stage r) core idx env.clk else w) (fun b => by rw [ht]; rfl)
    rw [ht] at sections' stages'
    exact ⟨_, rfl, frame passed, sections'.trans sections, stages'.trans stages⟩
  · obtain ⟨passed, b, sections, stages, -, sections', stages'⟩ := passes ho (fits := fun r => r.action = 1) (decide_eq_true ha)
      (act := fun p r w => { w with stages := w.stages.stash (Rec.stage r) (p.tensor r.desc).extent }) (fun _ => rfl)
    have stash := stages'.trans (congrArg (·.stash r.stage n) stages)
    refine ⟨_, rfl, frame passed, sections'.trans sections, ?_⟩
    simp only [live, high, stash]
    refine ⟨s.w.stages.stash_same r.stage n, fun k hk => ?_⟩
    obtain ⟨liveK, highK⟩ := s.w.stages.stash_other n hk
    exact ⟨congrArg _ liveK, congrArg _ highK⟩
  · obtain ⟨passed, b, sections, stages, -, sections', stages'⟩ := passes ho (fits := fun r => r.action = 2) (decide_eq_true ha)
      (act := fun p r w => { w with stages := w.stages.release (Rec.stage r) (p.tensor r.desc).extent }) (fun _ => rfl)
    have release := stages'.trans (congrArg (·.release r.stage n) stages)
    refine ⟨_, rfl, frame passed, sections'.trans sections, ?_⟩
    simp only [live, release]
    refine ⟨s.w.stages.release_live r.stage n, s.w.stages.release_high r.stage n, fun below => ?_, fun covered => ?_,
      fun k hk => congrArg _ (s.w.stages.release_live_other n hk)⟩
    · rw [s.w.stages.release_beyond below]
      exact ⟨rfl, fun fresh => by simp [fresh, Nat.mod_eq_of_lt r.stage_lt]⟩
    · rw [s.w.stages.release_covered covered]
end

section
/-!
Driver commands and their replies (O7, O14): every driver command is `State.command` of its row of R861 wherever that row does not
allow it; where the status and the state stand in a reply; and a command that is carried out in one of its states.
-/

namespace Sys2Proof.Machine

/-! ### Commands by their rows (R860, R861) -/

/-- Where the row of R861 does not allow a driver command, it is no more than the common frame of driver commands: the resets that
follow some of them need a state that the row allows. -/
theorem exec_eq_command {c : Instr} {allowed : List DevState} {s : State} (row : allowedIn c = some allowed)
    (outside : s.w.dev.state ∉ allowed) (fits : ownerBlockFits c s) :
    ∃ act, exec c s = .next (s.command c.ring allowed act) := by
  have not_standby : s.w.dev.state ∉ [DevState.standby] → s.w.dev.state ≠ .standby := fun h e => h (e ▸ List.mem_singleton.mpr rfl)
  cases c
  case devReset => cases row; exact ⟨_, congrArg _ (if_neg outside)⟩
  case fwActivate => cases row; exact ⟨_, congrArg _ (if_neg (by simp [State.activates, not_standby outside]))⟩
  case debugUnlock => cases row; exact ⟨_, congrArg _ (if_neg (fun h => not_standby outside h.1))⟩
  case debugRelock => cases row; exact ⟨_, congrArg _ (if_neg (fun h => not_standby outside h.1))⟩
  case ownerKeyInstall => cases row; exact ⟨_, congrArg _ (if_neg (fun h => h.2 (fits _ _ _ rfl)))⟩
  case ownerKeyRemove => cases row; exact ⟨_, congrArg _ (if_neg (fun h => h.2 (fits _ _ _ rfl)))⟩
  case ownerRequireSet => cases row; exact ⟨_, congrArg _ (if_neg (fun h => h.2 (fits _ _ _ rfl)))⟩
  all_goals cases row
  all_goals exact ⟨_, rfl⟩

/-! ### The bytes of a reply (R853) -/

/-- One byte of a number's bytes. -/
theorem leAt_toLE_byte {n i : Nat} (h : i < n) (v : Nat) (rest : List Byte) : leAt (toLE n v ++ rest) i 1 = v / 256 ^ i % 256 := by
  induction n generalizing i v with
  | zero => omega
  | succ n ih =>
    cases i with
    | zero => simp [leAt, toLE, leNat]
    | succ i =>
      have next : leAt (toLE (n + 1) v ++ rest) (i + 1) 1 = leAt (toLE n (v / 256) ++ rest) i 1 := rfl
      rw [next, ih (by omega), Nat.div_div_eq_div_mul, Nat.pow_succ']

/-- A byte-wide field behind those of a packed number. -/
theorem pack_byte (fs rest : List (Nat × Nat)) {v i : Nat} (hv : v < 256) (place : 256 ^ i = 2 ^ (fs.map (·.2)).sum) :
    pack (fs ++ (v, 8) :: rest) / 256 ^ i % 256 = v := by
  rw [place, pack_append_div]
  exact (Nat.add_mul_mod_self_left _ 256 _).trans ((Nat.mod_mod v _).trans (Nat.mod_eq_of_lt hv))

/-- Byte 4 of a reply is its status, byte 5 its state. -/
theorem replyBytes_status_state (packet : List Byte) {status state : Nat} (hs : status < 256) (ht : state < 256) (phase : Nat)
    (result : List Byte) : leAt (replyBytes packet status state phase result) 4 1 = status ∧
      leAt (replyBytes packet status state phase result) 5 1 = state := by
  constructor
  · exact (leAt_toLE_byte (by decide) _ _).trans (pack_byte [(leAt packet 4 4, 32)] _ hs (by simp))
  · exact (leAt_toLE_byte (by decide) _ _).trans (pack_byte [(leAt packet 4 4, 32), (status, 8)] _ ht (by simp))

/-- The code of a state fits its byte (R836). -/
theorem DevState.code_lt (d : DevState) : d.code < 256 := by cases d <;> decide

/-- While the link is up the entry of a ring of this module holds the reply's 32 bytes. -/
theorem Work.reply_entry (w : Work) {ring : Nat} (status : Nat) (result : List Byte) (hr : ring < 64) (hl : w.dev.linkUp = true) :
    let r := mget w.dev.rings {} ring
    (w.reply ring status result).mem.companion.readN (r.cqBase.toNat + 32 * r.cqTail.toNat) 32 =
      replyBytes (w.dev.taken ring) status w.dev.state.code (b2n r.phase) result := by
  extract_lets r
  have read := Memory.readN_write w.mem.companion (r.cqBase.toNat + 32 * r.cqTail.toNat)
    (replyBytes (w.dev.taken ring) status w.dev.state.code (b2n r.phase) result)
  rw [length_replyBytes] at read
  rw [Work.reply, w.replyAs_companion ring _ _ _ hr hl, read]

/-! ### Result slots (R873 to R878) -/

/-- A command in one of its states, none of which is OFF, and the reply to what it answers. -/
theorem State.command_answers {s : State} {ring : Nat} {allowed : List DevState} {act : State → Answer} {a : Answer}
    (h : s.w.dev.state ∈ allowed) (on : DevState.off ∉ allowed) (answer : act s = a) :
    s.command ring allowed act = a.s.reply ring a.status a.result := by
  rw [s.command_allowed ring allowed act h (fun off => on (off ▸ h)), answer]

/-- READ_RESULT of a ready slot, before its reply. -/
def State.resultRead (s : State) (ring slot addr : Nat) (r : RSlot) : State :=
  let w := if addr = 0 then s.w else s.w.compWrite ring addr r.record
  { s with w := { w with dev.results := mset w.dev.results none slot (some { r with read := true }) } }

/-- RELEASE_RESULT of a ready slot, before its reply. -/
def State.resultFreed (s : State) (slot : Nat) : State :=
  { s with w := { s.w with dev.results := mset s.w.dev.results none slot none } }

section
variable {s : State} (ring : Nat) {slot : Nat} (addr : Nat) {r : RSlot}
variable (on : s.w.dev.state ∈ started) (hs : slot < 256)
include on hs

/-- A ready slot is read, its status, opcode, length and first bytes in the reply. -/
theorem exec_readResult_ready (held : mget s.w.dev.results none slot = some r) (ready : r.ready = true) :
    exec (.readResult ring slot addr) s = .next ((s.resultRead ring slot addr r).reply ring (if r.read then stOkRepeat else stOk)
      ([r.status, 0] ++ toLE 2 r.opcode.toNat ++ toLE 4 r.body.length ++ r.body.take 16)) := by
  refine congrArg Host.Outcome.next (State.command_answers on (by decide) (a := ⟨s.resultRead ring slot addr r, _, _⟩) ?_)
  rw [if_pos hs, held]
  exact if_neg (by simp [ready])

/-- A ready slot is freed. -/
theorem exec_releaseResult_ready (held : mget s.w.dev.results none slot = some r) (ready : r.ready = true) :
    exec (.releaseResult ring slot) s = .next ((s.resultFreed slot).reply ring stOk []) := by
  refine congrArg Host.Outcome.next (State.command_answers on (by decide) (a := ⟨s.resultFreed slot, _, _⟩) ?_)
  rw [if_pos hs, held]
  exact if_neg (by simp [ready])

/-- A slot that is taken and not ready answers so. -/
theorem exec_result_notReady (held : mget s.w.dev.results none slot = some r) (waits : r.ready = false) :
    exec (.readResult ring slot addr) s = .next (s.reply ring stNotReady []) ∧
      exec (.releaseResult ring slot) s = .next (s.reply ring stNotReady []) := by
  constructor <;>
  · refine congrArg Host.Outcome.next (State.command_answers on (by decide) (a := s.refuse stNotReady) ?_)
    rw [if_pos hs, held]
    exact if_pos (by simp [waits])

/-- A free slot is a bad parameter. -/
theorem exec_result_free (free : mget s.w.dev.results none slot = none) :
    exec (.readResult ring slot addr) s = .next (s.reply ring stBadParam []) ∧
      exec (.releaseResult ring slot) s = .next (s.reply ring stBadParam []) := by
  constructor <;>
  · refine congrArg Host.Outcome.next (State.command_answers on (by decide) (a := s.refuse stBadParam) ?_)
    rw [if_pos hs, free]

end

/-- What the reply of a result slot names: STATUS, OPCODE, LENGTH and the first 16 bytes of the body. -/
theorem resultBytes_fields (r : RSlot) :
    let res := [r.status, 0] ++ toLE 2 r.opcode.toNat ++ toLE 4 r.body.length ++ r.body.take 16
    leAt res 0 1 = r.status.toNat ∧ leAt res 2 2 = r.opcode.toNat ∧ leAt res 4 4 = r.body.length % 2 ^ 32 ∧
      res.drop 8 = r.body.take 16 := by
  extract_lets res
  have eq : res = [r.status, 0] ++ (toLE 2 r.opcode.toNat ++ (toLE 4 r.body.length ++ r.body.take 16)) := by simp [res]
  rw [eq]
  refine ⟨by simp [leAt, leNat], ?_, ?_, ?_⟩
  · rw [leAt_skip _ _ _ _ (by simp)]
    exact leAt_front 2 _ _ r.opcode.isLt
  · rw [leAt_skip _ _ _ _ (by simp), leAt_skip _ _ _ _ (by simp)]
    simp [leAt, leNat_toLE]
  · simp [List.drop_append, List.drop_eq_nil_of_le]

/-- Reading a ready slot changes its mark alone, and companion memory where an address is given. -/
theorem State.resultRead_frame (s : State) (ring slot addr : Nat) (r : RSlot) :
    let u := s.resultRead ring slot addr r
    mget u.w.dev.results none slot = some { r with read := true } ∧
      (∀ j, j ≠ slot → mget u.w.dev.results none j = mget s.w.dev.results none j) ∧ s.w.SamePlanWork u.w ∧ s.SameBlocks u := by
  dsimp only [State.resultRead]
  split
  · exact ⟨by simp, fun j hj => mget_mset_ne _ _ _ hj, by constructor <;> rfl, by constructor <;> rfl⟩
  · refine ⟨by simp, fun j hj => ?_, (s.w.compWrite_same ring addr r.record).trans (by constructor <;> rfl), by constructor <;> rfl⟩
    rw [mget_mset_ne _ _ _ hj, Work.compWrite_dev_results]

/-- While the link is up, the record stands at the address that a command of this module's ring gives. -/
theorem State.resultRead_companion (s : State) {ring addr : Nat} (slot : Nat) (r : RSlot) (ha : addr ≠ 0) (hr : ring < 64)
    (hl : s.w.dev.linkUp = true) :
    (s.resultRead ring slot addr r).w.mem.companion = s.w.mem.companion.write addr r.record := by
  simp [State.resultRead, ha, Work.compWrite, hr, Work.linkWrite, hl]

end Sys2Proof.Machine

open Sys2Proof Sys2Proof.Machine

/-- Settles O7: outside its row of R861 a driver command is the common frame (`exec_eq_command`), which refuses it
(`State.command_refused`), and the reply's bytes stand in the ring's entry (`Work.reply_entry`). -/
theorem refusedElsewhere : Obligations.RefusedElsewhere := by
  unfold Obligations.RefusedElsewhere
  intro c allowed s row on outside fits
  obtain ⟨act, run⟩ := exec_eq_command row outside fits
  refine ⟨by rw [run, State.command_refused s _ _ _ outside on], fun hr hl => ?_⟩
  dsimp only
  rw [State.reply_w, s.w.reply_entry _ _ hr hl]
  exact replyBytes_status_state _ (by decide) s.w.dev.state.code_lt _ _

/-- Settles O14: a ready slot is read or freed (`State.resultRead_frame`, `State.resultRead_companion`, `resultBytes_fields`), one
that is not ready or is free refuses both (`exec_result_notReady`, `exec_result_free`). -/
theorem resultSlots : Obligations.ResultSlots := by
  unfold Obligations.ResultSlots
  intro ring slot addr s on hs
  refine ⟨fun r held ready => ⟨?_, ?_⟩, fun r held waits => exec_result_notReady ring addr on hs held waits,
    fun free => exec_result_free ring addr on hs free⟩
  · obtain ⟨status, opcode, length, front⟩ := resultBytes_fields r
    obtain ⟨marked, others, work, blocks⟩ := s.resultRead_frame ring slot addr r
    refine ⟨_, _, exec_readResult_ready ring addr on hs held ready, status, opcode, length, front, marked, others, ?_, ?_, work,
      blocks⟩
    · rintro rfl
      rfl
    · intro ha hr hl
      rw [s.resultRead_companion slot r ha hr hl]
      exact ⟨Memory.readN_write _ _ _, fun a out => Memory.read_write_out _ _ _ a out⟩
  · refine ⟨_, exec_releaseResult_ready ring on hs held ready, ?_, fun j hj => ?_, ?_, by constructor <;> rfl⟩
    · simp [State.resultFreed]
    · rw [State.reply_w, Work.reply_dev_results]
      exact mget_mset_ne _ _ _ hj
    · exact .trans (b := (s.resultFreed slot).w) (by constructor <;> rfl) (Work.reply_same _ _ _ _)
end

section
/-!
Steps asked for (O18): what STEP_RUN, STEP_HOLD and STEP_RESUME leave before their replies, and when they are refused.
-/

namespace Sys2Proof.Machine

/-! ### STEP_RUN and STEP_HOLD (R119, R142, R863, R867, R870) -/

/-- The step that STEP_RUN asks for; a bellwether without IEEE 1588 lock takes any START as 0 (R119). -/
def State.stepReq (s : State) (start k : Nat) : StepReq :=
  { slot := k, start := if s.w.cad.bellwether ∧ !s.w.cad.ptpOk then 0 else start, since := s.w.cad.tickCount.toNat }

/-- A step accepted, or queued behind the one accepted or running (R863). -/
def Run.ask (r : Run) (q : StepReq) : Run :=
  if r.accepted = none ∧ r.step = none then { r with accepted := some q } else { r with queued := some q }

/-- STEP_RUN, before its reply. -/
def State.stepAsked (s : State) (ring start k : Nat) : State :=
  { s with w := { s.w.takeSlot k ring 0x0202 with run := s.w.run.ask (s.stepReq start k) } }

section
variable {s : State} (ring start : Nat) {p : Plan}
variable (on : s.w.dev.state ∈ [DevState.loaded, .running]) (idle : s.w.dev.load = none) (armed : s.w.plan = some p)
  (cls : p.cls = s.w.rel.cls)
include on idle armed cls

/-- With nothing queued, the step is accepted or queued, and its slot taken. -/
theorem exec_stepRun_asks {k : Nat} (room : s.w.run.queued = none) (free : s.w.dev.freeSlot = some k) :
    exec (.stepRun ring start) s = .next ((s.stepAsked ring start k).reply ring stOk (toLE 2 k)) := by
  refine congrArg Host.Outcome.next (State.command_answers on (by decide) (a := ⟨s.stepAsked ring start k, stOk, toLE 2 k⟩) ?_)
  simp only [idle, armed, room, cls, ne_eq, not_true_eq_false, decide_false, Option.isSome_none, Bool.false_eq_true, if_false,
    s.withSlot_free ring 0x0202 k _ free, Option.isNone_iff_eq_none]
  refine congrArg (Answer.mk · stOk (toLE 2 k)) ?_
  by_cases first : s.w.run.accepted = none ∧ s.w.run.step = none
  · rw [State.stepAsked, Run.ask, if_pos first]
    exact if_pos first
  · rw [State.stepAsked, Run.ask, if_neg first]
    exact if_neg first

/-- With a step queued it is refused. -/
theorem exec_stepRun_busy (full : s.w.run.queued.isSome = true) : exec (.stepRun ring start) s = .next (s.reply ring stBusy []) := by
  refine congrArg Host.Outcome.next (State.command_answers on (by decide) (a := s.refuse stBusy) ?_)
  simp [idle, armed, cls, full]

end

/-- STEP_HOLD, before its reply: a stop is wanted. -/
def State.holdAsked (s : State) : State := { s with w := { s.w with run := { s.w.run with wantStop := true, holdCmd := true } } }

theorem exec_stepHold {s : State} (ring : Nat) (on : s.w.dev.state ∈ [DevState.loaded, .running]) :
    exec (.stepHold ring) s = .next (s.holdAsked.reply ring stOk []) :=
  congrArg Host.Outcome.next (State.command_answers on (by decide) (a := ⟨s.holdAsked, stOk, []⟩) rfl)

/-! ### STEP_RESUME (R869, R913, R993) -/

/-- The first herd tick that the herd can keep for a resumption (R913). -/
def Work.firstResume (w : Work) : Nat := w.cad.tickCount.toNat + w.lead

/-- STEP_RESUME at the bellwether, before its reply: the tick of resumption is set and sent on. -/
def State.resumeAsked (s : State) (tick : Nat) : State :=
  let t := if tick = 0 then s.w.firstResume else tick
  { s with w := ({ s.w with run := { s.w.run with resumeAt := some t } }).timing 4 t 0 s.fab.member.toNat }

/-- No stop and no resumption is under way. -/
structure Run.Calm (r : Run) : Prop where
  resumeAt : r.resumeAt = none
  stopped : r.stopped = false
  stopOrigin : r.stopOrigin = none
  wantStop : r.wantStop = false

section
variable {s : State} (ring : Nat) (on : s.w.dev.state ∈ [DevState.held])
include on

/-- Only the bellwether names a tick. -/
theorem exec_stepResume_elsewhere (tick : Nat) (not_bell : s.w.cad.bellwether = false) :
    exec (.stepResume ring tick) s = .next (s.reply ring stBadParam []) := by
  refine congrArg Host.Outcome.next (State.command_answers on (by decide) (a := s.refuse stBadParam) ?_)
  simp [not_bell]

/-- A warm module does not resume. -/
theorem exec_stepResume_hot (tick : Nat) (bell : s.w.cad.bellwether = true) (hot : s.pwr.hot = true) :
    exec (.stepResume ring tick) s = .next (s.reply ring stBusy []) := by
  refine congrArg Host.Outcome.next (State.command_answers on (by decide) (a := s.refuse stBusy) ?_)
  simp [bell, hot]

variable {tick : Nat} (bell : s.w.cad.bellwether = true) (cool : s.pwr.hot = false) (calm : s.w.run.Calm)
include bell cool calm

/-- A tick that the herd can keep, or 0, is taken. -/
theorem exec_stepResume_taken (keeps : ¬(tick ≠ 0 ∧ tick < s.w.firstResume)) :
    exec (.stepResume ring tick) s = .next ((s.resumeAsked tick).reply ring stOk []) := by
  refine congrArg Host.Outcome.next (State.command_answers on (by decide) (a := ⟨s.resumeAsked tick, stOk, []⟩) ?_)
  obtain ⟨resumeAt, stopped, stopOrigin, wantStop⟩ := calm
  rw [if_neg (by simp [bell]), if_neg (by simp [cool, resumeAt, stopped, stopOrigin, wantStop])]
  exact if_neg keeps

/-- An earlier tick is a bad parameter. -/
theorem exec_stepResume_early (early : tick ≠ 0 ∧ tick < s.w.firstResume) :
    exec (.stepResume ring tick) s = .next (s.reply ring stBadParam []) := by
  refine congrArg Host.Outcome.next (State.command_answers on (by decide) (a := s.refuse stBadParam) ?_)
  obtain ⟨resumeAt, stopped, stopOrigin, wantStop⟩ := calm
  rw [if_neg (by simp [bell]), if_neg (by simp [cool, resumeAt, stopped, stopOrigin, wantStop])]
  exact if_pos early

end

end Sys2Proof.Machine

open Sys2Proof Sys2Proof.Machine

/-- Settles O18: STEP_RUN asks (`exec_stepRun_asks`) or is refused (`exec_stepRun_busy`), STEP_HOLD asks for a stop
(`exec_stepHold`), and STEP_RESUME names a tick (`exec_stepResume_taken`) or is refused, each on its condition. -/
theorem stepsAsked : Obligations.StepsAsked := by
  unfold Obligations.StepsAsked
  refine ⟨fun ring start k s p st idle armed cls => ?_, fun ring tick s st => ?_⟩
  · have on : s.w.dev.state ∈ [DevState.loaded, .running] := by simpa using st
    refine ⟨fun room free => ?_, exec_stepRun_busy ring start on idle armed cls, ?_⟩
    · refine ⟨_, exec_stepRun_asks ring start on idle armed cls room free, ?_, Work.reply_plan _ _ _ _, Work.reply_cores _ _ _ _,
        Work.reply_hbm _ _ _ _, by constructor <;> rfl⟩
      have run : ((s.stepAsked ring start k).reply ring stOk (toLE 2 k)).w.run = s.w.run.ask (s.stepReq start k) :=
        Work.reply_run _ _ _ _
      rw [run, Run.ask]
      dsimp only
      split <;> rfl
    · exact ⟨_, exec_stepHold ring on, Work.reply_run _ _ _ _, Work.reply_cores _ _ _ _, Work.reply_hbm _ _ _ _,
        by constructor <;> rfl⟩
  · have on : s.w.dev.state ∈ [DevState.held] := by simpa using st
    refine ⟨fun bell cool resumeAt stopped stopOrigin wantStop keeps => ?_,
      fun bell cool resumeAt stopped stopOrigin wantStop named early =>
        exec_stepResume_early ring on bell cool ⟨resumeAt, stopped, stopOrigin, wantStop⟩ ⟨named, early⟩,
      exec_stepResume_elsewhere ring on tick, exec_stepResume_hot ring on tick⟩
    have kept : ¬(tick ≠ 0 ∧ tick < s.w.firstResume) := by
      rw [Work.firstResume]
      omega
    exact ⟨_, exec_stepResume_taken ring on bell cool ⟨resumeAt, stopped, stopOrigin, wantStop⟩ kept, Work.reply_run _ _ _ _,
      Work.reply_cad _ _ _ _, Work.reply_hbm _ _ _ _, by constructor <;> rfl⟩
end

section
/-!
Forming a herd (O24): the module takes the herd's parameters, whichever ports it finds miswired; HERD_FORM and JOIN_RECEIVE.
-/

namespace Sys2Proof.Machine

/-! ### Miswired ports (R743) -/

/-- Two states that agree in everything but ports and what messages to the outside change; the state of the module and its result
slots stay. -/
structure State.OnlyPorts (s t : State) : Prop where
  work : s.w.SamePlanWork t.w
  state : t.w.dev.state = s.w.dev.state
  results : t.w.dev.results = s.w.dev.results
  fab : t.fab = { s.fab with ports := t.fab.ports }
  pwr : t.pwr = s.pwr
  sec : t.sec = s.sec

theorem State.OnlyPorts.refl (s : State) : s.OnlyPorts s := ⟨.refl s.w, rfl, rfl, rfl, rfl, rfl⟩

theorem State.OnlyPorts.trans {a b c : State} (h : a.OnlyPorts b) (k : b.OnlyPorts c) : a.OnlyPorts c where
  work := h.work.trans k.work
  state := k.state.trans h.state
  results := k.results.trans h.results
  fab := by rw [k.fab, h.fab]
  pwr := k.pwr.trans h.pwr
  sec := k.sec.trans h.sec

/-- A port that enters a state. -/
theorem State.portState_onlyPorts (s : State) (port : Nat) (st : PortSt) : s.OnlyPorts (s.portState port st) := by
  unfold State.portState
  split
  · exact .refl s
  · exact ⟨s.w.event_same _ _ _ _ _ _ _, s.w.event_dev_state _ _ _ _ _ _ _, s.w.event_dev_results _ _ _ _ _ _ _, rfl, rfl, rfl⟩

/-- A port left out of every bond. -/
theorem State.miswire_onlyPorts (s : State) (port : Nat) : s.OnlyPorts (s.miswire port) :=
  (s.portState_onlyPorts port .miswired).trans ⟨.refl _, rfl, rfl, rfl, rfl, rfl⟩

/-- Ports left out one after the other. -/
theorem State.miswires_onlyPorts (s : State) (ports : List Nat) : s.OnlyPorts (ports.foldl State.miswire s) :=
  List.foldlRecOn ports State.miswire (.refl s) (fun t ht port _ => ht.trans (t.miswire_onlyPorts port))

/-- A reply that counts no failure of authentication. -/
theorem State.reply_onlyPorts (s : State) (ring : Nat) {status : Nat} (result : List Byte) (h : status ≠ stAuthFail) :
    s.OnlyPorts (s.reply ring status result) :=
  ⟨s.w.reply_same _ _ _, s.w.reply_dev_state _ _ _, s.w.reply_dev_results _ _ _, rfl, rfl, s.sec.countAuth_other h⟩

/-! ### The parameters taken (R315, R888) -/

/-- A join sets MEM_SPLIT.X where it fits and changes nothing outside memory. -/
theorem Work.joinSplit_eq (w : Work) (x : Nat) :
    ∃ m, w.joinSplit x = { w with mem := m } ∧ (x ≤ w.mem.minGib → m.splitX = BitVec.ofNat 7 x) := by
  unfold Work.joinSplit
  split
  · next same => exact ⟨w.mem, rfl, fun _ => by rw [same, BitVec.ofNat_toNat, BitVec.setWidth_eq]⟩
  · split
    · exact ⟨_, rfl, fun _ => rfl⟩
    · next beyond => exact ⟨_, rfl, fun fits => absurd fits beyond⟩

/-- The module has taken the parameters of a herd and its index (R888). -/
structure State.HerdTaken (s : State) (p : HerdParams) (t : State) : Prop where
  lock : t.w.cad.lock = 1
  tickClk : t.w.cad.tickClk = BitVec.ofNat 17 p.tickClk
  slackClk : t.w.cad.slackClk = BitVec.ofNat 12 p.slackClk
  stretchMax : t.w.cad.stretchMax = BitVec.ofNat 7 p.stretchMax
  bellwether : t.w.cad.bellwether = decide (p.member = p.bellwether)
  member : t.fab.member = BitVec.ofNat 10 p.member
  herd : t.fab.herd = BitVec.ofNat 8 p.herd
  xM1 : t.fab.xM1 = BitVec.ofNat 4 p.xM1
  yM1 : t.fab.yM1 = BitVec.ofNat 3 p.yM1
  zM1 : t.fab.zM1 = BitVec.ofNat 3 p.zM1
  clockSel : t.pwr.clockSel = decide (p.clockSel = 1)
  splitX : p.memX ≤ s.w.mem.minGib → t.w.mem.splitX = BitVec.ofNat 7 p.memX
  state : t.w.dev.state = s.w.dev.state
  cores : t.w.cores = s.w.cores
  plan : t.w.plan = s.w.plan
  sec : t.sec = s.sec

/-- Miswired ports and messages leave the parameters taken. -/
theorem State.HerdTaken.onlyPorts {s t u : State} {p : HerdParams} (h : s.HerdTaken p t) (k : t.OnlyPorts u) : s.HerdTaken p u where
  lock := by rw [k.work.cad, h.lock]
  tickClk := by rw [k.work.cad, h.tickClk]
  slackClk := by rw [k.work.cad, h.slackClk]
  stretchMax := by rw [k.work.cad, h.stretchMax]
  bellwether := by rw [k.work.cad, h.bellwether]
  member := by rw [k.fab, h.member]
  herd := by rw [k.fab, h.herd]
  xM1 := by rw [k.fab, h.xM1]
  yM1 := by rw [k.fab, h.yM1]
  zM1 := by rw [k.fab, h.zM1]
  clockSel := by rw [k.pwr, h.clockSel]
  splitX fits := by rw [k.work.mem, h.splitX fits]
  state := k.state.trans h.state
  cores := k.work.cores.trans h.cores
  plan := k.work.plan.trans h.plan
  sec := k.sec.trans h.sec

/-- A join begun: the parameters are taken, the join is sent on, and the module's result slots stay. -/
theorem State.startJoin_spec (s : State) (p : HerdParams) :
    s.HerdTaken p (s.startJoin p) ∧ (∃ x y z, Out.join p x y z ∈ (s.startJoin p).w.out) ∧
      (s.startJoin p).w.dev.results = s.w.dev.results := by
  obtain ⟨m, split, fits⟩ := s.w.joinSplit_eq p.memX
  unfold State.startJoin
  rw [split]
  extract_lets w c cad f fab pwr taken joined beat x
  have params : s.HerdTaken p taken := by
    constructor
    case splitX => exact fits
    all_goals rfl
  have ports : taken.OnlyPorts joined := taken.miswires_onlyPorts _
  have after := params.onlyPorts ports
  refine ⟨?_, ⟨_, _, _, List.mem_append_right _ (List.mem_singleton.mpr rfl)⟩, ports.results⟩
  exact { after with }

/-! ### HERD_FORM and JOIN_RECEIVE (R888, R889, R891) -/

/-- HERD_FORM in STANDBY, before its reply: its slot is taken, and its record waits. -/
def State.herdFormed (s : State) (ring : Nat) (p : HerdParams) (k : Nat) : State :=
  let t := State.startJoin { s with w := s.w.takeSlot k ring 0x0100 } p
  { t with w := { t.w with dev := { t.w.dev with forming := some k } } }

section
variable {s : State} (ring : Nat) (p : HerdParams)

/-- In JOINED it only compares the parameters. -/
theorem exec_herdForm_joined (joined : s.w.dev.state = .joined) :
    exec (.herdForm ring p) s = .next (s.reply ring (if p = s.herdParams then stOk else stStateConflict) []) := by
  refine congrArg Host.Outcome.next (State.command_answers (by simp [joined]) (by decide)
    (a := ⟨s, if p = s.herdParams then stOk else stStateConflict, []⟩) ?_)
  rw [if_pos joined]
  split <;> rfl

variable (standby : s.w.dev.state = .standby) (apart : s.w.cad.lock ≠ 1)
include standby apart

/-- Parameters that obey their rules are taken. -/
theorem exec_herdForm_takes {k : Nat} (ok : s.formOk p = true) (free : s.w.dev.freeSlot = some k) :
    exec (.herdForm ring p) s = .next ((s.herdFormed ring p k).reply ring stOk (toLE 2 k)) := by
  refine congrArg Host.Outcome.next (State.command_answers (by simp [standby]) (by decide)
    (a := ⟨s.herdFormed ring p k, stOk, toLE 2 k⟩) ?_)
  rw [if_neg (by simp [standby]), if_neg apart, if_neg (by simp [ok]), s.withSlot_free ring _ k _ free]
  rfl

/-- Any others are refused. -/
theorem exec_herdForm_bad (bad : s.formOk p = false) : exec (.herdForm ring p) s = .next (s.reply ring stBadParam []) := by
  refine congrArg Host.Outcome.next (State.command_answers (by simp [standby]) (by decide) (a := s.refuse stBadParam) ?_)
  rw [if_neg (by simp [standby]), if_neg apart, if_pos (by simp [bad])]

end

/-- What HERD_FORM leaves with its reply. -/
theorem State.herdFormed_spec (s : State) (ring : Nat) (p : HerdParams) (k : Nat) :
    let t := (s.herdFormed ring p k).reply ring stOk (toLE 2 k)
    s.HerdTaken p t ∧ t.w.dev.forming = some k ∧ ∃ r, mget t.w.dev.results none k = some r ∧ r.ready = false ∧ r.opcode = 0x0100 := by
  obtain ⟨taken, -, results⟩ := State.startJoin_spec { s with w := s.w.takeSlot k ring 0x0100 } p
  have formed : s.HerdTaken p (s.herdFormed ring p k) := { taken with }
  have record := (congrArg (mget · none k) results).trans (s.w.takeSlot_results k ring 0x0100)
  have replied := (s.herdFormed ring p k).reply_onlyPorts ring (status := stOk) (toLE 2 k) (by decide)
  exact ⟨formed.onlyPorts replied, Work.reply_dev_forming _ _ _ _, _, (congrArg (mget · none k) replied.results).trans record, rfl, rfl⟩

/-- The index that a join gives the module behind a port, from the coordinates of the neighbour that sent it (R734, R889). -/
def State.joinMember (s : State) (port : Nat) (p : HerdParams) (x y z : Nat) : Nat :=
  let dims := [p.xM1 + 1, p.yM1 + 1, p.zM1 + 1]
  memberOf dims (ownCoords dims (s.fab.port port).bond.toNat [x, y, z])

/-- JOIN_RECEIVE in STANDBY, on a working port of a bond: the module takes its own index from its neighbour's place. -/
theorem exec_joinReceive {s : State} {port : Nat} (p : HerdParams) (x y z : Nat) (standby : s.w.dev.state = .standby)
    (apart : s.w.cad.lock = 0) (hp : port < 40) (bond : (s.fab.port port).bond.toNat < 6)
    (works : (s.fab.port port).working = true) :
    exec (.joinReceive port p x y z) s = .next (s.startJoin { p with member := s.joinMember port p x y z }) := by
  have takes : ¬(40 ≤ port ∨ 6 ≤ (s.fab.port port).bond.toNat ∨ !(s.fab.port port).working) := by
    simp only [works, Bool.not_true, Bool.false_eq_true, or_false]
    omega
  refine congrArg Host.Outcome.next ?_
  exact (if_neg takes).trans ((if_pos apart).trans (if_pos standby))

end Sys2Proof.Machine

open Sys2Proof Sys2Proof.Machine

/-- Settles O24: HERD_FORM takes the parameters (`State.herdFormed_spec`) or is refused, in JOINED it compares them
(`exec_herdForm_joined`), and JOIN_RECEIVE takes them with the index that follows from its neighbour's (`exec_joinReceive`). That the
join is sent on, which the statement does not ask, is `State.startJoin_spec`. -/
theorem herdJoined : Obligations.HerdJoined := by
  unfold Obligations.HerdJoined
  intro ring port k p s took
  have takes {m : Nat} {t : State} (st : s.w.dev.state = .standby) (h : s.HerdTaken { p with member := m } t) : took m t :=
    ⟨h.lock, h.tickClk, h.slackClk, h.stretchMax, h.bellwether, h.member, h.herd, h.xM1, h.yM1, h.zM1, h.clockSel, h.splitX,
      h.state.trans st, h.cores, h.plan, h.sec⟩
  refine ⟨fun st apart ok free => ?_, exec_herdForm_bad ring p, exec_herdForm_joined ring p, fun x y z st apart hp bond works => ?_⟩
  · obtain ⟨taken, forming, record⟩ := s.herdFormed_spec ring p k
    exact ⟨_, exec_herdForm_takes ring p st apart ok free, takes st taken, forming, record⟩
  · exact ⟨_, exec_joinReceive p x y z st apart hp bond works, takes st (s.startJoin_spec _).1⟩
end

section
/-!
What keeps a plan (O17): what an access to memory, a spill, a retired channel and a class change leave of the plan, the run, the load under way
and the result slots, and which changes they can make wait; so a plan armed and the changes carried out after it keep all of these.
-/

namespace Sys2Proof.Machine

/-! ### What messages leave (R827, R881) -/

/-- Messages to the outside change no byte of HBM. -/
theorem Work.SamePlanWork.hbm {w v : Work} (h : w.SamePlanWork v) : v.mem.hbm = w.mem.hbm := by rw [h.mem]

/-- Messages to the outside start and end no activity. -/
theorem Work.SamePlanWork.acts {w v : Work} (h : w.SamePlanWork v) : v.rel.acts = w.rel.acts := by rw [h.rel]

/-! ### What an access leaves of the plan and of the device block (R327 to R330, R923, R928, R941) -/

/-- Two work states that agree in the plan, the run, the load under way and the result slots, and in which no other change waits for
the next entry to LOADED than before, but for channels to retire (R338). -/
structure Work.PlanKept (w v : Work) : Prop where
  plan : v.plan = w.plan
  run : v.run = w.run
  load : v.dev.load = w.dev.load
  results : v.dev.results = w.dev.results
  acts : ∀ a ∈ v.rel.acts, a.state = .pending → a ∈ w.rel.acts ∨ a.code = 0x05

/-- Where the device block and the activities stay, only the plan and the run can tell. -/
theorem Work.PlanKept.of_same {w v : Work} (plan : v.plan = w.plan := by rfl) (run : v.run = w.run := by rfl)
    (dev : v.dev = w.dev := by rfl) (acts : v.rel.acts = w.rel.acts := by rfl) : w.PlanKept v :=
  ⟨plan, run, congrArg Dev.load dev, congrArg Dev.results dev, fun _ ha _ => .inl (acts ▸ ha)⟩

theorem Work.PlanKept.refl (w : Work) : w.PlanKept w := .of_same

theorem Work.PlanKept.trans {a b c : Work} (h : a.PlanKept b) (k : b.PlanKept c) : a.PlanKept c where
  plan := k.plan.trans h.plan
  run := k.run.trans h.run
  load := k.load.trans h.load
  results := k.results.trans h.results
  acts x hx waits := (k.acts x hx waits).elim (fun old => h.acts x old waits) .inr

/-- Changes one after the other. -/
theorem Work.PlanKept.foldl {α : Type} {f : Work → α → Work} (h : ∀ (v : Work) x, v.PlanKept (f v x)) (w : Work) (xs : List α) :
    w.PlanKept (xs.foldl f w) :=
  List.foldlRecOn xs f (.refl w) (fun v hv x _ => hv.trans (h v x))

theorem Work.linkWrite_planKept (w : Work) (addr : Nat) (bs : List Byte) : w.PlanKept (w.linkWrite addr bs) where
  plan := w.linkWrite_plan addr bs
  run := w.linkWrite_run addr bs
  load := w.linkWrite_dev_load addr bs
  results := w.linkWrite_dev_results addr bs
  acts _ ha _ := .inl ((w.linkWrite_same addr bs).acts ▸ ha)

theorem Work.event_planKept (w : Work) (kind sev unit sub idx addr data : Nat) :
    w.PlanKept (w.event kind sev unit sub idx addr data) where
  plan := w.event_plan _ _ _ _ _ _ _
  run := w.event_run _ _ _ _ _ _ _
  load := w.event_dev_load _ _ _ _ _ _ _
  results := w.event_dev_results _ _ _ _ _ _ _
  acts _ ha _ := .inl ((w.event_same _ _ _ _ _ _ _).acts ▸ ha)

/-- An activity that a lasting fault of HBM starts by itself waits for the next entry to LOADED only if it retires a channel. -/
theorem Rel.autoStart_acts {r : Rel} {part unit sub idx code : Nat} {m : MaintArgs} (hbm : part = 0 ∨ part = 1)
    (action : lastingAction part unit sub idx = some (code, m)) {a : Activity} (ha : a ∈ (r.autoStart code m).acts)
    (waits : a.state = .pending) : a ∈ r.acts ∨ a.code = 0x05 := by
  rcases List.mem_append.mp ha with old | new
  · exact .inl old
  · obtain rfl := List.mem_singleton.mp new
    rcases hbm with rfl | rfl <;> cases action
    · dsimp only at waits
      split at waits <;> cases waits
    · exact .inr rfl

/-- A lasting fault of HBM. -/
theorem Work.lasting_planKept (w : Work) {part : Nat} (hbm : part = 0 ∨ part = 1) (unit sub idx : Nat) :
    w.PlanKept (w.lasting part unit sub idx) := by
  have part_hbm : w.lastingPart part unit sub idx = 0 ∨ w.lastingPart part unit sub idx = 1 := by
    rcases hbm with rfl | rfl
    · unfold Work.lastingPart
      split
      · exact .inr rfl
      · exact .inl rfl
    · exact .inr rfl
  unfold Work.lasting
  extract_lets part' rel w1 w2 w3
  have logged : w.PlanKept w2 := .trans .of_same (w1.event_planKept _ _ _ _ _ _ _)
  have marked : w2.PlanKept w3 := by
    unfold w3
    split <;> exact .of_same
  refine (logged.trans marked).trans ?_
  split
  · exact .of_same
  · split
    · split
      · next code m action => exact ⟨rfl, rfl, rfl, rfl, fun a ha => Rel.autoStart_acts part_hbm action ha⟩
      · exact .refl w3
    · exact .refl w3

/-- Counting a part's events starts no activity. -/
theorem Rel.countEvent_acts (r : Rel) (part crit unit sub idx n : Nat) : (r.countEvent part crit unit sub idx n).1.acts = r.acts := by
  unfold Rel.countEvent
  dsimp only
  split <;> rfl

/-- Following a row starts no activity. -/
theorem Rel.trackRow_acts (r : Rel) (stack ch row : Nat) : (r.trackRow stack ch row).acts = r.acts := by
  unfold Rel.trackRow
  dsimp only
  split
  · rfl
  · split <;> rfl

/-- Events of HBM, counted. -/
theorem Work.partEvent_planKept (w : Work) {part : Nat} (hbm : part = 0 ∨ part = 1) (crit unit sub idx n : Nat) :
    w.PlanKept (w.partEvent part crit unit sub idx n) := by
  unfold Work.partEvent
  extract_lets r w1
  have counted : w.PlanKept w1 := .of_same (acts := Rel.countEvent_acts _ _ _ _ _ _ _)
  split
  · exact counted.trans (w1.lasting_planKept hbm _ _ _)
  · exact counted

/-- A line read through the decoder. -/
theorem Work.readLine_planKept (w : Work) (rq l : Nat) : w.PlanKept (w.readLine rq l) := by
  unfold Work.readLine
  extract_lets p mem corrected lost logged
  split
  · exact .refl w
  · have counted : w.PlanKept corrected := .of_same (acts := Rel.trackRow_acts _ _ _ _)
    exact (counted.trans (corrected.partEvent_planKept (.inl rfl) _ _ _ _ _)).trans (Work.partEvent_planKept _ (.inr rfl) _ _ _ _ _)
  · have counted : w.PlanKept lost := .of_same
    exact ((counted.trans (lost.event_planKept _ _ _ _ _ _ _)).trans (logged.lasting_planKept (.inl rfl) _ _ _)).trans
      (Work.partEvent_planKept _ (.inr rfl) _ _ _ _ _)

/-- A read's effects. -/
theorem Work.readEffects_planKept (w : Work) (rq pa n : Nat) : w.PlanKept (w.readEffects rq pa n) :=
  .foldl (fun v l => v.readLine_planKept rq l) w _

/-- A lost line listed. -/
theorem Work.listLost_planKept (w : Work) (l : Nat) : w.PlanKept (w.listLost l) := by
  unfold Work.listLost
  split
  · exact .refl w
  · dsimp only
    split
    · exact .trans .of_same (Work.event_planKept _ _ _ _ _ _ _ _)
    · exact .trans .of_same (Work.event_planKept _ _ _ _ _ _ _ _)

/-- A line that a write covers in part. -/
theorem Work.mergeLine_planKept (w : Work) (rq l : Nat) : w.PlanKept (w.mergeLine rq l) := by
  unfold Work.mergeLine
  split
  · exact .refl w
  · exact (w.readLine_planKept rq l).trans .of_same
  · extract_lets listed w1 mem w2
    have read : w.PlanKept w1 := by
      unfold w1
      split
      · exact .refl w
      · exact w.readLine_planKept rq l
    have zeroed : w1.PlanKept w2 := .of_same
    split
    · exact read.trans zeroed
    · exact (read.trans zeroed).trans (w2.listLost_planKept l)

/-- A write to HBM. -/
theorem Work.hbmWrite_planKept (w : Work) (rq pa : Nat) (bs : List Byte) : w.PlanKept (w.hbmWrite rq pa bs) := by
  unfold Work.hbmWrite
  extract_lets n parts w1 whole mem v
  have merged : w.PlanKept w1 := .foldl (fun v l => v.mergeLine_planKept rq l) w _
  have ready : w.PlanKept v := by
    unfold v
    split
    · exact .refl w
    · exact merged.trans .of_same
  exact ready.trans .of_same

/-! ### Cumulus's accesses, spills and the arming of a plan (R659, R699, R701) -/

/-- A read by Cumulus. -/
theorem Work.cumReads_planKept (w : Work) (a n : Nat) : w.PlanKept (w.cumReads a n) := by
  unfold Work.cumReads
  split
  · exact .refl w
  · refine .foldl (fun v r => ?_) w _
    split
    · split
      · exact v.readEffects_planKept _ _ _
      · exact .refl v
    · exact .refl v

/-- A write by Cumulus, to local HBM, to a peer's or to companion memory. -/
theorem Work.cumWrite_planKept (w : Work) (a : Nat) (bs : List Byte) : w.PlanKept (w.cumWrite a bs) := by
  unfold Work.cumWrite
  refine .foldl (fun v piece => ?_) w _
  extract_lets data
  split
  · exact .refl v
  · extract_lets t
    split
    · exact v.hbmWrite_planKept _ _ _
    · exact .of_same
    · exact v.linkWrite_planKept _ _

/-- A spill started. -/
theorem Work.startSpill_planKept (w : Work) (p : Policy) (c : Nat × Nat × Nat) : w.PlanKept (w.startSpill p c) := by
  unfold Work.startSpill Work.setEnt
  extract_lets x t m
  split
  · exact .trans .of_same (Work.cumWrite_planKept _ _ _)
  · exact .of_same

/-- TIER_FULL brought up to date. -/
theorem Work.tierStatus_planKept (w : Work) (p : Policy) : w.PlanKept (w.tierStatus p) := .of_same

/-- Spills started as far as they are wanted. -/
theorem Work.spill_planKept (w : Work) (p : Policy) : w.PlanKept (w.spill p) := by
  unfold Work.spill
  split
  · extract_lets w1 want w2
    have read : w.PlanKept w1 := .foldl (fun v s => v.cumReads_planKept _ _) w _
    have started : w1.PlanKept w2 := .foldl (fun v c => v.startSpill_planKept p c) w1 _
    exact (read.trans started).trans (.trans .of_same (Work.tierStatus_planKept _ p))
  · exact .trans .of_same (Work.tierStatus_planKept _ p)

/-- Every slot closed. -/
theorem Work.closeSlots_planKept (w : Work) : w.PlanKept w.closeSlots := by
  unfold Work.closeSlots
  extract_lets v mem
  have cleared : w.PlanKept v := by
    unfold v
    split
    · exact .refl w
    · exact .foldl (fun v s => v.cumWrite_planKept _ _) w _
  exact cleared.trans .of_same

/-- Cumulus when a plan is armed, whichever was armed before. -/
theorem Work.cumArm_planKept (w : Work) (old : Option Plan) : w.PlanKept (w.cumArm old) := by
  unfold Work.cumArm
  extract_lets same shut v
  have closed : w.PlanKept v := by
    unfold v
    split
    · exact .refl w
    · have slots := ({ w with plan := old } : Work).closeSlots_planKept
      exact ⟨rfl, slots.run, slots.load, slots.results, slots.acts⟩
  split
  · exact closed.trans .of_same
  · exact closed.trans (.trans .of_same (Work.spill_planKept _ _))

/-- A plan armed is the plan in force, the count of steps begun anew. -/
theorem Work.arm_spec (w : Work) (p : Plan) : (w.arm p).plan = some p ∧ (w.arm p).run = { w.run with begun := 0, commits := 0 } ∧
    (w.arm p).dev.load = w.dev.load ∧ ∀ a ∈ (w.arm p).rel.acts, a.state = .pending → a ∈ w.rel.acts ∨ a.code = 0x05 := by
  obtain ⟨cores, scales, eq⟩ : ∃ cores scales, w.arm p =
      ({ w with plan := some p, cores := cores, scales := scales, run := { w.run with begun := 0, commits := 0 } } : Work).cumArm
        w.plan := ⟨_, _, rfl⟩
  obtain ⟨plan, run, load, -, acts⟩ := Work.cumArm_planKept _ w.plan
  rw [eq]
  exact ⟨plan, run, load, acts⟩

/-! ### Changes carried out at an entry (R338 to R344, R929, R934, R935) -/

/-- A channel retired. -/
theorem Work.retireChannel_planKept (w : Work) (stack ch : Nat) : w.PlanKept (w.retireChannel stack ch) := by
  have fresh (v : Work) (l : Nat) : v.PlanKept (v.freshLine l) := by
    unfold Work.freshLine
    extract_lets lost mem u
    split
    · exact .trans .of_same (Work.listLost_planKept _ l)
    · exact .of_same
  unfold Work.retireChannel
  extract_lets bad w1 m1 r1 w2 x cap lo hi m3 w3 w4 m5 w5 m6 w6
  have rewritten : w.PlanKept w1 := .foldl (fun v l => (v.readLine_planKept 4 l).trans (fresh _ l)) w bad
  have without : w1.PlanKept w2 := .of_same
  have discarded : w2.PlanKept w3 := .of_same
  have logged : w3.PlanKept w4 := w3.event_planKept _ _ _ _ _ _ _
  have narrowed : w4.PlanKept w6 := .of_same
  have retired := ((rewritten.trans without).trans discarded).trans logged
  split
  · exact retired
  · exact (retired.trans narrowed).trans (w6.event_planKept _ _ _ _ _ _ _)

/-- A class change. -/
theorem Work.changeClass_planKept (w : Work) : w.PlanKept w.changeClass := by
  unfold Work.changeClass
  extract_lets r1 r2 cls n map r3 hw used w1 w2
  have laidOut : w.PlanKept w1 := .trans .of_same (.foldl (fun v c => .of_same) _ _)
  exact (laidOut.trans (w1.event_planKept _ _ _ _ _ _ _)).trans .of_same

/-- Two states that agree in the plan, the run, the load under way and every block but the work state. -/
structure State.PlanKept (s t : State) : Prop where
  plan : t.w.plan = s.w.plan
  run : t.w.run = s.w.run
  load : t.w.dev.load = s.w.dev.load
  blocks : s.SameBlocks t

theorem State.PlanKept.refl (s : State) : s.PlanKept s := ⟨rfl, rfl, rfl, rfl, rfl, rfl, rfl⟩

theorem State.PlanKept.trans {a b c : State} (h : a.PlanKept b) (k : b.PlanKept c) : a.PlanKept c where
  plan := k.plan.trans h.plan
  run := k.run.trans h.run
  load := k.load.trans h.load
  blocks := ⟨k.blocks.pending.trans h.blocks.pending, k.blocks.fab.trans h.blocks.fab, k.blocks.pwr.trans h.blocks.pwr,
    k.blocks.sec.trans h.blocks.sec⟩

/-- A change of the work state alone. -/
theorem Work.PlanKept.state {s : State} {v : Work} (h : s.w.PlanKept v) : s.PlanKept { s with w := v } :=
  ⟨h.plan, h.run, h.load, rfl, rfl, rfl, rfl⟩

/-- A change of DEV_STATE.STATE. -/
theorem State.setState_planKept (s : State) (st : DevState) (cause : Cause) : s.PlanKept { s with w := s.w.setState st cause } :=
  ⟨s.w.setState_plan st cause, s.w.setState_run st cause, s.w.setState_dev_load st cause, rfl, rfl, rfl, rfl⟩

/-- A result slot made ready without a failure of authentication. -/
theorem State.finish_planKept (s : State) (slot : Nat) {status : Nat} (body : List Byte) (h : status ≠ stAuthFail) :
    s.PlanKept (s.finish slot status body) :=
  ⟨s.w.finish_plan _ _ _, s.w.finish_run _ _ _, s.w.finish_dev_load _ _ _, rfl, rfl, rfl, s.sec.countAuth_other h⟩

/-- An activity done. -/
theorem State.actDone_planKept (s : State) (a : Activity) (outcome : Nat) : s.PlanKept (s.actDone a stOk outcome) := by
  unfold State.actDone
  extract_lets w1 r t u
  have logged : s.PlanKept u := .trans (b := t) ⟨rfl, rfl, rfl, rfl, rfl, rfl, rfl⟩ (t.w.event_planKept _ _ _ _ _ _ _).state
  split
  · exact (logged.trans (u.finish_planKept _ _ (by decide))).trans ⟨rfl, rfl, rfl, rfl, rfl, rfl, rfl⟩
  · exact logged

/-- Where only channels wait to be retired, the changes carried out keep the plan and the run, and touch no other block. -/
theorem State.carryOut_planKept {s : State} (channels : ∀ a ∈ s.w.rel.acts, a.state = .pending → a.code = 0x05) :
    s.PlanKept s.carryOut := by
  unfold State.carryOut
  extract_lets t
  have performed : s.PlanKept t := by
    refine List.foldlRecOn _ _ (.refl s) (fun u hu a ha => hu.trans ?_)
    obtain ⟨ha, waits⟩ := List.mem_filter.mp ha
    rw [channels a ha (by simpa using waits)]
    exact (u.w.retireChannel_planKept _ _).state.trans (State.actDone_planKept _ a 0)
  split
  · exact performed.trans t.w.changeClass_planKept.state
  · exact performed

/-- An entry to LOADED or STANDBY where only channels wait to be retired. -/
theorem State.enter_planKept {s : State} (channels : ∀ a ∈ s.w.rel.acts, a.state = .pending → a.code = 0x05) (st : DevState)
    (cause : Cause) : s.PlanKept (s.enter st cause) ∧ (s.enter st cause).w.dev.state = st := by
  unfold State.enter
  split
  · extract_lets t u
    have same : t.w.rel.acts = s.w.rel.acts := (s.w.setState_same .maint .maintenance).acts
    have carried : t.PlanKept u := State.carryOut_planKept (fun a ha => channels a (same ▸ ha))
    exact ⟨((s.setState_planKept _ _).trans carried).trans (u.setState_planKept _ _), u.w.setState_dev_state _ _⟩
  · exact ⟨s.setState_planKept _ _, s.w.setState_dev_state _ _⟩

end Sys2Proof.Machine
end

section
/-!
PLAN_LOAD, PLAN_UNLOAD and the end of a verification (O17): what each leaves, and the commands that a load under way refuses.
-/

namespace Sys2Proof.Machine

/-! ### PLAN_LOAD and PLAN_UNLOAD (R92, R859, R862) -/

/-- The image that PLAN_LOAD reads. -/
def State.planImage (s : State) (ring addr bytes space : Nat) : List Byte :=
  if space = 0 then s.w.compRead ring addr bytes else s.w.mem.hbmRead addr bytes

/-- The work state once a class change that waits has come and the image has been read. -/
def Work.imageRead (w : Work) (addr bytes space : Nat) : Work :=
  let v := if w.rel.classPending then w.changeClass else w
  if space = 0 then v else v.readEffects 5 addr bytes

theorem Work.imageRead_planKept (w : Work) (addr bytes space : Nat) : w.PlanKept (w.imageRead addr bytes space) := by
  unfold Work.imageRead
  extract_lets v
  have changed : w.PlanKept v := by
    unfold v
    split
    · exact w.changeClass_planKept
    · exact .refl w
  split
  · exact changed
  · exact changed.trans (v.readEffects_planKept _ _ _)

/-- PLAN_LOAD accepted, before its reply. -/
def State.planLoading (s : State) (ring addr bytes space k : Nat) : State :=
  let v := (s.w.takeSlot k ring 0x0200).imageRead addr bytes space
  { s with w := { v with dev := { v.dev with load := some { slot := k, declared := bytes, image := s.planImage ring addr bytes space } } } }

/-- With no load under way and a free slot, an image within its memory is read. -/
theorem exec_planLoad_begins {s : State} {addr bytes space k : Nat} (ring : Nat) (on : s.w.dev.state ∈ [DevState.joined, .loaded])
    (idle : s.w.dev.load = none) (free : s.w.dev.freeSlot = some k) (hs : space < 2) (inside : space = 1 → addr + bytes ≤ hbmBytes) :
    exec (.planLoad ring addr bytes space) s = .next ((s.planLoading ring addr bytes space k).reply ring stOk (toLE 2 k)) := by
  refine congrArg Host.Outcome.next (State.command_answers on (by decide)
    (a := ⟨s.planLoading ring addr bytes space k, stOk, toLE 2 k⟩) ?_)
  rw [if_neg (by simp [idle]), if_neg (by omega), s.withSlot_free ring _ k _ free]
  rfl

/-- What PLAN_LOAD leaves with its reply. -/
theorem State.planLoading_spec (s : State) (ring addr bytes space k : Nat) :
    let t := (s.planLoading ring addr bytes space k).reply ring stOk (toLE 2 k)
    t.w.dev.load = some { slot := k, declared := bytes, image := s.planImage ring addr bytes space } ∧
      (mget t.w.dev.results none k).isSome = true ∧ t.w.plan = s.w.plan ∧ t.w.run = s.w.run ∧ s.SameBlocks t := by
  have read := (s.w.takeSlot k ring 0x0200).imageRead_planKept addr bytes space
  refine ⟨Work.reply_dev_load _ _ _ _, ?_, (Work.reply_plan _ _ _ _).trans read.plan, (Work.reply_run _ _ _ _).trans read.run,
    by constructor <;> rfl⟩
  rw [State.reply_w, Work.reply_dev_results]
  exact (congrArg (fun m => (mget m none k).isSome) read.results).trans (by rw [Work.takeSlot_results]; rfl)

/-- A plan disarmed, with the steps that it leaves undone. -/
theorem Work.disarm_eq (w : Work) (event : Nat) : ∃ v, w.SamePlanWork v ∧ w.disarm event =
    { v with plan := none, run := { v.run with accepted := none, queued := none }, cum := { v.cum with tierFull := false } } := by
  unfold Work.disarm
  extract_lets st u v
  have first : w.SamePlanWork u := by
    unfold u
    split
    · exact w.finish_same _ _ _
    · exact .refl w
  have second : u.SamePlanWork v := by
    unfold v
    split
    · exact u.finish_same _ _ _
    · exact .refl u
  exact ⟨v, first.trans second, rfl⟩

/-- PLAN_UNLOAD, before its reply. -/
def State.planUnloaded (s : State) : State := { s with w := (s.w.disarm 0).setState .joined .command }

/-- With no load under way the plan is disarmed. -/
theorem exec_planUnload {s : State} (ring : Nat) (on : s.w.dev.state ∈ [DevState.loaded]) (idle : s.w.dev.load = none) :
    exec (.planUnload ring) s = .next (s.planUnloaded.reply ring stOk []) := by
  refine congrArg Host.Outcome.next (State.command_answers on (by decide) (a := ⟨s.planUnloaded, stOk, []⟩) ?_)
  exact if_neg (by simp [idle])

/-- What PLAN_UNLOAD leaves with its reply. -/
theorem State.planUnloaded_spec (s : State) (ring : Nat) :
    let t := s.planUnloaded.reply ring stOk []
    t.w.plan = none ∧ t.w.dev.state = .joined ∧ t.w.run.accepted = none ∧ t.w.run.queued = none ∧ t.w.mem.hbm = s.w.mem.hbm ∧
      t.w.scales = s.w.scales ∧ t.w.cores = s.w.cores ∧ s.SameBlocks t := by
  obtain ⟨v, same, eq⟩ := s.w.disarm_eq 0
  have left := ((s.w.disarm 0).setState_same .joined .command).trans (Work.reply_same _ ring stOk [])
  refine ⟨left.plan.trans (by rw [eq]), (Work.reply_dev_state _ _ _ _).trans (Work.setState_dev_state _ _ _),
    (congrArg Run.accepted left.run).trans (by rw [eq]), (congrArg Run.queued left.run).trans (by rw [eq]),
    left.hbm.trans ?_, left.scales.trans ?_, left.cores.trans ?_, by constructor <;> rfl⟩
  · rw [eq, same.hbm]
  · rw [eq, same.scales]
  · rw [eq, same.cores]

/-- While a load is under way, PLAN_LOAD, PLAN_UNLOAD, STEP_RUN and HERD_LEAVE are refused (R862). -/
theorem exec_load_busy {s : State} (busy : s.w.dev.load.isSome = true) (ring addr bytes space start : Nat) {c : Instr}
    (hc : c ∈ [Instr.planLoad ring addr bytes space, .planUnload ring, .stepRun ring start, .herdLeave ring])
    {allowed : List DevState} (row : allowedIn c = some allowed) (on : s.w.dev.state ∈ allowed) :
    exec c s = .next (s.reply ring stBusy []) := by
  simp only [List.mem_cons, List.not_mem_nil, or_false] at hc
  rcases hc with rfl | rfl | rfl | rfl <;> cases row <;>
    exact congrArg Host.Outcome.next (State.command_answers on (by decide) (a := s.refuse stBusy) (if_pos busy))

/-! ### The end of a verification (R92, R93, R859) -/

/-- A check that is picked is one that fails. -/
theorem pickBad_spec {bs : List Bad} (h : bs ≠ []) : ∃ b ∈ bs, pickBad bs = some b := by
  have inside : Config.freePick bs % bs.length < bs.length := Nat.mod_lt _ (List.length_pos_iff.mpr h)
  exact ⟨_, List.getElem_mem inside, List.getElem?_eq_getElem inside⟩

/-- The state once its load is over. -/
def State.loadOver (s : State) : State := { s with w := { s.w with dev := { s.w.dev with load := none } } }

/-- A verification ends in JOINED or LOADED. -/
theorem exec_planLoadVerified {s : State} {j : LoadJob} (load : s.w.dev.load = some j)
    (on : s.w.dev.state = .joined ∨ s.w.dev.state = .loaded) : exec .planLoadVerified s = .next (s.loadOver.loadEnds j) := by
  rw [exec, execPlanLoadVerified, load]
  exact congrArg Host.Outcome.next (if_pos on)

/-- An image that fails a check. -/
theorem State.loadEnds_bad {s : State} {j : LoadJob} {b : Bad} (h : pickBad (s.planFaults j.image j.declared) = some b) :
    s.loadEnds j = s.finish j.slot (reasonStatus b.1) (toLE 2 b.1 ++ toLE 2 b.2) := by
  rw [State.loadEnds, h]

/-- An image that passes every check. -/
theorem State.loadEnds_good {s : State} {j : LoadJob} (h : s.planFaults j.image j.declared = []) :
    s.loadEnds j = State.finish (State.enter { s with w := s.w.arm (parsePlan j.image) } .loaded .command) j.slot stOk (zeros 4) := by
  rw [State.loadEnds, h]
  rfl

/-- Where no change waits, none but the retirement of channels can come to wait while a plan is armed. -/
theorem Work.arm_channels {w : Work} (calm : w.changeWaits = false) (p : Plan) :
    ∀ a ∈ (w.arm p).rel.acts, a.state = .pending → a.code = 0x05 := by
  intro a ha waits
  obtain ⟨-, -, -, acts⟩ := w.arm_spec p
  refine (acts a ha waits).resolve_left (fun old => ?_)
  have some_waits : w.changeWaits = true := Bool.or_eq_true_iff.mpr (.inl (List.any_eq_true.mpr ⟨a, old, decide_eq_true waits⟩))
  exact absurd (calm.symm.trans some_waits) (by decide)

end Sys2Proof.Machine

open Sys2Proof Sys2Proof.Machine

/-- Settles O17: PLAN_LOAD begins a load (`State.planLoading_spec`), PLAN_UNLOAD disarms (`State.planUnloaded_spec`), a load under way
refuses four commands (`exec_load_busy`), and at its end a bad image is answered (`State.loadEnds_bad`) and a good one armed, which
the entry to LOADED keeps (`State.loadEnds_good`, `State.enter_planKept`). -/
theorem plansArmed : Obligations.PlansArmed := by
  unfold Obligations.PlansArmed
  refine ⟨fun ring addr bytes k s st => ⟨fun space hs idle free inside => ?_, fun loaded idle => ?_⟩,
    fun ring addr bytes space start s busy _ c hc allowed row on => exec_load_busy busy ring addr bytes space start hc row on,
    fun j s load st => ⟨fun bad => ?_, fun good calm => ?_⟩⟩
  · exact ⟨_, exec_planLoad_begins ring (by simpa using st) idle free hs inside, s.planLoading_spec ring addr bytes space k⟩
  · exact ⟨_, exec_planUnload ring (by simp [loaded]) idle, s.planUnloaded_spec ring⟩
  · obtain ⟨b, hb, picked⟩ := pickBad_spec bad
    have run := exec_planLoadVerified load st
    rw [State.loadEnds_bad (s := s.loadOver) picked] at run
    have same := s.loadOver.w.finish_same j.slot (reasonStatus b.1) (toLE 2 b.1 ++ toLE 2 b.2)
    exact ⟨_, b, run, hb, same.plan, Work.finish_dev_state _ _ _ _, Work.finish_dev_load _ _ _ _, same.cores,
      same.hbm, fun r hr => (s.loadOver.w.finish_results _ _ _ r hr).1⟩
  · have run := exec_planLoadVerified load st
    rw [State.loadEnds_good (s := s.loadOver) good] at run
    obtain ⟨plan, begun, load', -⟩ := s.loadOver.w.arm_spec (parsePlan j.image)
    obtain ⟨entered, state⟩ := State.enter_planKept
      (s := { s.loadOver with w := s.loadOver.w.arm (parsePlan j.image) }) (Work.arm_channels (w := s.loadOver.w) calm _)
      .loaded .command
    have kept := entered.trans (State.finish_planKept _ j.slot (status := stOk) (zeros 4) (by decide))
    exact ⟨_, run, kept.plan.trans plan, (Work.finish_dev_state _ _ _ _).trans state, kept.load.trans load',
      congrArg Run.begun (kept.run.trans begun), congrArg Run.commits (kept.run.trans begun), { kept.blocks with }⟩
end

section
/-!
Commands that take a result slot and make its record ready at once (O43, O44, O45), and the changes of the owner keys (O43).
-/

namespace Sys2Proof.Machine

/-! ### A record made ready at once (R871, R873) -/

/-- What a command leaves that took slot `k` for its OPCODE and made the record ready at once: the record, the security block `x`
with the status counted, and everything that messages to the outside leave unchanged. -/
structure State.Answered (s : State) (opcode k status : Nat) (body : List Byte) (x : Sec) (t : State) : Prop where
  work : s.w.SamePlanWork t.w
  fab : t.fab = s.fab
  pwr : t.pwr = s.pwr
  pending : t.pending = s.pending
  sec : t.sec = x.countAuth status
  record : ∃ r, mget t.w.dev.results none k = some r ∧ r.ready = true ∧ r.opcode = BitVec.ofNat 16 opcode ∧
    r.status = BitVec.ofNat 8 status ∧ r.body = body

/-- A record made ready over a work state that kept the slot as it was taken, with the reply that names the slot. -/
theorem State.finish_answered (s : State) {ring opcode k : Nat} (status : Nat) (body : List Byte) (x : Sec) {v : Work}
    (kept : s.w.SamePlanWork v) (taken : v.dev.results = (s.w.takeSlot k ring opcode).dev.results) :
    s.Answered opcode k status body x
      ((State.finish { s with w := v, sec := x } k status body).reply ring stOk (toLE 2 k)) where
  work := (kept.trans (v.finish_same k status body)).trans (Work.reply_same _ ring stOk (toLE 2 k))
  fab := rfl
  pwr := rfl
  pending := rfl
  sec := Sec.countAuth_other _ (status := stOk) (by decide)
  record := by
    have held := (congrArg (mget · none k) taken).trans (s.w.takeSlot_results k ring opcode)
    have ready := (congrArg (mget · none k) (Work.reply_dev_results (v.finish k status body) ring stOk (toLE 2 k))).trans
      (v.finish_results k status body _ held).1
    exact ⟨_, ready, rfl, rfl, rfl, rfl⟩

/-! ### The changes of the owner keys (R1029, R1030) -/

/-- A key that is installed fills an empty slot. -/
theorem Sec.installKey_some {x y : Sec} {b : KeyBlock} (h : x.installKey b = some y) :
    b.slot < 4 ∧ mget x.keys none b.slot = none ∧ b.keyId ≠ 0 ∧ onCurve b.x b.y = true ∧
      y = { x with keys := mset x.keys none b.slot (some { keyId := BitVec.ofNat 64 b.keyId, x := b.x, y := b.y }) } := by
  unfold Sec.installKey at h
  dsimp only at h
  split at h
  · cases h
  · next taken =>
    simp only [not_or, Bool.not_eq_true, Bool.not_eq_true', Option.isSome_eq_false_iff, Option.isNone_iff_eq_none] at taken
    obtain ⟨slot, empty, named, -, curve⟩ := taken
    exact ⟨by omega, empty, named, by simpa using curve, (Option.some.inj h).symm⟩

/-- A key that is removed leaves its slot empty. -/
theorem Sec.removeKey_some {x y : Sec} {b : KeyBlock} (h : x.removeKey b = some y) :
    b.slot < 4 ∧ (mget x.keys none b.slot).isSome = true ∧ y = { x with keys := mset x.keys none b.slot none } := by
  unfold Sec.removeKey at h
  split at h
  · cases h
  · next taken =>
    simp only [not_or, Bool.not_eq_true, Option.isNone_eq_false_iff] at taken
    obtain ⟨slot, filled, -⟩ := taken
    exact ⟨by omega, filled, (Option.some.inj h).symm⟩

/-- OWNER_REQUIRE set to what the block says. -/
theorem Sec.setRequire_some {x y : Sec} {b : KeyBlock} (h : x.setRequire b = some y) :
    y = { x with ownerRequire := decide (b.require = 1) } := by
  unfold Sec.setRequire at h
  split at h
  · cases h
  · exact (Option.some.inj h).symm

/-! ### OWNER_KEY (R1026 to R1030, R1058) -/

/-- The row of OWNER_KEY with an OP. -/
def keyRow (op ring addr : Nat) : Instr :=
  if op = 0 then .ownerKeyInstall ring addr else if op = 1 then .ownerKeyRemove ring addr else .ownerRequireSet ring addr

/-- The change that an OP asks for. -/
def Sec.keyChange (op : Nat) (x : Sec) (b : KeyBlock) : Option Sec :=
  if op = 0 then x.installKey b else if op = 1 then x.removeKey b else x.setRequire b

theorem exec_keyRow {op : Nat} (hop : op < 3) (ring addr : Nat) (s : State) :
    exec (keyRow op ring addr) s = .next (s.ownerKey ring addr op (Sec.keyChange op)) := by
  interval_cases op <;> rfl

/-- The status of OWNER_KEY with a block, and the security block that it leaves. -/
def Sec.keyAnswer (x : Sec) (b : KeyBlock) (change : Option Sec) : Nat × Sec :=
  if 3 ≤ b.op then (stBadParam, x)
  else if !x.authorised b then (stAuthFail, x)
  else match change with
    | none => (stBadParam, x)
    | some y => (stOk, y.freshOwner)

theorem Sec.keyAnswer_reserved (x : Sec) {b : KeyBlock} (change : Option Sec) (h : 3 ≤ b.op) :
    x.keyAnswer b change = (stBadParam, x) := if_pos h

theorem Sec.keyAnswer_unauthorised {x : Sec} {b : KeyBlock} (change : Option Sec) (known : ¬3 ≤ b.op) (h : x.authorised b = false) :
    x.keyAnswer b change = (stAuthFail, x) := by simp [Sec.keyAnswer, known, h]

theorem Sec.keyAnswer_refused {x : Sec} {b : KeyBlock} (known : ¬3 ≤ b.op) (h : x.authorised b = true) :
    x.keyAnswer b none = (stBadParam, x) := by simp [Sec.keyAnswer, known, h]

theorem Sec.keyAnswer_changed {x : Sec} {b : KeyBlock} (y : Sec) (known : ¬3 ≤ b.op) (h : x.authorised b = true) :
    x.keyAnswer b (some y) = (stOk, y.freshOwner) := by simp [Sec.keyAnswer, known, h]

/-- OWNER_KEY in STANDBY, with a free slot and a block that is its row's or has a reserved OP. -/
theorem State.ownerKey_answered {s : State} {ring addr op k : Nat} {b : KeyBlock} {change : Sec → KeyBlock → Option Sec}
    {c : Option Sec} (standby : s.w.dev.state = .standby) (free : s.w.dev.freeSlot = some k)
    (block : keyBlock (s.w.compRead ring addr 256) = b) (changes : change s.sec b = c) (fits : 3 ≤ b.op ∨ b.op = op) :
    s.Answered 0x0601 k (s.sec.keyAnswer b c).1 [] (s.sec.keyAnswer b c).2 (s.ownerKey ring addr op change) := by
  have frame (status : Nat) (x : Sec) := s.finish_answered (ring := ring) (opcode := 0x0601) (k := k) status [] x
    (s.w.takeSlot_same k ring 0x0601) rfl
  have this_row : ¬(b.op < 3 ∧ b.op ≠ op) := by omega
  rw [State.ownerKey, block, if_neg this_row, State.command_answers (by simp [standby]) (by decide) (s.withSlot_free ring _ k _ free)]
  unfold Sec.keyAnswer
  dsimp only
  rw [changes]
  split
  · exact frame stBadParam s.sec
  · split
    · exact frame stAuthFail s.sec
    · cases c with
      | none => exact frame stBadParam s.sec
      | some y => exact frame stOk y.freshOwner

end Sys2Proof.Machine

open Sys2Proof Sys2Proof.Machine

/-- Settles O43: every outcome is `State.ownerKey_answered` with its answer (`Sec.keyAnswer`), and what a change that is carried
out makes of the keys is `Sec.installKey_some`, `Sec.removeKey_some` and `Sec.setRequire_some`. -/
theorem ownerKeysChanged : Obligations.OwnerKeysChanged := by
  unfold Obligations.OwnerKeysChanged
  intro ring addr k op s standby free hop b row change done
  have run : exec row s = .next (s.ownerKey ring addr op (Sec.keyChange op)) := exec_keyRow hop ring addr s
  have answered := fun fits => State.ownerKey_answered (op := op) (change := Sec.keyChange op) (c := change) standby free
    (Eq.refl b) rfl fits
  refine ⟨fun reserved => ?_, fun mine => ?_⟩
  · have a := answered (.inl reserved)
    rw [Sec.keyAnswer_reserved _ _ reserved] at a
    exact ⟨_, run, a.record, a.sec.trans (Sec.countAuth_other _ (status := stBadParam) (by decide))⟩
  · have a := answered (.inr mine)
    have known : ¬3 ≤ b.op := by omega
    refine ⟨_, run, a.work, a.fab, a.pwr, a.pending, fun unauthorised => ?_, fun authorised refused => ?_,
      fun x authorised changed => ?_⟩
    · rw [Sec.keyAnswer_unauthorised _ known unauthorised] at a
      exact ⟨a.record, a.sec⟩
    · rw [refused, Sec.keyAnswer_refused known authorised] at a
      exact ⟨a.record, a.sec.trans (Sec.countAuth_other _ (status := stBadParam) (by decide))⟩
    · rw [changed, Sec.keyAnswer_changed x known authorised] at a
      rw [a.sec.trans (Sec.countAuth_other _ (status := stOk) (by decide))]
      refine ⟨a.record, ?_⟩
      obtain rfl | rfl | rfl : op = 0 ∨ op = 1 ∨ op = 2 := by omega
      · obtain ⟨slot, empty, named, curve, rfl⟩ := Sec.installKey_some changed
        exact ⟨rfl, rfl, fun _ => ⟨empty, named, curve, mget_mset_same _ _ _ _⟩, fun h => absurd h (by decide),
          fun _ => ⟨rfl, slot, fun j hj => mget_mset_ne _ _ _ hj⟩, fun h => absurd h (by decide)⟩
      · obtain ⟨slot, filled, rfl⟩ := Sec.removeKey_some changed
        exact ⟨rfl, rfl, fun h => absurd h (by decide), fun _ => ⟨filled, mget_mset_same _ _ _ _⟩,
          fun _ => ⟨rfl, slot, fun j hj => mget_mset_ne _ _ _ hj⟩, fun h => absurd h (by decide)⟩
      · cases Sec.setRequire_some changed
        exact ⟨rfl, rfl, fun h => absurd h (by decide), fun h => absurd h (by decide), fun h => absurd h (by decide),
          fun _ => ⟨rfl, rfl⟩⟩
end

section
/-!
The debug lock and FW_ACTIVATE (O44): a start-up that meets no failure, and what each command leaves in STANDBY.
-/

namespace Sys2Proof.Machine

/-! ### A start-up that meets no failure (R976 to R980) -/

theorem cleanBoot_iff {o : BootObs} : cleanBoot o = true ↔
    o.badParts = [] ∧ o.badRecord = false ∧ o.untrained = [] ∧ o.badCores = [] ∧ o.badBanks = [] := by
  simp [cleanBoot, and_assoc]

/-- HBM after step 4, with every channel trained: zeroed. -/
def Work.zeroed (w : Work) : Work := { w with mem := { w.mem with hbm := {}, errs := [], trained := true } }

theorem Work.trainHbm_clean (w : Work) {obs : BootObs} (trained : obs.untrained = []) : w.trainHbm obs = w.zeroed := by
  simp [Work.trainHbm, trained, Work.zeroed]

theorem Work.selfTest_clean (w : Work) {obs : BootObs} (cores : obs.badCores = []) (banks : obs.badBanks = [])
    (settled : w.rel.classPending = false) : w.selfTest obs = w := by
  simp [Work.selfTest, cores, banks, settled]

/-- Steps 4 to 8 with nothing to repair: the module stands in STANDBY with its memory zeroed. -/
theorem State.bringUp_clean {s : State} {obs : BootObs} (clean : cleanBoot obs = true) (settled : s.w.rel.classPending = false) :
    let t := s.bringUp obs
    t.w.dev.state = .standby ∧ t.w.mem.hbm = {} ∧ t.pwr.lastReset = s.pwr.lastReset ∧ t.sec = s.sec.raised := by
  obtain ⟨-, -, channels, cores, banks⟩ := cleanBoot_iff.mp clean
  have no_repairs : bootRepairs obs = false := by simp [bootRepairs, channels, cores, banks]
  have tested : ((if bootRepairs obs then s.w.setState .maint .maintenance else s.w).trainHbm obs).selfTest obs = s.w.zeroed := by
    rw [if_neg (by simp [no_repairs]), s.w.trainHbm_clean channels, s.w.zeroed.selfTest_clean cores banks settled]
  have message (v : Work) (xs : List Out) : (if obs.linkUp then v else { v with out := xs }).mem.hbm = v.mem.hbm := by
    split <;> rfl
  refine ⟨Work.setState_dev_state _ _ _, ?_, rfl, rfl⟩
  exact (Work.setState_hbm _ _ _).trans ((message _ _).trans (congrArg (·.mem.hbm) tested))

/-- Start-up boots the active slot and goes on to step 8 where no step fails. -/
theorem State.startUp_clean {s : State} {obs : BootObs} (clean : cleanBoot obs = true)
    (active : s.sec.bootable obs s.sec.activeB = true) (channels : ∀ k < 12, 16 ≤ (s.w.mem.activeList k).length) :
    s.startUp obs = State.bringUp { s with
      sec := s.sec.boots s.sec.activeB
      pwr := { s.pwr with aliveN := false, slotId := BitVec.ofNat 3 obs.slotId } } obs := by
  obtain ⟨-, record, trained, -, -⟩ := cleanBoot_iff.mp clean
  have slot : s.sec.bootSlot obs = some s.sec.activeB := by rw [Sec.bootSlot, if_pos active]
  have own_slot : (s.sec.boots s.sec.activeB).fallback = false := by simp [Sec.boots]
  have enough : (List.range 12).any (fun k => decide (s.w.mem.trainedIn obs k < 16)) = false := by
    simpa [MemSys.trainedIn, trained] using channels
  simp only [State.startUp, slot, own_slot, record, enough, Bool.false_eq_true, if_false]

/-- Messages to the outside leave the active channels alone. -/
theorem State.channelsOk_of_same {s t : State} (h : s.w.SamePlanWork t.w) (ok : s.channelsOk) : t.channelsOk := by
  intro k hk
  rw [h.mem]
  exact ok k hk

/-- A raise that waits changes no more than MIN_SVN and itself. -/
theorem Sec.raised_eq (x : Sec) : ∃ r v, x.raised = { x with raise := r, minSvn := v } := by
  unfold Sec.raised
  split
  · split
    · exact ⟨_, _, rfl⟩
    · exact ⟨_, _, rfl⟩
  · exact ⟨_, _, rfl⟩

/-- A warm reset whose start-up meets no failure (R972 to R976): STANDBY with HBM zeroed and LAST_RESET naming the source, in the
debug state that the reset gives. -/
theorem State.warmReset_clean {s : State} {obs : BootObs} (src : Nat) (channels : s.channelsOk) (clean : cleanBoot obs = true)
    (active : s.sec.bootable obs s.sec.activeB = true) :
    let t := s.warmReset src obs
    t.w.dev.state = .standby ∧ t.w.mem.hbm = {} ∧ t.pwr.lastReset = BitVec.ofNat 2 src ∧
      t.sec.debug = (s.sec.rebooted true).debug := by
  rw [State.warmReset, State.startUp_clean (s := s.rebooted true src) clean active channels]
  intro t
  obtain ⟨state, hbm, source, sec⟩ := State.bringUp_clean (s := { s.rebooted true src with
    sec := (s.rebooted true src).sec.boots (s.rebooted true src).sec.activeB
    pwr := { (s.rebooted true src).pwr with aliveN := false, slotId := BitVec.ofNat 3 obs.slotId } }) clean rfl
  obtain ⟨r, v, raised⟩ := ((s.rebooted true src).sec.boots (s.rebooted true src).sec.activeB).raised_eq
  have debug := congrArg Sec.debug (sec.trans raised)
  exact ⟨state, hbm, source, debug⟩

/-- The debug state after a warm reset of a module that is not sealed (R1035). -/
theorem Sec.rebooted_debug {x : Sec} (h : x.debug ≠ .sealed) :
    (x.rebooted true).debug = if x.unlockNext then .unlocked else .locked := by
  cases lock : x.debug with
  | sealed => exact absurd lock h
  | locked => simp [Sec.rebooted, lock]
  | unlocked => simp [Sec.rebooted, lock]

/-! ### DEBUG_LOCK (R1034 to R1037) -/

section
variable {s : State} (ring addr : Nat) (obs : BootObs) (standby : s.w.dev.state = .standby)
include standby

/-- In SEALED nothing changes: a seal is done already, and the other two are refused. -/
theorem exec_debug_sealed (h : s.sec.debug = .sealed) :
    exec (.debugSeal ring) s = .next (s.reply ring stOk []) ∧
      exec (.debugUnlock ring addr obs) s = .next (s.reply ring stLocked []) ∧
      exec (.debugRelock ring obs) s = .next (s.reply ring stLocked []) := by
  have allowed : s.w.dev.state ∈ [DevState.standby] := by simp [standby]
  refine ⟨congrArg Host.Outcome.next ?_, congrArg Host.Outcome.next ?_, congrArg Host.Outcome.next ?_⟩
  · exact State.command_answers allowed (by decide) (a := ⟨s, stOk, []⟩) (if_pos h)
  · rw [if_neg (by simp [h])]
    exact State.command_answers allowed (by decide) (a := s.refuse stLocked) (if_pos h)
  · rw [if_neg (by simp [h])]
    exact State.command_answers allowed (by decide) (a := s.refuse stLocked) (if_pos h)

/-- A seal. -/
theorem exec_debugSeal (h : s.sec.debug ≠ .sealed) :
    exec (.debugSeal ring) s = .next (State.reply { s with sec := { s.sec with debug := .sealed }.freshDebug } ring stOk []) :=
  congrArg Host.Outcome.next (State.command_answers (by simp [standby]) (by decide)
    (a := ⟨{ s with sec := { s.sec with debug := .sealed }.freshDebug }, stOk, []⟩) (if_neg h))

/-- A valid token: the reply, and then a warm reset that finds the unlock waiting. -/
theorem exec_debugUnlock_valid (h : s.sec.debug ≠ .sealed) (valid : s.sec.tokenOk (s.w.compRead ring addr 128) = true) :
    exec (.debugUnlock ring addr obs) s =
      .next ((State.reply { s with sec := { s.sec with unlockNext := true } } ring stOk []).warmReset 1 obs) := by
  refine congrArg Host.Outcome.next ((if_pos (by simp [standby, h, valid])).trans (congrArg (State.warmReset · 1 obs) ?_))
  refine State.command_answers (by simp [standby]) (by decide)
    (a := ⟨{ s with sec := { s.sec with unlockNext := true } }, stOk, []⟩) ?_
  rw [if_neg h, if_pos (by simp [h, valid])]

/-- An invalid token. -/
theorem exec_debugUnlock_invalid (h : s.sec.debug ≠ .sealed) (invalid : s.sec.tokenOk (s.w.compRead ring addr 128) = false) :
    exec (.debugUnlock ring addr obs) s = .next (s.reply ring stAuthFail []) := by
  refine congrArg Host.Outcome.next ((if_neg (by simp [invalid])).trans ?_)
  refine State.command_answers (by simp [standby]) (by decide) (a := s.refuse stAuthFail) ?_
  rw [if_neg h, if_neg (by simp [invalid])]

/-- A relock in UNLOCKED: the reply, and then a warm reset. -/
theorem exec_debugRelock_unlocked (h : s.sec.debug = .unlocked) :
    exec (.debugRelock ring obs) s =
      .next ((State.reply { s with sec := s.sec.freshDebug } ring stOk []).warmReset 1 obs) := by
  refine congrArg Host.Outcome.next ((if_pos ⟨standby, h⟩).trans (congrArg (State.warmReset · 1 obs) ?_))
  exact State.command_answers (by simp [standby]) (by decide) (a := ⟨{ s with sec := s.sec.freshDebug }, stOk, []⟩)
    (if_neg (by simp [h]))

/-- A relock in LOCKED. -/
theorem exec_debugRelock_locked (h : s.sec.debug = .locked) :
    exec (.debugRelock ring obs) s = .next (State.reply { s with sec := s.sec.freshDebug } ring stOk []) := by
  refine congrArg Host.Outcome.next ((if_neg (by simp [h])).trans ?_)
  exact State.command_answers (by simp [standby]) (by decide) (a := ⟨{ s with sec := s.sec.freshDebug }, stOk, []⟩)
    (if_neg (by simp [h]))

end

/-! ### FW_ACTIVATE (R1012 to R1015) -/

/-- An image that is verified again stands in its slot. -/
theorem Sec.reverify_slot {x : Sec} {b : Bool} {i : FwImage} (h : x.reverify b = some i) : x.slot b = some i :=
  (Option.filter_eq_some_iff.mp h).1

/-- The raise of the image that the module booted from takes effect. -/
theorem Sec.raised_booted {x : Sec} {i : FwImage} (waits : x.raise = some (x.bootB, i.svn)) (image : x.slot x.bootB = some i) :
    x.raised = { x with raise := none, minSvn := if x.minSvn ≤ i.svn then i.svn else x.minSvn } := by
  simp [Sec.raised, waits, image]

/-- The raise of the image in the other slot waits. -/
theorem Sec.raised_other {x : Sec} {b : Bool} {v : BitVec 6} (waits : x.raise = some (b, v)) (other : b ≠ x.bootB) :
    x.raised = x := by
  unfold Sec.raised
  split
  · next c u j raise _ =>
    cases waits.symm.trans raise
    exact if_neg (fun h => other h.1)
  · rfl

/-- The security block that FW_ACTIVATE of an image leaves. -/
def Sec.activate (x : Sec) (b raise : Bool) (i : FwImage) : Sec :=
  Sec.raised { x with activeB := b, raise := if raise then some (b, i.svn) else x.raise }

theorem Sec.activate_raise (x : Sec) (b : Bool) (i : FwImage) :
    x.activate b true i = Sec.raised { x with activeB := b, raise := some (b, i.svn) } := rfl

/-- Activating a slot changes no more than which slot is active, the raise and MIN_SVN. -/
theorem Sec.activate_eq (x : Sec) (b raise : Bool) (i : FwImage) :
    ∃ r v, x.activate b raise i = { x with activeB := b, raise := r, minSvn := v } := by
  obtain ⟨r, v, raised⟩ := Sec.raised_eq { x with activeB := b, raise := if raise then some (b, i.svn) else x.raise }
  exact ⟨r, v, raised⟩

/-- A raise for the slot that the module booted from reaches MIN_SVN at once, and never lowers it. -/
theorem Sec.activate_booted {x : Sec} {i : FwImage} (h : x.reverify x.bootB = some i) :
    x.minSvn ≤ (x.activate x.bootB true i).minSvn ∧ i.svn ≤ (x.activate x.bootB true i).minSvn := by
  have raised := Sec.raised_booted (x := { x with activeB := x.bootB, raise := some (x.bootB, i.svn) }) rfl (Sec.reverify_slot h)
  rw [Sec.activate_raise, raised]
  dsimp only
  split
  · next le => exact ⟨le, BitVec.le_refl _⟩
  · next gt => exact ⟨BitVec.le_refl _, BitVec.le_of_lt (BitVec.not_le.mp gt)⟩

/-- A raise for the other slot waits. -/
theorem Sec.activate_other {x : Sec} {b : Bool} (i : FwImage) (h : b ≠ x.bootB) :
    (x.activate b true i).minSvn = x.minSvn ∧ (x.activate b true i).raise = some (b, i.svn) := by
  have waits := Sec.raised_other (x := { x with activeB := b, raise := some (b, i.svn) }) rfl h
  rw [Sec.activate_raise, waits]
  exact ⟨rfl, rfl⟩

/-- What FW_ACTIVATE makes of slot `k` and of a flash slot that nothing holds: its image is verified again. -/
def State.verifyAgain (s : State) (k : Nat) (b raise : Bool) : State :=
  match s.sec.reverify b with
  | none => s.finish k stAuthFail (zeros 8)
  | some i => s.activate k b raise i

theorem State.verifyAgain_passes {s : State} {b : Bool} {i : FwImage} (h : s.sec.reverify b = some i) (k : Nat) (raise : Bool) :
    s.verifyAgain k b raise = s.activate k b raise i := by rw [State.verifyAgain, h]

theorem State.verifyAgain_fails {s : State} {b : Bool} (h : s.sec.reverify b = none) (k : Nat) (raise : Bool) :
    s.verifyAgain k b raise = s.finish k stAuthFail (zeros 8) := by rw [State.verifyAgain, h]

section
variable {s : State} (ring : Nat) {slot raise k : Nat} (obs : BootObs) (standby : s.w.dev.state = .standby)
  (free : s.w.dev.freeSlot = some k) (hs : slot < 2) (hr : raise < 2) (idle : s.holdsSlot (decide (slot = 1)) = false)
include standby free hs hr idle

/-- Without RESET, FW_ACTIVATE of a slot that nothing holds is its verification. -/
theorem exec_fwActivate :
    exec (.fwActivate ring slot raise 0 obs) s =
      .next ((State.verifyAgain { s with w := s.w.takeSlot k ring 0x0604 } k (decide (slot = 1)) (decide (raise = 1))).reply
        ring stOk (toLE 2 k)) := by
  refine congrArg Host.Outcome.next ((if_neg (by simp)).trans ?_)
  refine State.command_answers (by simp [standby]) (by decide) (a := ⟨State.verifyAgain _ _ _ _, stOk, toLE 2 k⟩) ?_
  rw [if_neg (by omega), s.withSlot_free ring _ k _ free]
  exact congrArg (Answer.mk · stOk (toLE 2 k)) (if_neg (fun held => absurd (idle.symm.trans held) (by decide)))

/-- An image that passes. -/
theorem exec_fwActivate_passes {i : FwImage} (passes : s.sec.reverify (decide (slot = 1)) = some i) :
    ∃ t, exec (.fwActivate ring slot raise 0 obs) s = .next t ∧
      s.Answered 0x0604 k stOk (toLE 4 i.version.toNat ++ toLE 4 i.svn.toNat)
        (s.sec.activate (decide (slot = 1)) (decide (raise = 1)) i) t := by
  refine ⟨_, exec_fwActivate ring obs standby free hs hr idle, ?_⟩
  rw [State.verifyAgain_passes (s := { s with w := s.w.takeSlot k ring 0x0604 }) passes]
  exact s.finish_answered (ring := ring) stOk _ _
    ((s.w.takeSlot_same k ring 0x0604).trans (Work.event_same _ _ _ _ _ _ _ _)) (Work.event_dev_results _ _ _ _ _ _ _ _)

/-- An empty slot, or an image that fails. -/
theorem exec_fwActivate_fails (fails : s.sec.reverify (decide (slot = 1)) = none) :
    ∃ t, exec (.fwActivate ring slot raise 0 obs) s = .next t ∧ s.Answered 0x0604 k stAuthFail (zeros 8) s.sec t := by
  refine ⟨_, exec_fwActivate ring obs standby free hs hr idle, ?_⟩
  rw [State.verifyAgain_fails (s := { s with w := s.w.takeSlot k ring 0x0604 }) fails]
  exact s.finish_answered (ring := ring) stAuthFail _ s.sec (s.w.takeSlot_same k ring 0x0604) rfl

end

end Sys2Proof.Machine

open Sys2Proof Sys2Proof.Machine

/-- Settles O44: each command is the reply or the reply with a warm reset behind it (`exec_debug_sealed` and the lemmas beside it),
a clean reset is `State.warmReset_clean`, and FW_ACTIVATE is `exec_fwActivate_passes` with what it makes of the slots and of
MIN_SVN, or `exec_fwActivate_fails`. -/
theorem debugAndFirmware : Obligations.DebugAndFirmware := by
  unfold Obligations.DebugAndFirmware
  intro ring addr slot raise k obs s standby free
  refine ⟨exec_debug_sealed ring addr obs standby, fun h => ?_, fun h channels clean active => ?_,
    fun h channels clean active waits => ?_, exec_debugRelock_locked ring obs standby,
    fun hs hr idle => ⟨fun i passes => ?_, fun fails => ?_⟩⟩
  · exact ⟨_, exec_debugSeal ring standby h, rfl, rfl, Work.reply_same _ _ _ _⟩
  · cases token : s.sec.tokenOk (s.w.compRead ring addr 128) with
    | true =>
      obtain ⟨state, hbm, source, lock⟩ := State.warmReset_clean
        (s := State.reply { s with sec := { s.sec with unlockNext := true } } ring stOk []) 1
        (State.channelsOk_of_same (s.w.reply_same ring stOk []) channels) clean active
      refine ⟨_, exec_debugUnlock_valid ring addr obs standby h token, state, ?_⟩
      rw [if_pos rfl]
      exact ⟨lock.trans (Sec.rebooted_debug h), source, hbm⟩
    | false =>
      refine ⟨_, exec_debugUnlock_invalid ring addr obs standby h token, (Work.reply_dev_state _ _ _ _).trans standby, ?_⟩
      rw [if_neg (by decide)]
      exact ⟨rfl, Work.reply_same _ _ _ _⟩
  · obtain ⟨state, -, source, lock⟩ := State.warmReset_clean
      (s := State.reply { s with sec := s.sec.freshDebug } ring stOk []) 1
      (State.channelsOk_of_same (s.w.reply_same ring stOk []) channels) clean active
    refine ⟨_, exec_debugRelock_unlocked ring obs standby h, state, ?_, source⟩
    have locked := Sec.rebooted_debug (x := s.sec.freshDebug) (by simp [Sec.freshDebug, h])
    exact lock.trans (locked.trans (if_neg (by simp [Sec.freshDebug, waits])))
  · obtain ⟨t, run, a⟩ := exec_fwActivate_passes ring obs standby free hs hr idle passes
    have sec := a.sec.trans (Sec.countAuth_other _ (status := stOk) (by decide))
    obtain ⟨r, v, same⟩ := s.sec.activate_eq (decide (slot = 1)) (decide (raise = 1)) i
    refine ⟨t, run, ?_, ?_, ?_, ?_, fun raises => ⟨fun booted => ?_, fun other => ?_⟩, ?_, a.work⟩
    · rw [sec, same]
    · rw [sec, same]
    · rw [sec, same]
    · rw [sec, same]
    · rw [sec, booted, raises]
      exact Sec.activate_booted (booted ▸ passes)
    · rw [sec, raises]
      exact Sec.activate_other i other
    · obtain ⟨r, held, ready, -, status, body⟩ := a.record
      refine ⟨r, held, ready, status, ?_, ?_⟩
      · rw [body]
        exact leAt_front 4 _ _ i.version.isLt
      · have svn := leAt_front 4 i.svn.toNat [] (by omega)
        rw [body, leAt_skip _ _ _ _ (by simp), length_toLE]
        simpa using svn
  · obtain ⟨t, run, a⟩ := exec_fwActivate_fails ring obs standby free hs hr idle fails
    exact ⟨t, run, a.sec, a.work⟩
end

section
/-!
SPDM_MESSAGE, MACSEC_KEY and Sheepdog (O45).
-/

namespace Sys2Proof.Machine

/-! ### SPDM_MESSAGE (R1021 to R1023) -/

theorem Work.raise_mem (w : Work) (b : Nat) : (w.raise b).mem = w.mem := by
  unfold Work.raise Work.interrupt
  split
  · rfl
  · dsimp only
    split
    · split <;> rfl
    · rfl

/-- With the notification ring off, a record made ready writes nothing to memory. -/
theorem Work.finish_mem (w : Work) (slot status : Nat) (body : List Byte) (off : w.dev.noteEnable = false) :
    (w.finish slot status body).mem = w.mem := by
  unfold Work.finish
  split
  · rfl
  · next r _ =>
    extract_lets r1 d w1
    have still_off : (w1.raise 1).dev.noteEnable = false := by
      rw [w1.raise_notices 1]
      exact off
    rw [Work.note, if_neg (by simp [still_off]), Work.raise_mem]

/-- A record made ready over a work state that kept the slot as it was taken, with the notification ring off. -/
theorem Work.finish_quiet {w v : Work} {ring opcode k : Nat} (status : Nat) (body : List Byte) (kept : w.SamePlanWork v)
    (taken : v.dev.results = (w.takeSlot k ring opcode).dev.results) (off : v.dev.noteEnable = false) :
    ∃ r : RSlot, mget (v.finish k status body).dev.results none k = some r ∧ r.ready = true ∧ r.status = BitVec.ofNat 8 status ∧
      r.body = body ∧ w.SamePlanWork (v.finish k status body) ∧ (v.finish k status body).mem = v.mem := by
  have held := (congrArg (mget · none k) taken).trans (w.takeSlot_results k ring opcode)
  exact ⟨_, (v.finish_results k status body _ held).1, rfl, rfl, rfl, kept.trans (v.finish_same k status body),
    v.finish_mem k status body off⟩

/-- While the link is up, a command of this module's ring writes companion memory and nothing else. -/
theorem Work.compWrite_linked (w : Work) {ring : Nat} (addr : Nat) (bs : List Byte) (hr : ring < 64) (link : w.dev.linkUp = true) :
    w.compWrite ring addr bs = { w with mem.companion := w.mem.companion.write addr bs } := by
  simp [Work.compWrite, hr, Work.linkWrite, link]

/-- SPDM_MESSAGE, before its reply: the exchange, and the response written where it fits. -/
def State.spdmAnswered (s : State) (ring addr n resp cap k : Nat) : State :=
  let req := s.w.compRead ring addr n
  let x := s.spdm req
  let t : State := { s with w := s.w.takeSlot k ring 0x0600, sec := s.sec.exchanged req x }
  if cap < x.length then t.finish k stBadParam (toLE 4 0)
  else State.finish { t with w := t.w.compWrite ring resp x } k stOk (toLE 4 x.length)

theorem exec_spdmMessage {s : State} (ring addr resp cap : Nat) {n k : Nat} (on : s.w.dev.state ∈ started) (least : 1 ≤ n)
    (most : n ≤ 4096) (free : s.w.dev.freeSlot = some k) :
    exec (.spdmMessage ring addr n resp cap) s = .next ((s.spdmAnswered ring addr n resp cap k).reply ring stOk (toLE 2 k)) := by
  refine congrArg Host.Outcome.next (State.command_answers on (by decide)
    (a := ⟨s.spdmAnswered ring addr n resp cap k, stOk, toLE 2 k⟩) ?_)
  rw [if_neg (by omega), s.withSlot_free ring _ k _ free]
  rfl

/-- What SPDM_MESSAGE leaves, while the link is up and the notification ring is off. -/
theorem State.spdmAnswered_spec (s : State) {ring : Nat} (addr n resp cap k : Nat) (hr : ring < 64) (link : s.w.dev.linkUp = true)
    (quiet : s.w.dev.noteEnable = false) :
    let u := s.spdmAnswered ring addr n resp cap k
    let req := s.w.compRead ring addr n
    let x := s.spdm req
    ∃ r : RSlot, mget u.w.dev.results none k = some r ∧ r.ready = true ∧ u.sec = s.sec.exchanged req x ∧ s.w.SamePlanWork u.w ∧
      (if cap < x.length then r.status = BitVec.ofNat 8 stBadParam ∧ r.body = toLE 4 0 ∧ u.w.mem.companion = s.w.mem.companion
       else r.status = 0 ∧ r.body = toLE 4 x.length ∧ u.w.mem.companion = s.w.mem.companion.write resp x) := by
  intro u req x
  have taken := s.w.takeSlot_same k ring 0x0600
  by_cases long : cap < x.length
  · have eq : u = State.finish { s with w := s.w.takeSlot k ring 0x0600, sec := s.sec.exchanged req x } k stBadParam (toLE 4 0) :=
      if_pos long
    obtain ⟨r, held, ready, status, body, same, mem⟩ := Work.finish_quiet (v := s.w.takeSlot k ring 0x0600) stBadParam (toLE 4 0)
      taken rfl quiet
    rw [eq]
    refine ⟨r, held, ready, Sec.countAuth_other _ (status := stBadParam) (by decide), same, ?_⟩
    rw [if_pos long]
    exact ⟨status, body, congrArg MemSys.companion mem⟩
  · have eq : u = State.finish { s with
        w := (s.w.takeSlot k ring 0x0600).compWrite ring resp x
        sec := s.sec.exchanged req x } k stOk (toLE 4 x.length) := if_neg long
    have written := (s.w.takeSlot k ring 0x0600).compWrite_linked resp x hr link
    obtain ⟨r, held, ready, status, body, same, mem⟩ := Work.finish_quiet stOk (toLE 4 x.length)
      (taken.trans (Work.compWrite_same _ ring resp x)) (Work.compWrite_dev_results _ ring resp x)
      ((congrArg (·.dev.noteEnable) written).trans quiet)
    rw [eq]
    refine ⟨r, held, ready, Sec.countAuth_other _ (status := stOk) (by decide), same, ?_⟩
    rw [if_neg long]
    exact ⟨status, body, congrArg MemSys.companion (mem.trans (congrArg Work.mem written))⟩

/-! ### MACSEC_KEY (R1038 to R1041) -/

/-- Every other uplink stays. -/
theorem Fab.modUplink_other (f : Fab) {n j : Nat} (g : Uplink → Uplink) (h : j ≠ n) : (f.modUplink n g).uplink j = f.uplink j := by
  unfold Fab.modUplink Fab.uplink
  exact mget_mmod_ne _ _ _ h

theorem mem_putAssoc_self (xs : List Assoc) (a : Assoc) : a ∈ putAssoc xs a := by simp [putAssoc]

theorem mem_putAssoc_other {xs : List Assoc} {a y : Assoc} (hy : y ∈ xs) (other : y.sci ≠ a.sci ∨ y.an ≠ a.an) :
    y ∈ putAssoc xs a := by
  refine List.mem_append_left _ (List.mem_filter.mpr ⟨hy, ?_⟩)
  simpa [not_and_or] using other

/-- A receive key is kept while its channel is known or there is room for another. -/
theorem Uplink.rxKey_kept {u : Uplink} {a : Assoc} (room : a.sci ∈ channelsOf u.rx ∨ (channelsOf u.rx).length < 1024) :
    u.rxKey a = some { u with rx := putAssoc u.rx a } := by
  refine if_neg (fun ⟨strange, full⟩ => ?_)
  exact room.elim strange (fun h => absurd full (by omega))

/-- A transmit key is kept unless its association is the one in use. -/
theorem Uplink.txKey_kept {u : Uplink} {a : Assoc} (use : Bool) (idle : u.txUse ≠ some a.an) :
    u.txKey a use = some { u with tx := putAssoc u.tx a, txUse := if use then some a.an else u.txUse } := if_neg idle

theorem Uplink.txKey_busy {u : Uplink} {a : Assoc} (use : Bool) (busy : u.txUse = some a.an) : u.txKey a use = none := if_pos busy

/-- The association that MACSEC_KEY names, with its key from companion memory. -/
def State.assocOf (s : State) (ring dir an ssci addr peer : Nat) : Assoc :=
  { sci := if dir = 0 then peer else 0, an := an, ssci := ssci, key := s.w.compRead ring addr 44 }

/-- An uplink as MACSEC_KEY leaves it; none where the key is refused. -/
def State.keyed (s : State) (ring uplink dir an use ssci addr peer : Nat) : Option Uplink :=
  let a := s.assocOf ring dir an ssci addr peer
  if dir = 0 then (s.fab.uplink uplink).rxKey a else (s.fab.uplink uplink).txKey a (decide (use = 1))

section
variable {s : State} (ring : Nat) {uplink dir an use : Nat} (ssci addr peer : Nat)
  (on : s.w.dev.state ∈ [DevState.standby, .joined, .loaded, .running, .held])
include on

/-- A field out of range. -/
theorem exec_macsecKey_bad (bad : 3 < uplink ∨ 1 < dir ∨ 3 < an ∨ (dir = 1 ∧ 1 < use)) :
    exec (.macsecKey ring uplink dir an use ssci addr peer) s = .next (s.reply ring stBadParam []) :=
  congrArg Host.Outcome.next (State.command_answers on (by decide) (a := s.refuse stBadParam) (if_pos bad))

variable (fits : ¬(3 < uplink ∨ 1 < dir ∨ 3 < an ∨ (dir = 1 ∧ 1 < use)))
include fits

/-- A key that is refused. -/
theorem exec_macsecKey_busy (busy : s.keyed ring uplink dir an use ssci addr peer = none) :
    exec (.macsecKey ring uplink dir an use ssci addr peer) s = .next (s.reply ring stBusy []) := by
  refine congrArg Host.Outcome.next (State.command_answers on (by decide) (a := s.refuse stBusy) ((if_neg fits).trans ?_))
  unfold State.keyed State.assocOf at busy
  dsimp only at busy ⊢
  rw [busy]

/-- A key that is kept: its uplink alone changes, while nothing waits to be sent. -/
theorem exec_macsecKey_kept {v : Uplink} (idle : s.w.net.upq = []) (kept : s.keyed ring uplink dir an use ssci addr peer = some v) :
    exec (.macsecKey ring uplink dir an use ssci addr peer) s =
      .next (State.reply { s with fab := s.fab.modUplink uplink (fun _ => v) } ring stOk []) := by
  refine congrArg Host.Outcome.next (State.command_answers on (by decide)
    (a := ⟨{ s with fab := s.fab.modUplink uplink (fun _ => v) }, stOk, []⟩) ((if_neg fits).trans ?_))
  unfold State.keyed State.assocOf at kept
  dsimp only at kept ⊢
  rw [kept]
  exact congrArg (Answer.mk · stOk []) (State.uplinks_idle _ idle)

end

/-! ### Sheepdog (R1047 to R1054) -/

/-- The slot that the module did not boot from takes what is written to the other slot, and the slot booted from stays. -/
theorem Sec.setOther_slots (x : Sec) (img : Option FwImage) :
    (if x.bootB then (x.setOther img).slotA else (x.setOther img).slotB) = img ∧
      (if x.bootB then (x.setOther img).slotB = x.slotB else (x.setOther img).slotA = x.slotA) := by
  unfold Sec.setOther
  cases x.bootB
  · exact ⟨rfl, rfl⟩
  · exact ⟨rfl, rfl⟩

theorem Sec.setOther_pldmBusy (x : Sec) (img : Option FwImage) : (x.setOther img).pldmBusy = x.pldmBusy := by
  unfold Sec.setOther
  cases x.bootB
  · rfl
  · rfl

section
variable {s : State} (awake : s.pwr.aliveN = false)
include awake

/-- While the slot is held an update is refused; otherwise one begins. -/
theorem exec_requestUpdate : exec .requestUpdate s = .next (if s.slotHeld then s.pldm 0x81 0
    else State.pldm { s with sec := { s.sec with pldmBusy := true, pldmDone := false } } 0 0) :=
  congrArg Host.Outcome.next (if_neg (by simp [State.sheepdog, awake]))

/-- A component of an update that verifies. -/
theorem exec_pldmUpdate_verifies {image : List Byte} (busy : s.sec.pldmBusy = true) (good : s.sec.fwOk image = true) :
    exec (.pldmUpdate image) s =
      .next (State.pldm { s with sec := { (s.sec.setOther (some (fwImage image))) with pldmDone := true } } 0 0) :=
  congrArg Host.Outcome.next ((if_neg (by simp [State.sheepdog, awake, busy])).trans (if_pos good))

/-- A component of an update that fails. -/
theorem exec_pldmUpdate_fails {image : List Byte} (busy : s.sec.pldmBusy = true) (bad : s.sec.fwOk image = false) :
    exec (.pldmUpdate image) s =
      .next (State.pldm { s with sec := { (s.sec.setOther none) with pldmDone := false, pldmBusy := false } } 1 0) :=
  congrArg Host.Outcome.next ((if_neg (by simp [State.sheepdog, awake, busy])).trans (if_neg (by simp [bad])))

/-- An updated slot whose image passes again becomes active. -/
theorem exec_activateFirmware {i : FwImage} (busy : s.sec.pldmBusy = true) (updated : s.sec.pldmDone = true)
    (passes : s.sec.reverify (!s.sec.bootB) = some i) :
    exec .activateFirmware s = .next (State.pldm { s with
      sec := { s.sec with activeB := !s.sec.bootB, pldmBusy := false, pldmDone := false }
      w := s.w.activated (!s.sec.bootB) 1 i.svn.toNat } 0 0) := by
  refine congrArg Host.Outcome.next ((if_neg (by simp [State.sheepdog, awake])).trans ?_)
  rw [if_pos (by simp [busy, updated]), passes]

/-- A sensor's value. -/
theorem exec_sensorRead_some {sensor v : Nat} (h : s.sensor sensor = some v) : exec (.sensorRead sensor) s = .next (s.pldm 0 v) := by
  refine congrArg Host.Outcome.next ((if_neg (by simp [State.sheepdog, awake])).trans ?_)
  rw [h]

/-- A sensor that does not exist. -/
theorem exec_sensorRead_none {sensor : Nat} (h : s.sensor sensor = none) : exec (.sensorRead sensor) s = .next (s.pldm 0x80 0) := by
  refine congrArg Host.Outcome.next ((if_neg (by simp [State.sheepdog, awake])).trans ?_)
  rw [h]

end

/-- What is sent changes no plan work. -/
theorem State.pldm_same (s : State) (code value : Nat) : s.w.SamePlanWork (s.pldm code value).w := by constructor <;> rfl

end Sys2Proof.Machine

open Sys2Proof Sys2Proof.Machine

/-- Settles O45: SPDM_MESSAGE is `State.spdmAnswered_spec`; MACSEC_KEY changes its uplink alone (`exec_macsecKey_kept`) or is refused
(`exec_macsecKey_busy`, `exec_macsecKey_bad`); each request to Sheepdog has its equation, from `exec_requestUpdate` on. -/
theorem managementAnswers : Obligations.ManagementAnswers := by
  unfold Obligations.ManagementAnswers
  intro ring addr n resp cap k uplink an ssci peer sensor image s
  refine ⟨fun on least most free hr link quiet => ?_, fun on hu ha => ?_, fun awake => ?_⟩
  · obtain ⟨r, spec⟩ := s.spdmAnswered_spec addr n resp cap k hr link quiet
    exact ⟨_, r, exec_spdmMessage ring addr resp cap on least most free, spec⟩
  · intro u key rxA txA
    refine ⟨fun use idle room => ?_, fun use hus idle free => ?_, fun use hus busy => ?_, ?_⟩
    · refine ⟨_, exec_macsecKey_kept (uplink := uplink) (dir := 0) (an := an) (use := use) ring ssci addr peer on (by omega) idle
        (Uplink.rxKey_kept (u := u) (a := rxA) room), ?_, fun y hy other => ?_, ?_, fun j hj => ?_, Work.reply_same _ _ _ _, rfl⟩
      · rw [State.reply_fab, Fab.modUplink_uplink]
        exact mem_putAssoc_self _ _
      · rw [State.reply_fab, Fab.modUplink_uplink]
        exact mem_putAssoc_other hy other
      · rw [State.reply_fab, Fab.modUplink_uplink]
      · exact s.fab.modUplink_other _ hj
    · refine ⟨_, exec_macsecKey_kept (uplink := uplink) (dir := 1) (an := an) (use := use) ring ssci addr peer on (by omega) idle
        (Uplink.txKey_kept (u := u) (a := txA) _ free), ?_, ?_, ?_, Work.reply_same _ _ _ _, rfl⟩
      · rw [State.reply_fab, Fab.modUplink_uplink]
        exact mem_putAssoc_self _ _
      · rw [State.reply_fab, Fab.modUplink_uplink]
        simp [txA]
      · rw [State.reply_fab, Fab.modUplink_uplink]
    · exact exec_macsecKey_busy ring ssci addr peer on (by omega) (Uplink.txKey_busy (u := u) (a := txA) _ busy)
    · exact exec_macsecKey_bad ring ssci addr peer on (by omega)
  · intro said
    refine ⟨exec_requestUpdate awake, fun busy => ?_, fun i busy updated passes => ?_, fun v h => exec_sensorRead_some awake h,
      fun h => ⟨0x80, by decide, exec_sensorRead_none awake h⟩⟩
    · cases good : s.sec.fwOk image with
      | true =>
        obtain ⟨written, kept⟩ := s.sec.setOther_slots (some (fwImage image))
        exact ⟨_, exec_pldmUpdate_verifies awake busy good, written, kept, (s.sec.setOther_pldmBusy _).trans busy, rfl,
          s.pldm_same 0 0⟩
      | false =>
        obtain ⟨written, kept⟩ := s.sec.setOther_slots none
        exact ⟨_, exec_pldmUpdate_fails awake busy good, written, kept, rfl, rfl, s.pldm_same 1 0⟩
    · have logged : s.w.SamePlanWork (s.w.activated (!s.sec.bootB) 1 i.svn.toNat) := Work.event_same _ _ _ _ _ _ _ _
      exact ⟨_, exec_activateFirmware awake busy updated passes, rfl, rfl, rfl, List.getLast?_concat,
        logged.trans (State.pldm_same { s with w := s.w.activated (!s.sec.bootB) 1 i.svn.toNat } 0 0)⟩
end

section
/-!
What no command touches and no step gives back: the queue, SEALED, MIN_SVN and the order of the owner keys (O2, O3, O4).
-/

namespace Sys2Proof.Machine

/-! ### What no step gives back (R1015, R1026, R1029, R1037) -/

/-- A security block that has given back nothing of another: a seal, a minimum version, the order among the owner keys. -/
structure Sec.Onto (x y : Sec) : Prop where
  lock : x.debug = .sealed → y.debug = .sealed
  svn : x.minSvn ≤ y.minSvn
  keys : x.KeysOk → y.KeysOk

namespace Sec.Onto

theorem refl (x : Sec) : x.Onto x := ⟨id, BitVec.le_refl _, id⟩

theorem trans {x y z : Sec} (h : x.Onto y) (k : y.Onto z) : x.Onto z :=
  ⟨k.lock ∘ h.lock, BitVec.le_trans h.svn k.svn, k.keys ∘ h.keys⟩

/-- A block that changes in none of the four fields concerned. -/
theorem of_same {x y : Sec} (lock : y.debug = x.debug) (svn : y.minSvn = x.minSvn) (keys : y.keys = x.keys)
    (require : y.ownerRequire = x.ownerRequire) : x.Onto y where
  lock h := lock.trans h
  svn := svn ▸ BitVec.le_refl _
  keys h := by
    obtain ⟨required, sound, distinct⟩ := h
    rw [← keys] at required sound distinct
    exact ⟨fun r => required (require ▸ r), sound, distinct⟩

end Sec.Onto

theorem Sec.countAuth_onto (x : Sec) (status : Nat) : x.Onto (x.countAuth status) :=
  .of_same (by simp) (by simp) (by simp) (by simp)

theorem Sec.setOther_onto (x : Sec) (img : Option FwImage) : x.Onto (x.setOther img) := by
  unfold Sec.setOther
  dsimp only
  split <;> exact .of_same rfl rfl rfl rfl

theorem Sec.rebooted_onto (x : Sec) (warm : Bool) : x.Onto (x.rebooted warm) where
  lock h := by simp [Sec.rebooted, h]
  svn := BitVec.le_refl _
  keys h := ⟨h.required, h.sound, h.distinct⟩

/-- A raise that takes effect takes the larger of the two versions (R1015). -/
theorem Sec.raised_onto (x : Sec) : x.Onto x.raised := by
  unfold Sec.raised
  split
  · split
    · next v _ _ _ _ =>
      refine ⟨id, ?_, fun h => ⟨h.required, h.sound, h.distinct⟩⟩
      dsimp only
      split
      · next le => exact le
      · exact BitVec.le_refl _
    · exact .refl x
  · exact .refl x

/-! ### The owner keys (R1026, R1029) -/

/-- The keys listed are those of the four slots. -/
theorem Sec.mem_ownerKeys {x : Sec} {y : OwnerKey} : y ∈ x.ownerKeys ↔ ∃ k < 4, mget x.keys none k = some y := by
  simp [Sec.ownerKeys, List.mem_filterMap]

/-- Two slots with a key between them list two keys at least. -/
theorem Sec.other_key {x : Sec} {k : Nat} (more : ¬x.ownerKeys.length ≤ 1) : ∃ j < 4, j ≠ k ∧ (mget x.keys none j).isSome := by
  by_contra none_other
  push Not at none_other
  apply more
  have only : ∀ j ∈ List.range 4, j ≠ k → mget x.keys none j = none := fun j hj hk => by
    simpa using none_other j (by simpa using hj) hk
  have sub : x.ownerKeys = ((List.range 4).filter (· = k)).filterMap (fun j => mget x.keys none j) := by
    rw [Sec.ownerKeys, List.filterMap_filter]
    refine List.filterMap_congr (fun j hj => ?_)
    by_cases h : j = k
    · simp [h]
    · simp [h, only j hj h]
  rw [sub]
  refine le_trans (List.length_filterMap_le _ _) ?_
  have once := List.nodup_iff_count_le_one.1 (List.nodup_range (n := 4)) k
  rwa [List.count_eq_length_filter] at once

/-- A key that is installed is like none before it (R1029). -/
theorem Sec.installKey_onto {x y : Sec} {b : KeyBlock} (fits : b.keyId < 2 ^ 64) (h : x.installKey b = some y) :
    x.Onto y := by
  have fresh : ∀ k < 4, ∀ z, mget x.keys none k = some z → z.keyId ≠ BitVec.ofNat 64 b.keyId := by
    intro k hk z hz same
    have dup : x.ownerKeys.any (fun k => decide (k.keyId.toNat = b.keyId)) = true :=
      List.any_eq_true.2 ⟨z, Sec.mem_ownerKeys.2 ⟨k, hk, hz⟩, by simpa [same] using fits⟩
    simp [Sec.installKey, dup] at h
  obtain ⟨slot, empty, named, curve, rfl⟩ := Sec.installKey_some h
  have nonzero : BitVec.ofNat 64 b.keyId ≠ 0 := by
    intro e
    have := congrArg BitVec.toNat e
    simp at this
    omega
  refine ⟨id, BitVec.le_refl _, fun ⟨required, sound, distinct⟩ => ⟨fun r => ⟨b.slot, slot, by simp⟩, ?_, ?_⟩⟩
  · intro k hk z hz
    simp only [mget_mset] at hz
    split at hz
    · obtain rfl := Option.some.inj hz
      exact ⟨nonzero, curve⟩
    · exact sound k hk z hz
  · intro j hj k hk y z hy hz same
    simp only [mget_mset] at hy hz
    split at hy <;> split at hz
    · next ej ek => exact ej.trans ek.symm
    · obtain rfl := Option.some.inj hy
      exact absurd same.symm (fresh k hk z hz)
    · obtain rfl := Option.some.inj hz
      exact absurd same (fresh j hj y hy)
    · exact distinct j hj k hk y z hy hz same

/-- The last key stays while OWNER_REQUIRE asks for one (R1029). -/
theorem Sec.removeKey_onto {x y : Sec} {b : KeyBlock} (h : x.removeKey b = some y) : x.Onto y := by
  have last : x.ownerRequire = true → ¬x.ownerKeys.length ≤ 1 := by
    intro r one
    simp [Sec.removeKey, r, one] at h
  obtain ⟨slot, filled, rfl⟩ := Sec.removeKey_some h
  refine ⟨id, BitVec.le_refl _, fun ⟨required, sound, distinct⟩ => ⟨fun r => ?_, ?_, ?_⟩⟩
  · obtain ⟨j, hj, other, some⟩ := Sec.other_key (k := b.slot) (last r)
    exact ⟨j, hj, by rwa [mget_mset_ne _ _ _ other]⟩
  · intro k hk z hz
    simp only [mget_mset] at hz
    split at hz
    · cases hz
    · exact sound k hk z hz
  · intro j hj k hk y z hy hz same
    simp only [mget_mset] at hy hz
    split at hy <;> split at hz <;> try contradiction
    exact distinct j hj k hk y z hy hz same

/-- OWNER_REQUIRE is set beside an installed key alone (R1029). -/
theorem Sec.setRequire_onto {x y : Sec} {b : KeyBlock} (h : x.setRequire b = some y) : x.Onto y := by
  have key : b.require = 1 → x.ownerKeys ≠ [] := by
    intro r none
    simp [Sec.setRequire, r, none] at h
  obtain rfl := Sec.setRequire_some h
  refine ⟨id, BitVec.le_refl _, fun ⟨required, sound, distinct⟩ => ⟨fun r => ?_, sound, distinct⟩⟩
  obtain ⟨z, hz⟩ := List.exists_mem_of_ne_nil _ (key (by simpa using r))
  obtain ⟨k, hk, there⟩ := Sec.mem_ownerKeys.1 hz
  exact ⟨k, hk, by simp [there]⟩

end Sys2Proof.Machine

namespace Sys2Proof.Machine

/-! ### What every command keeps -/

/-- A state behind another: the commands that wait are the same, and the security block has given nothing back. -/
structure State.Keeps (s t : State) : Prop where
  pending : t.pending = s.pending
  sec : s.sec.Onto t.sec

namespace State.Keeps

theorem refl (s : State) : s.Keeps s := ⟨rfl, .refl _⟩

theorem same {s t : State} (pending : t.pending = s.pending) (sec : t.sec = s.sec) : s.Keeps t := ⟨pending, sec ▸ .refl _⟩

/-- A change outside the queue and the security block. -/
theorem rest (s : State) (w : Work) (fab : Fab) (pwr : Pwr) : s.Keeps { s with w := w, fab := fab, pwr := pwr } := ⟨rfl, .refl _⟩

theorem trans {a b c : State} (h : a.Keeps b) (k : b.Keeps c) : a.Keeps c := ⟨k.pending.trans h.pending, h.sec.trans k.sec⟩

/-- What comes after a change outside the queue and the security block. -/
theorem after {s t : State} {w : Work} {fab : Fab} {pwr : Pwr} (h : State.Keeps { s with w := w, fab := fab, pwr := pwr } t) :
    s.Keeps t := (rest s w fab pwr).trans h

/-- And what such a change makes of what came before. -/
theorem andRest {s t : State} (h : s.Keeps t) (w : Work) (fab : Fab) (pwr : Pwr) :
    s.Keeps { t with w := w, fab := fab, pwr := pwr } := h.trans (rest t w fab pwr)

theorem ite {s a b : State} {p : Prop} [Decidable p] (h : p → s.Keeps a) (k : ¬p → s.Keeps b) : s.Keeps (if p then a else b) := by
  split
  · exact h ‹_›
  · exact k ‹_›

theorem foldl {α : Type} {f : State → α → State} (h : ∀ (u : State) x, u.Keeps (f u x)) (xs : List α) (s : State) : s.Keeps (xs.foldl f s) := by
  induction xs generalizing s with
  | nil => exact refl s
  | cons x xs ih => exact (h s x).trans (ih _)

/-- The security block replaced by one that has given nothing back. -/
theorem secure {s : State} {x : Sec} (h : s.sec.Onto x) (w : Work) (fab : Fab) (pwr : Pwr) :
    s.Keeps { s with sec := x, w := w, fab := fab, pwr := pwr } := ⟨rfl, h⟩

end State.Keeps

theorem State.reply_keeps (s : State) (ring status : Nat) (result : List Byte) : s.Keeps (s.reply ring status result) :=
  .secure (s.sec.countAuth_onto status) _ _ _

theorem State.finish_keeps (s : State) (slot status : Nat) (body : List Byte) : s.Keeps (s.finish slot status body) :=
  .secure (s.sec.countAuth_onto status) _ _ _

/-- An answer whose state is kept. -/
def State.KeptAnswer (s : State) (a : Answer) : Prop := s.Keeps a.s

namespace State.KeptAnswer

theorem refl (s : State) {status : Nat} {result : List Byte} : s.KeptAnswer { s := s, status := status, result := result } := State.Keeps.refl s

theorem of {s t : State} (h : s.Keeps t) {status : Nat} {result : List Byte} :
    s.KeptAnswer { s := t, status := status, result := result } := h

theorem rest (s : State) (w : Work) (fab : Fab) (pwr : Pwr) {status : Nat} {result : List Byte} :
    s.KeptAnswer { s := { s with w := w, fab := fab, pwr := pwr }, status := status, result := result } := State.Keeps.rest s w fab pwr

theorem ite {s : State} {a b : Answer} {p : Prop} [Decidable p] (h : p → s.KeptAnswer a) (k : ¬p → s.KeptAnswer b) :
    s.KeptAnswer (if p then a else b) := by
  split
  · exact h ‹_›
  · exact k ‹_›

end State.KeptAnswer

/-- A driver command keeps what its action keeps. -/
theorem State.command_keeps {s : State} {act : State → Answer} (ring : Nat) (allowed : List DevState) (h : s.KeptAnswer (act s)) :
    s.Keeps (s.command ring allowed act) :=
  s.command_rel State.Keeps .refl (fun _ _ _ _ _ k => k.trans (State.reply_keeps _ _ _ _)) ring allowed act h

/-- And one that needs a result slot. -/
theorem State.withSlot_keeps {s : State} {act : State → Nat → State} (ring opcode : Nat) (h : ∀ (u : State) k, u.Keeps (act u k)) :
    s.KeptAnswer (s.withSlot ring opcode act) :=
  s.withSlot_rel State.Keeps .refl ring opcode act (fun _ => .after (fab := s.fab) (pwr := s.pwr) (h _ _))

end Sys2Proof.Machine

namespace Sys2Proof.Machine

/-- A field of `n` bytes is below 256 to the `n`. -/
theorem leAt_lt (bs : List Byte) (o n : Nat) : leAt bs o n < 256 ^ n := by
  have whole (cs : List Byte) : leNat cs < 256 ^ cs.length := by
    induction cs with
    | nil => decide
    | cons c cs ih =>
      have := c.isLt
      simp only [leNat, List.length_cons, Nat.pow_succ]
      omega
  exact lt_of_lt_of_le (whole _) (Nat.pow_le_pow_right (by decide) (List.length_take_le _ _))

/-! ### The shared operations -/

theorem State.flush_keeps (n : Nat) (s : State) : s.Keeps (State.flush n s) := by
  induction n generalizing s with
  | zero => exact .refl s
  | succ n ih =>
    unfold State.flush
    split
    · exact .refl s
    · exact .after (pwr := s.pwr) (ih _)

theorem State.uplinks_keeps (s : State) : s.Keeps s.uplinks := s.flush_keeps _

theorem State.portState_keeps (s : State) (port : Nat) (st : PortSt) : s.Keeps (s.portState port st) :=
  .ite (fun _ => .refl s) (fun _ => .rest s _ _ _)

theorem State.beatFrom_keeps (s : State) (port : Nat) : s.Keeps (s.beatFrom port) :=
  .ite (fun _ => .rest s _ _ _) (fun _ => .refl s)

theorem State.miswire_keeps (s : State) (port : Nat) : s.Keeps (s.miswire port) :=
  (s.portState_keeps port .miswired).andRest _ _ _

theorem State.perform_keeps (s : State) (code : Nat) (m : MaintArgs) : s.Keeps (s.perform code m) := by
  unfold State.perform
  split
  case h_8 => exact .ite (fun _ => .rest s _ _ _) (fun _ => .rest s _ _ _)
  case h_9 => exact .after (pwr := s.pwr) (State.beatFrom_keeps _ _)
  all_goals exact .rest s _ s.fab s.pwr

theorem State.begins_keeps (s : State) (code : Nat) (m : MaintArgs) : s.Keeps (s.begins code m) := by
  unfold State.begins
  split
  case h_3 => exact .ite (fun _ => .refl s) (fun _ => .rest s _ _ _)
  all_goals exact .rest s _ s.fab s.pwr

theorem State.actDone_keeps (s : State) (a : Activity) (status outcome : Nat) : s.Keeps (s.actDone a status outcome) := by
  unfold State.actDone
  dsimp only
  split
  · exact .after (fab := s.fab) (pwr := s.pwr) ((State.finish_keeps _ _ _ _).andRest _ _ _)
  · exact .rest s _ s.fab s.pwr

theorem State.carryOut_keeps (s : State) : s.Keeps s.carryOut :=
  have all := State.Keeps.foldl (fun (u : State) (a : Activity) => (u.perform_keeps a.code a.args).trans (State.actDone_keeps _ a stOk 0))
    (s.w.rel.acts.filter (fun a => a.state = .pending)) s
  .ite (fun _ => all.andRest _ _ _) (fun _ => all)

theorem State.enter_keeps (s : State) (st : DevState) (cause : Cause) : s.Keeps (s.enter st cause) :=
  .ite (fun _ => .after (fab := s.fab) (pwr := s.pwr) ((State.carryOut_keeps _).andRest _ _ _)) (fun _ => .rest s _ _ _)

theorem State.finishAct_keeps (s : State) (a : Activity) : s.Keeps (s.finishAct a) := by
  refine .ite (fun _ => .ite (fun _ => ?_) (fun _ => ?_)) (fun _ => .refl s)
  · refine .trans (.secure (x := { (s.sec.setOther (if a.good then s.sec.staged else none)) with staged := none })
      ((s.sec.setOther_onto _).trans (.of_same rfl rfl rfl rfl)) s.w s.fab s.pwr) (State.actDone_keeps _ _ _ _)
  · refine .trans ?_ ((State.perform_keeps _ _ _).trans (State.actDone_keeps _ _ _ _))
    exact .ite (fun _ => .rest s _ _ _) (fun _ => .refl s)

theorem State.maintStart_keeps (s : State) (ring code : Nat) (m : MaintArgs) (good : Bool) {work : State → State} (found : List Mismatch)
    (h : ∀ u : State, u.Keeps (work u)) : s.Keeps (s.maintStart ring code m good work found) := by
  refine State.command_keeps _ _ ?_
  dsimp only
  split
  · exact .refl s
  · split
    · exact .refl s
    · split
      · exact .refl s
      · exact State.withSlot_keeps _ _ (fun u k => .after (fab := u.fab) (pwr := u.pwr) ((State.begins_keeps _ _ _).trans (h _)))

theorem State.writeReg_keeps (s : State) (o : Nat) (v : W64) : s.Keeps (s.writeReg o v) := by
  unfold State.writeReg
  dsimp only
  split
  case h_14 =>
    exact .ite (fun _ => .rest s _ _ _) (fun _ => .ite (fun _ => .rest s _ _ _) (fun _ => .ite (fun _ => .rest s _ _ _) (fun _ => .refl s)))
  all_goals exact .rest s _ s.fab _

theorem State.forward_keeps (s : State) (ring target : Nat) (pk : List Byte) : s.Keeps (s.forward ring target pk) :=
  .ite (fun _ => s.reply_keeps _ _ _) (fun _ => .ite (fun _ => s.reply_keeps _ _ _) (fun _ => .ite (fun _ => s.reply_keeps _ _ _)
    (fun _ => .rest s _ _ _)))

theorem State.seqCommand_keeps (s : State) (ring : Nat) {act : Policy → State → Answer} (h : ∀ p, s.KeptAnswer (act p s)) :
    s.Keeps (s.seqCommand ring act) := by
  refine State.command_keeps _ _ ?_
  split
  · exact .refl s
  · exact h _

theorem State.raiseStop_keeps (s : State) : s.Keeps s.raiseStop := .ite (fun _ => .rest s _ _ _) (fun _ => .refl s)

theorem State.orderRerun_keeps (s : State) : s.Keeps s.orderRerun := .ite (fun _ => .rest s _ _ _) (fun _ => .refl s)

theorem State.replayRow_keeps (s : State) (p : Plan) (hold : Bool) : s.Keeps (s.replayRow p hold) :=
  .ite (fun _ => .rest s _ _ _) (fun _ => .ite (fun _ => .rest s _ _ _)
    (fun _ => .after (fab := s.fab) (pwr := s.pwr) (State.orderRerun_keeps _)))

theorem State.decideStop_keeps (s : State) (reports : List StopReport) : s.Keeps (s.decideStop reports) := by
  unfold State.decideStop
  dsimp only
  split
  · exact .rest s _ s.fab s.pwr
  · split
    · split
      · exact .rest s _ s.fab s.pwr
      · exact .after (fab := s.fab) (pwr := s.pwr) (State.replayRow_keeps _ _ _)
    · exact .rest s _ s.fab s.pwr

theorem State.commitStep_keeps (s : State) (p : Plan) (x : StepSt) : s.Keeps (s.commitStep p x) :=
  .ite (fun _ => .rest s _ _ _) (fun _ => .after (fab := s.fab) (pwr := s.pwr) (State.enter_keeps _ _ _))

theorem State.startJoin_keeps (s : State) (p : HerdParams) : s.Keeps (s.startJoin p) := by
  unfold State.startJoin
  dsimp only
  exact .trans (.rest s _ _ _) ((State.Keeps.foldl State.miswire_keeps _ _).andRest _ _ _)

theorem State.leaveHerd_keeps (s : State) (cause : Cause) (e : Option StepEvent) : s.Keeps (s.leaveHerd cause e) :=
  .after (pwr := s.pwr) (State.enter_keeps _ _ _)

theorem State.onBlock_keeps (s : State) (port kind : Nat) (b : W128) (act : Work → Work) : s.Keeps (s.onBlock port kind b act) :=
  .ite (fun _ => .rest s _ _ _) (fun _ => .refl s)

/-! ### Resets and start-up -/

theorem State.bootFails_keeps (s : State) : s.Keeps s.bootFails := .rest s _ s.fab s.pwr

theorem State.bringUp_keeps (s : State) (obs : BootObs) : s.Keeps (s.bringUp obs) := .secure s.sec.raised_onto _ _ _

theorem State.startUp_keeps (s : State) (obs : BootObs) : s.Keeps (s.startUp obs) := by
  unfold State.startUp
  split
  · exact s.bootFails_keeps
  · next b _ =>
    extract_lets booted logged
    have boots : s.Keeps booted := .secure (x := s.sec.boots b) (.of_same rfl rfl rfl rfl) _ _ _
    have logs : booted.Keeps logged := .ite (fun _ => .rest booted _ _ _) (fun _ => .refl booted)
    refine boots.trans (logs.trans (.ite (fun _ => ?_) (fun _ => ?_)))
    · exact .after (fab := logged.fab) (pwr := logged.pwr) (State.bootFails_keeps _)
    · exact .trans (.rest logged logged.w logged.fab _)
        (.ite (fun _ => State.bootFails_keeps _) (fun _ => State.bringUp_keeps _ obs))

theorem State.rebooted_keeps (s : State) (warm : Bool) (src : Nat) : s.Keeps (s.rebooted warm src) := ⟨rfl, s.sec.rebooted_onto warm⟩

theorem State.warmReset_keeps (s : State) (src : Nat) (obs : BootObs) : s.Keeps (s.warmReset src obs) :=
  (s.rebooted_keeps true src).trans (State.startUp_keeps _ obs)

theorem State.powerDown_keeps (s : State) (trip : Bool) : s.Keeps (s.powerDown trip) := (s.rebooted_keeps false 0).andRest _ _ _

/-! ### Security -/

theorem State.activate_keeps (s : State) (k : Nat) (slotB raise : Bool) (i : FwImage) : s.Keeps (s.activate k slotB raise i) :=
  have active : s.sec.Onto { s.sec with activeB := slotB, raise := if raise then some (slotB, i.svn) else s.sec.raise } :=
    .of_same rfl rfl rfl rfl
  .trans (.secure (active.trans (Sec.raised_onto _)) _ s.fab s.pwr) (State.finish_keeps _ _ _ _)

/-- A change of the owner keys that gives nothing back, where it is carried out. -/
theorem State.ownerKey_keeps (s : State) (ring addr op : Nat) {change : Sec → KeyBlock → Option Sec}
    (h : ∀ x b y, b.keyId < 2 ^ 64 → change x b = some y → x.Onto y) : s.Keeps (s.ownerKey ring addr op change) := by
  refine .ite (fun _ => .refl s) (fun _ => State.command_keeps _ _ (State.withSlot_keeps _ _ (fun u k => ?_)))
  refine .ite (fun _ => u.finish_keeps _ _ _) (fun _ => .ite (fun _ => u.finish_keeps _ _ _) (fun _ => ?_))
  split
  · exact u.finish_keeps _ _ _
  · next x changed =>
    exact .trans (.secure (x := x.freshOwner) ((h _ _ _ (leAt_lt _ 8 8) changed).trans (.of_same rfl rfl rfl rfl)) u.w u.fab u.pwr) (State.finish_keeps _ _ _ _)

theorem State.loadEnds_keeps (s : State) (j : LoadJob) : s.Keeps (s.loadEnds j) := by
  unfold State.loadEnds
  split
  · exact s.finish_keeps _ _ _
  · exact .after (fab := s.fab) (pwr := s.pwr) ((State.enter_keeps _ _ _).trans (State.finish_keeps _ _ _ _))

end Sys2Proof.Machine

namespace Sys2Proof.Machine

/-! ### Every command -/

/-- Whatever state an outcome gives is kept. -/
def State.KeptBy (s : State) (o : Host.Outcome State Fault Refusal) : Prop := ∀ t, o = .next t → s.Keeps t

theorem State.KeptBy.next {s t : State} (h : s.Keeps t) : s.KeptBy (.next t) := fun _ e => Host.Outcome.next.inj e ▸ h

/-- A command that works outside the queue and the security block. -/
theorem State.KeptBy.work (s : State) (w : Work) (fab : Fab) (pwr : Pwr) : s.KeptBy (.next { s with w := w, fab := fab, pwr := pwr }) :=
  .next (.rest s w fab pwr)

/-- One that does so on a condition. -/
theorem State.KeptBy.workIf (s : State) {p : Prop} [Decidable p] (w : Work) (fab : Fab) (pwr : Pwr) :
    s.KeptBy (.next (if p then { s with w := w, fab := fab, pwr := pwr } else s)) :=
  .next (.ite (fun _ => .rest s w fab pwr) (fun _ => .refl s))

/-- And one that does so but on a condition. -/
theorem State.KeptBy.workUnless (s : State) {p : Prop} [Decidable p] (w : Work) (fab : Fab) (pwr : Pwr) :
    s.KeptBy (.next (if p then s else { s with w := w, fab := fab, pwr := pwr })) :=
  .next (.ite (fun _ => .refl s) (fun _ => .rest s w fab pwr))

/-- A firing of a station keeps what every command keeps. -/
theorem State.uplinks_kept (s : State) (w : Work) (fab : Fab) : s.KeptBy (.next (State.uplinks { s with w := w, fab := fab })) :=
  .next (.after (pwr := s.pwr) (State.uplinks_keeps _))


/-! ### The driver commands, arm by arm -/

section
variable (s : State) (ring : Nat)

theorem State.flitReceive_kept (port lane : Nat) (flit : Flit) (corrected symbols uncorrectable lostBeats : Nat) :
    s.KeptBy (execFlitReceive port lane flit corrected symbols uncorrectable lostBeats s) :=
  .next (.ite (fun _ => .refl s) (fun _ => .ite (fun _ => .rest s _ _ _) (fun _ => .rest s _ _ _)))

theorem State.laneFailure_kept (port lane : Nat) : s.KeptBy (execLaneFailure port lane s) := .next (.ite (fun _ => .refl s) (fun _ => .ite
    (fun _ => .after (pwr := s.pwr) ((State.portState_keeps _ _ _).trans (State.beatFrom_keeps _ _))) (fun _ => .rest s _ _ _)))


theorem State.linkTrained_kept (port rawNs nb nbPort : Nat) : s.KeptBy (execLinkTrained port rawNs nb nbPort s) :=
  .next (.ite (fun _ => .refl s) (fun _ => (s.portState_keeps _ _).andRest _ _ _))

theorem State.sidebandChange_kept (port : Nat) (aliveN linkedN : Bool) : s.KeptBy (execSidebandChange port aliveN linkedN s) := by
  refine .next (.ite (fun _ => .refl s) (fun _ => .after (w := s.w) (fab := s.fab.modPort port (fun p => { p with aliveIn := aliveN, linkedIn := linkedN })) (pwr := s.pwr) ?_))
  have masked (u : State) (p : Prop) [Decidable p] : u.Keeps ((if p then u else u.portState port .absent).beatFrom port) :=
    .trans (.ite (fun _ => .refl u) (fun _ => u.portState_keeps _ _)) (State.beatFrom_keeps _ _)
  have serves (u : State) (p : Prop) [Decidable p] : u.Keeps (if p then u else u.beatFrom port) :=
    .ite (fun _ => .refl u) (fun _ => u.beatFrom_keeps _)
  exact .ite (fun _ => .ite (fun _ => (masked _ _).andRest _ _ _) (fun _ => masked _ _))
    (fun _ => .ite (fun _ => (serves _ _).trans (State.portState_keeps _ _ _)) (fun _ => serves _ _))


theorem State.uplinkFrameReceive_kept (uplink : Nat) (frame : Frame) : s.KeptBy (execUplinkFrameReceive uplink frame s) :=
  .next (.ite (fun _ => .refl s) (fun _ => .ite (fun _ => .rest s _ _ _) (fun _ => .after (pwr := s.pwr) (State.uplinks_keeps _))))

theorem State.uplinkResendTimeout_kept (uplink peer seq : Nat) : s.KeptBy (execUplinkResendTimeout uplink peer seq s) := by
  refine .next ?_
  dsimp only
  split
  · exact .refl s
  · exact .ite (fun _ => .rest s _ _ _) (fun _ => .rest s _ _ _)

theorem State.maintActivityStart_kept : s.KeptBy (execMaintActivityStart s) := by
  unfold execMaintActivityStart
  dsimp only
  split
  · exact .next (.refl s)
  · exact .next (.after (fab := s.fab) (pwr := s.pwr) (State.begins_keeps _ _ _))

theorem State.maintActivityDone_kept (ordinal : Nat) : s.KeptBy (execMaintActivityDone ordinal s) := by
  unfold execMaintActivityDone
  split
  · exact .next (.refl s)
  · exact .next (s.finishAct_keeps _)

theorem State.fwStage_kept (m : MaintArgs) : s.KeptBy (execFwStage ring m s) := by
  refine .next (s.maintStart_keeps _ _ _ _ _ (fun u => ?_))
  have emptied (img : Option FwImage) : u.sec.Onto { (u.sec.setOther none) with staged := img } :=
    (u.sec.setOther_onto none).trans (.of_same rfl rfl rfl rfl)
  exact .secure (emptied _) u.w u.fab u.pwr


theorem State.maintQuery_kept (slot ordinal : Nat) : s.KeptBy (execMaintQuery ring slot ordinal s) := by
  refine .next (State.command_keeps _ _ ?_)
  split <;> exact .refl s

theorem State.thresholdSet_kept (part crit t w rate : Nat) : s.KeptBy (execThresholdSet ring part crit t w rate s) := .next (State.command_keeps _ _ (.ite (fun _ => .rest s _ s.fab s.pwr) (fun _ => .refl s)))


theorem State.packetTake_kept : s.KeptBy (execPacketTake ring s) := by
  refine .next (.ite (fun _ => .refl s) (fun _ => ?_))
  extract_lets pk u target
  have taken : s.Keeps u := .rest s _ _ _
  refine taken.trans (.ite (fun _ => u.forward_keeps _ _ _) (fun _ => .ite (fun _ => u.reply_keeps _ _ _)
    (fun _ => .ite (fun _ => u.reply_keeps _ _ _) (fun _ => ?_))))
  split
  · exact State.command_keeps _ _ (.refl u)
  · exact .refl u

theorem State.planLoad_kept (addr bytes space : Nat) : s.KeptBy (execPlanLoad ring addr bytes space s) := .next (State.command_keeps _ _ (.ite (fun _ => .refl s) (fun _ => .ite (fun _ => .refl s)
    (fun _ => State.withSlot_keeps _ _ (fun u _ => .rest u _ u.fab u.pwr)))))


theorem State.planUnload_kept : s.KeptBy (execPlanUnload ring s) := .next (State.command_keeps _ _ (.ite (fun _ => .refl s) (fun _ => .rest s _ s.fab s.pwr)))


theorem State.planLoadVerified_kept : s.KeptBy (execPlanLoadVerified s) := by
  refine .next ?_
  split
  · exact .refl s
  · exact .after (fab := s.fab) (pwr := s.pwr) (.ite (fun _ => State.loadEnds_keeps _ _) (fun _ => State.finish_keeps _ _ _ _))

theorem State.stepRun_kept (start : Nat) : s.KeptBy (execStepRun ring start s) := .next (State.command_keeps _ _ (.ite (fun _ => .refl s) (fun _ => .ite (fun _ => .refl s) (fun _ => .ite (fun _ => .refl s)
    (fun _ => State.withSlot_keeps _ _ (fun u _ => .ite (fun _ => .rest u _ u.fab u.pwr) (fun _ => .rest u _ u.fab u.pwr)))))))


theorem State.stepResume_kept (tick : Nat) : s.KeptBy (execStepResume ring tick s) := .next (State.command_keeps _ _ (.ite (fun _ => .refl s) (fun _ => .ite (fun _ => .refl s) (fun _ => .ite (fun _ => .refl s)
    (fun _ => .rest s _ s.fab s.pwr)))))


theorem State.scaleWrite_kept (slot first count addr : Nat) : s.KeptBy (execScaleWrite ring slot first count addr s) := by
  refine .next (State.command_keeps _ _ ?_)
  split
  · exact .refl s
  · exact .ite (fun _ => .refl s)
      (fun _ => State.withSlot_keeps _ _ (fun u k => .after (fab := u.fab) (pwr := u.pwr) (State.finish_keeps _ _ _ _)))


theorem State.scaleRead_kept (slot first count addr : Nat) : s.KeptBy (execScaleRead ring slot first count addr s) := by
  refine .next (State.command_keeps _ _ ?_)
  split
  · exact .refl s
  · exact State.withSlot_keeps _ _ (fun u k => .after (fab := u.fab) (pwr := u.pwr) (State.finish_keeps _ _ _ _))

theorem State.memCopy_kept (src dst : Nat) (env : Env) : s.KeptBy (execMemCopy ring src dst env s) := .next (State.command_keeps _ _ (.ite (fun _ => .refl s)
    (fun _ => State.withSlot_keeps _ _ (fun _ _ => .same rfl rfl))))


theorem State.sparsePack_kept (src dst ext : Nat) (env : Env) : s.KeptBy (execSparsePack ring src dst ext env s) := .next (State.command_keeps _ _ (.ite (fun _ => .refl s) (fun _ => .ite
    (fun _ => .ite (fun _ => .refl s) (fun _ => State.withSlot_keeps _ _ (fun _ _ => .same rfl rfl)))
    (fun _ => .ite (fun _ => .refl s) (fun _ => State.withSlot_keeps _ _ (fun _ _ => .same rfl rfl))))))


theorem State.memoryCommandDone_kept (slot : Nat) : s.KeptBy (execMemoryCommandDone slot s) := by
  refine .next (.ite (fun _ => .refl s) (fun _ => ?_))
  split
  · exact .refl s
  · exact .after (fab := s.fab) (pwr := s.pwr) (State.finish_keeps _ _ _ _)

theorem State.readResult_kept (slot addr : Nat) : s.KeptBy (execReadResult ring slot addr s) := by
  refine .next (State.command_keeps _ _ ?_)
  split
  · exact .refl s
  · exact .ite (fun _ => .refl s) (fun _ => .rest s _ s.fab s.pwr)


theorem State.releaseResult_kept (slot : Nat) : s.KeptBy (execReleaseResult ring slot s) := by
  refine .next (State.command_keeps _ _ ?_)
  split
  · exact .refl s
  · exact .ite (fun _ => .refl s) (fun _ => .rest s _ s.fab s.pwr)


theorem State.eventLogRead_kept (first entries addr : Nat) : s.KeptBy (execEventLogRead ring first entries addr s) :=
  .next (State.command_keeps _ _ (State.withSlot_keeps _ _
    (fun u _ => .after (fab := u.fab) (pwr := u.pwr) (State.finish_keeps _ _ _ _))))

theorem State.telemetryRead_kept (addr : Nat) : s.KeptBy (execTelemetryRead ring addr s) :=
  .next (State.command_keeps _ _ (State.withSlot_keeps _ _
    (fun u _ => .trans (.ite (fun _ => .refl u) (fun _ => .rest u _ u.fab u.pwr)) (State.finish_keeps _ _ _ _))))

theorem State.traceConfig_kept (addr bytes enable : Nat) : s.KeptBy (execTraceConfig ring addr bytes enable s) := .next (State.command_keeps _ _ (.ite (fun _ => .refl s) (fun _ => .rest s _ s.fab s.pwr)))


theorem State.spdmMessage_kept (reqAddr reqBytes respAddr capacity : Nat) :
    s.KeptBy (execSpdmMessage ring reqAddr reqBytes respAddr capacity s) := by
  refine .next (State.command_keeps _ _ (.ite (fun _ => .refl s) (fun _ => State.withSlot_keeps _ _ (fun u k => ?_))))
  have said (q r : List Byte) : u.Keeps { u with sec := u.sec.exchanged q r } :=
    .secure (x := u.sec.exchanged q r) (.of_same rfl rfl rfl rfl) u.w u.fab u.pwr
  exact .trans (said _ _) (.ite (fun _ => State.finish_keeps _ _ _ _)
    (fun _ => .after (fab := u.fab) (pwr := u.pwr) (State.finish_keeps _ _ _ _)))


theorem State.macsecKey_kept (uplink dir an use ssci addr peer : Nat) :
    s.KeptBy (execMacsecKey ring uplink dir an use ssci addr peer s) := by
  refine .next (State.command_keeps _ _ (.ite (fun _ => .refl s) (fun _ => ?_)))
  dsimp only
  split
  · exact .refl s
  · exact .of (.after (w := s.w) (pwr := s.pwr) (State.uplinks_keeps _))


theorem State.debugSeal_kept : s.KeptBy (execDebugSeal ring s) := .next (State.command_keeps _ _ (.ite (fun _ => .refl s)
    (fun _ => .of (.secure (x := { s.sec with debug := .sealed }.freshDebug)
      ⟨fun _ => rfl, BitVec.le_refl _, fun h => ⟨h.required, h.sound, h.distinct⟩⟩ s.w s.fab s.pwr))))


theorem State.debugUnlock_kept (addr : Nat) (obs : BootObs) : s.KeptBy (execDebugUnlock ring addr obs s) := by
  unfold execDebugUnlock
  extract_lets ok t
  have answers : s.Keeps t := State.command_keeps _ _ (.ite (fun _ => .refl s) (fun _ => .ite
    (fun _ => .of (.secure (x := { s.sec with unlockNext := true }) (.of_same rfl rfl rfl rfl) s.w s.fab s.pwr)) (fun _ => .refl s)))
  exact .next (.ite (fun _ => answers.trans (t.warmReset_keeps _ _)) (fun _ => answers))


theorem State.debugRelock_kept (obs : BootObs) : s.KeptBy (execDebugRelock ring obs s) := by
  unfold execDebugRelock
  extract_lets t
  have answers : s.Keeps t := State.command_keeps _ _ (.ite (fun _ => .refl s)
    (fun _ => .of (.secure (x := s.sec.freshDebug) (.of_same rfl rfl rfl rfl) s.w s.fab s.pwr)))
  exact .next (.ite (fun _ => answers.trans (t.warmReset_keeps _ _)) (fun _ => answers))


theorem State.fwActivate_kept (slot raise reset : Nat) (obs : BootObs) : s.KeptBy (execFwActivate ring slot raise reset obs s) := by
  unfold execFwActivate
  extract_lets b t
  have answers : s.Keeps t := by
    refine State.command_keeps _ _ (.ite (fun _ => .refl s) (fun _ =>
      State.withSlot_keeps _ _ (fun u k => .ite (fun _ => u.finish_keeps _ _ _) (fun _ => ?_))))
    split
    · exact u.finish_keeps _ _ _
    · exact u.activate_keeps _ _ _ _
  exact .next (.ite (fun _ => answers.trans (t.warmReset_keeps _ _)) (fun _ => answers))


theorem State.pldm_keeps (code value : Nat) : s.Keeps (s.pldm code value) := .rest s _ _ _

theorem State.requestUpdate_kept : s.KeptBy (execRequestUpdate s) :=
  .next (.ite (fun _ => .refl s) (fun _ => .ite (fun _ => s.pldm_keeps _ _)
    (fun _ => .secure (x := { s.sec with pldmBusy := true, pldmDone := false }) (.of_same rfl rfl rfl rfl) _ s.fab s.pwr)))

theorem State.pldmUpdate_kept (image : List Byte) : s.KeptBy (execPldmUpdate image s) :=
  .next (.ite (fun _ => .refl s) (fun _ => .ite
    (fun _ => .secure (x := { (s.sec.setOther (some (fwImage image))) with pldmDone := true })
      ((s.sec.setOther_onto _).trans (.of_same rfl rfl rfl rfl)) _ s.fab s.pwr)
    (fun _ => .secure (x := { (s.sec.setOther none) with pldmDone := false, pldmBusy := false })
      ((s.sec.setOther_onto _).trans (.of_same rfl rfl rfl rfl)) _ s.fab s.pwr)))

theorem State.activateFirmware_kept : s.KeptBy (execActivateFirmware s) := by
  refine .next (.ite (fun _ => .refl s) (fun _ => ?_))
  split
  · exact s.pldm_keeps _ _
  · exact .secure (x := { s.sec with activeB := !s.sec.bootB, pldmBusy := false, pldmDone := false }) (.of_same rfl rfl rfl rfl)
      _ s.fab s.pwr

theorem State.sensorRead_kept (sensor : Nat) : s.KeptBy (execSensorRead sensor s) := by
  refine .next (.ite (fun _ => .refl s) (fun _ => ?_))
  split <;> exact s.pldm_keeps _ _

theorem State.herdForm_kept (p : HerdParams) : s.KeptBy (execHerdForm ring p s) := .next (State.command_keeps _ _ (.ite (fun _ => .ite (fun _ => .refl s) (fun _ => .refl s))
    (fun _ => .ite (fun _ => .refl s) (fun _ => .ite (fun _ => .refl s)
      (fun _ => State.withSlot_keeps _ _ (fun u _ => (u.startJoin_keeps p).andRest _ _ _))))))


theorem State.herdLeave_kept : s.KeptBy (execHerdLeave ring s) := .next (State.command_keeps _ _ (.ite (fun _ => .refl s)
    (fun _ => .of (.after (fab := s.fab) (pwr := s.pwr) (State.leaveHerd_keeps _ _ _)))))


theorem State.joinReceive_kept (port : Nat) (p : HerdParams) (x y z : Nat) : s.KeptBy (execJoinReceive port p x y z s) :=
  .next (.ite (fun _ => .refl s) (fun _ => .ite
    (fun _ => .ite (fun _ => s.startJoin_keeps _) (fun _ => .refl s))
    (fun _ => .ite (fun _ => .refl s) (fun _ => (s.miswire_keeps port).trans (State.beatFrom_keeps _ _)))))

theorem State.cadenceLock_kept (dmax delay : Nat) (err : Int) : s.KeptBy (execCadenceLock dmax delay err s) := by
  refine .next (.ite (fun _ => .refl s) (fun _ => ?_))
  dsimp only
  split
  · exact .after (pwr := s.pwr) (State.finish_keeps _ _ _ _)
  · exact .rest s _ _ s.pwr

theorem State.herdFormTimeout_kept : s.KeptBy (execHerdFormTimeout s) := by
  refine .next (.ite (fun _ => .refl s) (fun _ => ?_))
  dsimp only
  split
  · exact .after (fab := s.fab) (pwr := s.pwr) (State.finish_keeps _ _ _ _)
  · exact .rest s _ s.fab s.pwr

theorem State.tickBoundary_kept (energy : Nat) : s.KeptBy (execTickBoundary energy s) := by
  refine .next (.ite (fun _ => .refl s) (fun _ => .ite (fun _ => .same rfl rfl) (fun _ => .trans ?_ (State.raiseStop_keeps _))))
  have ends (w : Work) (pwr : Pwr) : s.Keeps { s with w := w, pwr := pwr } := .rest s w s.fab pwr
  dsimp only
  split
  · exact .ite (fun _ => .same rfl rfl) (fun _ => ends _ _)
  · exact ends _ _

theorem State.herdStop_kept : s.KeptBy (execHerdStop s) :=
  .next (.ite (fun _ => .ite (fun _ => .ite (fun _ => .rest s _ _ _) (fun _ => .rest s _ _ _)) (fun _ => .rest s _ _ _))
    (fun _ => .refl s))

theorem State.stepStart_kept : s.KeptBy (execStepStart s) := by
  refine .next ?_
  split
  · exact .ite (fun _ => .rest s _ _ _) (fun _ => .refl s)
  · exact .refl s

theorem State.stepAbandon_kept : s.KeptBy (execStepAbandon s) := by
  refine .next ?_
  split
  · exact .ite (fun _ => .refl s) (fun _ => .ite (fun _ => .rest s _ _ _) (fun _ => .ite (fun _ => .rest s _ _ _) (fun _ => .refl s)))
  · exact .refl s

theorem State.rerunStart_kept : s.KeptBy (execRerunStart s) := by
  refine .next ?_
  split
  · exact .ite (fun _ => .rest s _ _ _) (fun _ => .refl s)
  · exact .refl s

theorem State.herdResume_kept : s.KeptBy (execHerdResume s) := by
  refine .next ?_
  split
  · exact .refl s
  · refine .ite (fun _ => .refl s) (fun _ => ?_)
    dsimp only
    split
    · exact .ite (fun _ => .rest s _ _ _) (fun _ => .rest s _ _ _)
    · exact .after (fab := s.fab) (pwr := s.pwr) (State.enter_keeps _ _ _)

theorem State.commit_kept : s.KeptBy (execCommit s) := by
  refine .next ?_
  split
  · exact .ite (fun _ => s.commitStep_keeps _ _) (fun _ => .refl s)
  · exact .refl s

theorem State.routeSetSwitch_kept : s.KeptBy (execRouteSetSwitch s) := by
  refine .next ?_
  split
  · exact .refl s
  · split
    · exact .ite (fun _ => .rest s _ _ _) (fun _ => .refl s)
    · exact .refl s

theorem State.sample_keeps (x : Sensors) : s.Keeps (s.sample x) := by
  unfold State.sample
  extract_lets
  exact .rest s _ _ _

theorem State.warnings_keeps (x : Sensors) : s.Keeps (s.warnings x) := by
  unfold State.warnings
  extract_lets
  exact .rest s _ _ _

theorem State.emergency_keeps (x : Sensors) : s.Keeps (s.emergency x) := by
  unfold State.emergency
  extract_lets
  exact .rest s _ _ _

theorem State.sampled_keeps (x : Sensors) : s.Keeps (((s.sample x).warnings x).emergency x) :=
  ((s.sample_keeps x).trans (State.warnings_keeps _ x)).trans (State.emergency_keeps _ x)

theorem State.tempSample_kept (x : Sensors) : s.KeptBy (execTempSample x s) :=
  .next (.ite (fun _ => .refl s) (fun _ =>
    .ite (fun _ => (s.sampled_keeps x).trans (State.powerDown_keeps _ _)) (fun _ => s.sampled_keeps x)))

theorem State.devReset_kept (obs : BootObs) : s.KeptBy (execDevReset ring obs s) := by
  unfold execDevReset
  extract_lets t
  have answers : s.Keeps t := State.command_keeps _ _ (.refl s)
  exact .next (.ite (fun _ => answers.trans (t.warmReset_keeps _ _)) (fun _ => answers))

theorem State.unscheduledGrant_kept (channel waitClk : Nat) (env : Env) : s.KeptBy (execUnscheduledGrant channel waitClk env s) := by
  refine .next ?_
  split
  · exact .refl s
  · exact .ite (fun _ => .refl s) (fun _ => .rest s _ _ _)

/-- An access of HBM faults, or works outside the queue and the security block on a condition. -/
theorem State.KeptBy.fault {p : Prop} [Decidable p] (r : Fault) {o : Host.Outcome State Fault Refusal} (h : s.KeptBy o) :
    s.KeptBy (if p then .fault r else o) := by
  split
  · intro t e
    cases e
  · exact h

theorem State.peerAccessResponse_kept (tag status : Nat) (data : List Byte) (env : Env) :
    s.KeptBy (execPeerAccessResponse tag status data env s) := by
  unfold execPeerAccessResponse
  split
  · exact .next (.refl s)
  · exact s.uplinks_kept _ _

theorem State.seqOpen_kept (slot evictEn budget sink recent : Nat) : s.KeptBy (execSeqOpen ring slot evictEn budget sink recent s) := .next (s.seqCommand_keeps _ (fun _ => .ite (fun _ => .refl s) (fun _ => .ite (fun _ => .refl s) (fun _ => .rest s _ s.fab s.pwr))))


theorem State.seqClose_kept (slot : Nat) : s.KeptBy (execSeqClose ring slot s) := .next (s.seqCommand_keeps _ (fun _ => .ite (fun _ => .refl s) (fun _ => .ite (fun _ => .refl s)
    (fun _ => .ite (fun _ => .refl s) (fun _ => .rest s _ s.fab s.pwr)))))


theorem State.seqTruncate_kept (slot count : Nat) : s.KeptBy (execSeqTruncate ring slot count s) := .next (s.seqCommand_keeps _ (fun _ => .ite (fun _ => .refl s) (fun _ => .ite (fun _ => .refl s)
    (fun _ => .ite (fun _ => .refl s) (fun _ => .rest s _ s.fab s.pwr)))))


theorem State.seqInfo_kept (slot layer : Nat) : s.KeptBy (execSeqInfo ring slot layer s) := .next (s.seqCommand_keeps _ (fun _ => .ite (fun _ => .refl s) (fun _ => .ite (fun _ => .refl s) (fun _ => .rest s _ s.fab s.pwr))))


theorem State.batchSubmit_kept (addr bytes : Nat) : s.KeptBy (execBatchSubmit ring addr bytes s) := by
  refine .next (s.seqCommand_keeps _ (fun p => ?_))
  split
  · exact .refl s
  · exact .ite (fun _ => .refl s) (fun _ => .ite (fun _ => .rest s _ s.fab s.pwr) (fun _ => .rest s _ s.fab s.pwr))


end

theorem exec_keeps (i : Instr) (s : State) : s.KeptBy (exec i s) := by
  cases i with
  | copyIn | copyInT | copyOut | decode | compact | intersect | laneMac | pass | matvec | drain | clear | packOut
  | forward | backward | map | norm | reduce | optimise | convert | collective | take | nop | sectionOpen | markMarker | markStash
  | markRelease | sectionClose | elasticItemTake | mergePieceSteal | mergePieceRetire | attendPageReady | firingRetire
  | checkSlot | idleSelfCheck | refreshWindow | appendPoint | deferredAppendServe | appendCopyDone | spillDone | fetchDone
  | deferredEviction | patrolScrub | rowRemapEffect | permuteChunkSend | permuteChunkCopy | spareLaneTakeover
  | notifyClear | counterSelect | cadLagMaxRead | memUnschedWaitMaxRead => exact .work s _ _ _
  | put | scoreboardStallRelease | collectiveRingStep => exact s.uplinks_kept _ _
  | devNop | devInfo | stepHold => exact .next (State.command_keeps _ _ (.rest s _ s.fab s.pwr))
  | devReset ring obs => exact s.devReset_kept ring obs
  | herdForm ring p => exact s.herdForm_kept ring p
  | herdLeave ring => exact s.herdLeave_kept ring
  | planLoad ring addr bytes space => exact s.planLoad_kept ring addr bytes space
  | planUnload ring => exact s.planUnload_kept ring
  | stepRun ring start => exact s.stepRun_kept ring start
  | stepResume ring tick => exact s.stepResume_kept ring tick
  | scaleWrite ring slot first count addr => exact s.scaleWrite_kept ring slot first count addr
  | scaleRead ring slot first count addr => exact s.scaleRead_kept ring slot first count addr
  | memCopy ring src dst env => exact s.memCopy_kept ring src dst env
  | sparsePack ring src dst ext env => exact s.sparsePack_kept ring src dst ext env
  | readResult ring slot addr => exact s.readResult_kept ring slot addr
  | releaseResult ring slot => exact s.releaseResult_kept ring slot
  | seqOpen ring slot evictEn budget sink recent => exact s.seqOpen_kept ring slot evictEn budget sink recent
  | seqClose ring slot => exact s.seqClose_kept ring slot
  | seqTruncate ring slot count => exact s.seqTruncate_kept ring slot count
  | seqInfo ring slot layer => exact s.seqInfo_kept ring slot layer
  | batchSubmit ring addr bytes => exact s.batchSubmit_kept ring addr bytes
  | hbmScrub | rowRemap | lsScrub => exact .next (s.maintStart_keeps _ _ _ _ _ (fun u => .rest u _ u.fab u.pwr))
  | arrayCheck | channelRetire | spareBank | spareArrayLine | spareCore | spareLane | sparePort =>
    exact .next (s.maintStart_keeps _ _ _ _ _ .refl)
  | fwStage ring m => exact s.fwStage_kept ring m
  | maintQuery ring slot ordinal => exact s.maintQuery_kept ring slot ordinal
  | thresholdSet ring part crit t w rate => exact s.thresholdSet_kept ring part crit t w rate
  | spdmMessage ring addr n resp cap => exact s.spdmMessage_kept ring addr n resp cap
  | ownerKeyInstall ring addr => exact .next (s.ownerKey_keeps _ _ _ (fun _ _ _ fits h => Sec.installKey_onto fits h))
  | ownerKeyRemove ring addr => exact .next (s.ownerKey_keeps _ _ _ (fun _ _ _ _ h => Sec.removeKey_onto h))
  | ownerRequireSet ring addr => exact .next (s.ownerKey_keeps _ _ _ (fun _ _ _ _ h => Sec.setRequire_onto h))
  | macsecKey ring uplink dir an use ssci addr peer => exact s.macsecKey_kept ring uplink dir an use ssci addr peer
  | debugSeal ring => exact s.debugSeal_kept ring
  | debugUnlock ring addr obs => exact s.debugUnlock_kept ring addr obs
  | debugRelock ring obs => exact s.debugRelock_kept ring obs
  | fwActivate ring slot raise reset obs => exact s.fwActivate_kept ring slot raise reset obs
  | eventLogRead ring first entries addr => exact s.eventLogRead_kept ring first entries addr
  | telemetryRead ring addr => exact s.telemetryRead_kept ring addr
  | traceConfig ring addr bytes enable => exact s.traceConfig_kept ring addr bytes enable
  | packetTake ring => exact s.packetTake_kept ring
  | forwardedReply | stretchDecision => exact .workIf s _ _ _
  | relConfigWrite => exact .workUnless s _ _ _
  | sqDoorbell | cqDoorbell => exact .next (.ite (fun _ => .refl s) (fun _ => .ite (fun _ => .same rfl rfl) (fun _ => .same rfl rfl)))
  | ringEnable | ringDisable => exact .workUnless s _ _ _
  | cadConfigWrite | memSplitWrite => exact .next (.ite (fun _ => .same rfl rfl) (fun _ => .same rfl rfl))
  | uplConfigWrite | ppsLoss | refclkLoss | refclkReturn => exact .workIf s _ _ _
  | ppsEdge | ptpMessageReceive => exact .workUnless s _ _ _
  | registerWrite offset size value => exact .next (.ite (fun _ => s.writeReg_keeps _ _) (fun _ => .refl s))
  | hostRead | hostWrite => exact .fault s _ (.workIf s _ _ _)
  | peerAccessRequest => exact .fault s _ (.workUnless s _ _ _)
  | stepStart => exact s.stepStart_kept
  | tickBoundary energy => exact s.tickBoundary_kept energy
  | herdStop => exact s.herdStop_kept
  | stopDecision reports => exact .next (.ite (fun _ => s.decideStop_keeps _) (fun _ => .refl s))
  | rerunStart => exact s.rerunStart_kept
  | herdResume => exact s.herdResume_kept
  | stepAbandon => exact s.stepAbandon_kept
  | commit => exact s.commit_kept
  | beatLoss => exact .next (.ite (fun _ => .after (fab := s.fab) (pwr := s.pwr) (State.leaveHerd_keeps _ _ _)) (fun _ => .refl s))
  | leaveReceive => exact .next (.ite (fun _ => .after (fab := s.fab) (pwr := s.pwr) (State.leaveHerd_keeps _ _ _)) (fun _ => .refl s))
  | routeSetSwitch => exact s.routeSetSwitch_kept
  | tempSample x => exact s.tempSample_kept x
  | maintActivityStart => exact s.maintActivityStart_kept
  | maintActivityDone ordinal => exact s.maintActivityDone_kept ordinal
  | unscheduledGrant channel wait env => exact s.unscheduledGrant_kept channel wait env
  | powerGood => exact .next (.ite (fun _ => (s.rebooted_keeps _ _).trans (State.startUp_keeps _ _)) (fun _ => .refl s))
  | modResetN => exact .next (.ite (fun _ => .refl s) (fun _ => s.warmReset_keeps _ _))
  | undervoltage => exact .next (.ite (fun _ => .refl s) (fun _ => s.powerDown_keeps _))
  | powerLoss => exact .next (.ite (fun _ => .rest s _ _ _) (fun _ => s.powerDown_keeps _))
  | cadenceLock dmax delay err => exact s.cadenceLock_kept dmax delay err
  | herdFormTimeout => exact s.herdFormTimeout_kept
  | joinReceive port p x y z => exact s.joinReceive_kept port p x y z
  | beatBlock | holdBlock | stretchBlock | stopBlock | resumeBlock => exact .next (s.onBlock_keeps _ _ _ _)
  | flitReceive port lane flit corrected symbols bad lost => exact s.flitReceive_kept port lane flit corrected symbols bad lost
  | peerAccessResponse tag status data env => exact s.peerAccessResponse_kept tag status data env
  | laneFailure port lane => exact s.laneFailure_kept port lane
  | linkTrained port rawNs nb nbPort => exact s.linkTrained_kept port rawNs nb nbPort
  | sidebandChange port aliveN linkedN => exact s.sidebandChange_kept port aliveN linkedN
  | uplinkFrameReceive uplink frame => exact s.uplinkFrameReceive_kept uplink frame
  | uplinkResendTimeout uplink peer seq => exact s.uplinkResendTimeout_kept uplink peer seq
  | uplinkLinkChange | priorityPauseFrame =>
    exact .next (.ite (fun _ => .refl s) (fun _ => .after (w := s.w) (pwr := s.pwr) (State.uplinks_keeps _)))
  | zwinusLaneFailure => exact .next (.ite (fun _ => .refl s) (fun _ => .ite (fun _ => .same rfl rfl) (fun _ => .same rfl rfl)))
  | zwinusLinkUp | internalError => exact .workUnless s _ _ _
  | requestUpdate => exact s.requestUpdate_kept
  | pldmUpdate image => exact s.pldmUpdate_kept image
  | activateFirmware => exact s.activateFirmware_kept
  | sensorRead sensor => exact s.sensorRead_kept sensor
  | planLoadVerified => exact s.planLoadVerified_kept
  | memoryCommandDone slot => exact s.memoryCommandDone_kept slot

end Sys2Proof.Machine

open Sys2Proof Sys2Proof.Machine

/-- Settles O2: every command keeps the queue (`exec_keeps`). -/
theorem queueUntouched : Obligations.QueueUntouched := fun c s t h => (exec_keeps c s t h).pending

/-- A step is a command on the rest of the queue, or none. -/
theorem step_onto {s t : State} (h : step s = .next t) : s.sec.Onto t.sec := by
  unfold step at h
  split at h
  · obtain rfl := Host.Outcome.next.inj h
    exact .refl _
  · exact (exec_keeps _ _ t h).sec

/-- Settles O3: no command gives a seal or a minimum version back (`exec_keeps`). -/
theorem sealAndSvnStay : Obligations.SealAndSvnStay := fun _ _ h => ⟨(step_onto h).lock, (step_onto h).svn⟩

/-- Settles O4: every change of the owner keys keeps their order (`Sec.installKey_onto`, `Sec.removeKey_onto`, `Sec.setRequire_onto`),
and no other command changes them (`exec_keeps`). -/
theorem ownerKeysKept : Obligations.OwnerKeysKept := fun _ _ ok h => (step_onto h).keys ok

end

section
/-!
The front of the queue and the state at reset (O1, O5).
-/

open Sys2Proof Sys2Proof.Machine

/-- Settles O1: by the definition of a step, on a queue with a front and on an empty one. -/
theorem stepRunsFront : Obligations.StepRunsFront :=
  ⟨fun _ _ _ => rfl, fun s h => by rw [step, h]⟩

/-- Settles O5: each register is evaluated at reset, where no owner key is installed. -/
theorem resetState : Obligations.ResetState := by
  refine ⟨⟨rfl, rfl, rfl, rfl, rfl, rfl, rfl, rfl, rfl, rfl, rfl, rfl, rfl, rfl, rfl, rfl⟩, ?_⟩
  have noKey (k : Nat) : mget State.reset.sec.keys none k = none := rfl
  exact { required := nofun, sound := by simp [noKey], distinct := by simp [noKey] }

end

section
/-!
Gap codes (O59).
-/

namespace Sys2Proof.Machine

/-! ### Walking gap codes (R538) -/

section
variable {mt : Meta} {rd : Nat → Byte} {s0 nnz : Nat}

/-- A run of codes 255 before a value moves the position on by 255 each. -/
theorem gapWalk_skip {j : Nat} (more : j < nnz) (n fuel m p : Nat) (room : m + n ≤ mt.bytes) (codes : ∀ i < n, rd (mt.base + (m + i)) = 255) :
    gapWalk mt rd s0 nnz (fuel + n) m p j = gapWalk mt rd s0 nnz fuel (m + n) (p + 255 * n) j := by
  induction n generalizing m p with
  | zero => rfl
  | succ n ih =>
    have first : (rd (mt.base + m)).toNat = 255 := congrArg BitVec.toNat (codes 0 (Nat.succ_pos n))
    have rest := ih (m + 1) (p + 255) (by omega) (fun i h => by rw [← codes (i + 1) (by omega)]; congr 2; omega)
    rw [← Nat.add_assoc, gapWalk, if_neg (by omega), if_neg (by omega)]
    simp only [first, if_pos]
    rw [rest]
    congr 1 <;> omega

/-- The code of a value. -/
theorem gapWalk_value {j fuel m p g : Nat} (more : j < nnz) (room : m < mt.bytes) (code : (rd (mt.base + m)).toNat = g) (small : g < 255)
    (inside : p + g < s0) :
    gapWalk mt rd s0 nnz (fuel + 1) m p j =
      { gapWalk mt rd s0 nnz fuel (m + 1) (p + g + 1) (j + 1) with
        pos := (p + g) :: (gapWalk mt rd s0 nnz fuel (m + 1) (p + g + 1) (j + 1)).pos } := by
  rw [gapWalk, if_neg (by omega), if_neg (by omega)]
  simp only [code]
  rw [if_neg (by omega), if_neg (by omega)]

/-- The codes of positions below S_0, with what the walk needs of fuel. -/
theorem gapCodes_length_le (p : Nat) (xs : List Nat) (rising : xs.Pairwise (· < ·)) (low : ∀ x ∈ xs, p ≤ x) (high : ∀ x ∈ xs, x < s0) :
    (gapCodes p xs).length ≤ xs.length + (s0 - p) / 255 := by
  induction xs generalizing p with
  | nil => simp [gapCodes]
  | cons x xs ih =>
    obtain ⟨after, rising⟩ := List.pairwise_cons.mp rising
    have := ih (x + 1) rising (fun y h => after y h) (fun y h => high y (.tail _ h))
    have := low x (.head _)
    have := high x (.head _)
    simp only [gapCodes, List.length_append, List.length_replicate, List.length_cons, List.length_nil]
    omega

/-- The walk over the codes of the positions from `p` on. -/
theorem gapWalk_gapCodes {p : Nat} {xs : List Nat} (fuel m j : Nat) (rising : xs.Pairwise (· < ·)) (low : ∀ x ∈ xs, p ≤ x) (high : ∀ x ∈ xs, x < s0)
    (room : m + (gapCodes p xs).length ≤ mt.bytes)
    (codes : ∀ i < (gapCodes p xs).length, rd (mt.base + (m + i)) = (gapCodes p xs).getD i 0) :
    gapWalk mt rd s0 (j + xs.length) (fuel + 1 + (gapCodes p xs).length) m p j = ⟨xs, m + (gapCodes p xs).length, none⟩ := by
  induction xs generalizing p m j with
  | nil => simp [gapCodes, gapWalk]
  | cons x xs ih =>
    obtain ⟨after, rising⟩ := List.pairwise_cons.mp rising
    have px := low x (.head _)
    have high' := high x (.head _)
    generalize hn : (x - p) / 255 = n at *
    have split : gapCodes p (x :: xs) = List.replicate n 255 ++ BitVec.ofNat 8 ((x - p) % 255) :: gapCodes (x + 1) xs := by
      simp [gapCodes, hn]
    rw [split] at room codes ⊢
    simp only [List.length_append, List.length_replicate, List.length_cons] at room codes ⊢
    have skipped (i : Nat) (h : i < n) : rd (mt.base + (m + i)) = 255 := by
      rw [codes i (by omega), List.getD_append _ _ _ _ (by simpa)]
      simp [h]
    have value : rd (mt.base + (m + n)) = BitVec.ofNat 8 ((x - p) % 255) := by
      rw [codes n (by omega), List.getD_append_right _ _ _ _ (by simp)]
      simp
    have rest := ih (p := x + 1) (m + n + 1) (j + 1) rising (fun y h => after y h) (fun y h => high y (.tail _ h)) (by omega)
      (fun i h => by
        rw [show m + n + 1 + i = m + (n + 1 + i) by omega, codes _ (by omega), List.getD_append_right _ _ _ _ (by simp; omega),
          List.length_replicate, show n + 1 + i - n = i + 1 by omega, List.getD_cons_succ])
    rw [show fuel + 1 + (n + ((gapCodes (x + 1) xs).length + 1)) = fuel + 1 + (gapCodes (x + 1) xs).length + 1 + n by omega,
      gapWalk_skip (by omega) _ _ _ _ (by omega) skipped,
      gapWalk_value (g := (x - p) % 255) (by omega) (by omega) (by rw [value, BitVec.toNat_ofNat]; omega) (by omega) (by omega),
      show p + 255 * n + (x - p) % 255 = x by omega, show j + (xs.length + 1) = j + 1 + xs.length by omega, rest]
    simp only [Walk.mk.injEq, true_and, and_true]
    omega

end

end Sys2Proof.Machine

open Sys2Proof Sys2Proof.Machine

/-- Settles O59: the walk reads one code after the other (`gapWalk_gapCodes`), with fuel enough (`gapCodes_length_le`). -/
theorem gapRoundTrip : Obligations.GapRoundTrip := by
  intro mt rd s0 off xs rising high room codes
  have enough := gapCodes_length_le 0 xs rising (fun _ _ => Nat.zero_le _) high
  obtain ⟨fuel, hf⟩ : ∃ fuel, gapBound s0 xs.length = fuel + 1 + (gapCodes 0 xs).length :=
    ⟨gapBound s0 xs.length - 1 - (gapCodes 0 xs).length, by unfold gapBound; omega⟩
  have walk := gapWalk_gapCodes fuel off 0 rising (fun _ _ => Nat.zero_le _) high room codes
  rwa [Nat.zero_add, ← hf] at walk

end

section
/-!
Command packets (O6).
-/

namespace Sys2Proof.Machine

/-! ### Command packets (R852, R854, R866) -/

/-- The low bytes of a number at the front. -/
theorem leAt_toLE_mod {m n : Nat} (v : Nat) (rest : List Byte) (narrow : m ≤ n) : leAt (toLE n v ++ rest) 0 m = v % 256 ^ m := by
  have whole : (toLE n v).take m = toLE m v := by
    induction m generalizing n v with
    | zero => rfl
    | succ m ih =>
      obtain ⟨n, rfl⟩ := Nat.exists_eq_add_of_lt narrow
      simp [toLE, ih]
  rw [leAt, List.drop_zero, List.take_append_of_le_length (by simpa using narrow), whole, leNat_toLE]

/-- A number read from the front, where it fits into the bytes read. -/
theorem leAt_toLE {m n v : Nat} (rest : List Byte) (narrow : m ≤ n) (fits : v < 2 ^ (8 * m)) : leAt (toLE n v ++ rest) 0 m = v := by
  rw [leAt_toLE_mod v rest narrow, Nat.mod_eq_of_lt (by rwa [show 256 = 2 ^ 8 from rfl, ← Nat.pow_mul])]

theorem leAt_past_toLE (n v : Nat) (rest : List Byte) {o : Nat} (m : Nat) (h : n ≤ o) :
    leAt (toLE n v ++ rest) o m = leAt rest (o - n) m := by
  simpa using leAt_skip (toLE n v) rest o m (by simpa)

/-- Parameters that fit are followed by zeros. -/
theorem fit_of_short {n : Nat} {ps : List Byte} (short : ps.length ≤ n) : fit n ps = ps ++ zeros (n - ps.length) := by
  rw [fit, List.take_of_length_le short]

section
variable {op flags target tag : Nat} {ps : List Byte}

theorem length_packetBytes (short : ps.length ≤ 48) : (packetBytes op flags target tag ps).length = 64 := by
  simp [packetBytes, field, fit_of_short short, zeros]
  omega

theorem leAt_packetBytes_plen (short : ps.length ≤ 48) : leAt (packetBytes op flags target tag ps) 8 1 = ps.length := by
  simp only [packetBytes, field, List.append_assoc]
  simp only [leAt_past_toLE, Nat.reduceLeDiff, Nat.reduceSub]
  exact leAt_toLE _ (by decide) (by omega)

/-- The parameters of a packet are those it was made of. -/
theorem packetParams_packetBytes (short : ps.length ≤ 48) :
    packetParams (packetBytes op flags target tag ps) = ps ++ zeros (48 - ps.length) := by
  have rest : (packetBytes op flags target tag ps).drop 16 = fit 48 ps := by
    simp [packetBytes, field, toLE]
  rw [packetParams, leAt_packetBytes_plen short, rest, fit_of_short short, List.take_left, fit_of_short short]

/-- A packet spells what its opcode and parameters spell. -/
theorem decodePacket_packetBytes (ring : Nat) (b : Beside) (listed : op < 2 ^ 16) (short : ps.length ≤ 48) :
    decodePacket ring (packetBytes op flags target tag ps) b = decodeParams ring op (ps ++ zeros (48 - ps.length)) b := by
  have opcode : leAt (packetBytes op flags target tag ps) 0 2 = op := by
    simp only [packetBytes, field, List.append_assoc]
    exact leAt_toLE _ (by decide) listed
  rw [decodePacket, leAt_packetBytes_plen short, if_neg (by omega), opcode, packetParams_packetBytes short]

end

theorem herdParams_herdBytes {p : HerdParams} (h : p.wf = true) (rest : List Byte) : herdParams (herdBytes p ++ rest) = p := by
  simp only [HerdParams.wf, below, List.all_cons, List.all_nil, Bool.and_true, Bool.and_eq_true, decide_eq_true_eq] at h
  simp only [herdParams, herdBytes, field, List.append_assoc]
  simp (disch := omega) only [leAt_toLE, leAt_past_toLE, Nat.reduceSub]

theorem maintParams_maintBytes {m : MaintArgs} (activity : Nat) (h : m.wf = true) (rest : List Byte) : maintParams (maintBytes activity m ++ rest) = m := by
  simp only [MaintArgs.wf, below, List.all_cons, List.all_nil, Bool.and_true, Bool.and_eq_true, decide_eq_true_eq] at h
  simp only [maintParams, maintBytes, field, List.append_assoc]
  simp (disch := omega) only [leAt_toLE, leAt_past_toLE, Nat.reduceSub]

theorem decodeParams_maintBytes {ring activity : Nat} {m : MaintArgs} (known : activity < 2 ^ 8) (h : m.wf = true) (rest : List Byte) (b : Beside) :
    decodeParams ring 0x0500 (maintBytes activity m ++ rest) b = decodeMaint ring activity m b := by
  have named : leAt (maintBytes activity m ++ rest) 0 1 = activity := by
    simp only [maintBytes, field, List.append_assoc]
    exact leAt_toLE _ (by decide) known
  simp only [decodeParams, maintParams_maintBytes activity h rest, named]

/-- The opcode and the parameter bytes of a command fit into a packet, and they spell the command whatever bytes follow. -/
theorem decodeParams_params {i : Instr} {op : Nat} {ps : List Byte} (wf : i.wf = true) (h : i.params = some (op, ps)) :
    op < 2 ^ 16 ∧ ps.length ≤ 48 ∧ ∀ rest, decodeParams i.ring op (ps ++ rest) i.beside = some i := by
  cases i with
  | devNop | devInfo | devReset | herdLeave | planUnload | stepHold | debugSeal | debugRelock =>
    cases h
    exact ⟨by decide, by decide, fun _ => rfl⟩
  | herdForm ring p =>
    cases h
    refine ⟨by decide, by simp [herdBytes, field], fun rest => ?_⟩
    exact congrArg (fun q => some (Instr.herdForm ring q)) (herdParams_herdBytes (Bool.and_eq_true_iff.mp wf).2 rest)
  | hbmScrub | lsScrub | arrayCheck | rowRemap =>
    cases h
    simp only [Instr.wf, Bool.and_eq_true] at wf
    exact ⟨by decide, by simp [maintBytes, field], fun _ => decodeParams_maintBytes (by decide) wf.1.2 _ _⟩
  | channelRetire | spareBank | spareArrayLine | spareCore | spareLane | sparePort | fwStage =>
    cases h
    simp only [Instr.wf, Bool.and_eq_true] at wf
    exact ⟨by decide, by simp [maintBytes, field], fun _ => decodeParams_maintBytes (by decide) wf.2 _ _⟩
  | planLoad | stepRun | stepResume | scaleWrite | scaleRead | readResult | releaseResult | seqOpen | seqClose | seqTruncate | seqInfo
  | batchSubmit | maintQuery | thresholdSet | spdmMessage | ownerKeyInstall | ownerKeyRemove | ownerRequireSet | macsecKey | eventLogRead
  | telemetryRead | traceConfig | memCopy | sparsePack | debugUnlock | fwActivate =>
    cases h
    simp only [Instr.wf, below, List.all_cons, List.all_nil, Bool.and_true, Bool.and_eq_true, decide_eq_true_eq] at wf
    refine ⟨by decide, by simp [field], fun rest => ?_⟩
    simp only [decodeParams, decodeOwnerKey, decodeDebugLock, field, Instr.ring, Instr.beside, List.append_assoc]
    simp (disch := omega) only [leAt_toLE, leAt_past_toLE, Nat.reduceSub]
  | _ => cases h

end Sys2Proof.Machine

open Sys2Proof Sys2Proof.Machine

/-- Settles O6: a packet spells what its parameters spell (`decodePacket_packetBytes`), and these the command (`decodeParams_params`). -/
theorem packetRoundTrip : Obligations.PacketRoundTrip := by
  intro i flags target tag pk wf h
  obtain ⟨⟨op, ps⟩, hp, rfl⟩ := Option.map_eq_some_iff.mp h
  obtain ⟨listed, short, spells⟩ := decodeParams_params wf hp
  exact ⟨length_packetBytes short, (decodePacket_packetBytes _ _ listed short).trans (spells _)⟩

end

section
/-!
Rings and plain registers (O10, O11).
-/

namespace Sys2Proof.Machine

/-! ### Doorbells and RING_CONFIG (R844 to R846, R849) -/

/-- A change of the device block alone. -/
theorem Work.dev_same (w : Work) (d : Dev) : w.SamePlanWork { w with dev := d } := ⟨rfl, rfl, rfl, rfl, rfl, rfl, rfl, rfl, rfl, rfl, rfl⟩

/-- A ring in its error state: NOTIFY says so, and every other ring stays. -/
theorem Work.ringError_spec (w : Work) (ring : Nat) :
    mget (w.ringError ring).dev.rings {} ring = { mget w.dev.rings {} ring with error := true } ∧
      (w.ringError ring).dev.notify.getLsbD 5 = true ∧
      (∀ j, j ≠ ring → mget (w.ringError ring).dev.rings {} j = mget w.dev.rings {} j) ∧ w.SamePlanWork (w.ringError ring) := by
  have rings : (w.ringError ring).dev.rings = (w.dev.modRing ring (fun r => { r with error := true })).rings :=
    (Work.raise_notices { w with dev := w.dev.modRing ring (fun r => { r with error := true }) } 5).symm ▸ rfl
  refine ⟨?_, Work.raise_sets _ 5 (by decide), fun j other => ?_, (w.dev_same _).trans (Work.raise_same _ 5)⟩
  · rw [rings, Dev.modRing_ring]
  · rw [rings, Dev.modRing_other _ _ other]

section
variable {ring : Nat} (here : ring < 64) (v : W64) (s : State)
include here

theorem exec_sqDoorbell : exec (.sqDoorbell ring v) s = .next (
    if (mget s.w.dev.rings {} ring).badIndex (bits v 11 0) then { s with w := s.w.ringError ring }
    else { s with w := { s.w with dev := s.w.dev.modRing ring (fun r => { r with tail := BitVec.ofNat 12 (bits v 11 0) }) } }) :=
  congrArg Host.Outcome.next (if_neg (Nat.not_le.mpr here))

theorem exec_cqDoorbell : exec (.cqDoorbell ring v) s = .next (
    if (mget s.w.dev.rings {} ring).badIndex (bits v 11 0) then { s with w := s.w.ringError ring }
    else { s with w := { s.w with dev := s.w.dev.modRing ring (·.readTo (bits v 11 0)) } }) :=
  congrArg Host.Outcome.next (if_neg (Nat.not_le.mpr here))

theorem exec_ringEnable (on : bit v 8 = true) :
    exec (.ringEnable ring v) s = .next { s with w := { s.w with dev := s.w.dev.modRing ring (·.start v) } } :=
  congrArg Host.Outcome.next (if_neg (by simp [on, here]))

theorem exec_ringDisable (off : bit v 8 = false) : exec (.ringDisable ring v) s = .next
    { s with w := { s.w with dev := s.w.dev.modRing ring (fun r => { r with log2 := r.newLog2 v, enable := false }) } } :=
  congrArg Host.Outcome.next (if_neg (by simp [off, here]))

end

theorem Ring.badIndex_iff (r : Ring) (k : Nat) : r.badIndex k = true ↔ r.enable = false ∨ 2 ^ r.log2.toNat ≤ k := by
  simp [Ring.badIndex]

/-- LOG2_ENTRIES stays while the ring is in service. -/
theorem Ring.newLog2_enabled {r : Ring} (v : W64) (on : r.enable = true) : r.newLog2 v = r.log2 := if_pos (.inl on)

end Sys2Proof.Machine

open Sys2Proof Sys2Proof.Machine

/-- Settles O10: both doorbells test their value alike (`Ring.badIndex_iff`), and a bad one is a ring error (`Work.ringError_spec`). -/
theorem ringRegisters : Obligations.RingRegisters := by
  refine ⟨fun ring v s here => ⟨fun on fits => ?_, fun bad c hc => ?_⟩, fun ring v s here => ⟨fun on => ?_, fun off => ?_⟩⟩
  · have good : ¬(mget s.w.dev.rings {} ring).badIndex (bits v 11 0) = true := by
      rw [Ring.badIndex_iff, not_or]
      exact ⟨by rw [on]; decide, Nat.not_le.mpr fits⟩
    refine ⟨by rw [exec_sqDoorbell here, if_neg good], fun written => ?_⟩
    rw [exec_cqDoorbell here, if_neg good]
    simp only [Dev.modRing, mmod, Ring.readTo, if_pos written]
  · obtain ⟨error, told, others, same⟩ := s.w.ringError_spec ring
    refine ⟨{ s with w := s.w.ringError ring }, ?_, error, told, others, same, ⟨rfl, rfl, rfl, rfl⟩⟩
    rcases List.mem_pair.mp hc with rfl | rfl
    · rw [exec_sqDoorbell here, if_pos ((Ring.badIndex_iff _ _).mpr bad)]
    · rw [exec_cqDoorbell here, if_pos ((Ring.badIndex_iff _ _).mpr bad)]
  · refine ⟨_, exec_ringEnable here v s on, ?_, Work.dev_same _ _, ⟨rfl, rfl, rfl, rfl⟩⟩
    rw [Dev.modRing_ring]
    exact ⟨rfl, rfl, rfl, rfl, rfl, rfl, rfl, rfl, rfl, rfl, Ring.newLog2_enabled v⟩
  · refine ⟨_, exec_ringDisable here v s off, ?_, Work.dev_same _ _, ⟨rfl, rfl, rfl, rfl⟩⟩
    rw [Dev.modRing_ring]
    exact ⟨rfl, rfl, rfl, rfl, rfl, Ring.newLog2_enabled v⟩

namespace Sys2Proof.Machine

/-! ### Plain registers of the control window (R830, R838, R840) -/

section
variable (v : W64) (s : State)

/-- NOTIFY keeps the bits that were not written as 1. -/
theorem notifyCleared_bit (x : BitVec 6) {b : Nat} (h : b < 6) :
    (x &&& ~~~(BitVec.ofNat 6 (bits v 5 0))).getLsbD b = (x.getLsbD b && !v.getLsbD b) := by
  have low : BitVec.ofNat 6 (bits v 5 0) = v.setWidth 6 := by
    apply BitVec.eq_of_toNat_eq
    simp [bits]
  have wide : b < 64 := by omega
  simp [low, h, wide]

theorem exec_registerWrite {o : Nat} (aligned : o % 8 = 0) : exec (.registerWrite o 8 v) s = .next (s.writeReg o v) :=
  congrArg Host.Outcome.next (if_pos ⟨rfl, aligned⟩)

/-- A register that holds a field of the word written reads as that field. -/
theorem field_toNat {n : Nat} (k : Nat) (narrow : k ≤ 64) (h : n = k) : (BitVec.ofNat 64 (BitVec.ofNat n v.toNat).toNat).toNat = v.toNat % 2 ^ k := by
  subst h
  rw [BitVec.toNat_ofNat, BitVec.toNat_ofNat, Nat.mod_eq_of_lt]
  exact lt_of_lt_of_le (Nat.mod_lt _ (Nat.two_pow_pos n)) (Nat.pow_le_pow_right (by decide) narrow)

/-- The two base registers of a ring pair. -/
theorem State.writeReg_ringBase {ring k : Nat} (here : ring < 64) (hk : k = 0 ∨ k = 8) :
    s.writeReg (0x2000 + 64 * ring + k) v = { s with w := { s.w with dev := s.w.dev.ringBase ring (decide (k = 8)) v } } := by
  generalize ho : 0x2000 + 64 * ring + k = o
  have number : (o - 0x2000) / 64 = ring := by omega
  unfold State.writeReg
  split
  case h_14 =>
    rw [if_neg (by omega), number]
    rcases hk with rfl | rfl
    · rw [if_pos (by omega)]
      rfl
    · rw [if_neg (by omega), if_pos (by omega)]
      rfl
  all_goals omega

/-- A base of a ring in service stays. -/
theorem Dev.ringBase_enabled (d : Dev) {ring : Nat} (cq : Bool) (on : (mget d.rings {} ring).enable = true) :
    mget (d.ringBase ring cq v).rings {} ring = mget d.rings {} ring := by
  rw [Dev.ringBase, Dev.modRing_ring, if_pos on]

end

end Sys2Proof.Machine

open Sys2Proof Sys2Proof.Machine

/-- Settles O11: each command by its own effect on its register, and a base by `Dev.ringBase_enabled`. -/
theorem registersWritten : Obligations.RegistersWritten := by
  refine ⟨fun v s => ⟨⟨_, rfl, fun b h => notifyCleared_bit v _ h, rfl⟩, ⟨_, rfl, ?_, rfl⟩⟩,
    fun s => ⟨⟨_, rfl, ?_, rfl, rfl⟩, ⟨_, rfl, ?_, rfl, rfl⟩⟩,
    fun o n v s => ⟨fun odd => ?_, ⟨_, exec_registerWrite v s rfl, ?_, Work.dev_same _ _, ⟨rfl, rfl, rfl, rfl⟩⟩,
      ⟨_, exec_registerWrite v s rfl, ?_, Work.dev_same _ _, ⟨rfl, rfl, rfl, rfl⟩⟩,
      ⟨_, exec_registerWrite v s rfl, ?_, Work.dev_same _ _, ⟨rfl, rfl, rfl, rfl⟩⟩, fun ring here on k hk => ?_⟩⟩
  · simp [bits]
  · exact (leNat_toLE 8 _).trans (Nat.mod_eq_of_lt s.w.cad.lagMax.isLt)
  · exact (leNat_toLE 8 _).trans (Nat.mod_eq_of_lt s.w.mem.waitMax.isLt)
  · exact congrArg Host.Outcome.next (if_neg (by omega))
  · exact field_toNat v 6 (by decide) rfl
  · exact (BitVec.ofNat_toNat 64 v).trans (BitVec.setWidth_eq v)
  · exact field_toNat v 32 (by decide) rfl
  · have base : k = 0 ∨ k = 8 := by simpa using hk
    refine ⟨_, exec_registerWrite v s (by omega), ?_⟩
    rw [State.writeReg_ringBase v s here base]
    exact Dev.ringBase_enabled v _ _ on

end

section
/-!
Event log, telemetry and trace (O15, O16).
-/

namespace Sys2Proof.Machine

/-! ### Commands that take a result slot (R871 to R873, R881) -/

/-- A command that takes a slot: with none free it is refused, and otherwise its reply names the slot. -/
theorem State.command_busy {s : State} (ring opcode : Nat) {allowed : List DevState} {act : State → Nat → State} (on : s.w.dev.state ∈ allowed)
    (powered : DevState.off ∉ allowed) (full : s.w.dev.freeSlot = none) :
    s.command ring allowed (fun s => s.withSlot ring opcode act) = s.reply ring stBusy [] :=
  State.command_answers on powered (act := fun s => s.withSlot ring opcode act) (s.withSlot_busy ring opcode act full)

theorem State.command_slot {s : State} (ring opcode : Nat) {allowed : List DevState} {act : State → Nat → State} (on : s.w.dev.state ∈ allowed)
    (powered : DevState.off ∉ allowed) {k : Nat} (free : s.w.dev.freeSlot = some k) :
    s.command ring allowed (fun s => s.withSlot ring opcode act) =
      (act { s with w := s.w.takeSlot k ring opcode } k).reply ring stOk (toLE 2 k) :=
  State.command_answers on powered (act := fun s => s.withSlot ring opcode act) (s.withSlot_free ring opcode k act free)

/-- The record of a slot that finishes, behind its reply. -/
theorem State.finished_record (s : State) {k : Nat} {r : RSlot} (held : mget s.w.dev.results none k = some r) (status : Nat) (body : List Byte)
    (ring st : Nat) (res : List Byte) :
    mget ((s.finish k status body).reply ring st res).w.dev.results none k =
      some { r with ready := true, status := BitVec.ofNat 8 status, body := body } := by
  rw [State.reply, Work.reply_dev_results, State.finish]
  exact (Work.finish_results _ _ _ _ _ held).1

/-- A slot that finishes with ST_OK, and its reply, change messages to the outside alone. -/
theorem State.finished_same (s : State) {v : Work} (h : s.w.SamePlanWork v) (k : Nat) (body : List Byte) (ring : Nat) (res : List Byte) :
    s.w.SamePlanWork ((State.finish { s with w := v } k stOk body).reply ring stOk res).w ∧
      s.SameBlocks ((State.finish { s with w := v } k stOk body).reply ring stOk res) :=
  ⟨(h.trans (Work.finish_same _ _ _ _)).trans (Work.reply_same _ _ _ _), rfl, rfl, rfl, rfl⟩

/-! ### EVENT_LOG_READ, TELEMETRY_READ and TRACE_CONFIG (R957, R1044, R1055) -/

/-- The telemetry record: 128 bytes, the running time first and CAD_TICK next. -/
theorem State.telemetry_spec (s : State) :
    s.telemetry.length = 128 ∧ leAt s.telemetry 0 8 = s.w.rel.runMs % 2 ^ 64 ∧ leAt s.telemetry 8 8 = (s.readReg 0x0400).toNat := by
  refine ⟨by simp [State.telemetry], ?_, ?_⟩
  · rw [State.telemetry, List.append_assoc]
    simp [leAt, leNat_toLE]
  · rw [State.telemetry, List.append_assoc, leAt_skip _ _ _ _ (by simp), length_toLE, List.flatMap_cons, List.append_assoc]
    exact leAt_front 8 _ _ (s.readReg 0x0400).isLt

/-- TRACE_CONFIG's test of a size. -/
theorem traceSize_iff (bytes : Nat) :
    (bytes < 65536 ∨ 2 ^ 30 < bytes ∨ 2 ^ Nat.log2 bytes ≠ bytes) ↔ ¬∃ n, 16 ≤ n ∧ n ≤ 30 ∧ bytes = 2 ^ n := by
  constructor
  · rintro bad ⟨n, low, high, rfl⟩
    have := Nat.pow_le_pow_right (n := 2) (by decide) low
    have := Nat.pow_le_pow_right (n := 2) (by decide) high
    rw [Nat.log2_two_pow] at bad
    omega
  · contrapose!
    rintro ⟨low, high, power⟩
    refine ⟨bytes.log2, ?_, ?_, power.symm⟩
    · exact (Nat.le_log2 (by omega)).mpr low
    · rw [← power] at high
      exact (Nat.pow_le_pow_iff_right (by decide)).mp high

end Sys2Proof.Machine

open Sys2Proof Sys2Proof.Machine

/-- Settles O15: both commands take a slot (`State.command_slot`) and finish it (`State.finished_record`). -/
theorem logAndTelemetryRead : Obligations.LogAndTelemetryRead := by
  refine fun ring first n addr s on => ⟨fun full c hc => ?_, fun k free => ⟨?_, ?_⟩⟩
  · rcases List.mem_pair.mp hc with rfl | rfl
    · exact congrArg Host.Outcome.next (State.command_busy ring _ on (by decide) full)
    · exact congrArg Host.Outcome.next (State.command_busy ring _ on (by decide) full)
  · refine ⟨_, _, congrArg Host.Outcome.next (State.command_slot ring _ on (by decide) free),
      State.finished_record _ ((congrArg (mget · none k) (Work.compWrite_dev_results _ _ _ _)).trans (Work.takeSlot_results s.w k ring _)) _ _ _ _ _,
      rfl, rfl, rfl, ?_, ?_⟩
    · simp [Work.takeSlot]
    · exact State.finished_same s ((Work.takeSlot_same _ k ring 0x0700).trans (Work.compWrite_same _ ring addr _)) k _ ring (toLE 2 k)
  · obtain ⟨v, copied, held, same⟩ : ∃ v : Work, (if addr = 0 then { s with w := s.w.takeSlot k ring 0x0701 } else
          { s with w := (s.w.takeSlot k ring 0x0701).compWrite ring addr (State.telemetry { s with w := s.w.takeSlot k ring 0x0701 }) }) =
        { s with w := v } ∧ mget v.dev.results none k = mget (s.w.takeSlot k ring 0x0701).dev.results none k ∧ s.w.SamePlanWork v := by
      split
      · exact ⟨_, rfl, rfl, Work.takeSlot_same _ _ _ _⟩
      · exact ⟨_, rfl, congrArg (mget · none k) (Work.compWrite_dev_results _ _ _ _), (Work.takeSlot_same _ _ _ _).trans (Work.compWrite_same _ _ _ _)⟩
    obtain ⟨length, running, tick⟩ := State.telemetry_spec { s with w := s.w.takeSlot k ring 0x0701 }
    refine ⟨_, _, congrArg Host.Outcome.next ((State.command_slot ring _ on (by decide) free).trans
        (congrArg (fun t => (t.finish k stOk (State.telemetry { s with w := s.w.takeSlot k ring 0x0701 })).reply ring stOk (toLE 2 k)) copied)),
      State.finished_record _ (held.trans (Work.takeSlot_results s.w k ring _)) _ _ _ _ _, rfl, rfl, rfl, length, running, tick, ?_⟩
    exact State.finished_same s same k _ ring (toLE 2 k)

/-- Settles O16: the sizes that are taken are those of `traceSize_iff`. -/
theorem traceConfigured : Obligations.TraceConfigured := by
  refine fun ring addr bytes enable s on small => ⟨fun aligned size inside => ?_, fun bad => ?_⟩
  · have good : ¬(addr % 4096 ≠ 0 ∨ bytes < 65536 ∨ 2 ^ 30 < bytes ∨ 2 ^ Nat.log2 bytes ≠ bytes ∨ hbmBytes < addr + bytes ∨ 1 < enable) := by
      have := traceSize_iff bytes
      have := Nat.lt_succ_iff.mp small
      grind
    refine ⟨_, congrArg Host.Outcome.next (State.command_answers on (by decide) (if_neg good)), ?_⟩
    obtain ⟨k, low, high, rfl⟩ := size
    have fits := Nat.pow_le_pow_right (n := 2) (by decide) high
    have top : hbmBytes = 1030792151040 := rfl
    simp only [Work.reply_trace, State.reply, Work.reply_cores, Work.reply_run, Work.reply_hbm, BitVec.toNat_ofNat, true_and]
    exact ⟨Nat.mod_eq_of_lt (by omega), Nat.mod_eq_of_lt (by omega), ⟨rfl, rfl, rfl, rfl⟩⟩
  · refine congrArg Host.Outcome.next (State.command_answers on (by decide) (a := s.refuse stBadParam) (if_pos ?_))
    have := traceSize_iff bytes
    grind

end

section
/-!
Packets taken and replies (O8, O9).
-/

namespace Sys2Proof.Machine

/-! ### Replies and the packet at the head of a ring (R847 to R854, R884, R886) -/

/-- The fields of a reply (R853). -/
theorem replyBytes_fields (packet : List Byte) (status state : Nat) (phase : Bool) (result : List Byte) :
    leAt (replyBytes packet status state (b2n phase) result) 0 4 = leAt packet 4 4 ∧
      leAt (replyBytes packet status state (b2n phase) result) 6 1 = leAt packet 3 1 ∧
      leAt (replyBytes packet status state (b2n phase) result) 7 1 = b2n phase ∧
      (replyBytes packet status state (b2n phase) result).drop 8 = fit 24 result := by
  have phase_lt : b2n phase < 256 := by cases phase <;> decide
  refine ⟨?_, ?_, ?_, List.drop_left' (length_toLE 8 _)⟩
  · refine (leAt_toLE_mod _ _ (by decide)).trans ?_
    exact (Nat.add_mul_mod_self_left _ (2 ^ 32) _).trans ((Nat.mod_mod _ _).trans (Nat.mod_eq_of_lt (leAt_lt packet 4 4)))
  · exact (leAt_toLE_byte (by decide) _ _).trans (pack_byte [(leAt packet 4 4, 32), (status, 8), (state, 8)] _ (leAt_lt _ _ 1) (by simp))
  · exact (leAt_toLE_byte (by decide) _ _).trans
      (pack_byte [(leAt packet 4 4, 32), (status, 8), (state, 8), (leAt packet 3 1, 8)] _ phase_lt (by simp))

/-- PHASE changes exactly where CQ_TAIL wraps. -/
theorem Ring.advance_phase_ne (r : Ring) : r.advance.phase ≠ r.phase ↔ (r.cqTail.toNat + 1) % 2 ^ r.log2.toNat = 0 := by
  rw [Ring.advance_phase]
  split <;> simp [*]

/-- A ring whose head packet is taken, and every other ring. -/
theorem Work.pop_ring (w : Work) (ring : Nat) : mget (w.pop ring).dev.rings {} ring =
    { mget w.dev.rings {} ring with
      sqHead := BitVec.ofNat 12 (((mget w.dev.rings {} ring).sqHead.toNat + 1) % 2 ^ (mget w.dev.rings {} ring).log2.toNat)
      taken := some (w.headPacket ring) } := by
  simp only [Work.pop, Dev.modRing, mget_mmod_same]

theorem Work.pop_other (w : Work) {ring j : Nat} (h : j ≠ ring) : mget (w.pop ring).dev.rings {} j = mget w.dev.rings {} j := by
  simp only [Work.pop, Dev.modRing, mget_mmod_ne _ _ _ h]

/-- A packet without a row has one of the opcodes that have rows. -/
theorem noRow_listed {pk : List Byte} (h : (noRow pk).isSome = true) : leAt pk 0 2 ∈ opcodes := by
  unfold noRow at h
  split at h
  · next op => simp [op.1, opcodes]
  · split at h
    · next op => simp [op.1, opcodes]
    · cases h

section
variable {ring : Nat} {s : State} (on : s.w.dev.state ≠ .off) (served : s.w.nextRing = some ring)
include on served

/-- The packet of the ring served next. -/
theorem exec_packetTake : exec (.packetTake ring) s = .next (
    let pk := s.w.headPacket ring
    let s := { s with w := s.w.pop ring }
    let target := leAt pk 3 1 % 64
    if target ≠ s.w.dev.flockSelf.toNat then s.forward ring target pk
    else if leAt pk 0 2 ∉ opcodes then s.reply ring stBadOpcode []
    else if 48 < leAt pk 8 1 then s.reply ring stBadParam []
    else match noRow pk with
      | some allowed => s.command ring allowed (fun s => s.refuse stBadParam)
      | none => s) :=
  congrArg Host.Outcome.next (if_neg (by simp [on, served]))

/-- For this module: refused, or waiting for its command. -/
theorem exec_packetTake_here (here : leAt (s.w.headPacket ring) 3 1 % 64 = s.w.dev.flockSelf.toNat) : exec (.packetTake ring) s = .next (
    let pk := s.w.headPacket ring
    let s := { s with w := s.w.pop ring }
    if leAt pk 0 2 ∉ opcodes then s.reply ring stBadOpcode []
    else if 48 < leAt pk 8 1 then s.reply ring stBadParam []
    else match noRow pk with
      | some allowed => s.command ring allowed (fun s => s.refuse stBadParam)
      | none => s) := by
  rw [exec_packetTake on served]
  exact congrArg Host.Outcome.next (if_neg (not_not.mpr here))

end

end Sys2Proof.Machine

open Sys2Proof Sys2Proof.Machine

/-- Settles O8: the packet is taken (`Work.pop_ring`), and then each of its cases answered (`exec_packetTake`). -/
theorem packetTaken : Obligations.PacketTaken := by
  intro ring s on served
  extract_lets pk s' e here
  refine ⟨⟨?_, ?_, rfl, fun j other => Work.pop_other _ other⟩, ?_, ?_, ?_, ?_, ?_⟩
  · exact congrArg Ring.taken (Work.pop_ring _ _)
  · exact congrArg Ring.sqHead (Work.pop_ring _ _)
  · intro self listed short rows
    rw [exec_packetTake_here on served self]
    dsimp only
    rw [if_neg (not_not.mpr listed), if_neg (Nat.not_lt.mpr short), show noRow (s.w.headPacket ring) = none from rows]
  · intro self short noRows
    obtain ⟨allowed, rows⟩ := Option.isSome_iff_exists.mp noRows
    rw [exec_packetTake_here on served self]
    dsimp only
    rw [if_neg (not_not.mpr (noRow_listed noRows)), if_neg (Nat.not_lt.mpr short), show noRow (s.w.headPacket ring) = some allowed from rows]
    rw [Option.getD_some]
    change Host.Outcome.next (s'.command ring allowed (fun s => s.refuse stBadParam)) = _
    split
    · next h => exact congrArg Host.Outcome.next (s'.command_allowed ring allowed _ h on)
    · next h => exact congrArg Host.Outcome.next (s'.command_refused ring allowed _ h on)
  · intro self unlisted
    rw [exec_packetTake_here on served self]
    exact congrArg Host.Outcome.next (if_pos unlisted)
  · intro self listed long
    rw [exec_packetTake_here on served self]
    exact congrArg Host.Outcome.next ((if_neg (not_not.mpr listed)).trans (if_pos long))
  · intro other known joined reachable
    rw [exec_packetTake on served]
    refine congrArg Host.Outcome.next ((if_pos other).trans ?_)
    have mapped : ¬(!bit e 63) = true := by rw [known]; decide
    have member : ¬(!s.fab.joined) = true := by rw [joined]; decide
    have path : ¬(!s.fab.reachable (bits e 9 0) 0) = true := by rw [reachable]; decide
    exact (if_neg mapped).trans ((if_neg member).trans (if_neg path))

/-- Settles O9: a reply's bytes are those of `Work.reply_entry`, and its ring moves on by `Work.replyAs_ring`. -/
theorem repliesLand : Obligations.RepliesLand := by
  refine ⟨fun ring s here up on => ?_, fun ring s on => ?_, fun ring status state result pk s here up held away => ?_⟩
  · have allowed : s.w.dev.state ∈ powered := by
      cases h : s.w.dev.state <;> simp_all [powered, started]
    refine ⟨_, congrArg Host.Outcome.next (State.command_answers allowed (by decide) (a := ⟨s, stOk, []⟩) rfl), ?_⟩
    extract_lets r pk at_ bs r'
    have entry : bs = replyBytes pk stOk s.w.dev.state.code (b2n r.phase) [] := s.w.reply_entry stOk [] here up
    have companion : (s.w.reply ring stOk []).mem.companion =
        s.w.mem.companion.write at_ (replyBytes pk stOk s.w.dev.state.code (b2n r.phase) []) := s.w.replyAs_companion ring _ _ _ here up
    have moved : r' = r.advance := s.w.replyAs_ring ring _ _ _ here
    obtain ⟨status, code⟩ := replyBytes_status_state pk (status := stOk) (by decide) s.w.dev.state.code_lt (b2n r.phase) []
    obtain ⟨tag, target, phase, rest⟩ := replyBytes_fields pk stOk s.w.dev.state.code r.phase []
    rw [entry, moved]
    refine ⟨tag, status, code, target, phase, rest, fun a out => ?_, ⟨rfl, rfl, r.advance_phase_ne⟩, Work.reply_same _ _ _ _, rfl, rfl, rfl, rfl⟩
    rw [State.reply, companion, Memory.read_write_out _ _ _ _ (by simpa using out)]
  · have allowed : s.w.dev.state ∈ powered := by
      cases h : s.w.dev.state <;> simp_all [powered, started]
    refine ⟨_, congrArg Host.Outcome.next (State.command_answers allowed (by decide) rfl), by simp, ?_⟩
    simp only [List.append_assoc, leAt_past_toLE, Nat.reduceLeDiff, Nat.reduceSub]
    refine ⟨leAt_toLE _ (by decide) (s.readReg 0).isLt, leAt_toLE _ (by decide) Config.moduleSerial.isLt, fun i booted => ?_,
      leAt_toLE_mod _ _ (by decide), ?_⟩
    · simp only [booted]
      exact leAt_toLE _ (by decide) i.version.isLt
    · cases s.pwr.clockSel <;> rfl
  · have known : s.w.dev.taken ring = pk := by rw [Dev.taken, held, Option.getD_some]
    refine ⟨{ s with w := s.w.replyAs ring status state result }, congrArg Host.Outcome.next (if_pos ⟨here, by rw [held]; rfl, by rwa [known]⟩),
      ⟨?_, s.w.replyAs_ring ring _ _ _ here⟩, Work.replyAs_same _ _ _ _ _, rfl, rfl, rfl, rfl⟩
    rw [s.w.replyAs_companion ring _ _ _ here up, known]

end

section
/-!
MAINT_QUERY, THRESHOLD_SET and the references of the bellwether (O27, O41).
-/

namespace Sys2Proof.Machine

/-! ### MAINT_QUERY and THRESHOLD_SET (R948 to R950) -/

/-- The fields of MAINT_QUERY's result. -/
theorem queryBytes_fields (a : Activity) {state : Nat} (small : state < 256) (progress count : Nat) :
    let bs := queryBytes a state progress count
    bs.length = 16 ∧ leAt bs 0 1 = a.code % 256 ∧ leAt bs 1 1 = b2n a.auto ∧ leAt bs 2 1 = state ∧ leAt bs 4 2 = a.args.unit % 65536 ∧
      leAt bs 6 2 = a.args.sub % 65536 ∧ leAt bs 8 4 = a.args.index % 2 ^ 32 ∧ leAt bs 12 2 = progress % 65536 ∧ leAt bs 14 2 = count % 65536 := by
  have four : ∀ x y z u : Byte, [x, y, z, u] = toLE 1 x.toNat ++ (toLE 1 y.toNat ++ (toLE 1 z.toNat ++ toLE 1 u.toNat)) := by simp [toLE]
  have last (n v : Nat) : leAt (toLE n v) 0 n = v % 256 ^ n := by simpa using leAt_toLE_mod (m := n) v [] le_rfl
  have auto : b2n a.auto < 256 := by cases a.auto <;> decide
  simp only [queryBytes, four, List.append_assoc, leAt_past_toLE, Nat.reduceLeDiff, Nat.reduceSub, leAt_toLE_mod, le_refl, last]
  simp [Nat.mod_eq_of_lt auto, Nat.mod_eq_of_lt small]

/-- The answer about an activity says whether it waits, runs or is pending. -/
theorem Work.queryAct_eq (w : Work) (a : Activity) : ∃ progress, w.queryAct a =
    queryBytes a (match a.state with | .waiting => 0 | .running => 1 | .pending => 2) progress w.rel.acts.length := by
  cases h : a.state with
  | waiting => exact ⟨0, by simp only [Work.queryAct, h]⟩
  | running => exact ⟨(Config.freeProgress a.code w.cad.tickCount.toNat).toNat, by simp only [Work.queryAct, h]⟩
  | pending => exact ⟨0, by simp only [Work.queryAct, h]⟩

section
variable {s : State} (ring : Nat) {slot n : Nat} (on : s.w.dev.state ∈ started)
include on

theorem exec_maintQuery_found {bs : List Byte} (known : s.w.query slot n = some bs) :
    exec (.maintQuery ring slot n) s = .next (s.reply ring stOk bs) := by
  refine congrArg Host.Outcome.next (State.command_answers on (by decide) (a := ⟨s, stOk, bs⟩) ?_)
  simp only [known]

theorem exec_maintQuery_unknown (unknown : s.w.query slot n = none) : exec (.maintQuery ring slot n) s = .next (s.reply ring stBadParam []) := by
  refine congrArg Host.Outcome.next (State.command_answers on (by decide) (a := s.refuse stBadParam) ?_)
  simp only [unknown]

end

/-! ### The bellwether's references (R109 to R117, R122) -/

/-- The cadence block after a PPS edge of a bellwether with a lock. -/
def State.edgeCad (s : State) (second : Nat) (late : Int) : Cad :=
  if s.anchors second then { s.w.cad with ppsOk := true, anchor := some second, drift := s.w.cad.drift - late, trim := 0 }
  else if s.w.cad.anchor.isSome then { s.w.cad with ppsOk := true, trim := late }
  else { s.w.cad with ppsOk := true }

section
variable {s : State} (bell : s.w.cad.bellwether = true)
include bell

theorem exec_ppsEdge (second : Nat) (late : Int) (locked : s.w.cad.lock ≠ 0) :
    exec (.ppsEdge second late) s = .next { s with w := { s.w with cad := s.edgeCad second late } } :=
  congrArg Host.Outcome.next (if_neg (not_or.mpr ⟨by simp [bell], locked⟩))

/-- The cadence block with what an IEEE 1588 message says, before the grid is aligned by it. -/
def State.ptpCad (s : State) (timeNs : Nat) (locked : Bool) (err : Int) : Cad :=
  { s.w.cad with
    ptpOk := locked
    epochNs := if locked then some (timeNs - s.pwr.nsOf (s.w.now s.w.cad.offset.toNat)) else s.w.cad.epochNs
    xherdErr := BitVec.ofInt 16 err }

theorem exec_ptpMessageReceive (timeNs : Nat) (locked : Bool) (err : Int) :
    exec (.ptpMessageReceive timeNs locked err) s = .next { s with w := { s.w with cad := s.ptpGrid (s.ptpCad timeNs locked err) } } :=
  congrArg Host.Outcome.next (if_neg (by simp [bell]))

end

/-- An edge is an anchor by R110 or by R112. -/
theorem State.anchors_iff {s : State} {second : Nat} (locked : 2 ≤ s.w.cad.lock.toNat) :
    s.anchors second = true ↔
      s.w.cad.ptpOk = true ∧ second % s.anchorSeconds = 0 ∨ s.w.cad.ptpOk = false ∧ s.w.cad.anchor = none := by
  cases h : s.w.cad.ptpOk <;> simp [State.anchors, h, locked]

/-- The grid moves only while the pulse is lost. -/
theorem State.ptpGrid_pulse (s : State) {c : Cad} (pulse : c.ppsOk = true) : s.ptpGrid c = c := by
  unfold State.ptpGrid
  split
  · exact if_neg (by simp [pulse])
  · rfl

/-- Without the pulse the grid is that of the IEEE 1588 clock. -/
theorem State.ptpGrid_alone (s : State) {c : Cad} {e : Nat} (epoch : c.epochNs = some e) (locked : c.ptpOk = true) (lost : c.ppsOk = false)
    (lock : 2 ≤ c.lock.toNat) : (s.ptpGrid c).anchor = some 0 := by
  simp [State.ptpGrid, epoch, locked, lost, lock]

/-- Aligning the grid changes the anchor, the drift and the trim alone. -/
theorem State.ptpGrid_eq (s : State) (c : Cad) : ∃ a t d, s.ptpGrid c = { c with anchor := a, trim := t, drift := d } := by
  unfold State.ptpGrid
  split
  · split <;> exact ⟨_, _, _, rfl⟩
  · exact ⟨_, _, _, rfl⟩

end Sys2Proof.Machine

open Sys2Proof Sys2Proof.Machine

/-- Settles O41: MAINT_QUERY answers with `queryBytes_fields`, and THRESHOLD_SET writes the table of thresholds at the row's key. -/
theorem maintenanceAsked : Obligations.MaintenanceAsked := by
  refine fun ring n part crit v w rate s => ⟨fun on => ⟨fun a ha => ?_, fun k hk none_active => ⟨fun r a held was => ?_, fun free => ?_⟩, fun beyond => ?_⟩,
    fun on => ⟨fun ok => ?_, fun bad => ?_⟩⟩
  · obtain ⟨progress, answer⟩ := s.w.queryAct_eq a
    have known : s.w.query 0xFFFF n = some (s.w.queryAct a) := by simp [Work.query, Rel.inProgress, ha]
    refine ⟨_, exec_maintQuery_found ring on known, ?_⟩
    obtain ⟨length, code, auto, state, unit, sub, index, -, count⟩ := queryBytes_fields a
      (state := match a.state with | .waiting => 0 | .running => 1 | .pending => 2) (by split <;> decide) progress s.w.rel.acts.length
    rw [answer]
    exact ⟨length, code, auto, state, unit, sub, index, count⟩
  · have known : s.w.query k n = some (queryBytes a 3 1024 s.w.rel.acts.length) := by
      simp [Work.query, none_active, held, was, show k ≠ 0xFFFF by omega]
    obtain ⟨-, code, -, state, -, -, -, progress, -⟩ := queryBytes_fields a (state := 3) (by decide) 1024 s.w.rel.acts.length
    exact ⟨_, exec_maintQuery_found ring on known, code, state, progress⟩
  · refine exec_maintQuery_unknown ring on ?_
    simp [Work.query, none_active, free, show k ≠ 0xFFFF by omega]
  · refine exec_maintQuery_unknown ring on ?_
    simp [Work.query, Rel.inProgress, beyond]
  · refine ⟨_, congrArg Host.Outcome.next (State.command_answers on (by decide) (if_pos ok)), ?_⟩
    have table (t : Work) (same : Work.SamePlanWork { s.w with rel := { s.w.rel with
        thresholds := mset s.w.rel.thresholds none (2 * part + crit) (some { t := v, w := 1000 * w, rate := rate }) } } t) (p q : Nat) :
        t.rel.threshold p q = (mget (mset s.w.rel.thresholds none (2 * part + crit) (some { t := v, w := 1000 * w, rate := rate })) none
          (2 * p + q)).getD (defaultThreshold p q) := by rw [same.rel]; rfl
    have same := Work.reply_same { s.w with rel := { s.w.rel with
        thresholds := mset s.w.rel.thresholds none (2 * part + crit) (some { t := v, w := 1000 * w, rate := rate }) } } ring stOk []
    refine ⟨(table _ same part crit).trans (by rw [mget_mset_same]; rfl), fun p q other => (table _ same p q).trans ?_,
      same.run, same.cores, same.hbm, rfl, rfl, rfl, rfl⟩
    rw [mget_mset_ne _ _ _ other]
    rfl
  · exact congrArg Host.Outcome.next (State.command_answers on (by decide) (a := s.refuse stBadParam) (if_neg (by simp [bad])))

/-- Settles O27: each event writes the cadence block alone. -/
theorem bellwetherAligned : Obligations.BellwetherAligned := by
  refine fun sec timeNs late err locked s bell => ⟨fun lock => ?_, fun lock => ?_, ?_, fun lock => ?_, ?_⟩
  · exact congrArg Host.Outcome.next (if_pos ⟨bell, lock⟩)
  · exact congrArg Host.Outcome.next (if_pos lock)
  · exact congrArg Host.Outcome.next (if_pos bell)
  · have isLocked : s.w.cad.lock ≠ 0 := fun h => by simp [h] at lock
    refine ⟨_, exec_ppsEdge bell sec late isLocked, ?_, fun anchor => ?_, fun other => ?_, ?_⟩
    · simp only [State.edgeCad]
      split <;> [rfl; (split <;> rfl)]
    · simp only [State.edgeCad, if_pos ((State.anchors_iff lock).mpr anchor), and_self]
    · have no : ¬s.anchors sec = true := fun h => by
        have := (State.anchors_iff lock).mp h
        grind
      simp only [State.edgeCad, if_neg no]
      split <;> exact ⟨rfl, rfl, rfl⟩
    · simp only [State.edgeCad]
      split <;> [rfl; (split <;> rfl)]
  · obtain ⟨a, t, d, aligned⟩ := s.ptpGrid_eq (s.ptpCad timeNs locked err)
    refine ⟨_, exec_ptpMessageReceive bell timeNs locked err, ?_, ?_, fun pulse => ?_, fun isLocked lost lock => ?_, ?_⟩
    · rw [aligned]
      rfl
    · rw [aligned]
      rfl
    · rw [s.ptpGrid_pulse (c := s.ptpCad timeNs locked err) pulse]
      exact ⟨rfl, rfl, rfl⟩
    · exact congrArg Option.isSome (s.ptpGrid_alone (c := s.ptpCad timeNs locked err) (if_pos isLocked) isLocked lost lock)
    · rw [aligned]
      rfl

end

section
/-!
Loss of power and resets (O21, O22).
-/

namespace Sys2Proof.Machine

/-! ### Loss of power and resets (R963, R966, R972 to R980) -/

/-- What holds of a table's default and of every value listed holds of each value read. -/
theorem mget_of_forall {α : Type} {P : α → Prop} {m : SMap α} {d : α} (none : P d) (some : ∀ x ∈ m, P x.2) (k : Nat) : P (mget m d k) := by
  unfold mget
  induction m with
  | nil => exact none
  | cons x m ih =>
    obtain ⟨a, v⟩ := x
    by_cases h : k = a
    · subst h
      simpa using some (k, v) (.head _)
    · simpa [lookup_cons_ne _ _ h] using ih (fun y hy => some y (.tail _ hy))

/-- No core keeps its local store or its work over a reset. -/
theorem Work.rebooted_core (w : Work) (warm : Bool) (k : Nat) :
    ((w.rebooted warm).core k).ls = {} ∧ ((w.rebooted warm).core k).prog = [] := by
  refine mget_of_forall (P := fun c : Core => c.ls = {} ∧ c.prog = []) ⟨rfl, rfl⟩ (fun x hx => ?_) k
  obtain ⟨c, -, rfl⟩ := List.mem_map.mp (List.mem_filter.mp hx).1
  exact ⟨rfl, rfl⟩

/-- A change of DEV_STATE.STATE in a module without a notification ring writes no memory. -/
theorem Work.setState_mem (w : Work) (st : DevState) (cause : Cause) (quiet : w.dev.noteEnable = false) : (w.setState st cause).mem = w.mem := by
  unfold Work.setState
  split
  · rfl
  · have still := congrArg Dev.noteEnable (Work.raise_notices { w with
      dev := { w.dev with prev := w.dev.state, state := st, cause := cause }, out := w.out ++ [Out.pldmEvent 20 st.code] } 2)
    rw [Work.note, if_neg (by rw [still]; simp [quiet])]
    exact Work.raise_mem _ 2

theorem Work.setState_log (w : Work) (st : DevState) (cause : Cause) :
    (w.setState st cause).dev.log = w.dev.log ∧ (w.setState st cause).dev.results = w.dev.results := by
  by_cases h : st = w.dev.state
  · rw [Work.setState, if_pos h]
    exact ⟨rfl, rfl⟩
  · rw [w.setState_dev cause h]
    exact ⟨rfl, rfl⟩

/-- The module before it enters STANDBY, with nothing to repair: memory zeroed, the link and the lane spares as they are found. -/
def Work.broughtUp (w : Work) (link : Bool) (out : List Out) : Work :=
  { w.zeroed with
    dev := { w.dev with
      linkUp := link
      zSpares := min 2 (w.rel.laneSpares.filter (fun (x : Nat × Nat) => decide (x.1 = 0xFFFF))).length }
    out := out }

/-- Steps 4 to 8 with nothing to repair. -/
theorem State.bringUp_clean_eq {s : State} {obs : BootObs} (clean : cleanBoot obs = true) (settled : s.w.rel.classPending = false) :
    ∃ out times, s.bringUp obs = { s with
      w := (s.w.broughtUp obs.linkUp out).setState .standby .command
      sec := s.sec.raised
      pwr := { s.pwr with bootTimes := times } } := by
  obtain ⟨-, -, channels, cores, banks⟩ := cleanBoot_iff.mp clean
  have no_repairs : bootRepairs obs = false := by simp [bootRepairs, channels, cores, banks]
  have tested : ((if bootRepairs obs then s.w.setState .maint .maintenance else s.w).trainHbm obs).selfTest obs = s.w.zeroed := by
    rw [if_neg (by simp [no_repairs]), s.w.trainHbm_clean channels, s.w.zeroed.selfTest_clean cores banks settled]
  refine ⟨if obs.linkUp then s.w.out else s.w.out ++ [Out.pldmEvent 21 0],
    BitVec.ofNat 64 (pack [(obs.fwMs, 16), (obs.hbmMs, 16), (obs.fabricMs, 16), (obs.standbyMs, 16)]), ?_⟩
  simp only [State.bringUp, tested]
  cases obs.linkUp <;> rfl

/-- A module that came up again after a reset from a source: STANDBY, nothing left of plans and herds, memory zeroed, the repair
record, the flash slots and the owner keys kept. -/
def State.CameUp (s : State) (obs : BootObs) (src : Nat) (t : State) : Prop :=
  t.w.dev.state = .standby ∧ t.w.plan = none ∧ t.w.run = {} ∧ t.w.cad = {} ∧ t.w.mem.hbm = {} ∧ t.w.mem.trained = true ∧
  t.w.scales = {} ∧ t.w.dev.linkUp = obs.linkUp ∧ t.w.dev.results = [] ∧ t.fab.joined = false ∧
  t.pwr.lastReset = BitVec.ofNat 2 src ∧ t.pwr.aliveN = false ∧ t.sec.bootB = s.sec.activeB ∧ t.sec.fallback = false ∧
  t.sec.keys = s.sec.keys ∧ t.sec.ownerRequire = s.sec.ownerRequire ∧ t.sec.slotA = s.sec.slotA ∧ t.sec.slotB = s.sec.slotB ∧
  t.w.rel.cls = s.w.rel.cls ∧ t.w.rel.coreMap = s.w.rel.coreMap ∧ t.w.mem.lost = s.w.mem.lost

/-- Start-up after a cold or a warm reset, where nothing fails. -/
theorem State.rebooted_comesUp {s : State} {obs : BootObs} (warm : Bool) (src : Nat) (source : (s.pwr.rebooted warm src).lastReset = BitVec.ofNat 2 src)
    (channels : s.channelsOk) (clean : cleanBoot obs = true) (active : s.sec.bootable obs s.sec.activeB = true) :
    let t := (s.rebooted warm src).startUp obs
    s.CameUp obs src t ∧ t.w.dev.log = (s.w.dev.rebooted warm).log ∧ t.w.mem.companion = s.w.mem.companion := by
  have started := State.startUp_clean (s := s.rebooted warm src) clean active (fun k hk => by cases warm <;> exact channels k hk)
  obtain ⟨out, times, up⟩ := State.bringUp_clean_eq (s := { s.rebooted warm src with
    sec := (s.rebooted warm src).sec.boots (s.rebooted warm src).sec.activeB
    pwr := { (s.rebooted warm src).pwr with aliveN := false, slotId := BitVec.ofNat 3 obs.slotId } }) clean (by cases warm <;> rfl)
  obtain ⟨r, v, raised⟩ := ((s.rebooted warm src).sec.boots (s.rebooted warm src).sec.activeB).raised_eq
  have same := Work.setState_same ((s.w.rebooted warm).broughtUp obs.linkUp out) .standby .command
  have mem := Work.setState_mem ((s.w.rebooted warm).broughtUp obs.linkUp out) .standby .command (by cases warm <;> rfl)
  obtain ⟨log, results⟩ := Work.setState_log ((s.w.rebooted warm).broughtUp obs.linkUp out) .standby .command
  have link := Work.setState_dev_linkUp ((s.w.rebooted warm).broughtUp obs.linkUp out) .standby .command
  intro t
  have work : t.w = ((s.w.rebooted warm).broughtUp obs.linkUp out).setState .standby .command := congrArg State.w (started.trans up)
  have sec : t.sec = ((s.rebooted warm src).sec.boots (s.rebooted warm src).sec.activeB).raised := congrArg State.sec (started.trans up)
  have pwr := congrArg State.pwr (started.trans up)
  have fab : t.fab = s.fab.rebooted warm := congrArg State.fab (started.trans up)
  rw [State.CameUp, work, sec, raised, fab]
  refine ⟨⟨Work.setState_dev_state _ _ _, same.plan, same.run, same.cad, congrArg MemSys.hbm mem, congrArg MemSys.trained mem, same.scales, link,
    results.trans (by cases warm <;> rfl), by cases warm <;> rfl, (congrArg Pwr.lastReset pwr).trans source, congrArg Pwr.aliveN pwr, rfl, ?_,
    rfl, rfl, rfl, rfl, ?_, ?_, ?_⟩, log, (congrArg MemSys.companion mem).trans ?_⟩
  · exact decide_eq_false (not_not.mpr rfl)
  · rw [same.rel]
    cases warm <;> rfl
  · rw [same.rel]
    cases warm <;> rfl
  · rw [mem]
    cases warm <;> rfl
  · cases warm <;> rfl

/-- A reply logs nothing. -/
theorem Work.reply_log (w : Work) (ring status : Nat) (result : List Byte) : (w.reply ring status result).dev.log = w.dev.log := by
  have link (v : Work) (addr : Nat) (bs : List Byte) : (v.linkWrite addr bs).dev.log = v.dev.log := by
    unfold Work.linkWrite
    split <;> rfl
  unfold Work.reply Work.replyAs
  extract_lets
  split
  · exact link _ _ _
  · rfl

/-- Start-up without a slot that passes ends in FAULT. -/
theorem State.startUp_unbootable {s : State} {obs : BootObs} (none : s.sec.bootSlot obs = none) : (s.startUp obs).w.dev.state = .fault := by
  rw [State.startUp, none]
  exact Work.setState_dev_state _ _ _

end Sys2Proof.Machine

open Sys2Proof Sys2Proof.Machine

/-- Settles O22: both leave the module as it is before power-good, but OFF. -/
theorem powerLost : Obligations.PowerLost := by
  intro s on c hc
  have run : exec c s = .next (s.powerDown false) := by
    rcases List.mem_pair.mp hc with rfl | rfl
    · exact congrArg Host.Outcome.next (if_neg on)
    · exact congrArg Host.Outcome.next (if_neg on)
  exact ⟨_, run, rfl, rfl, rfl, rfl, rfl, s.w.rebooted_core false, rfl, rfl, rfl, rfl, rfl, rfl, rfl, rfl, rfl, rfl, rfl, rfl⟩

/-- Settles O21: every reset leaves the module to `State.rebooted_comesUp`, or to `State.startUp_unbootable`. -/
theorem resets : Obligations.Resets := by
  refine fun ring obs s channels => ⟨fun clean active => ⟨fun off => ?_, fun on => ?_, fun allowed => ?_⟩, fun none => ⟨fun off => ?_, fun on => ?_⟩⟩
  · obtain ⟨came, log, companion⟩ := State.rebooted_comesUp false 0 rfl channels clean active
    exact ⟨_, congrArg Host.Outcome.next (if_pos off), came, log, companion⟩
  · obtain ⟨came, log, companion⟩ := State.rebooted_comesUp true 2 rfl channels clean active
    exact ⟨_, congrArg Host.Outcome.next (if_neg on), came, log, companion⟩
  · have replied := Work.reply_same s.w ring stOk []
    obtain ⟨came, log, companion⟩ := State.rebooted_comesUp (s := s.reply ring stOk []) true 1 rfl
      (State.channelsOk_of_same replied channels) clean active
    have run : exec (.devReset ring obs) s = .next ((s.reply ring stOk []).warmReset 1 obs) := by
      refine congrArg Host.Outcome.next ((if_pos allowed).trans (congrArg (State.warmReset · 1 obs) ?_))
      exact State.command_answers allowed (by decide) (a := ⟨s, stOk, []⟩) rfl
    have cls : (s.w.reply ring stOk []).rel.cls = s.w.rel.cls := by rw [replied.rel]
    have coreMap : (s.w.reply ring stOk []).rel.coreMap = s.w.rel.coreMap := by rw [replied.rel]
    have lost : (s.w.reply ring stOk []).mem.lost = s.w.mem.lost := by rw [replied.mem]
    refine ⟨_, run, ?_, log.trans (Work.reply_log _ _ _ _), companion⟩
    simp only [State.CameUp, State.reply, cls, coreMap, lost] at came
    exact came
  · exact ⟨_, congrArg Host.Outcome.next (if_pos off), State.startUp_unbootable (s := s.rebooted false 0) none⟩
  · exact ⟨_, congrArg Host.Outcome.next (if_neg on), State.startUp_unbootable (s := s.rebooted true 2) none⟩

end

section
/-!
Temperature (O23).
-/

namespace Sys2Proof.Machine

/-! ### A temperature sample (R988 to R1001) -/

/-- Each of the first keys of a table changed once. -/
theorem mget_foldl_mmod {α : Type} [DecidableEq α] (d : α) (f : Nat → α → α) (m : SMap α) (n j : Nat) :
    mget ((List.range n).foldl (fun m k => mmod m d k (f k)) m) d j = if j < n then f j (mget m d j) else mget m d j := by
  induction n with
  | zero => rfl
  | succ n ih =>
    rw [List.range_succ, List.foldl_append, List.foldl_cons, List.foldl_nil]
    by_cases last : j = n
    · subst last
      rw [mget_mmod_same, ih, if_neg (lt_irrefl j), if_pos (Nat.lt_succ_self j)]
    · rw [mget_mmod_ne _ _ _ last, ih]
      simp only [Nat.lt_succ_iff, Nat.lt_iff_le_and_ne.trans (and_iff_left last)]

/-- Each stack shows its temperature, and its channels stay. -/
theorem State.sample_stack (s : State) (x : Sensors) {k : Nat} (h : k < 12) :
    ((s.sample x).w.mem.stack k).temp = BitVec.ofNat 8 (x.stackTemps.getD k 0) ∧
      ((s.sample x).w.mem.stack k).active = (s.w.mem.stack k).active := by
  unfold State.sample MemSys.stack
  simp only [mget_foldl_mmod, if_pos h, true_and]

/-- Messages to the outside, in the same state of the device. -/
def Work.Notices (w v : Work) : Prop := w.SamePlanWork v ∧ v.dev.state = w.dev.state

theorem Work.notices_if (w : Work) {p : Prop} [Decidable p] (kind sev unit sub idx addr data : Nat) :
    w.Notices (if p then w.event kind sev unit sub idx addr data else w) := by
  split
  · exact ⟨Work.event_same _ _ _ _ _ _ _ _, Work.event_dev_state _ _ _ _ _ _ _ _⟩
  · exact ⟨.refl w, rfl⟩

theorem Work.Notices.trans {a b c : Work} (h : a.Notices b) (k : b.Notices c) : a.Notices c := ⟨h.1.trans k.1, k.2.trans h.2⟩

/-- The power block with its warnings. -/
def Pwr.warned (p : Pwr) (x : Sensors) : Pwr := { p with warn := decide (0 < heat x), inletHigh := decide (35 < x.inlet) }

/-- Warnings set their flags, and log what begins. -/
theorem State.warnings_eq (s : State) (x : Sensors) : ∃ v : Work, s.w.Notices v ∧ s.warnings x = { s with w := v, pwr := s.pwr.warned x } :=
  ⟨_, (Work.notices_if _ _ _ _ _ _ _ _).trans (Work.notices_if _ _ _ _ _ _ _ _), rfl⟩

/-- The power block after a sample is tested for an emergency. -/
def Pwr.tested (p : Pwr) (x : Sensors) (running : Bool) : Pwr :=
  let em : Bool := decide (2 ≤ heat x)
  let begins := em && !p.emergency
  { p with emergency := em, emergencySeen := p.emergencySeen || begins
           emergencies := if begins then p.emergencies + 1 else p.emergencies
           paused := if em && !running then true else if isWarm x then p.paused else false }

/-- What an emergency stops. -/
def Work.tested (v : Work) (x : Sensors) : Work :=
  if 2 ≤ heat x ∧ v.stepping ∧ v.dev.state = .running then { v with run := { v.run with thermalStop := true, wantStop := true } }
  else if 2 ≤ heat x ∧ v.dev.state = .loaded then
    { v with run := { v.run with thermalStop := true, wantStop := true } }.setState .held .thermal
  else v

/-- An emergency: logged when it begins, and a stop owed or HELD entered. -/
theorem State.emergency_eq (s : State) (x : Sensors) : ∃ v : Work, s.w.Notices v ∧
    s.emergency x = { s with w := v.tested x, pwr := s.pwr.tested x (decide (s.w.dev.state = .running)) } := by
  refine ⟨if decide (2 ≤ heat x) && !s.pwr.emergency then s.w.event 0x000E 0 0xFFFF 0 0 0 ((dieTemps x ++ [hottest x]).foldl max 0) else s.w,
    Work.notices_if _ _ _ _ _ _ _ _, ?_⟩
  unfold State.emergency Pwr.tested Work.tested
  generalize (dieTemps x ++ [hottest x]).foldl max 0 = hot
  generalize heat x = h
  generalize isWarm x = warm
  have state := (s.w.notices_if (p := (decide (2 ≤ h) && !s.pwr.emergency) = true) 0x000E 0 0xFFFF 0 0 0 hot).2
  simp only [decide_eq_true_eq, decide_not, state]

/-- A sample taken, its warnings logged and tested for an emergency. -/
theorem State.sampled_eq (s : State) (x : Sensors) : ∃ u : Work, (s.sample x).w.Notices u ∧
    ((s.sample x).warnings x).emergency x = { s.sample x with
      w := u.tested x
      pwr := ((s.sample x).pwr.warned x).tested x (decide (s.w.dev.state = .running)) } := by
  obtain ⟨v, warned, warnings⟩ := (s.sample x).warnings_eq x
  obtain ⟨u, logged, emergency⟩ := State.emergency_eq { s.sample x with w := v, pwr := (s.sample x).pwr.warned x } x
  have state : v.dev.state = s.w.dev.state := warned.2
  exact ⟨u, warned.trans logged, by rw [warnings, emergency, state]⟩

/-- A sample changes the registers that show it, and messages. -/
theorem State.sample_rest (s : State) (x : Sensors) :
    (s.sample x).w.dev = s.w.dev ∧ (s.sample x).w.run = s.w.run ∧ (s.sample x).w.mem.hbm = s.w.mem.hbm ∧
      (s.sample x).w.cores = s.w.cores ∧ (s.sample x).w.plan = s.w.plan ∧ (s.sample x).w.cad = s.w.cad ∧
      (s.sample x).fab = s.fab ∧ (s.sample x).sec = s.sec := by
  unfold State.sample
  extract_lets
  exact ⟨rfl, rfl, rfl, rfl, rfl, rfl, rfl, rfl⟩

/-- The registers that show a sample, and the emergency flags that it leaves. -/
theorem State.sample_pwr (s : State) (x : Sensors) :
    (s.sample x).pwr.dies = BitVec.ofNat 64 (packTemps x) ∧ (s.sample x).pwr.voltMv = BitVec.ofNat 16 x.voltMv ∧
      (s.sample x).pwr.current = BitVec.ofNat 16 x.current ∧ (s.sample x).pwr.emergency = s.pwr.emergency ∧
      (s.sample x).pwr.emergencySeen = s.pwr.emergencySeen := by
  unfold State.sample
  extract_lets
  exact ⟨rfl, rfl, rfl, rfl, rfl⟩

/-- The registers of the power block after a sample has been tested. -/
theorem Pwr.sampled (p : Pwr) (x : Sensors) (running : Bool) :
    let q := (p.warned x).tested x running
    q.dies = p.dies ∧ q.voltMv = p.voltMv ∧ q.current = p.current ∧ q.warn = decide (0 < heat x) ∧ q.inletHigh = decide (35 < x.inlet) ∧
      q.emergency = decide (2 ≤ heat x) ∧ q.emergencySeen = (p.emergencySeen || (decide (2 ≤ heat x) && !p.emergency)) ∧
      (2 ≤ heat x → running = false → q.paused = true) := by
  unfold Pwr.tested Pwr.warned
  generalize heat x = h
  exact ⟨rfl, rfl, rfl, rfl, rfl, rfl, rfl, fun hot still => by simp [hot, still]⟩

end Sys2Proof.Machine

open Sys2Proof Sys2Proof.Machine

/-- Settles O23: a sample is taken, its warnings are logged, and then it is tested for an emergency (`State.sampled_eq`). -/
theorem temperatureSampled : Obligations.TemperatureSampled := by
  intro x s on
  obtain ⟨u, ⟨same, state⟩, sampled⟩ := s.sampled_eq x
  obtain ⟨dev, runs, hbm, cores, plan, cad, fab, sec⟩ := s.sample_rest x
  obtain ⟨dies, volts, current, before, seenBefore⟩ := s.sample_pwr x
  obtain ⟨dies', volts', current', warn, inlet, emergency, seen, paused⟩ := (s.sample x).pwr.sampled x (decide (s.w.dev.state = .running))
  have stack := @State.sample_stack s x
  have run : ¬3 ≤ heat x → exec (.tempSample x) s = _ :=
    fun cold => congrArg Host.Outcome.next ((if_neg on).trans ((if_neg cold).trans sampled))
  have trips : 3 ≤ heat x → exec (.tempSample x) s = .next ((((s.sample x).warnings x).emergency x).powerDown true) :=
    fun trip => congrArg Host.Outcome.next ((if_neg on).trans (if_pos trip))
  have state' : u.dev.state = s.w.dev.state := state.trans (congrArg Dev.state dev)
  have kept : u.run = s.w.run := same.run.trans runs
  have stops : u.tested x = if 2 ≤ heat x ∧ u.stepping ∧ u.dev.state = .running then _ else if 2 ≤ heat x ∧ u.dev.state = .loaded then _ else u := rfl
  generalize ((s.sample x).warnings x).emergency x = hot at trips
  generalize ((s.sample x).pwr.warned x).tested x (decide (s.w.dev.state = .running)) = p at *
  generalize s.sample x = r at *
  generalize u.tested x = v at *
  generalize heat x = h at *
  refine ⟨fun cool => ?_, fun warm running step => ?_, fun warm loaded => ?_, fun trip => ⟨_, trips trip, rfl, rfl, rfl, rfl⟩⟩
  · rw [if_neg (fun q => absurd q.1 (by omega)), if_neg (fun q => absurd q.1 (by omega))] at stops
    subst stops
    refine ⟨_, run (by omega), state', kept, dies'.trans dies, volts'.trans volts, current'.trans current, warn, inlet,
      emergency.trans (decide_eq_false (by omega)), fun k hk => ?_, same.hbm.trans hbm, same.cores.trans cores, same.plan.trans plan,
      same.cad.trans cad, fab, sec⟩
    have shows : v.mem.stack k = r.w.mem.stack k := by rw [MemSys.stack, same.mem, MemSys.stack]
    exact shows ▸ stack hk
  · rw [if_pos ⟨by omega, by rwa [Work.stepping, kept], state'.trans running⟩, kept] at stops
    subst stops
    refine ⟨_, run (by omega), state'.trans running, rfl, emergency.trans (decide_eq_true (by omega)), seen.trans ?_⟩
    rw [decide_eq_true (by omega : 2 ≤ h), Bool.true_and, seenBefore, before]
  · rw [if_neg (fun q => by simp [state', loaded] at q), if_pos ⟨by omega, state'.trans loaded⟩] at stops
    subst stops
    have entered : DevState.held ≠ u.dev.state := by simp [state', loaded]
    have dev := Work.setState_dev { u with run := { u.run with thermalStop := true, wantStop := true } } .thermal entered
    exact ⟨_, run (by omega), Work.setState_dev_state _ _ _, congrArg Dev.cause dev, (congrArg Dev.prev dev).trans (state'.trans loaded),
      fun _ => paused (by omega) (decide_eq_false (by simp [loaded]))⟩

end

section
/-!
Cadence lock (O25).
-/

namespace Sys2Proof.Machine

/-! ### Cadence lock (R106 to R108, R162, R892) -/

/-- A counter that cadence lock clears. -/
theorem Core.clearCadence_counts (c : Core) {k : Ctr}
    (cleared : k ∈ [Ctr.slip, .elasticIdle, .idleReplay, .idleMaint, .idleHost, .idleSlip, .idlePeer, .idleCadence]) :
    mget c.clearCadence.counts 0 k.off = 0 := by
  rw [Core.clearCadence, ← List.foldl_map (f := Ctr.off) (g := fun m i => mset m 0 i 0)]
  refine (mget_foldl_mset id 0 0 k.off _ _).trans (if_pos ?_)
  rw [List.map_id]
  exact List.mem_map_of_mem cleared

/-- The work state at lock, before JOINED is entered. -/
def State.lockWork (s : State) (dmax delay : Nat) (err : Int) : Work :=
  { s.w.mapCores (fun _ x => x.clearCadence) with
    cad := s.lockCad dmax delay err, run := {}, dev := { s.w.dev with forming := none } }

section
variable {s : State} {k : Nat} {r : RSlot} (joining : s.w.cad.lock = 1) (forming : s.w.dev.forming = some k)
include joining forming

theorem exec_cadenceLock (dmax delay : Nat) (err : Int) (standby : s.w.dev.state = .standby) :
    exec (.cadenceLock dmax delay err) s = .next (State.finish { s with
      fab := { s.fab with joined := true }
      w := (s.lockWork dmax delay err).setState .joined .command } k stOk []) := by
  refine congrArg Host.Outcome.next ((if_neg (by simp [joining, standby])).trans ?_)
  have kept : (s.w.mapCores (fun _ x => x.clearCadence)).dev.forming = some k := forming
  simp only [kept]
  rfl

/-- The work state after a herd has not formed in time. -/
def State.unformed (s : State) : Work :=
  { s.w with
    cad := { s.w.cad with lock := 0, bellwether := false, ppsOk := false, ptpOk := false, anchor := none, epochNs := none, beatPort := none }
    dev := { s.w.dev with forming := none } }

theorem exec_herdFormTimeout : exec .herdFormTimeout s = .next (State.finish { s with w := s.unformed } k stPeerLost []) := by
  refine congrArg Host.Outcome.next ((if_neg (by simp [joining])).trans ?_)
  simp only [forming]
  rfl

end

end Sys2Proof.Machine

open Sys2Proof Sys2Proof.Machine

/-- Settles O25: the slot of HERD_FORM finishes behind the lock (`exec_cadenceLock`) or behind the timeout (`exec_herdFormTimeout`). -/
theorem cadenceLocked : Obligations.CadenceLocked := by
  refine fun dmax delay k err r s joining standby forming held => ⟨?_, ?_⟩
  · have same := (Work.setState_same (s.lockWork dmax delay err) .joined .command).trans (Work.finish_same _ k stOk [])
    obtain ⟨-, results⟩ := Work.setState_log (s.lockWork dmax delay err) .joined .command
    refine ⟨_, exec_cadenceLock joining forming dmax delay err standby, ?_⟩
    rw [State.finish, same.cad]
    refine ⟨rfl, rfl, rfl, rfl, rfl, rfl, rfl, rfl, ?_, rfl, fun c hc => ?_, ?_, same.hbm, Sec.countAuth_other s.sec (status := stOk) (by decide), rfl⟩
    · simp
    · have cleared : ((((s.lockWork dmax delay err).setState .joined .command).finish k stOk []).core c) = (s.w.core c).clearCadence :=
        (Work.core_congr same.cores c).trans (s.w.mapCores_core _ hc)
      rw [cleared]
      exact ⟨Core.clearCadence_counts _ (by decide), Core.clearCadence_counts _ (by decide)⟩
    · exact (Work.finish_results _ k stOk [] r ((congrArg (mget · none k) results).trans held)).1
  · have same := Work.finish_same s.unformed k stPeerLost []
    refine ⟨_, exec_herdFormTimeout joining forming, ?_⟩
    rw [State.finish, same.cad]
    refine ⟨rfl, ?_, ?_, (Work.finish_results s.unformed k stPeerLost [] r held).1, same.hbm, same.cores, rfl, rfl, rfl, Sec.countAuth_other s.sec (status := stPeerLost) (by decide)⟩
    · simpa [State.unformed] using standby
    · simp [State.unformed]

end

section
/-!
Timing blocks (O28).
-/

namespace Sys2Proof.Machine

/-! ### Timing blocks received (R750 to R753) -/

/-- A core beyond the class is not changed with the others. -/
theorem Work.mapCores_beyond (w : Work) (f : Nat → Core → Core) {c : Nat} (h : w.rel.cls ≤ c) : (w.mapCores f).core c = w.core c := by
  have none (n : Nat) (g : Nat → Core) (p : Nat × Core → Bool) (hn : n ≤ c) : (((List.range n).map (fun k => (k, g k))).filter p).lookup c = none := by
    rw [List.lookup_eq_none_iff]
    intro x hx
    obtain ⟨k, hk, rfl⟩ := List.mem_map.mp (List.mem_filter.mp hx).1
    have := List.mem_range.mp hk
    simp
    omega
  have rest := lookup_filter_pos w.cores (fun k => decide (w.rel.cls ≤ k)) c (by simpa using h)
  simp only [Work.mapCores, Work.core, mget, lookup_append, none _ _ _ h, Option.none_or, rest]

/-- Every core is changed or stays. -/
theorem Work.mapCores_core_or (w : Work) (f : Nat → Core → Core) (c : Nat) :
    (w.mapCores f).core c = f c (w.core c) ∨ (w.mapCores f).core c = w.core c :=
  (Nat.lt_or_ge c w.rel.cls).imp (w.mapCores_core f) (w.mapCores_beyond f)

/-- A stop learnt of changes the counts of idle clk of a core, and those held aside, alone. -/
theorem Work.stopFrom_core (w : Work) (origin c : Nat) : ∃ counts aside idled,
    (w.stopFrom origin).core c = { w.core c with counts := counts, aside := aside, idled := idled } := by
  unfold Work.stopFrom
  dsimp only
  split
  · next t _ =>
    rcases Work.mapCores_core_or _ (fun _ c => c.pullBack t) c with h | h
    · exact ⟨_, _, _, h⟩
    · exact ⟨_, _, _, h⟩
  · exact ⟨_, _, _, rfl⟩

section
variable {port kind : Nat} {b : W128} {s : State}

/-- A block whose CRC is wrong is dropped. -/
theorem State.onBlock_bad (kind : Nat) (act : Work → Work) (bad : blockOk b = false) : s.onBlock port kind b act = s :=
  if_neg (by simp [bad])

variable (good : blockOk b = true) (known : blockKind b = kind) (works : (s.fab.port port).working = true) (locked : 2 ≤ s.w.cad.lock.toNat)
include good known works locked

/-- A good block of a kind on a working port of a locked herd. -/
theorem State.onBlock_good (act : Work → Work) : s.onBlock port kind b act = { s with w := act s.w } :=
  if_pos ⟨good, known, works, locked⟩

/-- One from the bellwether, on the beat port. -/
theorem State.fromBell_good (act : Work → Work) (beat : s.w.cad.beatPort = some port) (other : s.w.cad.bellwether = false) :
    s.fromBell port kind b act = { s with w := (act s.w).spread b } := by
  rw [State.fromBell, State.onBlock_good good known works locked, if_pos ⟨beat, by simp [other]⟩]

end

/-- The herd tick that a block of 24 bits names. -/
theorem Work.tickAfter_spec (w : Work) {t : Nat} (h : t < 2 ^ 24) :
    w.tickAfter t % 2 ^ 24 = t ∧ w.cad.tickCount.toNat ≤ w.tickAfter t ∧ w.tickAfter t < w.cad.tickCount.toNat + 2 ^ 24 := by
  unfold Work.tickAfter
  dsimp only
  have split := Nat.div_add_mod w.cad.tickCount.toNat (2 ^ 24)
  have small := Nat.mod_lt w.cad.tickCount.toNat (Nat.two_pow_pos 24)
  generalize w.cad.tickCount.toNat % 2 ^ 24 = r at *
  generalize w.cad.tickCount.toNat / 2 ^ 24 = q at *
  rw [← split]
  rcases Nat.lt_or_ge t r with before | after
  · rw [Nat.mod_eq_of_lt (by omega : t + 2 ^ 24 - r < 2 ^ 24), show 2 ^ 24 * q + r + (t + 2 ^ 24 - r) = t + 2 ^ 24 * (q + 1) by omega,
      Nat.add_mul_mod_self_left, Nat.mod_eq_of_lt h]
    omega
  · rw [show t + 2 ^ 24 - r = t - r + 2 ^ 24 by omega, Nat.add_mod_right, Nat.mod_eq_of_lt (by omega : t - r < 2 ^ 24),
      show 2 ^ 24 * q + r + (t - r) = t + 2 ^ 24 * q by omega, Nat.add_mul_mod_self_left, Nat.mod_eq_of_lt h]
    omega

theorem blockTick_lt (b : W128) : blockTick b < 2 ^ 24 := Nat.mod_lt _ (by decide)

end Sys2Proof.Machine

open Sys2Proof Sys2Proof.Machine

/-- Settles O28: a good block is acted on (`State.onBlock_good`, `State.fromBell_good`), a bad one dropped (`State.onBlock_bad`). -/
theorem timingBlocks : Obligations.TimingBlocks := by
  intro port b s works locked
  extract_lets spread
  refine ⟨fun good => ⟨fun beat other => ⟨fun kind => ?_, fun kind => ?_, fun kind => ?_⟩, fun kind bell going => ?_, fun kind other => ?_,
    fun kind way => ?_⟩, fun bad c hc => ?_⟩
  · exact congrArg Host.Outcome.next (State.fromBell_good good kind works locked id beat other)
  · exact congrArg Host.Outcome.next (State.fromBell_good good kind works locked _ beat other)
  · exact ⟨_, congrArg Host.Outcome.next (State.fromBell_good good kind works locked _ beat other), s.w.tickAfter_spec (blockTick_lt b)⟩
  · refine congrArg Host.Outcome.next ((State.onBlock_good good kind works locked _).trans ?_)
    rw [if_pos bell, Run.takeHold, if_pos going]
  · refine congrArg Host.Outcome.next ((State.onBlock_good good kind works locked _).trans ?_)
    rw [if_neg (by simp [other])]
    rfl
  · obtain ⟨o, cs, stopped, -, earliest⟩ := s.w.stopFrom_eq (s.w.tickBefore (blockTick b))
    refine ⟨_, o, congrArg Host.Outcome.next (State.onBlock_good good kind works locked _), ?_⟩
    rw [if_pos way, stopped]
    refine ⟨rfl, rfl, earliest, rfl, fun c => ?_⟩
    obtain ⟨counts, aside, idled, core⟩ := s.w.stopFrom_core (s.w.tickBefore (blockTick b)) c
    rw [stopped] at core
    have shown : (Work.spread { s.w with cad := { s.w.cad with stopPending := true }, run := { s.w.run with stopOrigin := some o }, cores := cs } b).core c =
        { s.w.core c with counts := counts, aside := aside, idled := idled } := core
    rw [shown]
  · simp only [List.mem_cons, List.not_mem_nil, or_false] at hc
    rcases hc with rfl | rfl | rfl | rfl | rfl
    all_goals exact congrArg Host.Outcome.next (State.onBlock_bad _ _ bad)

end

section
/-!
Tick boundaries (O29).
-/

namespace Sys2Proof.Machine

/-! ### The tick boundary (R94, R100, R132, R139, R142) -/

/-- Two work states that agree in the memory, the device block, the plan, its scales and sequences, and in the work of every core. -/
structure Work.TickFrame (w v : Work) : Prop where
  mem : v.mem = w.mem
  dev : v.dev = w.dev
  plan : v.plan = w.plan
  scales : v.scales = w.scales
  cum : v.cum = w.cum
  core : ∀ c, (v.core c).prog = (w.core c).prog ∧ (v.core c).ls = (w.core c).ls ∧ (v.core c).cells = (w.core c).cells

theorem Work.TickFrame.trans {a b c : Work} (h : a.TickFrame b) (k : b.TickFrame c) : a.TickFrame c where
  mem := k.mem.trans h.mem
  dev := k.dev.trans h.dev
  plan := k.plan.trans h.plan
  scales := k.scales.trans h.scales
  cum := k.cum.trans h.cum
  core n := ⟨(k.core n).1.trans (h.core n).1, (k.core n).2.1.trans (h.core n).2.1, (k.core n).2.2.trans (h.core n).2.2⟩

theorem Work.tickFrame_rest (w : Work) (cad : Cad) (run : Run) (out : List Out) : w.TickFrame { w with cad := cad, run := run, out := out } :=
  ⟨rfl, rfl, rfl, rfl, rfl, fun _ => ⟨rfl, rfl, rfl⟩⟩

/-- The work state of a tick that ends. -/
def State.ended (s : State) : Work :=
  { s.w with
    cad := { s.w.cad with
      tickCount := s.w.cad.tickCount + 1, offset := 0, time := s.w.cad.time + (s.w.period + s.w.run.stretch)
      drift := s.w.cad.drift + s.w.run.stretch
      stretchCount := s.w.cad.stretchCount + BitVec.ofNat 64 (if s.w.run.stretch = 0 then 0 else 1)
      stretchClk := s.w.cad.stretchClk + BitVec.ofNat 64 s.w.run.stretch }
    run := { s.w.run with
      applied := s.w.run.applied + s.w.run.stretch
      step := s.w.run.step.map (fun x => { x with stretchClk := x.stretchClk + s.w.run.stretch }) }
    rel := s.w.rel.advance (s.w.period + s.w.run.stretch) s.pwr.clkPerMs
    cores := (s.w.idleAll (s.w.cad.time + (s.w.period + s.w.run.stretch))).cores }

theorem State.endTick_eq (s : State) : s.endTick = { s with w := s.ended } := rfl

/-- Counting idle clk leaves the work of the cores. -/
theorem State.ended_frame (s : State) : s.w.TickFrame s.ended := by
  refine ⟨rfl, rfl, rfl, rfl, rfl, fun c => ?_⟩
  have core : (s.ended).core c = (s.w.idleAll (s.w.cad.time + (s.w.period + s.w.run.stretch))).core c := rfl
  rw [core]
  rcases s.w.mapCores_core_or (fun c x => s.w.idleUp c (s.w.cad.time + (s.w.period + s.w.run.stretch)) x) c with h | h
  · rw [Work.idleAll, h, (s.w.idleUp_sameButIdle c _ _).eq]
    exact ⟨rfl, rfl, rfl⟩
  · rw [Work.idleAll, h]
    exact ⟨rfl, rfl, rfl⟩

/-- Sampling the lag writes CAD_LAG_MAX alone. -/
theorem Work.sampleLag_eq (w : Work) : ∃ m, w.sampleLag = { w with cad := { w.cad with lagMax := m } } := by
  unfold Work.sampleLag
  split
  · split <;> exact ⟨_, rfl⟩
  · exact ⟨_, rfl⟩

/-- A hold is counted, and held or sent on. -/
theorem Work.raiseHold_eq (w : Work) (q : Nat) : ∃ xs o, w.raiseHold q =
    { w with cad := { w.cad with holdCount := w.cad.holdCount + 1 }, run := { w.run with holds := xs }, out := o } := by
  unfold Work.raiseHold
  extract_lets
  split <;> exact ⟨_, _, rfl⟩

/-- The hold for the requests of R132 and R985, where there is one. -/
def Work.holdFor (w : Work) (q qp : Option Nat) : Work :=
  match q, qp with
  | none, none => w
  | _, _ => w.raiseHold (max (q.getD 0) (qp.getD 0))

theorem Work.holdFor_eq (w : Work) (q qp : Option Nat) : ∃ n xs o, w.holdFor q qp =
    { w with cad := { w.cad with holdCount := n }, run := { w.run with holds := xs }, out := o } := by
  unfold Work.holdFor
  split
  · exact ⟨_, _, _, rfl⟩
  · obtain ⟨xs, o, h⟩ := w.raiseHold_eq (max (q.getD 0) (qp.getD 0))
    exact ⟨_, xs, o, h⟩

/-- What a member does at offset 0 of a step tick: a hold at most, and the counts of caps. -/
theorem State.stepTick_eq (s : State) (p : Plan) (energy d : Nat) : ∃ n xs o q, s.stepTick p energy d =
    { s with w := { s.w with cad := { s.w.cad with holdCount := n }, run := { s.w.run with holds := xs }, out := o }, pwr := q } := by
  unfold State.stepTick
  extract_lets w l slack x q qp pwr pwr' larger w'
  obtain ⟨n, xs, o, held⟩ := w.holdFor_eq q qp
  have hold : w' = w.holdFor q qp := rfl
  exact ⟨n, xs, o, _, by rw [hold, held]⟩

theorem ceilDiv_zero (n : Nat) : ceilDiv 0 n = 0 := by
  rcases n with _ | n
  · rfl
  · exact Nat.div_eq_of_lt (by omega)

/-- A bellwether whose lag exceeds the slack holds the request of R132, where no cap adds to it. -/
theorem State.stepTick_holds (s : State) (p : Plan) (d : Nat) (bell : s.w.cad.bellwether = true) (late : s.w.cad.slackClk.toNat < s.w.lag p) :
    (s.stepTick p 0 d).w.run.holds = s.w.run.holds ++ [(s.w.run.tick.toNat, s.w.run.applied +
      ceilDiv (s.w.lag p - s.w.cad.slackClk.toNat) s.w.cad.slackClk.toNat * s.w.cad.slackClk.toNat)] := by
  have drawn : capExcess s.pwr.clockSel 0 (p.capAt (s.w.run.tick.toNat - 1)) d = 0 := by
    simp [capExcess, ceilDiv_zero]
  simp only [State.stepTick, drawn, lagRequest, capRequest, if_pos late, lt_irrefl, if_false, Option.getD_some, Option.getD_none,
    Nat.max_zero, Work.raiseHold, if_pos bell]

/-- The state in which a tick ends: the row remaps whose copy is complete are due. -/
def State.tickEnds (s : State) : State := { s with w := { s.w with mem := s.w.mem.remapsDue } }

/-- The work state of the tick that begins, before its lag is sampled. -/
def State.tickOpens (s : State) : Work :=
  if s.tickEnds.w.stopDue then { s.tickEnds.ended with run := { s.tickEnds.ended.run with counting := false } } else s.tickEnds.ended.nextTick

/-- The state at offset 0 of the next tick, before its holds. -/
def State.tickSampled (s : State) (energy : Nat) : State :=
  { s.tickEnds with
    w := s.tickOpens.sampleLag
    pwr := { s.pwr with lastTickW := BitVec.ofNat 12 (tickWatts s.pwr.clockSel energy (s.w.period + s.w.run.stretch)) } }

/-- The state at offset 0 of the next tick, before a stop that is owed is raised. -/
def State.tickBegun (s : State) (energy : Nat) : State :=
  match (s.tickSampled energy).w.plan with
  | some p =>
    if (s.tickSampled energy).w.run.counting then (s.tickSampled energy).stepTick p energy (s.w.period + s.w.run.stretch)
    else s.tickSampled energy
  | none => s.tickSampled energy

theorem exec_tickBoundary {s : State} (energy : Nat) (locked : 2 ≤ s.w.cad.lock.toNat) (on : s.w.dev.state ≠ .off) :
    exec (.tickBoundary energy) s = .next (s.tickBegun energy).raiseStop :=
  congrArg Host.Outcome.next ((if_neg on).trans (if_neg (by omega)))

/-- The step tick counts on while a step runs, unless tick t + H of a stop has ended. -/
theorem State.tickOpens_eq (s : State) :
    let on := decide (s.w.dev.state = .running) && s.w.run.step.isSome && !s.w.stopDue
    s.tickOpens = { s.tickEnds.ended with
      run := { s.tickEnds.ended.run with counting := on, tick := if on then s.w.run.tick + 1 else s.w.run.tick } } := by
  intro on
  by_cases due : s.w.stopDue = true
  · have off : on = false := by simp [on, due]
    rw [off]
    exact if_pos due
  · refine (if_neg due).trans ?_
    by_cases going : s.w.dev.state = .running ∧ s.w.run.step.isSome = true
    · have counts : on = true := by simp [on, due, going.1, going.2]
      rw [counts]
      exact if_pos ⟨going.1, by simp [State.ended, State.tickEnds, going.2]⟩
    · have off : on = false := by simpa [on, due] using going
      rw [off]
      exact if_neg (fun h => going ⟨h.1, by simpa [State.ended, State.tickEnds] using h.2⟩)

/-- What the holds of a tick begin from. -/
theorem State.tickSampled_spec (s : State) (energy : Nat) :
    let t := s.tickSampled energy
    t.w.plan = s.w.plan ∧ t.w.run.counting = (decide (s.w.dev.state = .running) && s.w.run.step.isSome && !s.w.stopDue) ∧
      t.w.cad.bellwether = s.w.cad.bellwether ∧ t.w.run.holds = s.w.run.holds := by
  intro t
  obtain ⟨m, sampled⟩ := s.tickOpens.sampleLag_eq
  have begun : t.w = { s.tickOpens with cad := { s.tickOpens.cad with lagMax := m } } := sampled
  rw [begun, s.tickOpens_eq]
  exact ⟨rfl, rfl, rfl, rfl⟩

/-- The tick that begins, with its fields. -/
theorem State.tickBegun_spec (s : State) (energy : Nat) :
    let t := s.tickBegun energy
    let on := decide (s.w.dev.state = .running) && s.w.run.step.isSome && !s.w.stopDue
    t.w.cad.tickCount = s.w.cad.tickCount + 1 ∧ t.w.cad.offset = 0 ∧ t.w.cad.time = s.w.cad.time + s.w.period + s.w.run.stretch ∧
      t.w.cad.stretchClk = s.w.cad.stretchClk + BitVec.ofNat 64 s.w.run.stretch ∧ t.w.run.applied = s.w.run.applied + s.w.run.stretch ∧
      t.w.run.counting = on ∧ t.w.run.tick = (if on then s.w.run.tick + 1 else s.w.run.tick) ∧ t.w.run.wantStop = s.w.run.wantStop ∧
      t.w.run.stopOrigin = s.w.run.stopOrigin ∧ Work.TickFrame { s.w with mem := s.w.mem.remapsDue } t.w ∧ t.fab = s.fab ∧ t.sec = s.sec := by
  intro t on
  have run := s.tickOpens_eq
  obtain ⟨m, sampled⟩ := s.tickOpens.sampleLag_eq
  obtain ⟨n, xs, o, q, e⟩ : ∃ n xs o q, t = { s.tickSampled energy with
      w := { (s.tickSampled energy).w with
        cad := { (s.tickSampled energy).w.cad with holdCount := n }, run := { (s.tickSampled energy).w.run with holds := xs }, out := o }
      pwr := q } := by
    unfold t State.tickBegun
    split
    · split
      · exact State.stepTick_eq _ _ _ _
      · exact ⟨_, _, _, _, rfl⟩
    · exact ⟨_, _, _, _, rfl⟩
  have begun : (s.tickSampled energy).w = { s.tickOpens with cad := { s.tickOpens.cad with lagMax := m } } := sampled
  rw [e, begun, run]
  exact ⟨rfl, rfl, (Nat.add_assoc _ _ _).symm, rfl, rfl, rfl, rfl, rfl, rfl, s.tickEnds.ended_frame.trans (Work.tickFrame_rest _ _ _ _), rfl, rfl⟩

theorem Work.stopFrom_origin (w : Work) (origin : Nat) : (w.stopFrom origin).run.stopOrigin = some (match w.run.stopOrigin with
    | some o => min o origin
    | none => origin) := by
  unfold Work.stopFrom
  dsimp only
  split <;> rfl

theorem Work.stopFrom_frame (w : Work) (origin : Nat) : w.TickFrame (w.stopFrom origin) := by
  obtain ⟨o, cs, stopped, -, -⟩ := w.stopFrom_eq origin
  refine ⟨by rw [stopped], by rw [stopped], by rw [stopped], by rw [stopped], by rw [stopped], fun c => ?_⟩
  obtain ⟨counts, aside, idled, h⟩ := w.stopFrom_core origin c
  rw [h]
  exact ⟨rfl, rfl, rfl⟩

/-- A stop that is owed is raised with the present tick as its origin, and the earlier origin counts. -/
theorem State.raiseStop_spec (s : State) :
    let t := s.raiseStop
    (s.w.run.wantStop = true → t.w.run.stopOrigin = some (match s.w.run.stopOrigin with
      | some o => min o s.w.cad.tickCount.toNat
      | none => s.w.cad.tickCount.toNat) ∧ t.w.cad.stopPending = true ∧ t.w.run.wantStop = false) ∧
    (∃ a o b cs out, t = { s with w := { s.w with
      cad := { s.w.cad with stopPending := a }, run := { s.w.run with stopOrigin := o, wantStop := b }, cores := cs, out := out } }) ∧
    s.w.TickFrame t.w := by
  intro t
  by_cases wants : s.w.run.wantStop = true
  · have e : t = { s with w := ((Work.stopFrom { s.w with run := { s.w.run with wantStop := false } } s.w.cad.tickCount.toNat).timing 3
        s.w.cad.tickCount.toNat 0 s.fab.member.toNat) } := if_pos wants
    obtain ⟨o, cs, stopped, -, -⟩ := Work.stopFrom_eq { s.w with run := { s.w.run with wantStop := false } } s.w.cad.tickCount.toNat
    have origin := Work.stopFrom_origin { s.w with run := { s.w.run with wantStop := false } } s.w.cad.tickCount.toNat
    have frame := Work.stopFrom_frame { s.w with run := { s.w.run with wantStop := false } } s.w.cad.tickCount.toNat
    rw [stopped] at origin frame
    rw [e, stopped]
    refine ⟨fun _ => ⟨origin, rfl, rfl⟩, ⟨_, _, _, _, _, rfl⟩, ?_⟩
    exact ((s.w.tickFrame_rest s.w.cad { s.w.run with wantStop := false } s.w.out).trans frame).trans (Work.tickFrame_rest _ _ _ _)
  · have e : t = s := if_neg wants
    rw [e]
    exact ⟨fun h => absurd h wants, ⟨_, _, _, _, _, rfl⟩, rfl, rfl, rfl, rfl, rfl, fun _ => ⟨rfl, rfl, rfl⟩⟩

end Sys2Proof.Machine

open Sys2Proof Sys2Proof.Machine

/-- Settles O29: the next tick begins (`State.tickBegun_spec`), and then a stop that is owed is raised (`State.raiseStop_spec`). -/
theorem ticksPass : Obligations.TicksPass := by
  intro energy s locked on
  extract_lets st on'
  obtain ⟨count, offset, time, stretched, applied, counting, tick, owed, origin, frame, fab, sec⟩ := s.tickBegun_spec energy
  obtain ⟨raised, ⟨a, o, b, cs, out, rest⟩, work⟩ := (s.tickBegun energy).raiseStop_spec
  obtain ⟨mem, dev, plan, scales, cum, core⟩ := frame.trans work
  have cad : (s.tickBegun energy).raiseStop.w.cad.tickCount = (s.tickBegun energy).w.cad.tickCount := by rw [rest]
  refine ⟨_, exec_tickBoundary energy locked on, cad.trans count, ?_, ?_, ?_, ?_, ?_, ?_, fun p hp counts bell still => ?_, fun wants => ?_,
    mem, dev, plan, scales, cum, ?_, ?_, core⟩
  · rw [rest]; exact offset
  · rw [rest]; exact time
  · rw [rest]; exact stretched
  · rw [rest]; exact applied
  · rw [rest]; exact counting
  · rw [rest]; exact tick
  · intro late
    subst still
    have notDue : ¬s.tickEnds.w.stopDue = true := by
      change ¬s.w.stopDue = true
      have := (Bool.and_eq_true_iff.mp counts).2
      simpa using this
    have sampled : (s.tickSampled 0).w = (State.endTick s.tickEnds).w.nextTick.sampleLag := congrArg Work.sampleLag (if_neg notDue)
    obtain ⟨plan, going, own, before⟩ := s.tickSampled_spec 0
    have begun : s.tickBegun 0 = (s.tickSampled 0).stepTick p 0 (s.w.period + s.w.run.stretch) := by
      rw [State.tickBegun, plan.trans hp]
      exact if_pos (going.trans counts)
    have held := (s.tickSampled 0).stepTick_holds p (s.w.period + s.w.run.stretch) (own.trans bell) (by rw [sampled]; exact late)
    rw [before, sampled] at held
    rw [rest]
    exact (congrArg (·.w.run.holds) begun).trans held
  · rw [cad]
    exact origin ▸ raised (owed.trans wants)
  · rw [rest]; exact fab
  · rw [rest]; exact sec

end

section
/-!
Self-checks (O42).
-/

namespace Sys2Proof.Machine

/-! ### Self-check mismatches (R150, R151, R442, R900, R908) -/

theorem Work.event_replayActive (w : Work) (kind sev unit sub idx addr data : Nat) :
    (w.event kind sev unit sub idx addr data).rel.replayActive = w.rel.replayActive := by
  rw [(w.event_same _ _ _ _ _ _ _).rel]

/-- A lasting fault does not touch REPLAY_ACTIVE. -/
theorem Work.lasting_replayActive (w : Work) (part unit sub idx : Nat) : (w.lasting part unit sub idx).rel.replayActive = w.rel.replayActive := by
  unfold Work.lasting
  extract_lets part' rel w1 w2 w3
  have logged : w2.rel.replayActive = w.rel.replayActive := w1.event_replayActive _ _ _ _ _ _ _
  have marked : w3.rel.replayActive = w2.rel.replayActive := by
    unfold w3
    split <;> rfl
  split
  · exact marked.trans logged
  · split
    · split
      · exact marked.trans logged
      · exact marked.trans logged
    · exact marked.trans logged

theorem Work.partEvent_replayActive (w : Work) (part crit unit sub idx n : Nat) :
    (w.partEvent part crit unit sub idx n).rel.replayActive = w.rel.replayActive := by
  have counted : (w.rel.countEvent part crit (w.rel.windowUnit part unit) sub idx n).1.replayActive = w.rel.replayActive := by
    unfold Rel.countEvent
    extract_lets
    split <;> rfl
  unfold Work.partEvent
  extract_lets r w1
  split
  · exact (w1.lasting_replayActive _ _ _ _).trans counted
  · exact counted

/-- A mismatch before it counts as a detection. -/
structure Work.Counted (w v : Work) (m : Mismatch) : Prop where
  access : Work.SameButAccess (w.count m.core .gridCheckMismatch 1) v
  hbm : v.mem.hbm = w.mem.hbm
  replay : v.rel.replayActive = w.rel.replayActive

/-- A mismatch of an array that exists counts, is logged and may make its line lasting; then it is a detection. -/
theorem Work.mismatch_eq (w : Work) {m : Mismatch} (core : m.core < w.rel.cls) (array : m.array < 4) (line : m.line < 66) :
    ∃ v, w.Counted v m ∧ w.mismatch m = v.detect m.core .selfCheck := by
  refine ⟨_, ?_, if_pos ⟨core, array, line⟩⟩
  exact ⟨(Work.event_same _ _ _ _ _ _ _ _).access.trans (Work.partEvent_access _ _ _ _ _ _ _),
    (Work.partEvent_sameStored _ _ _ _ _ _ _).hbm.trans (Work.event_hbm _ _ _ _ _ _ _ _),
    (Work.partEvent_replayActive _ _ _ _ _ _ _).trans (Work.event_replayActive _ _ _ _ _ _ _ _)⟩

/-- The count of mismatches of a core. -/
theorem Work.Counted.mismatches {w v : Work} {m : Mismatch} (h : w.Counted v m) :
    mget (v.core m.core).counts 0 (Ctr.off .gridCheckMismatch) = mget (w.core m.core).counts 0 (Ctr.off .gridCheckMismatch) + 1 := by
  rw [Work.core_congr h.access.cores, Work.count, Work.modCore_core, Core.count_counts]
  rfl

/-- Checks that begin on every core leave its counters, and everything else of the work state. -/
theorem Work.startChecks_eq (w : Work) (xs : List Nat) (t : Work → Nat) :
    ∃ cs, xs.foldl (fun w c => w.modCore c (Core.startCheck (t w))) w = { w with cores := cs } ∧
      ∀ c, (Work.core { w with cores := cs } c).counts = (w.core c).counts := by
  induction xs generalizing w with
  | nil => exact ⟨w.cores, rfl, fun _ => rfl⟩
  | cons x xs ih =>
    obtain ⟨cs, checks, counts⟩ := ih (w.modCore x (Core.startCheck (t w)))
    refine ⟨cs, checks, fun c => (counts c).trans ?_⟩
    by_cases h : c = x
    · subst h
      rw [Work.modCore_core]
      rfl
    · rw [Work.modCore_other _ _ h]

theorem exec_checkSlot (found : List Mismatch) (s : State) : exec (.checkSlot found) s = .next { s with w := (
    if s.w.stepping ∧ s.w.dev.state = .running ∧ s.w.run.tick.toNat % 1024 = 1023 then
      (List.range s.w.rel.cls).foldl (fun w c => w.modCore c (Core.startCheck w.cad.time)) (found.foldl Work.mismatch s.w)
    else s.w) } := rfl

theorem exec_idleSelfCheck (found : List Mismatch) (s : State) : exec (.idleSelfCheck found) s = .next { s with w := (
    if s.w.dev.state ∈ started ∧ !s.w.stepping ∧ s.w.cad.tickCount.toNat % 1024 = 1023 then found.foldl Work.mismatch s.w
    else s.w) } := rfl

end Sys2Proof.Machine

open Sys2Proof Sys2Proof.Machine

/-- Settles O42: a mismatch counts (`Work.mismatch_eq`), and in a step it is a detection. -/
theorem selfChecks : Obligations.SelfChecks := by
  refine fun m found s core array line => ⟨fun going running slot => ?_, fun allowed idle slot => ?_, fun other => ?_, fun other => ?_⟩
  · obtain ⟨v, counted, mismatch⟩ := s.w.mismatch_eq core array line
    have stepping : v.stepping = true := (congrArg (·.step.isSome) counted.access.run).trans going
    obtain ⟨d, detected⟩ : ∃ d, v.detect m.core .selfCheck = { v with
        run := { v.run with since := d, detections := v.run.detections ++ [{ core := m.core, kind := .selfCheck }], wantStop := true }
        rel := { v.rel with replayActive := true } } := ⟨_, if_pos stepping⟩
    obtain ⟨cs, checks, counts⟩ := (s.w.mismatch m).startChecks_eq (List.range s.w.rel.cls) (·.cad.time)
    refine ⟨_, by rw [exec_checkSlot, if_pos ⟨going, running, slot⟩, List.foldl_cons, List.foldl_nil, checks], ?_⟩
    have run := counted.access.run
    rw [counts m.core, mismatch, detected]
    refine ⟨counted.mismatches, ?_, rfl, rfl, (congrArg Run.step run :), counted.hbm, counted.access.plan, rfl, rfl, rfl, rfl⟩
    exact (congrArg (fun r : Run => r.detections ++ [{ core := m.core, kind := .selfCheck }]) run :)
  · obtain ⟨v, counted, mismatch⟩ := s.w.mismatch_eq core array line
    have still : ¬v.stepping = true := by
      rw [Work.stepping, counted.access.run]
      exact Option.not_isSome_iff_eq_none.mpr idle
    have unchecked : v.detect m.core .selfCheck = v := if_neg still
    refine ⟨_, by rw [exec_idleSelfCheck, if_pos ⟨allowed, by simp [Work.stepping, idle], slot⟩, List.foldl_cons, List.foldl_nil, mismatch,
      unchecked], ?_⟩
    exact ⟨counted.mismatches, counted.access.run, counted.replay, counted.hbm, rfl, rfl, rfl, rfl⟩
  · rw [exec_checkSlot, if_neg (fun h => other h.2.2)]
  · rw [exec_idleSelfCheck, if_neg (fun h => other h.2.2)]

end

section
/-!
MAINT_START (O39).
-/

namespace Sys2Proof.Machine

/-! ### MAINT_START (R940, R945 to R947) -/

theorem wayBytes_fields (a : Activity) :
    let bs := wayBytes a
    bs.length = 12 ∧ leAt bs 0 1 = a.code % 256 ∧ leAt bs 1 1 = b2n a.auto ∧ leAt bs 2 2 = (a.slot.getD 0xFFFF) % 65536 ∧
      leAt bs 4 2 = a.args.unit % 65536 ∧ leAt bs 6 2 = a.args.sub % 65536 ∧ leAt bs 8 4 = a.args.index % 2 ^ 32 := by
  have two : ∀ x y : Byte, [x, y] = toLE 1 x.toNat ++ toLE 1 y.toNat := by simp [toLE]
  have last (n v : Nat) : leAt (toLE n v) 0 n = v % 256 ^ n := by simpa using leAt_toLE_mod (m := n) v [] le_rfl
  have auto : b2n a.auto < 256 := by cases a.auto <;> decide
  simp only [wayBytes, two, List.append_assoc, leAt_past_toLE, Nat.reduceLeDiff, Nat.reduceSub, leAt_toLE_mod, le_refl, last]
  simp [Nat.mod_eq_of_lt auto]

/-- An activity that begins (`State.begins`) changes repairs and the fabric, and may start others behind those there are. -/
structure Work.ActBegun (w v : Work) : Prop where
  acts : w.rel.acts <+: v.rel.acts
  results : v.dev.results = w.dev.results
  cad : v.cad = w.cad
  plan : v.plan = w.plan
  scales : v.scales = w.scales
  hbm : v.mem.hbm = w.mem.hbm
  draws : v.mem.draws = w.mem.draws

theorem Work.ActBegun.trans {u v w : Work} (h : u.ActBegun v) (k : v.ActBegun w) : u.ActBegun w :=
  ⟨h.acts.trans k.acts, k.results.trans h.results, k.cad.trans h.cad, k.plan.trans h.plan, k.scales.trans h.scales, k.hbm.trans h.hbm,
    k.draws.trans h.draws⟩

theorem Work.ActBegun.refl (w : Work) : w.ActBegun w := ⟨List.prefix_rfl, rfl, rfl, rfl, rfl, rfl, rfl⟩

theorem Work.ActBegun.of_same {w v : Work} (same : w.SamePlanWork v) (results : v.dev.results = w.dev.results) : w.ActBegun v :=
  ⟨by rw [same.rel], results, same.cad, same.plan, same.scales, by rw [same.mem], by rw [same.mem]⟩

/-- A lasting fault may start an activity of its own, behind those there are (R941). -/
theorem Work.lasting_actBegun (w : Work) (part unit sub idx : Nat) : w.ActBegun (w.lasting part unit sub idx) := by
  unfold Work.lasting
  extract_lets part' rel w1 w2 w3
  have counted : w.ActBegun w1 := ⟨List.prefix_rfl, rfl, rfl, rfl, rfl, rfl, rfl⟩
  have logged : w1.ActBegun w2 := .of_same (w1.event_same _ _ _ _ _ _ _) (Work.event_dev_results _ _ _ _ _ _ _ _)
  have marked : w2.ActBegun w3 := by
    unfold w3
    split
    · exact ⟨List.prefix_rfl, rfl, rfl, rfl, rfl, rfl, rfl⟩
    · exact .refl w2
  have found := (counted.trans logged).trans marked
  split
  · exact found.trans ⟨List.prefix_rfl, rfl, rfl, rfl, rfl, rfl, rfl⟩
  · split
    · split
      · exact found.trans ⟨List.prefix_append _ _, rfl, rfl, rfl, rfl, rfl, rfl⟩
      · exact found
    · exact found

theorem State.begins_spec (s : State) (code : Nat) (m : MaintArgs) :
    s.w.ActBegun (s.begins code m).w ∧ (s.begins code m).pwr = s.pwr := by
  unfold State.begins
  split
  · refine ⟨?_, rfl⟩
    dsimp only [Work.remapBegins]
    split
    · exact s.w.lasting_actBegun _ _ _ _
    · split
      · exact .refl s.w
      · exact ⟨List.prefix_rfl, rfl, rfl, rfl, rfl, rfl, rfl⟩
  · exact ⟨⟨List.prefix_rfl, rfl, rfl, rfl, rfl, rfl, rfl⟩, rfl⟩
  · split <;> exact ⟨.refl s.w, rfl⟩
  · exact ⟨.refl s.w, rfl⟩

/-- Bytes that show errors depend on the bytes and the draws so far, and on nothing else of memory. -/
theorem MemSys.strike_hbm_congr {m n : MemSys} (hbm : m.hbm = n.hbm) (draws : m.draws = n.draws) (es : List LineErr) :
    (m.strike es).hbm = (n.strike es).hbm := by
  induction es generalizing m n with
  | nil => exact hbm
  | cons e es ih =>
    have wronged : (m.wronged e).hbm = (n.wronged e).hbm ∧ (m.wronged e).draws = (n.wronged e).draws := by
      unfold MemSys.wronged
      split
      · exact ⟨by simp only [hbm, draws], by simp only [draws]⟩
      · exact ⟨hbm, draws⟩
    rw [MemSys.strike_cons, MemSys.strike_cons]
    cases foundLine e with
    | none => exact ih wronged.1 wronged.2
    | some b =>
      obtain ⟨xs, left⟩ := (m.wronged e).strikeLine_eq b
      obtain ⟨ys, right⟩ := (n.wronged e).strikeLine_eq b
      refine ih ?_ ?_
      · rw [Option.elim_some, Option.elim_some, left, right]; exact wronged.1
      · rw [Option.elim_some, Option.elim_some, left, right]; exact wronged.2

theorem MemSys.see_hbm_congr {m n : MemSys} (hbm : m.hbm = n.hbm) (draws : m.draws = n.draws) (e : Env) : (m.see e).hbm = (n.see e).hbm :=
  MemSys.strike_hbm_congr hbm draws e.lines

/-- What an activity does at once beyond beginning: it may show errors of HBM. -/
structure State.ActWorked (s t : State) (e : Env) : Prop where
  acts : t.w.rel.acts = s.w.rel.acts
  results : t.w.dev.results = s.w.dev.results
  cad : t.w.cad = s.w.cad
  plan : t.w.plan = s.w.plan
  scales : t.w.scales = s.w.scales
  hbm : t.w.mem.hbm = (s.w.mem.see e).hbm
  pwr : t.pwr = s.pwr

theorem State.ActWorked.refl (s : State) : s.ActWorked s {} := ⟨rfl, rfl, rfl, rfl, rfl, rfl, rfl⟩

/-- Words of a local store that show flipped bits reach no block but its core (the clk is the cadence block's). -/
theorem Work.observe_words (w : Work) (core : Nat) (words : List WordErr) (clk : Nat) :
    ∃ cs, w.observe core { words := words, clk := clk } =
      { w with cad.offset := w.clkOf clk, mem := w.mem.see {}, cores := cs, rel.tableCe := w.rel.tableCe + 0 } := by
  cases words with
  | nil => exact ⟨w.cores, rfl⟩
  | cons e es => exact ⟨_, rfl⟩

theorem State.lsWords_worked (s : State) (core : Nat) (words : List WordErr) (clk : Nat) :
    s.ActWorked { s with w := { (s.w.observe core { words := words, clk := clk }) with cad := s.w.cad } } {} := by
  obtain ⟨cs, eq⟩ := s.w.observe_words core words clk
  rw [eq]
  exact ⟨rfl, rfl, rfl, rfl, rfl, rfl, rfl⟩

/-- Each row of MAINT_START is `State.maintStart` of its code and operands. -/
theorem exec_maintRow {i : Instr} {code ring : Nat} {m : MaintArgs} (row : maintRow i = some (code, ring, m)) (s : State) :
    ∃ good work found, exec i s = .next (s.maintStart ring code m good work found) ∧ ∀ t : State, t.ActWorked (work t) (scrubEnv i) := by
  have shown (e : Env) (t : State) : t.ActWorked { t with w := { t.w with mem := t.w.mem.see e } } e := ⟨rfl, rfl, rfl, rfl, rfl, rfl, rfl⟩
  cases i <;> cases row
  case hbmScrub e => exact ⟨_, _, _, rfl, shown e⟩
  case rowRemap e => exact ⟨_, _, _, rfl, shown e⟩
  case lsScrub e => exact ⟨_, _, _, rfl, fun t => t.lsWords_worked _ _ _⟩
  case fwStage => exact ⟨_, _, _, rfl, fun t => ⟨rfl, rfl, rfl, rfl, rfl, rfl, rfl⟩⟩
  case arrayCheck | channelRetire | spareBank | spareArrayLine | spareCore | spareLane | sparePort => exact ⟨_, id, _, rfl, State.ActWorked.refl⟩

section
variable {s : State} {ring code : Nat} {m : MaintArgs} {good : Bool} {work : State → State} {found : List Mismatch} (on : s.w.dev.state ∈ maintStates)
include on

theorem State.maintStart_badTarget (bad : s.targetOk code m = false) :
    s.maintStart ring code m good work found = s.reply ring stBadParam [] := by
  refine State.command_answers on (by decide) (a := s.refuse stBadParam) ?_
  simp only [bad, Bool.not_false, if_true]

theorem State.maintStart_conflict (ok : s.targetOk code m = true) {a : Activity} (way : s.w.rel.inTheWay code m = some a) :
    s.maintStart ring code m good work found = s.reply ring stMaintConflict (wayBytes a) := by
  refine State.command_answers on (by decide) (a := ⟨s, stMaintConflict, wayBytes a⟩) ?_
  simp only [ok, way]
  rfl

/-- The activity accepted into slot `k`. -/
def acceptedAct (code k : Nat) (m : MaintArgs) (good : Bool) (found : List Mismatch) : Activity :=
  { code := code, auto := false, slot := some k, args := m, state := startState code, good := good, found := found }

/-- The state in which an activity is accepted: its slot is taken and it stands last in the list. -/
def State.accepts (s : State) (ring k : Nat) (a : Activity) : State :=
  { s with w := { s.w.takeSlot k ring 0x0500 with rel.acts := s.w.rel.acts ++ [a] } }

theorem State.maintStart_accepted (ok : s.targetOk code m = true) (way : s.w.rel.inTheWay code m = none)
    (idle : code ≠ 0x0B ∨ s.sec.pldmBusy = false) {k : Nat} (free : s.w.dev.freeSlot = some k) :
    s.maintStart ring code m good work found =
      (work ((s.accepts ring k (acceptedAct code k m good found)).begins code m)).reply ring stOk (toLE 2 k) := by
  have idle : ¬(code = 0x0B ∧ s.sec.pldmBusy = true) := by grind
  refine State.command_answers on (by decide) (a := ⟨work ((s.accepts ring k (acceptedAct code k m good found)).begins code m), stOk, toLE 2 k⟩) ?_
  simp only [ok, way, if_neg idle, Bool.not_true, Bool.false_eq_true, if_false]
  exact s.withSlot_free ring 0x0500 k _ free

end

end Sys2Proof.Machine

open Sys2Proof Sys2Proof.Machine

/-- Settles O39: every row is `State.maintStart` (`exec_maintRow`); what follows the acceptance keeps the activities before it
(`State.begins_spec`, `State.ActWorked`). -/
theorem maintenanceStarts : Obligations.MaintenanceStarts := by
  intro i code ring k m s row on
  obtain ⟨good, work, found, eq, worked⟩ := exec_maintRow row s
  refine ⟨fun bad => ?_, fun a ok way => ?_, fun ok way idle free => ?_⟩
  · rw [eq, State.maintStart_badTarget on bad]
  · exact ⟨wayBytes a, by rw [eq, State.maintStart_conflict on ok way], wayBytes_fields a⟩
  · rw [State.maintStart_accepted on ok way idle free] at eq
    obtain ⟨begun, power⟩ := (s.accepts ring k (acceptedAct code k m good found)).begins_spec code m
    have did := worked ((s.accepts ring k (acceptedAct code k m good found)).begins code m)
    generalize work _ = t at eq did
    generalize State.begins _ _ _ = u at begun power did
    have replied := t.w.reply_same ring stOk (toLE 2 k)
    have taken := s.w.takeSlot_same k ring 0x0500
    have results : (t.reply ring stOk (toLE 2 k)).w.dev.results = (s.w.takeSlot k ring 0x0500).dev.results := by
      rw [State.reply, Work.reply_dev_results, did.results, begun.results]; rfl
    refine ⟨_, acceptedAct code k m good found, eq, ?_, rfl, rfl, rfl, rfl, rfl, ⟨_, (congrArg (mget · none k) results).trans (Work.takeSlot_results _ _ _ _), rfl, rfl⟩, fun j other => ?_, ?_, ?_, ?_, ?_, did.pwr.trans power⟩
    · have last : (t.w.reply ring stOk (toLE 2 k)).rel.acts = u.w.rel.acts := by rw [replied.rel, did.acts]
      exact last ▸ begun.acts
    · rw [results]
      exact mget_mset_ne _ _ _ other
    · exact (replied.cad.trans did.cad).trans (begun.cad.trans taken.cad)
    · exact (replied.plan.trans did.plan).trans (begun.plan.trans taken.plan)
    · exact (replied.scales.trans did.scales).trans (begun.scales.trans taken.scales)
    · have shown : (u.w.mem.see (scrubEnv i)).hbm = (s.w.mem.see (scrubEnv i)).hbm :=
        MemSys.see_hbm_congr (begun.hbm.trans (by rw [State.accepts]; simp)) (begun.draws.trans (by rw [State.accepts]; rfl)) _
      rw [State.reply, replied.mem]
      exact did.hbm.trans shown

end

section
/-!
What accesses, activities and moves of pages leave unchanged; leaving a herd (O26).
-/

namespace Sys2Proof.Machine

/-! ### What an access to memory leaves of the device block (R327 to R330, R836, R955) -/

/-- Two device blocks that agree in everything but NOTIFY, the notification ring, what waits for the link and the event log. -/
def Dev.SameButLog (d e : Dev) : Prop :=
  e = { d with notify := e.notify, noteHead := e.noteHead, noteTail := e.noteTail, notePhase := e.notePhase, noteCount := e.noteCount
               noteLost := e.noteLost, parked := e.parked, log := e.log, logNext := e.logNext }

theorem Dev.SameButLog.refl (d : Dev) : d.SameButLog d := rfl

theorem Dev.SameButLog.trans {a b c : Dev} (h : a.SameButLog b) (k : b.SameButLog c) : a.SameButLog c := by
  unfold Dev.SameButLog at *
  rw [k, h]

theorem Dev.SameButNotices.log {d e : Dev} (h : d.SameButNotices e) : d.SameButLog e := by
  unfold Dev.SameButLog
  rw [h]

theorem Dev.SameButLog.state {d e : Dev} (h : d.SameButLog e) : e.state = d.state := by rw [h]
theorem Dev.SameButLog.cause {d e : Dev} (h : d.SameButLog e) : e.cause = d.cause := by rw [h]
theorem Dev.SameButLog.held {d e : Dev} (h : d.SameButLog e) : e.held = d.held := by rw [h]
theorem Dev.SameButLog.results {d e : Dev} (h : d.SameButLog e) : e.results = d.results := by rw [h]

/-- An access to memory in the work state: what `Work.SameButAccess` names stays, and the device block but its log and messages, and the
running time. -/
structure Work.Accessed (w v : Work) : Prop where
  access : w.SameButAccess v
  dev : w.dev.SameButLog v.dev
  time : v.rel.runMs = w.rel.runMs

theorem Work.Accessed.refl (w : Work) : w.Accessed w := ⟨.refl w, rfl, rfl⟩

theorem Work.Accessed.trans {a b c : Work} (h : a.Accessed b) (k : b.Accessed c) : a.Accessed c :=
  ⟨h.access.trans k.access, h.dev.trans k.dev, k.time.trans h.time⟩

theorem Work.Accessed.foldl {α : Type} {f : Work → α → Work} (h : ∀ (v : Work) x, v.Accessed (f v x)) (w : Work) (xs : List α) :
    w.Accessed (xs.foldl f w) :=
  List.foldlRecOn xs f (.refl w) (fun v hv x _ => hv.trans (h v x))

/-- A change of memory and of the reliability block alone. -/
theorem Work.Accessed.of_blocks (w : Work) (m : MemSys) (r : Rel) (time : r.runMs = w.rel.runMs := by rfl) :
    w.Accessed { w with mem := m, rel := r } :=
  ⟨⟨rfl, rfl, rfl, rfl, rfl, rfl, rfl, rfl, rfl⟩, rfl, time⟩

theorem Work.event_accessed (w : Work) (kind sev unit sub idx addr data : Nat) : w.Accessed (w.event kind sev unit sub idx addr data) := by
  refine ⟨(w.event_same _ _ _ _ _ _ _).access, ?_, by rw [(w.event_same _ _ _ _ _ _ _).rel]⟩
  refine Dev.SameButLog.trans ?_ (Work.note_notices _ _ _ _).log
  refine Dev.SameButLog.trans ?_ (Work.raise_notices _ 3).log
  rfl

theorem Work.linkWrite_accessed (w : Work) (addr : Nat) (bs : List Byte) : w.Accessed (w.linkWrite addr bs) := by
  refine ⟨(w.linkWrite_same addr bs).access, ?_, by rw [(w.linkWrite_same addr bs).rel]⟩
  unfold Work.linkWrite
  split <;> rfl

/-- A lasting fault. -/
theorem Work.lasting_accessed (w : Work) (part unit sub idx : Nat) : w.Accessed (w.lasting part unit sub idx) := by
  unfold Work.lasting
  extract_lets part' rel w1 w2 w3
  have logged : w.Accessed w2 := .trans (b := w1) (.of_blocks w w.mem _) (w1.event_accessed _ _ _ _ _ _ _)
  have marked : w2.Accessed w3 := by
    unfold w3
    split
    · exact .of_blocks w2 _ w2.rel
    · exact .refl w2
  have found := logged.trans marked
  split
  · exact found.trans (.of_blocks w3 w3.mem _)
  · split
    · split
      · exact found.trans (.of_blocks w3 w3.mem _)
      · exact found
    · exact found

theorem Rel.countEvent_time (r : Rel) (part crit unit sub idx n : Nat) : (r.countEvent part crit unit sub idx n).1.runMs = r.runMs := by
  unfold Rel.countEvent
  dsimp only
  split <;> rfl

theorem Rel.trackRow_time (r : Rel) (stack ch row : Nat) : (r.trackRow stack ch row).runMs = r.runMs := by
  unfold Rel.trackRow
  dsimp only
  split
  · rfl
  · split <;> rfl

theorem Work.partEvent_accessed (w : Work) (part crit unit sub idx n : Nat) : w.Accessed (w.partEvent part crit unit sub idx n) := by
  unfold Work.partEvent
  extract_lets r w1
  have counted : w.Accessed w1 := .of_blocks w w.mem r.1 (Rel.countEvent_time _ _ _ _ _ _ _)
  split
  · exact counted.trans (w1.lasting_accessed _ _ _ _)
  · exact counted

theorem Work.readLine_accessed (w : Work) (rq l : Nat) : w.Accessed (w.readLine rq l) := by
  unfold Work.readLine
  extract_lets p mem corrected lost logged
  split
  · exact .refl w
  · have counted : w.Accessed corrected := .of_blocks w _ _ (Rel.trackRow_time _ _ _ _)
    exact (counted.trans (corrected.partEvent_accessed _ _ _ _ _ _)).trans (Work.partEvent_accessed _ _ _ _ _ _ _)
  · have counted : w.Accessed lost := .of_blocks w _ w.rel
    exact ((counted.trans (lost.event_accessed _ _ _ _ _ _ _)).trans (logged.lasting_accessed _ _ _ _)).trans
      (Work.partEvent_accessed _ _ _ _ _ _ _)

theorem Work.listLost_accessed (w : Work) (l : Nat) : w.Accessed (w.listLost l) := by
  unfold Work.listLost
  split
  · exact .refl w
  · dsimp only
    split
    · exact (Work.Accessed.of_blocks w _ w.rel).trans (Work.event_accessed _ _ _ _ _ _ _ _)
    · exact (Work.Accessed.of_blocks w w.mem _).trans (Work.event_accessed _ _ _ _ _ _ _ _)

theorem Work.mergeLine_accessed (w : Work) (rq l : Nat) : w.Accessed (w.mergeLine rq l) := by
  unfold Work.mergeLine
  split
  · exact .refl w
  · exact (w.readLine_accessed rq l).trans (.of_blocks _ _ _)
  · extract_lets listed w1 mem w2
    have read : w.Accessed w1 := by
      unfold w1
      split
      · exact .refl w
      · exact w.readLine_accessed rq l
    have zeroed : w1.Accessed w2 := .of_blocks w1 _ w1.rel
    split
    · exact read.trans zeroed
    · exact (read.trans zeroed).trans (w2.listLost_accessed l)

theorem Work.hbmWrite_accessed (w : Work) (rq pa : Nat) (bs : List Byte) : w.Accessed (w.hbmWrite rq pa bs) := by
  unfold Work.hbmWrite
  extract_lets n parts w1 whole mem v
  have merged : w.Accessed w1 := .foldl (fun v l => v.mergeLine_accessed rq l) w _
  have ready : w.Accessed v := by
    unfold v
    split
    · exact .refl w
    · exact merged.trans (.of_blocks w1 _ w1.rel)
  exact ready.trans (.of_blocks v _ v.rel)

/-- A line rewritten (R336, R343). -/
theorem Work.freshLine_accessed (w : Work) (l : Nat) : w.Accessed (w.freshLine l) := by
  unfold Work.freshLine
  extract_lets lost mem u
  have cleared : w.Accessed u := .of_blocks w _ w.rel
  split
  · exact (cleared.trans (.of_blocks u _ u.rel)).trans (Work.listLost_accessed _ l)
  · exact cleared

theorem Work.scrubLine_accessed (w : Work) (l : Nat) : w.Accessed (w.scrubLine l) := by
  unfold Work.scrubLine
  extract_lets st v
  have read : w.Accessed v := w.readLine_accessed 4 l
  split
  · exact read.trans (.of_blocks v _ v.rel)
  · exact read

/-! ### What activities carried out leave unchanged (R929, R938, R947) -/

/-- What an activity may do to the work state (`State.perform`, `State.actDone`): memory, cores, repairs, the device block, the beat
port and messages change; of the run only what a detection adds. -/
structure Work.Serviced (w v : Work) : Prop where
  plan : v.plan = w.plan
  scales : v.scales = w.scales
  cum : v.cum = w.cum
  stages : v.stages = w.stages
  net : v.net = w.net
  cad : v.cad = { w.cad with beatPort := v.cad.beatPort }
  quiet : w.run.step = none → v.run = w.run

theorem Work.Serviced.refl (w : Work) : w.Serviced w := ⟨rfl, rfl, rfl, rfl, rfl, rfl, fun _ => rfl⟩

theorem Work.Serviced.trans {a b c : Work} (h : a.Serviced b) (k : b.Serviced c) : a.Serviced c :=
  ⟨k.plan.trans h.plan, k.scales.trans h.scales, k.cum.trans h.cum, k.stages.trans h.stages, k.net.trans h.net, by rw [k.cad, h.cad],
    fun none => (k.quiet (by rw [h.quiet none]; exact none)).trans (h.quiet none)⟩

theorem Work.SameButAccess.serviced {w v : Work} (h : w.SameButAccess v) : w.Serviced v :=
  ⟨h.plan, h.scales, h.cum, h.stages, h.net, by rw [h.cad], fun _ => h.run⟩

theorem Work.SamePlanWork.serviced {w v : Work} (h : w.SamePlanWork v) : w.Serviced v := h.access.serviced

theorem Work.Serviced.foldl {α : Type} {f : Work → α → Work} (h : ∀ (v : Work) x, v.Serviced (f v x)) (w : Work) (xs : List α) :
    w.Serviced (xs.foldl f w) :=
  List.foldlRecOn xs f (.refl w) (fun v hv x _ => hv.trans (h v x))

/-- An activity carried out, before it is done: its result slot is as it was. -/
structure Work.Performed (w v : Work) : Prop where
  serviced : w.Serviced v
  results : v.dev.results = w.dev.results
  time : v.rel.runMs = w.rel.runMs

theorem Work.Performed.refl (w : Work) : w.Performed w := ⟨.refl w, rfl, rfl⟩

theorem Work.Performed.trans {a b c : Work} (h : a.Performed b) (k : b.Performed c) : a.Performed c :=
  ⟨h.serviced.trans k.serviced, k.results.trans h.results, k.time.trans h.time⟩

theorem Work.Performed.foldl {α : Type} {f : Work → α → Work} (h : ∀ (v : Work) x, v.Performed (f v x)) (w : Work) (xs : List α) :
    w.Performed (xs.foldl f w) :=
  List.foldlRecOn xs f (.refl w) (fun v hv x _ => hv.trans (h v x))

theorem Work.Accessed.performed {w v : Work} (h : w.Accessed v) : w.Performed v := ⟨h.access.serviced, h.dev.results, h.time⟩

/-- A change of cores, memory, repairs and messages alone. -/
theorem Work.Performed.of_blocks (w : Work) (cs : SMap Core) (m : MemSys) (r : Rel) (out : List Out) (time : r.runMs = w.rel.runMs := by rfl) :
    w.Performed { w with cores := cs, mem := m, rel := r, out := out } := ⟨⟨rfl, rfl, rfl, rfl, rfl, rfl, fun _ => rfl⟩, rfl, time⟩

/-- A detection counts in a running step alone (R908). -/
theorem Work.detect_performed (w : Work) (core : Nat) (kind : DetKind) : w.Performed (w.detect core kind) := by
  unfold Work.detect
  split
  next step =>
    extract_lets run rel u
    have owed : w.Performed u := ⟨⟨rfl, rfl, rfl, rfl, rfl, rfl, fun none => by simp [Work.stepping, none] at step⟩, rfl, rfl⟩
    cases kind with
    | parity | residue | coreTable => exact owed.trans (u.partEvent_accessed _ _ _ _ _ _).performed
    | selfCheck | hbm => exact owed
  next => exact .refl w

/-- A failed parity check. -/
theorem Work.parityFailure_performed (w : Work) (core word : Nat) : w.Performed (w.parityFailure core word) := by
  unfold Work.parityFailure
  extract_lets w1 w2
  have counted : w.Performed w1 := .of_blocks w _ w.mem w.rel w.out
  exact ((counted.trans (w1.event_accessed _ _ _ _ _ _ _).performed).trans (w2.partEvent_accessed _ _ _ _ _ _).performed).trans
    (Work.detect_performed _ _ _)

/-- A self-check mismatch. -/
theorem Work.mismatch_performed (w : Work) (m : Mismatch) : w.Performed (w.mismatch m) := by
  unfold Work.mismatch
  extract_lets w1 w2 w3
  split
  · have counted : w.Performed w1 := .of_blocks w _ w.mem w.rel w.out
    exact ((counted.trans (w1.event_accessed _ _ _ _ _ _ _).performed).trans (w2.partEvent_accessed _ _ _ _ _ _).performed).trans
      (w3.detect_performed _ _)
  · exact .refl w

/-- A scrub of a channel. -/
theorem Work.scrubChannel_accessed (w : Work) (stack ch : Nat) : w.Accessed (w.scrubChannel stack ch) :=
  .foldl (fun v l => v.scrubLine_accessed l) w _

/-- A row's copy. -/
theorem Work.copyRow_accessed (w : Work) (stack ch row : Nat) : w.Accessed (w.copyRow stack ch row) := by
  unfold Work.copyRow
  extract_lets ls zeroed v mem
  exact (Work.Accessed.foldl (fun v l => v.readLine_accessed 4 l) w ls).trans (.of_blocks v _ v.rel)

/-- A row remap that begins. -/
theorem Work.remapBegins_accessed (w : Work) (stack ch row : Nat) : w.Accessed (w.remapBegins stack ch row) := by
  unfold Work.remapBegins
  split
  · exact w.lasting_accessed _ _ _ _
  · split
    · exact .refl w
    · exact .of_blocks w _ w.rel

/-- A channel retired. -/
theorem Work.retireChannel_accessed (w : Work) (stack ch : Nat) : w.Accessed (w.retireChannel stack ch) := by
  unfold Work.retireChannel
  extract_lets bad w1 m1 r1 w2 x cap lo hi m3 w3 w4 m5 w5 m6 w6
  have rewritten : w.Accessed w1 := .foldl (fun v l => (v.readLine_accessed 4 l).trans (Work.freshLine_accessed _ l)) w bad
  have without : w1.Accessed w2 := .of_blocks w1 _ _ (by rfl)
  have discarded : w2.Accessed w3 := .of_blocks w2 _ w2.rel
  have narrowed : w4.Accessed w6 := .trans (b := w5) (.of_blocks w4 _ w4.rel) (.of_blocks w5 _ w5.rel)
  have retired := ((rewritten.trans without).trans discarded).trans (w3.event_accessed 0x0007 4 stack ch 0 lo 0)
  split
  · exact retired
  · exact (retired.trans narrowed).trans (w6.event_accessed _ _ _ _ _ _ _)

/-- A spare core put in. -/
theorem Work.spareCore_performed (w : Work) (core : Nat) : w.Performed (w.spareCore core) := by
  unfold Work.spareCore
  extract_lets v q old
  split
  · exact .refl w
  · exact .of_blocks w _ w.mem _ w.out

/-- A class change. -/
theorem Work.changeClass_performed (w : Work) : w.Performed w.changeClass := by
  unfold Work.changeClass
  extract_lets r1 r2 cls n map r3 hw used w1 w2
  have laidOut : w.Performed w1 := .trans (.of_blocks w w.cores w.mem _ w.out) (.foldl (fun v c => .of_blocks v _ v.mem v.rel v.out) _ _)
  exact (laidOut.trans (w1.event_accessed _ _ _ _ _ _ _).performed).trans (.of_blocks w2 w2.cores w2.mem w2.rel _)

/-- Beside the work state an activity changes ports. -/
structure State.Performed (s t : State) : Prop where
  work : s.w.Performed t.w
  fab : t.fab = { s.fab with ports := t.fab.ports }
  pwr : t.pwr = s.pwr
  sec : t.sec = s.sec

/-- A change of the work state alone. -/
theorem Work.Performed.state {s : State} {v : Work} (h : s.w.Performed v) : s.Performed { s with w := v } := ⟨h, rfl, rfl, rfl⟩

theorem State.perform_spec (s : State) (code : Nat) (m : MaintArgs) : s.Performed (s.perform code m) := by
  unfold State.perform
  split
  · exact (s.w.scrubChannel_accessed _ _).performed.state
  · exact Work.Performed.state (.foldl (fun v x => v.parityFailure_performed _ _) s.w _)
  · exact ((s.w.remapBegins_accessed _ _ _).trans (Work.copyRow_accessed _ _ _ _)).performed.state
  · exact (s.w.retireChannel_accessed _ _).performed.state
  · exact Work.Performed.state (.of_blocks s.w _ _ s.w.rel s.w.out)
  · exact Work.Performed.state (.of_blocks s.w _ s.w.mem s.w.rel s.w.out)
  · exact (s.w.spareCore_performed _).state
  · split
    · exact ⟨⟨⟨rfl, rfl, rfl, rfl, rfl, rfl, fun _ => rfl⟩, rfl, rfl⟩, rfl, rfl, rfl⟩
    · exact ⟨.of_blocks s.w s.w.cores s.w.mem _ s.w.out, rfl, rfl, rfl⟩
  · unfold State.beatFrom
    split
    · exact ⟨⟨⟨rfl, rfl, rfl, rfl, rfl, rfl, fun _ => rfl⟩, rfl, rfl⟩, rfl, rfl, rfl⟩
    · exact ⟨.of_blocks s.w s.w.cores s.w.mem _ s.w.out, rfl, rfl, rfl⟩
  · exact ⟨.refl s.w, rfl, rfl, rfl⟩

/-- Activities carried out and done: result slots become ready. -/
structure State.Serviced (s t : State) : Prop where
  work : s.w.Serviced t.w
  fab : t.fab = { s.fab with ports := t.fab.ports }
  pwr : t.pwr = s.pwr
  sec : t.sec = s.sec

theorem State.Serviced.refl (s : State) : s.Serviced s := ⟨.refl s.w, rfl, rfl, rfl⟩

theorem State.Serviced.trans {a b c : State} (h : a.Serviced b) (k : b.Serviced c) : a.Serviced c :=
  ⟨h.work.trans k.work, by rw [k.fab, h.fab], k.pwr.trans h.pwr, k.sec.trans h.sec⟩

theorem State.Performed.serviced {s t : State} (h : s.Performed t) : s.Serviced t := ⟨h.work.serviced, h.fab, h.pwr, h.sec⟩

theorem Work.Serviced.state {s : State} {v : Work} (h : s.w.Serviced v) : s.Serviced { s with w := v } := ⟨h, rfl, rfl, rfl⟩

theorem State.actDone_serviced (s : State) (a : Activity) {status : Nat} (ok : status ≠ stAuthFail) (outcome : Nat) :
    s.Serviced (s.actDone a status outcome) := by
  unfold State.actDone
  extract_lets w1 r t u
  have logged : s.Serviced u :=
    .trans (b := t) ⟨⟨rfl, rfl, rfl, rfl, rfl, rfl, fun _ => rfl⟩, rfl, rfl, rfl⟩ (t.w.event_same _ _ _ _ _ _ _).serviced.state
  split
  · have ready (k : Nat) (body : List Byte) : u.Serviced (u.finish k status body) :=
      ⟨(u.w.finish_same _ _ _).serviced, rfl, rfl, u.sec.countAuth_other ok⟩
    exact (logged.trans (ready _ _)).trans ⟨⟨rfl, rfl, rfl, rfl, rfl, rfl, fun _ => rfl⟩, rfl, rfl, rfl⟩
  · exact logged

/-- Every change that waits, carried out. -/
theorem State.carryOut_serviced (s : State) : s.Serviced s.carryOut := by
  unfold State.carryOut
  extract_lets t
  have performed : s.Serviced t :=
    List.foldlRecOn _ _ (.refl s) (fun u hu a _ =>
      (hu.trans (u.perform_spec a.code a.args).serviced).trans (State.actDone_serviced _ a (by decide) 0))
  split
  · exact performed.trans t.w.changeClass_performed.serviced.state
  · exact performed

/-- An entry to LOADED or STANDBY, with the changes that wait carried out before it. -/
theorem State.enter_serviced (s : State) (st : DevState) (cause : Cause) :
    s.Serviced (s.enter st cause) ∧ (s.enter st cause).w.dev.state = st := by
  unfold State.enter
  split
  · extract_lets t u
    exact ⟨(((s.w.setState_same _ _).serviced.state).trans t.carryOut_serviced).trans (u.w.setState_same _ _).serviced.state,
      u.w.setState_dev_state _ _⟩
  · exact ⟨(s.w.setState_same _ _).serviced.state, s.w.setState_dev_state _ _⟩

/-- Where no change waits, an entry is a change of state. -/
theorem State.enter_idle (s : State) (idle : s.w.changeWaits = false) (st : DevState) (cause : Cause) :
    s.enter st cause = { s with w := s.w.setState st cause } := by
  unfold State.enter
  rw [if_neg (by simp [idle])]

end Sys2Proof.Machine

namespace Sys2Proof.Machine

/-! ### A step that is given up (R225, R879, R880) -/

/-- A data loss counts. -/
def Work.losing (w : Work) (status : Nat) : Work :=
  if status = stDataLost then { w with rel := { w.rel with dataLost := w.rel.dataLost + 1 } } else w

/-- A work state whose step is over, without what is known of the attempt. -/
def Work.stepOver (w : Work) : Work :=
  { w with run := { w.run with step := none, ended := none, abandon := none, faulted := false, detections := [], rerun := false }
           rel := { w.rel with replayActive := false, replaysThisStep := 0 }
           dev := { w.dev with held := false } }

/-- With no step discarded behind it nothing else is settled. -/
theorem Work.settleDiscarded_nil {w : Work} (nothing : w.run.discarded = []) (status : Nat) : w.settleDiscarded status = w := by
  have same : { w.run with discarded := [] } = w.run := by rw [← nothing]
  unfold Work.settleDiscarded
  rw [nothing]
  exact congrArg (fun r => { w with run := r }) same

/-- The attempt dropped, the loss counted and the record made ready: what `Work.abandonWith` does before the step is over. -/
def Work.recorded (w : Work) (x : StepSt) (status : Nat) (e : Option StepEvent) : Work :=
  (w.dropAttempt.losing status).finish x.req.slot status (recordBody status 0 2 x.replays x.number x.startTick x.stretchClk e 0)

theorem Work.abandonWith_step {w : Work} {x : StepSt} (step : w.run.step = some x) (status : Nat) (e : Option StepEvent) :
    w.abandonWith status e = (w.recorded x status e).stepOver.settleDiscarded status := by
  simp only [Work.abandonWith, step]
  rfl

/-- Without a policy an attempt that is dropped touches no memory but its requests. -/
theorem Work.dropAttempt_of_no_policy {w : Work} (plain : w.policy? = none) :
    w.dropAttempt = { w with
      cores := (w.mapCores (fun _ x => x.idleWork)).cores
      run := { w.run with counting := false, sections := [], mass := [], chanStats := [], slotStats := [], sets := [], landed := [] }
      net := w.net.clear
      mem := { w.mem with reqs := [] }
      stages := { w.stages with live := [], high := [] } } := by
  have undone : (w.mapCores (fun _ x => x.idleWork)).cumUndo = w.mapCores (fun _ x => x.idleWork) := by
    have none : (w.mapCores (fun _ x => x.idleWork)).policy? = .none := plain
    simp only [Work.cumUndo, none]
  unfold Work.dropAttempt
  rw [undone]
  rfl

/-- What is left when a step is given up, without a policy and with nothing discarded behind it. -/
structure Work.GaveUp (w v : Work) (x : StepSt) (r : RSlot) (status : Nat) (e : Option StepEvent) : Prop where
  step : v.run.step = none
  stopped : v.run.stopped = w.run.stopped
  accepted : v.run.accepted = w.run.accepted
  queued : v.run.queued = w.run.queued
  discarded : v.run.discarded = []
  record : mget v.dev.results none x.req.slot = some { r with
    ready := true
    status := BitVec.ofNat 8 status
    body := recordBody status 0 2 x.replays x.number x.startTick x.stretchClk e 0 }
  state : v.dev.state = w.dev.state
  load : v.dev.load = w.dev.load
  held : v.dev.held = false
  plan : v.plan = w.plan
  acts : v.rel.acts = w.rel.acts
  classPending : v.rel.classPending = w.rel.classPending
  dataLost : v.rel.dataLost = if status = stDataLost then w.rel.dataLost + 1 else w.rel.dataLost

theorem Work.abandonWith_gaveUp {w : Work} {x : StepSt} {r : RSlot} (step : w.run.step = some x) (plain : w.policy? = none)
    (nothing : w.run.discarded = []) (slot : mget w.dev.results none x.req.slot = some r) (status : Nat) (e : Option StepEvent) :
    w.GaveUp (w.abandonWith status e) x r status e := by
  have lost : ∃ n, w.dropAttempt.losing status = { w.dropAttempt with rel.dataLost := n } ∧
      n = if status = stDataLost then w.rel.dataLost + 1 else w.rel.dataLost := by
    unfold Work.losing
    rw [Work.dropAttempt_of_no_policy plain]
    split
    · exact ⟨_, rfl, rfl⟩
    · exact ⟨_, rfl, rfl⟩
  obtain ⟨n, lost, count⟩ := lost
  have held : mget (w.dropAttempt.losing status).dev.results none x.req.slot = some r := by
    rw [lost, Work.dropAttempt_of_no_policy plain]
    exact slot
  have same := (w.dropAttempt.losing status).finish_same x.req.slot status
    (recordBody status 0 2 x.replays x.number x.startTick x.stretchClk e 0)
  have record := (Work.finish_results _ _ status (recordBody status 0 2 x.replays x.number x.startTick x.stretchClk e 0) _ held).1
  have state := (w.dropAttempt.losing status).finish_dev_state x.req.slot status
    (recordBody status 0 2 x.replays x.number x.startTick x.stretchClk e 0)
  have load := (w.dropAttempt.losing status).finish_dev_load x.req.slot status
    (recordBody status 0 2 x.replays x.number x.startTick x.stretchClk e 0)
  have run := same.run
  have rel := same.rel
  have plan := same.plan
  change (w.recorded x status e).run = _ at run
  change (w.recorded x status e).rel = _ at rel
  change (w.recorded x status e).plan = _ at plan
  change (w.recorded x status e).dev.state = _ at state
  change (w.recorded x status e).dev.load = _ at load
  change mget (w.recorded x status e).dev.results none x.req.slot = _ at record
  rw [lost, Work.dropAttempt_of_no_policy plain] at run rel plan state load
  rw [Work.abandonWith_step step]
  generalize w.recorded x status e = v at run rel plan state load record
  have left : v.stepOver.run.discarded = [] := by
    rw [Work.stepOver, run]
    exact nothing
  rw [Work.settleDiscarded_nil left]
  unfold Work.stepOver
  refine ⟨rfl, ?_, ?_, ?_, left, record, state, load, rfl, plan, ?_, ?_, ?_⟩
  · rw [run]
  · rw [run]
  · rw [run]
  · rw [rel]
  · rw [rel]
  · rw [rel]
    exact count

end Sys2Proof.Machine

namespace Sys2Proof.Machine

/-! ### Cumulus's accesses (R328, R330, R706) -/

theorem Work.readEffects_accessed (w : Work) (rq pa n : Nat) : w.Accessed (w.readEffects rq pa n) :=
  .foldl (fun v l => v.readLine_accessed rq l) w _

theorem Work.cumReads_accessed (w : Work) (a n : Nat) : w.Accessed (w.cumReads a n) := by
  unfold Work.cumReads
  split
  · exact .refl w
  · refine .foldl (fun v r => ?_) w _
    split
    · split
      · exact v.readEffects_accessed _ _ _
      · exact .refl v
    · exact .refl v

theorem Work.cumWrite_accessed (w : Work) (a : Nat) (bs : List Byte) : w.Accessed (w.cumWrite a bs) := by
  unfold Work.cumWrite
  refine .foldl (fun v piece => ?_) w _
  extract_lets data
  split
  · exact .refl v
  · extract_lets t
    split
    · exact v.hbmWrite_accessed _ _ _
    · exact ⟨by constructor <;> rfl, rfl, rfl⟩
    · exact v.linkWrite_accessed _ _

theorem Work.tableReads_accessed (w : Work) (p : Policy) (s l : Nat) : w.Accessed (w.tableReads p s l) := by
  unfold Work.tableReads
  split
  · exact .refl w
  · exact ((w.cumReads_accessed _ _).trans (Work.cumReads_accessed _ _ _)).trans (.foldl (fun v b => v.cumReads_accessed _ _) _ _)

theorem Work.setEnt_accessed (w : Work) (p : Policy) (s l k x : Nat) : w.Accessed (w.setEnt p s l k x) := by
  unfold Work.setEnt
  split
  · exact w.cumWrite_accessed _ _
  · exact .refl w

theorem Work.setTokens_accessed (w : Work) (p : Policy) (s l n : Nat) : w.Accessed (w.setTokens p s l n) := w.cumWrite_accessed _ _

theorem Work.bump_accessed (w : Work) (p : Policy) (s l : Nat) (held spilled : Int) : w.Accessed (w.bump p s l held spilled) :=
  (w.cumWrite_accessed _ _).trans (Work.cumWrite_accessed _ _ _)

theorem Work.queueRun_accessed (w : Work) (a n : Nat) (wr : Bool) : w.Accessed (w.queueRun a n wr) := .of_blocks w _ w.rel

theorem Work.queueCopy_accessed (w : Work) (src dst n : Nat) : w.Accessed (w.queueCopy src dst n) := .of_blocks w _ w.rel

theorem Work.dropCopy_accessed (w : Work) (a n : Nat) : w.Accessed (w.dropCopy a n) := .of_blocks w _ w.rel

theorem Work.cumCopy_accessed (w : Work) (p : Policy) (src dst : Nat) : w.Accessed (w.cumCopy p src dst) :=
  (w.cumReads_accessed _ _).trans (Work.cumWrite_accessed _ _ _)

theorem Work.peerRead_accessed (w : Work) (a n : Nat) : w.Accessed (w.peerRead a n) := by
  unfold Work.peerRead
  refine .foldl (fun v r => ?_) w _
  split
  · split
    · exact ⟨by constructor <;> rfl, rfl, rfl⟩
    · exact .refl v
  · exact .refl v

/-! ### What Cumulus's moves of pages leave unchanged (R680 to R704) -/

/-- Two work states that agree in everything but Cumulus, what an access can change, and the log. -/
structure Work.CumServed (w v : Work) : Prop where
  cad : v.cad = w.cad
  cores : v.cores = w.cores
  plan : v.plan = w.plan
  run : v.run = w.run
  scales : v.scales = w.scales
  stages : v.stages = w.stages
  net : v.net = w.net
  dev : w.dev.SameButLog v.dev
  stepCount : v.cum.stepCount = w.cum.stepCount

theorem Work.CumServed.refl (w : Work) : w.CumServed w := ⟨rfl, rfl, rfl, rfl, rfl, rfl, rfl, rfl, rfl⟩

theorem Work.CumServed.trans {a b c : Work} (h : a.CumServed b) (k : b.CumServed c) : a.CumServed c :=
  ⟨k.cad.trans h.cad, k.cores.trans h.cores, k.plan.trans h.plan, k.run.trans h.run, k.scales.trans h.scales, k.stages.trans h.stages,
    k.net.trans h.net, h.dev.trans k.dev, k.stepCount.trans h.stepCount⟩

theorem Work.CumServed.foldl {α : Type} {f : Work → α → Work} (h : ∀ (v : Work) x, v.CumServed (f v x)) (w : Work) (xs : List α) :
    w.CumServed (xs.foldl f w) :=
  List.foldlRecOn xs f (.refl w) (fun v hv x _ => hv.trans (h v x))

theorem Work.Accessed.cumServed {w v : Work} (h : w.Accessed v) : w.CumServed v :=
  ⟨h.access.cad, h.access.cores, h.access.plan, h.access.run, h.access.scales, h.access.stages, h.access.net, h.dev, by rw [h.access.cum]⟩

/-- Two states of Cumulus that agree in the open slots, the tables, the stalls, what is left to evict, the entries treated and the counts
of appends and stalls. -/
def Cum.SameButPages (c d : Cum) : Prop :=
  d = { c with pages := d.pages, tiers := d.tiers, blocks := d.blocks, reserved := d.reserved, reservedTier := d.reservedTier
               journal := d.journal, deferred := d.deferred, filling := d.filling, spilling := d.spilling, fetching := d.fetching
               fetchQueue := d.fetchQueue, evictions := d.evictions, spills := d.spills, fetches := d.fetches, spillOn := d.spillOn
               tierFull := d.tierFull, tierFullSeen := d.tierFullSeen }

theorem Cum.SameButPages.trans {a b c : Cum} (h : a.SameButPages b) (k : b.SameButPages c) : a.SameButPages c := by
  unfold Cum.SameButPages at *
  rw [k, h]

/-- Moves of pages. -/
structure Work.Moved (w v : Work) : Prop where
  served : w.CumServed v
  cum : w.cum.SameButPages v.cum

theorem Work.Moved.refl (w : Work) : w.Moved w := ⟨.refl w, rfl⟩

theorem Work.Moved.trans {a b c : Work} (h : a.Moved b) (k : b.Moved c) : a.Moved c := ⟨h.served.trans k.served, h.cum.trans k.cum⟩

theorem Work.Moved.foldl {α : Type} {f : Work → α → Work} (h : ∀ (v : Work) x, v.Moved (f v x)) (w : Work) (xs : List α) :
    w.Moved (xs.foldl f w) :=
  List.foldlRecOn xs f (.refl w) (fun v hv x _ => hv.trans (h v x))

theorem Work.Accessed.moved {w v : Work} (h : w.Accessed v) : w.Moved v := ⟨h.cumServed, by rw [h.access.cum]; rfl⟩

/-- A change of Cumulus's pages alone. -/
theorem Work.Moved.of_cum (w : Work) {c : Cum} (h : w.cum.SameButPages c) : w.Moved { w with cum := c } :=
  ⟨⟨rfl, rfl, rfl, rfl, rfl, rfl, rfl, rfl, by rw [h]⟩, h⟩

theorem Work.startSpill_moved (w : Work) (p : Policy) (c : Nat × Nat × Nat) : w.Moved (w.startSpill p c) := by
  unfold Work.startSpill
  exact .trans (.of_cum w (by rfl)) ((Work.queueCopy_accessed _ _ _ _).trans (Work.setEnt_accessed _ _ _ _ _ _)).moved

theorem Work.spill_moved (w : Work) (p : Policy) : w.Moved (w.spill p) := by
  unfold Work.spill
  split
  · extract_lets w1 want w2
    have read : w.Moved w1 := .foldl (fun v s => (v.cumReads_accessed _ _).moved) w _
    have started : w1.Moved w2 := .foldl (fun v c => v.startSpill_moved p c) w1 _
    exact (read.trans started).trans (.of_cum w2 (by rfl))
  · exact .of_cum w (by rfl)

theorem Work.startFetch_moved (w : Work) (p : Policy) (f : LateEvict) : w.Moved (w.startFetch p f) := by
  unfold Work.startFetch
  split
  · exact .refl w
  · exact .trans (.of_cum w (by rfl))
      (((Work.peerRead_accessed _ _ _).trans (Work.queueCopy_accessed _ _ _ _)).trans (Work.setEnt_accessed _ _ _ _ _ _)).moved

theorem Work.fetches_moved (p : Policy) (n : Nat) (w : Work) : w.Moved (Work.fetches p n w) := by
  induction n generalizing w with
  | zero => exact .refl w
  | succ n ih =>
    unfold Work.fetches
    split
    · exact .refl w
    · split
      · exact .refl w
      · exact (Work.Moved.trans (.of_cum w (by rfl)) (Work.startFetch_moved _ p _)).trans (ih _)

theorem Work.cumRun_moved (w : Work) (p : Policy) : w.Moved (w.cumRun p) := (Work.fetches_moved p _ w).trans (Work.spill_moved _ p)

/-- Rows on their way to a page. -/
theorem Work.fill_moved (w : Work) (p : Policy) (m : PageMove) : w.Moved (w.fill p m) := by
  unfold Work.fill
  dsimp only
  split
  · exact .of_cum w (by rfl)
  · have filling : w.Moved { w with cum.filling := w.cum.filling ++ [m] } := .of_cum w (by rfl)
    split
    · exact (filling.trans (.of_cum _ (by rfl))).trans (Work.setEnt_accessed _ _ _ _ _ _).moved
    · split
      · exact filling.trans (Work.setEnt_accessed _ _ _ _ _ _).moved
      · exact filling
    · have dropped (v : Work) (ts : List Nat) : v.Moved (ts.foldl (fun w t => w.dropCopy (p.tier t) p.pageBytes) v) :=
        .foldl (fun v t => (v.dropCopy_accessed _ _).moved) v ts
      exact (((filling.trans (Work.dropCopy_accessed _ _ _).moved).trans (dropped _ _)).trans (.of_cum _ (by rfl))).trans
        (Work.setEnt_accessed _ _ _ _ _ _).moved
    · exact filling.trans (Work.setEnt_accessed _ _ _ _ _ _).moved

theorem Work.allocate_moved (w : Work) (p : Policy) (m : PageMove) : w.Moved (w.allocate p m) := by
  unfold Work.allocate
  dsimp only
  refine .trans ?_ (.foldl (fun v r => (v.queueRun_accessed _ _ _).moved) _ _)
  exact .trans (.trans (.of_cum w (by rfl)) (Work.setEnt_accessed _ _ _ _ _ _).moved) (Work.fill_moved _ p m)

theorem Work.serveDeferred_moved (p : Policy) (n : Nat) (w : Work) : w.Moved (Work.serveDeferred p n w) := by
  induction n generalizing w with
  | zero => exact .refl w
  | succ n ih =>
    unfold Work.serveDeferred
    split
    · exact .refl w
    · split
      · exact .refl w
      · exact (Work.Moved.trans (.of_cum w (by rfl)) (Work.allocate_moved _ p _)).trans (ih _)

/-! ### What an undo and a commit leave unchanged (R687 to R690, R713, R717, R718) -/

/-- A change of Cumulus alone that keeps the count of steps. -/
theorem Work.CumServed.of_cum (w : Work) {c : Cum} (h : c.stepCount = w.cum.stepCount) : w.CumServed { w with cum := c } :=
  ⟨rfl, rfl, rfl, rfl, rfl, rfl, rfl, rfl, h⟩

theorem Work.undo_served (w : Work) (p : Policy) (j : Journal) : w.CumServed (w.undo p j) := by
  have put (v : Work) (s l k x : Nat) (h sp : Int) : v.CumServed ((v.setEnt p s l k x).bump p s l h sp) :=
    ((v.setEnt_accessed _ _ _ _ _).trans (Work.bump_accessed _ _ _ _ _ _)).cumServed
  cases j with
  | tokens s l n held => exact (w.setTokens_accessed _ _ _ _).cumServed
  | took s l k page =>
    simp only [Work.undo]
    refine .trans (.trans (b := Work.dropCopy { w with cum.filling := w.cum.filling.filter (fun m => ¬(m.slot = s ∧ m.layer = l ∧ m.page = k)) }
      (p.pool page) p.pageBytes) (.trans (.of_cum w (by rfl)) (Work.dropCopy_accessed _ _ _).cumServed) ?_) (.of_cum _ (by rfl))
    split
    · exact .refl _
    · exact put _ _ _ _ _ _ _
  | block s l b addr => exact .trans (.of_cum w (by rfl)) (Work.cumWrite_accessed _ _ _).cumServed
  | evicted s l k e other =>
    simp only [Work.undo]
    split
    · exact (put w _ _ _ _ _ _).trans (.of_cum _ (by rfl))
    · exact (put w _ _ _ _ _ _).trans (.of_cum _ (by rfl))
    · exact put w _ _ _ _ _ _
    · exact put w _ _ _ _ _ _

theorem Work.shrink_served (w : Work) (p : Policy) (m : PageMove) : w.CumServed (w.shrink p m) := by
  unfold Work.shrink
  extract_lets here c v x
  have freed : w.CumServed v := .of_cum w (by rfl)
  split
  · exact .of_cum w (by rfl)
  · split
    · exact freed.trans (v.setEnt_accessed _ _ _ _ _).cumServed
    · split
      · exact freed.trans (v.setEnt_accessed _ _ _ _ _).cumServed
      · split
        · exact freed.trans ((v.dropCopy_accessed _ _).trans (Work.setEnt_accessed _ _ _ _ _ _)).cumServed
        · exact freed

theorem Work.undoSlots_served (w : Work) (p : Policy) (f : Nat → Bool) : w.CumServed (w.undoSlots p f) := by
  unfold Work.undoSlots
  extract_lets mine waits c w1 w2 w3 w4
  have given : w.CumServed w1 := .of_cum w (by rfl)
  have waited : w1.CumServed w2 :=
    .foldl (fun v m => ((v.setEnt_accessed _ _ _ _ _).trans (Work.bump_accessed _ _ _ _ _ _)).cumServed) w1 _
  have undone : w2.CumServed w3 := .foldl (fun v j => v.undo_served p j) w2 _
  have shrunk : w3.CumServed w4 := .foldl (fun v m => v.shrink_served p m) w3 _
  exact (((given.trans waited).trans undone).trans shrunk).trans (.of_cum w4 rfl)

/-- Cumulus as it was at tick 0. -/
theorem Work.cumUndo_served (w : Work) : w.CumServed w.cumUndo := by
  unfold Work.cumUndo
  split
  · exact .refl w
  next p _ =>
    extract_lets v
    exact ((w.undoSlots_served p _).trans (.of_cum v (by rfl))).trans (Work.cumRun_moved _ p).served

/-- Every slot closed. -/
theorem Work.closeSlots_served (w : Work) : w.CumServed w.closeSlots := by
  unfold Work.closeSlots
  extract_lets v mem
  have cleared : w.CumServed v := by
    unfold v
    split
    · exact .refl w
    · exact .foldl (fun v s => (v.cumWrite_accessed _ _).cumServed) w _
  exact cleared.trans ⟨rfl, rfl, rfl, rfl, rfl, rfl, rfl, rfl, rfl⟩

end Sys2Proof.Machine

namespace Sys2Proof.Machine

/-! ### The clock goes on when steps are given up (R94, R125) -/

theorem Work.dropAttempt_cad (w : Work) : w.dropAttempt.cad = w.cad := (w.mapCores (fun _ x => x.idleWork)).cumUndo_served.cad

theorem Work.losing_cad (w : Work) (status : Nat) : (w.losing status).cad = w.cad := by
  unfold Work.losing
  split <;> rfl

theorem Work.settleDiscarded_cad (w : Work) (status : Nat) : (w.settleDiscarded status).cad = w.cad :=
  List.foldlRecOn (motive := fun (v : Work) => v.cad = w.cad) w.run.discarded _ rfl (fun v same _ _ => (v.finish_same _ _ _).cad.trans same)

theorem Work.abandonWith_cad (w : Work) (status : Nat) (e : Option StepEvent) : (w.abandonWith status e).cad = w.cad := by
  cases step : w.run.step with
  | some x =>
    rw [Work.abandonWith_step step, Work.settleDiscarded_cad]
    exact ((Work.finish_same _ _ _ _).cad.trans (Work.losing_cad _ _)).trans w.dropAttempt_cad
  | none =>
    cases ended : w.run.ended with
    | none => simp only [Work.abandonWith, step, ended]
    | some x =>
      simp only [Work.abandonWith, step, ended]
      rw [Work.settleDiscarded_cad]
      exact (Work.finish_same _ _ _ _).cad.trans (Work.losing_cad w status)

theorem Work.leaveSteps_cad (w : Work) (e : Option StepEvent) : (w.leaveSteps e).cad = w.cad := by
  unfold Work.leaveSteps
  extract_lets going u c v
  have begun : u.cad = w.cad := by
    unfold u
    split <;> rfl
  have given : v.cad = c.cad := by
    unfold v
    split <;> exact Work.abandonWith_cad _ _ _
  obtain ⟨y, same, eq⟩ := (v.settleDiscarded stPeerLost).closeSlots.disarm_eq 1
  rw [eq]
  calc y.cad = (v.settleDiscarded stPeerLost).closeSlots.cad := same.cad
    _ = v.cad := (Work.closeSlots_served _).cad.trans (Work.settleDiscarded_cad v _)
    _ = w.cad := given.trans begun

/-! ### Leaving a herd (R125, R659, R894) -/

/-- What steps leave behind when the module leaves: no plan and no slot open, whatever ran. -/
theorem Work.leaveSteps_closed (w : Work) (e : Option StepEvent) :
    (w.leaveSteps e).plan = none ∧ (w.leaveSteps e).cum.openSlots = [] ∧ (w.leaveSteps e).cum.batch = [] := by
  unfold Work.leaveSteps
  extract_lets going u c v
  obtain ⟨y, same, eq⟩ := (v.settleDiscarded stPeerLost).closeSlots.disarm_eq 1
  have closed : y.cum = ((v.settleDiscarded stPeerLost).closeSlots).cum := same.cum
  rw [eq]
  exact ⟨rfl, congrArg Cum.openSlots closed, congrArg Cum.batch closed⟩

/-- Without a policy closing every slot changes Cumulus and what waits for memory. -/
theorem Work.closeSlots_of_no_policy {w : Work} (plain : w.policy? = none) :
    w.closeSlots.dev = w.dev ∧ w.closeSlots.rel = w.rel ∧ w.closeSlots.run = w.run := by
  simp only [Work.closeSlots, plain]
  exact ⟨trivial, trivial, trivial⟩

/-- A plan disarmed with no step accepted or queued completes no record. -/
theorem Work.disarm_idle {w : Work} (accepted : w.run.accepted = none) (queued : w.run.queued = none) (event : Nat) :
    (w.disarm event).dev = w.dev ∧ (w.disarm event).rel = w.rel := by
  simp only [Work.disarm, accepted, queued]
  exact ⟨trivial, trivial⟩

/-- A step that runs or is held when the module leaves, with none queued, is given up with ST_PEER_LOST. -/
theorem Work.leaveSteps_step {w : Work} {x : StepSt} (step : w.run.step = some x) (queued : w.run.queued = none) (e : Option StepEvent) :
    w.leaveSteps e = (((w.mapCores (fun _ x => x.settle false)).abandonWith stPeerLost e).settleDiscarded stPeerLost).closeSlots.disarm 1 := by
  have going : (w.run.step.isSome || w.run.ended.isSome) = true := by rw [step]; rfl
  have same : { w with run := w.run.discardQueued } = w := by rw [Run.discardQueued, queued]
  have kept : (w.mapCores (fun _ x => x.settle false)).run.step = some x := step
  simp only [Work.leaveSteps, going, if_true, same, kept]

/-- What leaving does to the device block and to what waits, where a step runs or is held without a policy and with nothing else to give up:
the record says ST_PEER_LOST. -/
structure Work.StepLeft (w v : Work) (x : StepSt) (r : RSlot) : Prop where
  record : ∃ b, mget v.dev.results none x.req.slot = some { r with ready := true, status := BitVec.ofNat 8 stPeerLost, body := b }
  load : v.dev.load = w.dev.load
  acts : v.rel.acts = w.rel.acts
  classPending : v.rel.classPending = w.rel.classPending

theorem Work.leaveSteps_left {w : Work} {x : StepSt} {r : RSlot} (step : w.run.step = some x) (plain : w.policy? = none)
    (accepted : w.run.accepted = none) (queued : w.run.queued = none) (nothing : w.run.discarded = [])
    (slot : mget w.dev.results none x.req.slot = some r) (e : Option StepEvent) : w.StepLeft (w.leaveSteps e) x r := by
  have gave := Work.abandonWith_gaveUp (w := w.mapCores (fun _ x => x.settle false)) step plain nothing slot stPeerLost e
  rw [Work.leaveSteps_step step queued]
  generalize (w.mapCores (fun _ x => x.settle false)).abandonWith stPeerLost e = v at gave
  have noPolicy : v.policy? = none := (congrArg (Option.bind · Plan.policy) gave.plan).trans plain
  obtain ⟨dev, rel, run⟩ := Work.closeSlots_of_no_policy noPolicy
  obtain ⟨dev', rel'⟩ := Work.disarm_idle (w := v.closeSlots) (by rw [run]; exact gave.accepted.trans accepted)
    (by rw [run]; exact gave.queued.trans queued) 1
  rw [Work.settleDiscarded_nil gave.discarded]
  exact ⟨⟨_, (congrArg (fun d => mget d.results none x.req.slot) (dev'.trans dev)).trans gave.record⟩,
    (congrArg Dev.load (dev'.trans dev)).trans gave.load, (congrArg Rel.acts (rel'.trans rel)).trans gave.acts,
    (congrArg Rel.classPending (rel'.trans rel)).trans gave.classPending⟩

theorem Work.leaveLoad_same (w : Work) : w.SamePlanWork w.leaveLoad := by
  unfold Work.leaveLoad
  split
  · exact .trans (by constructor <;> rfl) (Work.finish_same _ _ _ _)
  · exact .refl w

theorem Work.leaveLoad_idle {w : Work} (idle : w.dev.load = none) : w.leaveLoad = w := by
  simp only [Work.leaveLoad, idle]

/-- The state of a module that has left its herd, before it enters STANDBY. -/
def State.parted (s : State) (e : Option StepEvent) : State :=
  let w := (s.w.leaveSteps e).leaveLoad
  { s with
    w := { w with
      cad := { w.cad with lock := 0, bellwether := false, ppsOk := false, ptpOk := false, stopPending := false, beatPort := none
                          anchor := none, epochNs := none, xherdErr := 0 }
      run := {}
      net := w.net.clear
      mem := { w.mem with reqs := [] }
      dev := { w.dev with held := false } }
    fab := { s.fab with joined := false } }

theorem State.leaveHerd_eq (s : State) (cause : Cause) (e : Option StepEvent) : s.leaveHerd cause e = (s.parted e).enter .standby cause := rfl

/-- What a member has left behind in STANDBY. -/
structure State.Left (t : State) : Prop where
  state : t.w.dev.state = .standby
  lock : t.w.cad.lock = 0
  bellwether : t.w.cad.bellwether = false
  plan : t.w.plan = none
  run : t.w.run = {}
  joined : t.fab.joined = false
  openSlots : t.w.cum.openSlots = []
  batch : t.w.cum.batch = []
  colls : t.w.net.colls = []

theorem State.leaveHerd_left (s : State) (cause : Cause) (e : Option StepEvent) : (s.leaveHerd cause e).Left := by
  rw [State.leaveHerd_eq]
  obtain ⟨entered, state⟩ := (s.parted e).enter_serviced .standby cause
  obtain ⟨plan, openSlots, batch⟩ := s.w.leaveSteps_closed e
  have load := (s.w.leaveSteps e).leaveLoad_same
  refine ⟨state, ?_, ?_, ?_, ?_, ?_, ?_, ?_, ?_⟩
  · rw [entered.work.cad]; rfl
  · rw [entered.work.cad]; rfl
  · rw [entered.work.plan]; exact load.plan.trans plan
  · exact entered.work.quiet rfl
  · rw [entered.fab]; rfl
  · rw [entered.work.cum]; exact (congrArg Cum.openSlots load.cum).trans openSlots
  · rw [entered.work.cum]; exact (congrArg Cum.batch load.cum).trans batch
  · rw [entered.work.net]; rfl

theorem State.leaveHerd_beatLost (s : State) (cause : Cause) (e : Option StepEvent) :
    (s.leaveHerd cause e).w.cad.beatLost = s.w.cad.beatLost := by
  rw [State.leaveHerd_eq, ((s.parted e).enter_serviced .standby cause).1.work.cad]
  exact (congrArg Cad.beatLost ((Work.leaveLoad_same _).cad.trans (s.w.leaveSteps_cad e)) :)

/-- The record of the step that a member gives up as it leaves. -/
theorem State.leaveHerd_record {s : State} {x : StepSt} {r : RSlot} (idle : s.w.changeWaits = false) (step : s.w.run.step = some x)
    (plain : s.w.policy? = none) (accepted : s.w.run.accepted = none) (queued : s.w.run.queued = none) (nothing : s.w.run.discarded = [])
    (load : s.w.dev.load = none) (slot : mget s.w.dev.results none x.req.slot = some r) (cause : Cause) (e : Option StepEvent) :
    ∃ b, mget (s.leaveHerd cause e).w.dev.results none x.req.slot =
      some { r with ready := true, status := BitVec.ofNat 8 stPeerLost, body := b } := by
  have left := Work.leaveSteps_left step plain accepted queued nothing slot e
  have unloaded : (s.w.leaveSteps e).leaveLoad = s.w.leaveSteps e := Work.leaveLoad_idle (left.load.trans load)
  have rel : (s.parted e).w.rel = (s.w.leaveSteps e).rel := congrArg (fun w => w.rel) unloaded
  have dev : (s.parted e).w.dev.results = (s.w.leaveSteps e).dev.results := congrArg (fun w => w.dev.results) unloaded
  have calm : (s.parted e).w.changeWaits = false := by
    unfold Work.changeWaits at idle ⊢
    rw [rel, left.acts, left.classPending]
    exact idle
  obtain ⟨b, record⟩ := left.record
  refine ⟨b, ?_⟩
  rw [State.leaveHerd_eq, State.enter_idle _ calm, Work.setState_dev_results, dev]
  exact record

/-- An event stands last in the log. -/
theorem Work.event_logged (w : Work) (kind sev unit sub idx addr data : Nat) :
    (w.event kind sev unit sub idx addr data).dev.log.getLast? = some (w.eventEntry kind sev unit sub idx addr data) := by
  have messages {d e : Dev} (h : d.SameButNotices e) : e.log = d.log := by rw [h]
  unfold Work.event
  rw [messages (Work.note_notices _ _ _ _), messages (Work.raise_notices _ 3)]
  exact List.getLast?_concat

/-- A reply leaves what a member that left has left behind. -/
theorem State.Left.reply {t : State} (h : t.Left) (ring status : Nat) (result : List Byte) : (t.reply ring status result).Left := by
  have same := t.w.reply_same ring status result
  refine ⟨(Work.reply_dev_state _ _ _ _).trans h.state, ?_, ?_, same.plan.trans h.plan, same.run.trans h.run, h.joined, ?_, ?_, ?_⟩
  · exact (congrArg Cad.lock same.cad).trans h.lock
  · exact (congrArg Cad.bellwether same.cad).trans h.bellwether
  · exact (congrArg Cum.openSlots same.cum).trans h.openSlots
  · exact (congrArg Cum.batch same.cum).trans h.batch
  · exact (congrArg Net.colls same.net).trans h.colls

end Sys2Proof.Machine

open Sys2Proof Sys2Proof.Machine

/-- Settles O26: all three ways out are `State.leaveHerd` (`State.leaveHerd_left`, `State.leaveHerd_record`). -/
theorem herdLeft : Obligations.HerdLeft := by
  refine fun ring port code s => ⟨fun on => ?_, fun on => ?_⟩
  · intro left
    have all {t : State} (h : t.Left) (record : s.w.changeWaits = false → s.w.policy? = none → s.w.run.accepted = none →
        s.w.run.queued = none → s.w.run.discarded = [] → s.w.dev.load = none → ∀ x r, s.w.run.step = some x →
        mget s.w.dev.results none x.req.slot = some r → ∃ b, mget t.w.dev.results none x.req.slot =
          some { r with ready := true, status := BitVec.ofNat 8 stPeerLost, body := b }) : left t :=
      ⟨h.state, h.lock, h.bellwether, h.plan, h.run, h.joined, h.openSlots, h.batch, h.colls,
        fun idle plain _ => record idle plain⟩
    refine ⟨fun idle => ?_, fun working => ?_, fun led => ?_⟩
    · let s' : State := { s with w := { s.w with out := s.w.out ++ [Out.leave] } }
      have answer : s.command ring member (fun s => if s.w.dev.load.isSome then s.refuse stBusy
          else { s := State.leaveHerd { s with w := { s.w with out := s.w.out ++ [Out.leave] } } .command none, status := stOk }) =
          (s'.leaveHerd .command none).reply ring stOk [] :=
        State.command_answers on (by decide) (a := ⟨s'.leaveHerd .command none, stOk, []⟩) (if_neg (by simp [idle]))
      refine ⟨_, congrArg Host.Outcome.next answer, all ((s'.leaveHerd_left .command none).reply ring stOk [])
        (fun idle plain accepted queued nothing load x r step slot => ?_)⟩
      obtain ⟨b, record⟩ := State.leaveHerd_record (s := s') idle step plain accepted queued nothing load slot .command none
      exact ⟨b, (congrArg (mget · none x.req.slot) (Work.reply_dev_results _ _ _ _)).trans record⟩
    · refine ⟨_, congrArg Host.Outcome.next (if_pos ⟨on, working⟩), all (State.leaveHerd_left _ .command none)
        (fun idle plain accepted queued nothing load x r step slot => ?_)⟩
      exact State.leaveHerd_record (s := { s with w := { s.w with out := s.w.out ++ [Out.leave] } }) idle step plain accepted queued
        nothing load slot .command none
    · refine ⟨_, congrArg Host.Outcome.next (if_pos ⟨on, by simp [led]⟩), all (State.leaveHerd_left _ .beatLoss _)
        (fun idle plain accepted queued nothing load x r step slot => ?_), ?_⟩
      · exact State.leaveHerd_record (s := { s with w := { s.w with cad := { s.w.cad with beatLost := true } } }) idle step plain accepted
          queued nothing load slot .beatLoss _
      · exact State.leaveHerd_beatLost _ .beatLoss _
  · have logged := s.w.event_accessed 0x000F 5 0xFFFF 0 0 0 code
    have same := s.w.event_same 0x000F 5 0xFFFF 0 0 0 code
    have last := s.w.event_logged 0x000F 5 0xFFFF 0 0 0 code
    refine ⟨_, congrArg Host.Outcome.next (if_neg on), Work.setState_dev_state _ _ _, fun fresh => ?_,
      (congrArg List.getLast? (Work.setState_log _ _ _).1).trans last, same.trans (Work.setState_same _ _ _), rfl, rfl, rfl, rfl⟩
    have changes : DevState.fault ≠ (s.w.event 0x000F 5 0xFFFF 0 0 0 code).dev.state := by rw [logged.dev.state]; exact fresh.symm
    refine ⟨Work.setState_dev_cause _ _ changes, ?_⟩
    rw [Work.setState_dev _ .internal changes]
    exact logged.dev.state

end

section
/-!
The decision after a stop (O32).
-/

namespace Sys2Proof.Machine

/-! ### The decision after a stop (R910) -/

/-- The state once a stop is decided: it is over, and no hold is left. -/
def State.stopClosed (s : State) : State := { s with w := { s.w with run :=
  { s.w.run with stopped := false, holdCmd := false, thermalStop := false, wantStop := s.w.run.wantStop && s.w.run.ended.isSome } } }

/-- What cores held aside counted under its causes. -/
def State.calmed (s : State) : State := { s with w := s.w.mapCores (fun _ x => x.settle false) }

/-- Whether a detection, or a hold, stands among the reports. -/
def State.detected (s : State) (reports : List StopReport) : Bool :=
  !s.w.run.detections.isEmpty || reports.any (fun r => decide (r.kind = .detection))

def State.holds (s : State) (reports : List StopReport) : Bool :=
  s.w.run.holdCmd || s.w.run.thermalStop || reports.any (fun r => decide (r.kind = .hold))

section
variable {s : State} {reports : List StopReport}

theorem State.decideStop_abandon {st : Nat} {e : StepEvent} (first : s.firstAbandon reports = some (st, e)) :
    s.decideStop reports = { s with w :=
      { s.stopClosed.calmed.w.abandonWith st (some e) with run :=
        { (s.stopClosed.calmed.w.abandonWith st (some e)).run with abandon := none, faulted := false, detections := [] } } } := by
  simp only [State.decideStop, first]
  rfl

theorem State.decideStop_lost {p : Plan} {x : StepSt} {e : StepEvent} (quiet : s.firstAbandon reports = none) (det : s.detected reports = true)
    (plan : s.w.plan = some p) (step : s.w.run.step = some x) (out : s.w.optedOut p = some e) :
    s.decideStop reports = { s with w := s.stopClosed.calmed.w.abandonWith stDataLost (some e) } := by
  unfold State.detected at det
  simp only [State.decideStop, State.stopClosed, State.calmed, quiet, plan, det, step, Option.isSome_some, Bool.and_self, out]

theorem State.decideStop_replay {p : Plan} {x : StepSt} (quiet : s.firstAbandon reports = none) (det : s.detected reports = true)
    (plan : s.w.plan = some p) (step : s.w.run.step = some x) (kept : s.w.optedOut p = none) :
    s.decideStop reports = s.stopClosed.replayRow p (s.holds reports) := by
  unfold State.detected at det
  simp only [State.decideStop, State.stopClosed, State.holds, quiet, plan, det, step, Option.isSome_some, Bool.and_self, kept]

theorem State.decideStop_nothing (quiet : s.firstAbandon reports = none) (det : s.detected reports = false) :
    s.decideStop reports = s.stopClosed.calmed := by
  unfold State.detected at det
  cases plan : s.w.plan with
  | none => simp only [State.decideStop, State.stopClosed, State.calmed, quiet, plan, det, Bool.false_and]
  | some p => simp only [State.decideStop, State.stopClosed, State.calmed, quiet, plan, det, Bool.false_and]

end

/-- An undefined region, and written versions discarded, change memory alone. -/
theorem Work.undefWritten_eq (w : Work) (p : Plan) : ∃ m, w.undefWritten p = { w with mem := m } := by
  unfold Work.undefWritten
  generalize p.commits.filter _ = es
  induction es generalizing w with
  | nil => exact ⟨w.mem, rfl⟩
  | cons e es ih =>
    obtain ⟨m, hm⟩ := w.undefRegion_eq (p.regions.getD (commitFields e).2.1 0)
    rw [List.foldl_cons, hm]
    exact ih { w with mem := m }

/-- What a rollback leaves (R911). -/
structure Work.RolledBack (w v : Work) : Prop where
  run : v.run = { w.run with counting := false, sections := [], mass := [], chanStats := [], slotStats := [], sets := [], landed := []
                             tick := 0, applied := 0, decided := 0, nextDecision := 0, stretches := [], holds := []
                             detections := [], abandon := none, faulted := false, rerun := true }
  plan : v.plan = w.plan
  cad : v.cad = w.cad
  state : v.dev.state = w.dev.state

/-- What is left when an attempt is dropped. -/
structure Work.Dropped (w v : Work) : Prop where
  run : v.run = { w.run with counting := false, sections := [], mass := [], chanStats := [], slotStats := [], sets := [], landed := [] }
  plan : v.plan = w.plan
  cad : v.cad = w.cad
  dev : w.dev.SameButLog v.dev

theorem Work.dropAttempt_dropped (w : Work) : w.Dropped w.dropAttempt := by
  have undone := (w.mapCores (fun _ x => x.idleWork)).cumUndo_served
  unfold Work.dropAttempt
  generalize Work.cumUndo _ = v at undone
  have run : v.run = w.run := undone.run
  exact ⟨by dsimp only; rw [run], undone.plan, undone.cad, undone.dev⟩

theorem Work.rollback_rolledBack (w : Work) (p : Plan) : w.RolledBack (w.rollback p) := by
  obtain ⟨m, written⟩ := w.undefWritten_eq p
  obtain ⟨m', scratch⟩ := ({ w with mem := m } : Work).undefScratch_eq p
  have dropped := ({ w with mem := m' } : Work).dropAttempt_dropped
  unfold Work.rollback
  rw [written, scratch]
  generalize Work.dropAttempt _ = v at dropped
  exact ⟨by dsimp only [Work.mapCores]; rw [dropped.run], dropped.plan, dropped.cad, dropped.dev.state⟩

theorem State.replayRow_eq {s : State} {x : StepSt} (step : s.w.run.step = some x) (p : Plan) (hold : Bool) :
    s.replayRow p hold =
      if s.w.rel.replayLimit.toNat ≤ x.sinceResume then
        { s with w := { (s.w.rollback p).holdAtZero with dev := { (s.w.rollback p).dev with held := true, cause := .maintenance } } }
      else if hold then { s with w := (s.w.rollback p).holdAtZero } else State.orderRerun { s with w := s.w.rollback p } := by
  simp only [State.replayRow, step, decide_eq_true_eq]

/-- Row 5 names a herd tick at the bellwether, and changes nothing else of the run. -/
theorem State.orderRerun_spec (s : State) :
    s.orderRerun.w.run = { s.w.run with resumeAt := s.orderRerun.w.run.resumeAt } ∧ s.orderRerun.w.dev = s.w.dev ∧
      s.orderRerun.w.plan = s.w.plan ∧
      (s.w.cad.bellwether = true → ∃ k, s.orderRerun.w.run.resumeAt = some k ∧ s.w.cad.tickCount.toNat + s.w.lead ≤ k) := by
  unfold State.orderRerun
  generalize named : s.w.cad.tickCount.toNat + s.w.lead + Config.freeLead s.w.cad.tickCount.toNat = k
  have ahead : s.w.cad.tickCount.toNat + s.w.lead ≤ k := named ▸ Nat.le_add_right _ _
  split
  · exact ⟨rfl, rfl, rfl, fun _ => ⟨k, rfl, ahead⟩⟩
  next other => exact ⟨rfl, rfl, rfl, fun bell => absurd bell other⟩

end Sys2Proof.Machine

open Sys2Proof Sys2Proof.Machine

/-- Settles O32: the rows of the decision are `State.decideStop_abandon`, `_lost`, `_replay` and `_nothing`; a step that is given up is
`Work.abandonWith_gaveUp`, one that is rolled back `Work.rollback_rolledBack`. -/
theorem stopDecided : Obligations.StopDecided := by
  intro reports s stopped held reported det hold
  have decided : exec (.stopDecision reports) s = .next (s.decideStop reports) :=
    congrArg Host.Outcome.next (if_pos ⟨stopped, held, reported⟩)
  refine ⟨fun st e x r first step plain nothing slot => ?_, fun p x e r quiet det plan step out plain nothing slot => ?_,
    fun p x quiet det plan step kept => ?_, fun quiet det => ?_⟩
  · have gave := Work.abandonWith_gaveUp (w := s.stopClosed.calmed.w) step plain nothing slot st (some e)
    rw [State.decideStop_abandon first] at decided
    exact ⟨_, decided, gave.step, gave.stopped, gave.state.trans held, gave.record, gave.held, gave.plan⟩
  · have gave := Work.abandonWith_gaveUp (w := s.stopClosed.calmed.w) step plain nothing slot stDataLost (some e)
    rw [State.decideStop_lost quiet det plan step out] at decided
    exact ⟨_, _, decided, gave.step, gave.state.trans held, gave.dataLost, gave.record⟩
  · have rolled := s.stopClosed.w.rollback_rolledBack p
    rw [State.decideStop_replay quiet det plan step kept, State.replayRow_eq (s := s.stopClosed) step] at decided
    have limits : s.stopClosed.w.rel.replayLimit = s.w.rel.replayLimit := rfl
    rw [limits] at decided
    have common {t : State} (run : t.w.run = { (s.stopClosed.w.rollback p).run with resumeAt := t.w.run.resumeAt }) :
        t.w.run.step = some x ∧ t.w.run.tick = 0 ∧ t.w.run.applied = 0 ∧ t.w.run.decided = 0 ∧ t.w.run.detections = [] ∧
          t.w.run.rerun = true ∧ t.w.run.stopped = false ∧ t.w.run.counting = false := by
      rw [run, rolled.run]
      exact ⟨step, rfl, rfl, rfl, rfl, rfl, rfl, rfl⟩
    have kept : (s.stopClosed.w.rollback p).run.resumeAt = s.w.run.resumeAt := (congrArg Run.resumeAt rolled.run :)
    have hold_eq : s.holds reports = hold := rfl
    rw [hold_eq] at decided
    by_cases limit : s.w.rel.replayLimit.toNat ≤ x.sinceResume
    · rw [if_pos limit] at decided
      obtain ⟨hstep, tick, applied, dec, detections, rerun, ended, counting⟩ :=
        common (t := { s.stopClosed with w := { (s.stopClosed.w.rollback p).holdAtZero with
          dev := { (s.stopClosed.w.rollback p).dev with held := true, cause := .maintenance } } }) rfl
      exact ⟨_, decided, hstep, tick, applied, dec, detections, rerun, ended, counting, rolled.state.trans held, rolled.plan,
        fun _ => ⟨rfl, rfl, rfl, kept⟩, fun below => absurd limit (Nat.not_le.mpr below), fun below => absurd limit (Nat.not_le.mpr below)⟩
    · rw [if_neg limit] at decided
      by_cases holding : hold = true
      · rw [if_pos holding] at decided
        obtain ⟨hstep, tick, applied, dec, detections, rerun, ended, counting⟩ :=
          common (t := { s.stopClosed with w := (s.stopClosed.w.rollback p).holdAtZero }) rfl
        exact ⟨_, decided, hstep, tick, applied, dec, detections, rerun, ended, counting, rolled.state.trans held, rolled.plan,
          fun above => absurd above limit, fun _ _ => ⟨rfl, rfl, kept⟩, fun _ none => absurd holding (by simp [none])⟩
      · rw [if_neg holding] at decided
        obtain ⟨run, dev, splan, named⟩ := State.orderRerun_spec { s.stopClosed with w := s.stopClosed.w.rollback p }
        obtain ⟨hstep, tick, applied, dec, detections, rerun, ended, counting⟩ := common run
        refine ⟨_, decided, hstep, tick, applied, dec, detections, rerun, ended, counting, (congrArg Dev.state dev).trans (rolled.state.trans held),
          splan.trans rolled.plan, fun above => absurd above limit, fun _ yes => absurd yes holding, fun _ _ bell => ?_⟩
        obtain ⟨k, at_, ahead⟩ := named ((congrArg Cad.bellwether rolled.cad).trans bell)
        refine ⟨k, at_, ?_⟩
        have cad : (s.stopClosed.w.rollback p).cad = s.w.cad := rolled.cad
        rw [Work.lead] at ahead ⊢
        rwa [cad] at ahead
  · rw [State.decideStop_nothing quiet det] at decided
    exact ⟨_, decided, rfl, rfl, rfl, rfl, rfl, ⟨rfl, rfl, rfl, rfl⟩⟩

end

section
/-!
Reruns, resumption and abandonment (O33).
-/

namespace Sys2Proof.Machine

/-! ### Reruns and resumption (R146, R912, R913) -/

/-- What is left of a step that starts again at tick 0 in the present herd tick, before RUNNING is entered. -/
structure Work.Restarted (w v : Work) (p : Plan) (f : StepSt → StepSt) : Prop where
  run : v.run = { w.run.attempted p with step := w.run.step.map (fun x => f { x with startTick := w.cad.tickCount.toNat }) }
  plan : v.plan = w.plan
  scales : v.scales = w.scales
  rel : v.rel = { w.rel with replayActive := false }
  dev : v.dev = { w.dev with held := false }

theorem State.restart_spec (s : State) (p : Plan) (f : StepSt → StepSt) :
    ∃ v, s.restart p f = { s with w := v.setState .running .command } ∧ s.w.Restarted v p f := by
  obtain ⟨cs, long⟩ := s.w.lengthen_eq
  unfold State.restart
  rw [long]
  obtain ⟨cs', m, attempt, -, -⟩ := Work.attempt_spec
    ({ s.w with cores := cs, cad := { s.w.cad with time := s.w.cad.time + s.w.lengthening, drift := s.w.cad.drift + s.w.lengthening } } : Work) p
  dsimp only at attempt ⊢
  rw [attempt]
  exact ⟨_, rfl, ⟨rfl, rfl, rfl, rfl, rfl⟩⟩

/-- The work state in which a held step counts on, before its lag is sampled. -/
def Work.countsOn (w : Work) (x : StepSt) : Work :=
  ({ w with
    run := { w.run with resumeAt := none, wantStop := false, tick := w.run.tick + 1, counting := true, step := some { x with sinceResume := 0 } }
    dev := { w.dev with held := false } } : Work).setState .running .command

/-- A lag beyond the slack raises a hold. -/
def Work.checkLag (w : Work) (p : Plan) : Work :=
  match lagRequest w.run.applied (w.lag p) w.cad.slackClk.toNat with
  | some q => w.raiseHold q
  | none => w

theorem Work.checkLag_within {w : Work} {p : Plan} (within : w.lag p ≤ w.cad.slackClk.toNat) : w.checkLag p = w := by
  simp only [Work.checkLag, lagRequest, if_neg (Nat.not_lt.mpr within)]

theorem Work.checkLag_beyond {w : Work} {p : Plan} (beyond : w.cad.slackClk.toNat < w.lag p) : w.checkLag p =
    w.raiseHold (w.run.applied + ceilDiv (w.lag p - w.cad.slackClk.toNat) w.cad.slackClk.toNat * w.cad.slackClk.toNat) := by
  simp only [Work.checkLag, lagRequest, if_pos beyond]

theorem Work.checkLag_eq (w : Work) (p : Plan) : ∃ n xs o, w.checkLag p =
    { w with cad := { w.cad with holdCount := n }, run := { w.run with holds := xs }, out := o } := by
  by_cases within : w.lag p ≤ w.cad.slackClk.toNat
  · exact ⟨w.cad.holdCount, w.run.holds, w.out, Work.checkLag_within within⟩
  · obtain ⟨xs, o, eq⟩ := w.raiseHold_eq (w.run.applied + ceilDiv (w.lag p - w.cad.slackClk.toNat) w.cad.slackClk.toNat * w.cad.slackClk.toNat)
    exact ⟨_, xs, o, (Work.checkLag_beyond (Nat.lt_of_not_le within)).trans eq⟩

section
variable {s : State} {k : Nat} (at_ : s.w.run.resumeAt = some k) (held : s.w.dev.state = .held) (due : k ≤ s.w.cad.tickCount.toNat)
include at_ held due

theorem exec_rerunStart {p : Plan} {x : StepSt} (plan : s.w.plan = some p) (step : s.w.run.step = some x) (rerun : s.w.run.rerun = true)
    (active : s.w.rel.replayActive = true) :
    exec .rerunStart s =
      let t := s.restart p (fun x => { x with replays := x.replays + 1, sinceResume := x.sinceResume + 1 })
      .next { t with w := (Work.event { t.w with rel := { t.w.rel with
        replayCount := t.w.rel.replayCount + 1
        replaysThisStep := BitVec.ofNat 4 (x.replays + 1) } } 0x0006 2 0xFFFF 0 0 0 (x.replays + 1)) } := by
  refine congrArg Host.Outcome.next ?_
  simp only [plan, at_, step]
  exact if_pos ⟨held, rerun, active, due⟩

/-- HERD_RESUME at its herd tick goes on from the state in which nothing is owed. -/
theorem exec_herdResume_restart {p : Plan} {x : StepSt} (plan : s.w.plan = some p) (step : s.w.run.step = some x) (rerun : s.w.run.rerun = true)
    (quiet : s.w.rel.replayActive = false) :
    exec .herdResume s = .next (State.restart { s with w := { s.w with run := { s.w.run with resumeAt := none, wantStop := false } } } p
      (fun x => { x with sinceResume := 0 })) := by
  refine congrArg Host.Outcome.next ?_
  have now : ¬(s.w.dev.state ≠ .held ∨ s.w.cad.tickCount.toNat < k ∨ s.w.rel.replayActive = true) := by
    simp [held, quiet, due]
  simp only [at_, if_neg now, plan, step, rerun, if_true]

theorem exec_herdResume_countsOn {p : Plan} {x : StepSt} (plan : s.w.plan = some p) (step : s.w.run.step = some x)
    (rerun : s.w.run.rerun = false) (quiet : s.w.rel.replayActive = false) :
    exec .herdResume s = .next { s with w := (s.w.countsOn x).sampleLag.checkLag p } := by
  refine congrArg Host.Outcome.next ?_
  have now : ¬(s.w.dev.state ≠ .held ∨ s.w.cad.tickCount.toNat < k ∨ s.w.rel.replayActive = true) := by
    simp [held, quiet, due]
  simp only [Work.countsOn, Work.checkLag, at_, if_neg now, plan, step, rerun, Option.map_some, Bool.false_eq_true, if_false]
    <;> rfl

theorem exec_herdResume_idle (step : s.w.run.step = none) (quiet : s.w.rel.replayActive = false) :
    exec .herdResume s = .next (State.enter { s with w := { s.w with run := { s.w.run with resumeAt := none, wantStop := false } } } .loaded
      .command) := by
  refine congrArg Host.Outcome.next ?_
  have now : ¬(s.w.dev.state ≠ .held ∨ s.w.cad.tickCount.toNat < k ∨ s.w.rel.replayActive = true) := by
    simp [held, quiet, due]
  simp only [at_, if_neg now, step]

end

theorem exec_stepAbandon {s : State} {st : Byte} {e : StepEvent} {x : StepSt} (abandon : s.w.run.abandon = some (st, e)) (step : s.w.run.step = some x)
    (faulted : s.w.run.faulted = true) (start : s.w.cad.offset = 0) (running : s.w.dev.state = .running) :
    exec .stepAbandon s = .next { s with w := (Work.setState
      { s.w.dropAttempt with run := Run.discardQueued { s.w.dropAttempt.run with ended := some x, step := none, wantStop := true } }
      .held .abandonment) } := by
  refine congrArg Host.Outcome.next ?_
  simp only [abandon, step]
  rw [if_neg (by simp [faulted, start]), if_pos running]

/-- A queued step that is discarded: the rest of the run stays. -/
theorem Run.discardQueued_spec (r : Run) : r.discardQueued = { r with queued := none, discarded := r.discardQueued.discarded } := by
  unfold Run.discardQueued
  split
  · rfl
  next none => rw [← none]

end Sys2Proof.Machine

open Sys2Proof Sys2Proof.Machine

/-- Settles O33: the three ways on are `exec_rerunStart`, `exec_herdResume_restart` with `State.restart_spec`, and
`exec_herdResume_countsOn` with `Work.checkLag_eq`. -/
theorem stepsGoOn : Obligations.StepsGoOn := by
  refine fun s => ⟨fun p x k plan step at_ held due => ⟨fun rerun active => ?_, fun rerun quiet => ?_, fun rerun quiet => ?_⟩,
    fun k step at_ held due quiet => ?_, fun st e x abandon step faulted start running => ?_⟩
  · obtain ⟨v, eq, begun⟩ := s.restart_spec p (fun x => { x with replays := x.replays + 1, sinceResume := x.sinceResume + 1 })
    have went := exec_rerunStart at_ held due plan step rerun active
    rw [eq] at went
    have entered := v.setState_same .running .command
    have run : (v.setState .running .command).run = _ := entered.run.trans begun.run
    have rel : (v.setState .running .command).rel = { v.rel with eventLost := (v.setState .running .command).rel.eventLost } := entered.rel
    rw [begun.rel] at rel
    rw [step] at run
    refine ⟨_, went, ?_, ?_, ?_, ?_, ?_, ?_, ?_, ?_, ?_, ?_⟩
    · exact (Work.event_dev_state _ _ _ _ _ _ _ _).trans (Work.setState_dev_state _ _ _)
    · rw [Work.event_run]; exact (congrArg Run.tick run :)
    · rw [Work.event_run]; exact (congrArg Run.counting run :)
    · rw [Work.event_run]; exact (congrArg Run.step run :)
    · rw [(Work.event_same _ _ _ _ _ _ _ _).rel]
      exact congrArg (· + 1) (congrArg Rel.replayCount rel :)
    · rw [(Work.event_same _ _ _ _ _ _ _ _).rel]
      exact (congrArg Rel.replayActive rel :)
    · rw [Work.event_run]; exact (congrArg Run.resumeAt run :)
    · rw [Work.event_run]; exact (congrArg Run.rerun run :)
    · exact (Work.event_plan _ _ _ _ _ _ _ _).trans (entered.plan.trans begun.plan)
    · exact ((Work.event_same _ _ _ _ _ _ _ _).scales).trans (entered.scales.trans begun.scales)
  · intro r u slack
    have counts : s.w.countsOn x = (({ s.w with run := r, dev := { s.w.dev with held := false } } : Work).setState .running .command) := rfl
    have went := exec_herdResume_countsOn at_ held due plan step rerun quiet
    have entered := Work.setState_same { s.w with run := r, dev := { s.w.dev with held := false } } .running .command
    obtain ⟨m, sampled⟩ := (s.w.countsOn x).sampleLag_eq
    have lagging : u = { s.w.countsOn x with cad := { (s.w.countsOn x).cad with lagMax := m } } := sampled
    have leaves : DevState.running ≠ ({ s.w with run := r, dev := { s.w.dev with held := false } } : Work).dev.state := by
      change DevState.running ≠ s.w.dev.state
      rw [held]
      decide
    have run : u.run = r := by rw [lagging]; exact entered.run
    have cad : u.cad = { s.w.cad with lagMax := m } := by rw [lagging, counts, entered.cad]
    have cores : u.cores = s.w.cores := by rw [lagging]; exact entered.cores
    have hbm : u.mem.hbm = s.w.mem.hbm := by rw [lagging]; exact entered.hbm
    have kept : u.plan = s.w.plan := by rw [lagging]; exact entered.plan
    obtain ⟨n, xs, o, eq⟩ := u.checkLag_eq p
    have dev : (u.checkLag p).dev = (s.w.countsOn x).dev := by rw [eq, lagging]
    refine ⟨_, went, ?_, ?_, ?_, ?_, fun within => ?_, fun beyond bell => ?_, ?_, ?_, ?_, ?_⟩
    · exact (congrArg Dev.state dev).trans (Work.setState_dev_state _ _ _)
    · exact (congrArg Dev.cause dev).trans (Work.setState_dev_cause _ _ leaves)
    · refine (congrArg Dev.held dev).trans ?_
      rw [counts, Work.setState_dev _ _ leaves]
    · change (u.checkLag p).run = { r with holds := (u.checkLag p).run.holds }
      rw [eq, run]
    · change (u.checkLag p).run.holds = _
      rw [Work.checkLag_within (by rw [cad]; exact within), run]
    · change (u.checkLag p).run.holds = _
      rw [Work.checkLag_beyond (by rw [cad]; exact beyond), Work.raiseHold, if_pos (by rw [cad]; exact bell), run, cad]
    · change (u.checkLag p).cores = _
      rw [eq]
      exact cores
    · change (u.checkLag p).mem.hbm = _
      rw [eq]
      exact hbm
    · change (u.checkLag p).plan = _
      rw [eq]
      exact kept
    · exact ⟨rfl, rfl, rfl, rfl⟩
  · obtain ⟨v, eq, begun⟩ := State.restart_spec { s with w := { s.w with run := { s.w.run with resumeAt := none, wantStop := false } } } p
      (fun x => { x with sinceResume := 0 })
    have went := exec_herdResume_restart at_ held due plan step rerun quiet
    rw [eq] at went
    have run : (v.setState .running .command).run = _ := (v.setState_same .running .command).run.trans begun.run
    dsimp only at run
    rw [step] at run
    exact ⟨_, went, Work.setState_dev_state _ _ _, (congrArg Run.tick run :), (congrArg Run.resumeAt run :), (congrArg Run.step run :)⟩
  · obtain ⟨entered, state⟩ := State.enter_serviced { s with w := { s.w with run := { s.w.run with resumeAt := none, wantStop := false } } } .loaded
      .command
    refine ⟨_, exec_herdResume_idle at_ held due step quiet, state, ?_⟩
    rw [entered.work.quiet step]
  · have dropped := s.w.dropAttempt_dropped
    have went := exec_stepAbandon abandon step faulted start running
    generalize s.w.dropAttempt = v at dropped went
    have kept := Run.discardQueued_spec { v.run with ended := some x, step := none, wantStop := true }
    generalize Run.discardQueued _ = r at kept went
    have entered := Work.setState_same { v with run := r } .held .abandonment
    have run := entered.run.trans kept
    rw [dropped.run] at run
    refine ⟨_, went, Work.setState_dev_state _ _ _, Work.setState_dev_cause _ _ ?_, (congrArg Run.step run :), (congrArg Run.ended run :),
      (congrArg Run.wantStop run :), (congrArg Run.queued run :), ((congrArg Run.abandon run :).trans abandon),
      (Work.setState_dev_results _ _ _).trans dropped.dev.results, entered.plan.trans dropped.plan, ⟨rfl, rfl, rfl, rfl⟩⟩
    change DevState.held ≠ v.dev.state
    rw [dropped.dev.state, running]
    decide

end

section
/-!
Commit (O34).
-/

namespace Sys2Proof.Machine

/-! ### The exchange of versions (R902) -/

theorem length_setAt {α : Type} (l : List α) (i : Nat) (v : α) : (setAt l i v).length = l.length := by
  induction l generalizing i with
  | nil => rfl
  | cons x l ih =>
    cases i with
    | zero => rfl
    | succ i => simp [setAt, ih]

theorem getD_setAt {α : Type} (l : List α) (d v : α) {i : Nat} (inside : i < l.length) (k : Nat) :
    (setAt l i v).getD k d = if k = i then v else l.getD k d := by
  induction l generalizing i k with
  | nil => simp at inside
  | cons x l ih =>
    cases i with
    | zero => cases k <;> simp [setAt]
    | succ i =>
      cases k with
      | zero => simp [setAt]
      | succ k => simpa [setAt] using ih (by simpa using inside) k

theorem Reg.withTbase_toNat (r : Reg) (t : Nat) :
    (Reg.withTbase r t).toNat = r.toNat % 2 ^ 91 + 2 ^ 91 * (t % 2 ^ 35) + 2 ^ 126 * (r.toNat / 2 ^ 126) := by
  unfold Reg.withTbase
  rw [BitVec.toNat_ofNat, Nat.mod_eq_of_lt]
  have := r.isLt
  omega

/-- The fields below TBASE stay. -/
theorem Reg.withTbase_bits (r : Reg) (t : Nat) {hi lo : Nat} (below : hi < 91) : bits (Reg.withTbase r t) hi lo = bits r hi lo := by
  have low : (Reg.withTbase r t).toNat % 2 ^ 91 = r.toNat % 2 ^ 91 := by
    rw [Reg.withTbase_toNat]
    omega
  have field (x : Nat) : x >>> lo % 2 ^ (hi + 1 - lo) = (x % 2 ^ 91) >>> lo % 2 ^ (hi + 1 - lo) := by
    refine Nat.eq_of_testBit_eq fun i => ?_
    by_cases inside : i < hi + 1 - lo
    · have within : lo + i < 91 := by omega
      rw [Nat.testBit_mod_two_pow, Nat.testBit_mod_two_pow, Nat.testBit_shiftRight, Nat.testBit_shiftRight, Nat.testBit_mod_two_pow]
      simp only [within, decide_true, Bool.true_and]
    · rw [Nat.testBit_mod_two_pow, Nat.testBit_mod_two_pow]
      simp only [inside, decide_false, Bool.false_and]
  rw [bits, bits, field, low, ← field]

theorem Reg.withTbase_bit (r : Reg) (t : Nat) {i : Nat} (below : i < 91) : bit (Reg.withTbase r t) i = bit r i := by
  have low : (Reg.withTbase r t).toNat % 2 ^ 91 = r.toNat % 2 ^ 91 := by
    rw [Reg.withTbase_toNat]
    omega
  have here (x : Nat) : x.testBit i = (x % 2 ^ 91).testBit i := by
    rw [Nat.testBit_mod_two_pow]
    simp only [below, decide_true, Bool.true_and]
  rw [bit, bit, BitVec.getLsbD, BitVec.getLsbD, here, low, ← here]

theorem Reg.withTbase_tbase (r q : Reg) : Reg.tbase (Reg.withTbase r (Reg.tbase q / 2 ^ 21)) = Reg.tbase q := by
  have field : bits q 125 91 < 2 ^ 35 := Nat.mod_lt _ (by decide)
  have whole : (Reg.withTbase r (bits q 125 91)).toNat / 2 ^ 91 % 2 ^ 35 = bits q 125 91 := by
    rw [Reg.withTbase_toNat]
    omega
  rw [Reg.tbase, Reg.tbase, Nat.mul_div_cancel _ (by decide)]
  rw [bits, Nat.shiftRight_eq_div_pow]
  exact congrArg (· * 2 ^ 21) whole

/-- What of an entry is not its TBASE. -/
structure Reg.SameButTbase (r q : Reg) : Prop where
  vbase : Reg.vbase q = Reg.vbase r
  size : Reg.size q = Reg.size r
  target : Reg.target q = Reg.target r
  read : Reg.read q = Reg.read r
  write : Reg.write q = Reg.write r

theorem Reg.withTbase_same (r : Reg) (t : Nat) : r.SameButTbase (Reg.withTbase r t) where
  vbase := congrArg (· * 2 ^ 21) (r.withTbase_bits t (by decide))
  size := congrArg (· * 2 ^ 21) (r.withTbase_bits t (by decide))
  target := r.withTbase_bits t (by decide)
  read := r.withTbase_bit t (by decide)
  write := r.withTbase_bit t (by decide)

/-- One entry of the commit list. -/
theorem exchange_one {p : Plan} {e : W64} (one : p.commits = [e]) : p.exchange.regions =
    if (commitFields e).2.2 = 0 then
      setAt (setAt p.regions (commitFields e).1
        (Reg.withTbase (p.regions.getD (commitFields e).1 0) (Reg.tbase (p.regions.getD (commitFields e).2.1 0) / 2 ^ 21)))
        (commitFields e).2.1
        (Reg.withTbase (p.regions.getD (commitFields e).2.1 0) (Reg.tbase (p.regions.getD (commitFields e).1 0) / 2 ^ 21))
    else p.regions := by
  rw [Plan.exchange, one]
  rfl

theorem exchange_region {p : Plan} {e : W64} (one : p.commits = [e]) (pair : (commitFields e).2.2 = 0)
    (first : (commitFields e).1 < p.regions.length) (second : (commitFields e).2.1 < p.regions.length) (k : Nat) :
    p.exchange.regions.getD k 0 =
      if k = (commitFields e).2.1 then
        Reg.withTbase (p.regions.getD (commitFields e).2.1 0) (Reg.tbase (p.regions.getD (commitFields e).1 0) / 2 ^ 21)
      else if k = (commitFields e).1 then
        Reg.withTbase (p.regions.getD (commitFields e).1 0) (Reg.tbase (p.regions.getD (commitFields e).2.1 0) / 2 ^ 21)
      else p.regions.getD k 0 := by
  rw [exchange_one one, if_pos pair, getD_setAt _ _ _ (by rw [length_setAt]; exact second), getD_setAt _ _ _ first]

/-! ### A commit (R225, R234, R687, R717, R902, R905) -/

theorem Work.score_served (w : Work) (p : Policy) (s l k : Nat) (ms : List FVal) : w.CumServed (w.score p s l k ms) := by
  unfold Work.score
  extract_lets x mass old new
  split
  · exact .refl w
  · exact (w.setEnt_accessed _ _ _ _ _).cumServed

theorem Work.massReads_served (w : Work) (pl : Plan) (p : Policy) (m : MassItem) : w.CumServed (w.massReads pl p m) := by
  unfold Work.massReads
  split
  · exact .refl w
  · extract_lets it r st v
    have read : w.CumServed v := ((w.tableReads_accessed _ _ _).trans (Work.cumReads_accessed _ _ _)).cumServed
    refine read.trans (.foldl (fun u i => ?_) v _)
    extract_lets idx
    split
    · exact (u.cumReads_accessed _ _).cumServed
    · exact .refl u

theorem Work.updateScores_served (w : Work) (pl : Plan) (p : Policy) : w.CumServed (w.updateScores pl p) := by
  unfold Work.updateScores
  extract_lets items v ms
  exact (Work.CumServed.foldl (fun v m => v.massReads_served pl p m) w items).trans (.foldl (fun v k => v.score_served p _ _ _ _) v _)

/-- Cumulus at a commit: everything else as an access leaves it, and one step more counted. -/
structure Work.CumCommitted (w v : Work) : Prop where
  run : v.run = w.run
  scales : v.scales = w.scales
  stages : v.stages = w.stages
  net : v.net = w.net
  dev : w.dev.SameButLog v.dev
  stepCount : v.cum.stepCount = w.cum.stepCount + 1

theorem Work.CumServed.committed {w u v : Work} (h : w.CumServed u) (k : u.CumCommitted v) : w.CumCommitted v :=
  ⟨k.run.trans h.run, k.scales.trans h.scales, k.stages.trans h.stages, k.net.trans h.net, h.dev.trans k.dev, by
    rw [k.stepCount, h.stepCount]⟩

theorem Work.CumCommitted.served {w u v : Work} (h : w.CumCommitted u) (k : u.CumServed v) : w.CumCommitted v :=
  ⟨k.run.trans h.run, k.scales.trans h.scales, k.stages.trans h.stages, k.net.trans h.net, h.dev.trans k.dev, by
    rw [k.stepCount, h.stepCount]⟩

theorem Work.cumCommit_committed (w : Work) : w.CumCommitted w.cumCommit.1 := by
  unfold Work.cumCommit
  split
  · exact ⟨rfl, rfl, rfl, rfl, rfl, rfl⟩
  next pl p _ =>
    extract_lets w1 stalls w2 w3 c3 w4 w5 c5 w6
    have undone : w.CumServed w1 := w.undoSlots_served p _
    have listed : w1.CumServed w2 := .foldl (fun v x => (v.cumWrite_accessed _ _).cumServed) w1 _
    have scored : w2.CumServed w3 := w2.updateScores_served pl p
    have batch : w3.CumServed w4 := .of_cum w3 rfl
    have stamped : w4.CumServed w5 := .foldl (fun v e => by
      split
      · exact (v.cumWrite_accessed _ _).cumServed
      · exact .refl v) w4 _
    have counted : w5.CumCommitted w6 := ⟨rfl, rfl, rfl, rfl, rfl, rfl⟩
    have moved : w6.CumServed ((Work.serveDeferred p w6.cum.deferred.length w6).cumRun p) :=
      ((Work.serveDeferred_moved p _ w6).trans (Work.cumRun_moved _ p)).served
    exact (((((undone.trans listed).trans scored).trans batch).trans stamped).committed counted).served moved

theorem Work.cmdWrite_accessed (w : Work) (addr : Nat) (bs : List Byte) : w.Accessed (w.cmdWrite addr bs) := by
  unfold Work.cmdWrite
  refine .foldl (fun v piece => ?_) w _
  extract_lets data
  split
  · exact v.hbmWrite_accessed _ _ _
  · exact ⟨by constructor <;> rfl, rfl, rfl⟩
  · exact v.linkWrite_accessed _ _
  · exact .refl v

theorem Scales.putNext_active1 (sc : Scales) (k e z : Nat) : (sc.putNext k e z).active1 = sc.active1 := by
  unfold Scales.putNext
  split <;> rfl

/-- At a commit the other bank is active where the plan has scales (R231, R234). -/
theorem Work.commitScales_spec (w : Work) (p : Plan) (step : Nat) :
    ∃ v, w.Accessed v ∧ ∃ sc, w.commitScales p step = { v with scales := sc } ∧
      sc.active1 = if p.scales.isSome then !w.scales.active1 else w.scales.active1 := by
  cases scales : p.scales with
  | none => exact ⟨w, .refl w, w.scales, by simp only [Work.commitScales, scales], rfl⟩
  | some t =>
    have kept (ss : List SlotEnt) (sc : Scales) : (ss.foldl (fun sc s => (w.proposals s).foldl (fun (sc : Scales) x =>
        let v := if SlotEnt.mode s = 1 then x.2.2.1 else x.2.1
        sc.putNext x.1 v.1 v.2) sc) sc).active1 = sc.active1 :=
      List.foldlRecOn (motive := fun (c : Scales) => c.active1 = sc.active1) ss _ rfl (fun c hc s _ =>
        List.foldlRecOn (motive := fun (d : Scales) => d.active1 = sc.active1) (w.proposals s) _ hc (fun d hd x _ =>
          (d.putNext_active1 _ _ _).trans hd))
    refine ⟨_, ?_, _, by simp only [Work.commitScales, scales]; rfl, ?_⟩
    · exact .foldl (fun v r => v.cmdWrite_accessed _ _) w _
    · exact congrArg (! ·) (kept t.slots w.scales)

/-- A step's commit before its record: Cumulus, versions, scales and stage counts. -/
def Work.versionsOut (w : Work) (p : Plan) (x : StepSt) : Work :=
  let v := ({ (w.idleAll (w.cad.time + w.period + w.run.stretch)).cumCommit.1 with plan := some p.exchange } : Work).commitScales p x.number
  { v with stages := v.stages.commit }

structure Work.VersionsOut (w v : Work) (p : Plan) : Prop where
  run : v.run = w.run
  plan : v.plan = some p.exchange
  stages : v.stages = w.stages.commit
  net : v.net = w.net
  dev : w.dev.SameButLog v.dev
  stepCount : v.cum.stepCount = w.cum.stepCount + 1
  active1 : v.scales.active1 = if p.scales.isSome then !w.scales.active1 else w.scales.active1

theorem Work.versionsOut_spec (w : Work) (p : Plan) (x : StepSt) : w.VersionsOut (w.versionsOut p x) p := by
  have cum := (w.idleAll (w.cad.time + w.period + w.run.stretch)).cumCommit_committed
  unfold Work.versionsOut
  generalize (Work.cumCommit _).1 = c at cum
  obtain ⟨v, accessed, sc, eq, active1⟩ := ({ c with plan := some p.exchange } : Work).commitScales_spec p x.number
  obtain ⟨access, dev, -⟩ := accessed
  rw [eq]
  refine ⟨access.run.trans cum.run, access.plan, ?_, access.net.trans cum.net, cum.dev.trans dev, ?_, ?_⟩
  · exact congrArg StageMap.commit (access.stages.trans cum.stages)
  · exact (congrArg Cum.stepCount access.cum).trans cum.stepCount
  · refine active1.trans ?_
    dsimp only
    rw [cum.scales]
    rfl

/-- The status and the record of a step that commits (R879, R880). -/
def Work.commitStatus (w : Work) (x : StepSt) : Nat := if x.replays = 0 then w.run.dataStatus.1 else stReplayed

def Work.commitBody (w : Work) (x : StepSt) (stalls : Nat) : List Byte :=
  recordBody (w.commitStatus x) w.run.dataStatus.1 (if x.replays = 0 then 0 else 1) x.replays x.number x.startTick
    (x.stretchClk + w.run.stretch) w.run.dataStatus.2 stalls

/-- A work state whose step has committed, without the steps discarded behind it. -/
def Work.stepDone (w : Work) : Work :=
  { w with run := { w.run with step := none, commits := w.run.commits + 1, accepted := w.run.queued, queued := none }
           rel := { w.rel with replaysThisStep := 0, replayActive := false }
           net := w.net.clear }

def State.commitOut (s : State) (p : Plan) (x : StepSt) : Work :=
  let v := s.w.versionsOut p x
  (v.finish x.req.slot (v.commitStatus x)
    (v.commitBody x (s.w.idleAll (s.w.cad.time + s.w.period + s.w.run.stretch)).cumCommit.2)).stepDone.settleDiscarded (v.commitStatus x)

theorem State.commitStep_eq (s : State) (p : Plan) (x : StepSt) : s.commitStep p x =
    if (s.commitOut p x).run.accepted.isSome then { s with w := s.commitOut p x }
    else State.enter { s with w := s.commitOut p x } .loaded .commit := rfl

end Sys2Proof.Machine

namespace Sys2Proof.Machine

/-! ### COMMIT (R902, R905, R906) -/

/-- The steps discarded behind a step complete, and nothing else changes. -/
theorem Work.settleDiscarded_spec (w : Work) (status : Nat) : ∃ v, w.SamePlanWork v ∧ v.dev.state = w.dev.state ∧
    w.settleDiscarded status = { v with run := { v.run with discarded := [] } } := by
  have all : w.SamePlanWork (w.run.discarded.foldl (fun w q => w.discardStep q status) w) ∧
      (w.run.discarded.foldl (fun w q => w.discardStep q status) w).dev.state = w.dev.state :=
    List.foldlRecOn (motive := fun (v : Work) => w.SamePlanWork v ∧ v.dev.state = w.dev.state) w.run.discarded _ ⟨.refl w, rfl⟩
      (fun v same q _ => ⟨same.1.trans (v.finish_same _ _ _), (v.finish_dev_state _ _ _).trans same.2⟩)
  exact ⟨_, all.1, all.2, rfl⟩

/-- What a commit leaves, before an entry to LOADED. -/
structure State.CommitOut (s : State) (w : Work) (p : Plan) : Prop where
  plan : w.plan = some p.exchange
  step : w.run.step = none
  commits : w.run.commits = s.w.run.commits + 1
  accepted : w.run.accepted = s.w.run.queued
  queued : w.run.queued = none
  stages : w.stages = s.w.stages.commit
  stepCount : w.cum.stepCount = s.w.cum.stepCount + 1
  net : w.net = s.w.net.clear
  state : w.dev.state = s.w.dev.state
  active1 : w.scales.active1 = if p.scales.isSome then !s.w.scales.active1 else s.w.scales.active1

theorem State.commitOut_spec (s : State) (p : Plan) (x : StepSt) : s.CommitOut (s.commitOut p x) p := by
  have out := s.w.versionsOut_spec p x
  unfold State.commitOut
  dsimp only
  generalize s.w.versionsOut p x = v at out
  generalize Work.commitBody _ _ _ = body
  have ready := v.finish_same x.req.slot (v.commitStatus x) body
  have state := v.finish_dev_state x.req.slot (v.commitStatus x) body
  generalize Work.finish _ _ _ _ = u at ready state
  obtain ⟨y, same, settled, eq⟩ := u.stepDone.settleDiscarded_spec (v.commitStatus x)
  have run : u.run = s.w.run := ready.run.trans out.run
  rw [eq]
  have done : y.run = { s.w.run with step := none, commits := s.w.run.commits + 1, accepted := s.w.run.queued, queued := none } := by
    rw [same.run, Work.stepDone, run]
  exact ⟨same.plan.trans (ready.plan.trans out.plan), (congrArg Run.step done :), (congrArg Run.commits done :), (congrArg Run.accepted done :),
    (congrArg Run.queued done :), same.stages.trans (ready.stages.trans out.stages),
    (congrArg Cum.stepCount (same.cum.trans ready.cum)).trans out.stepCount, same.net.trans (congrArg Net.clear (ready.net.trans out.net)),
    settled.trans (state.trans out.dev.state), (congrArg Scales.active1 (same.scales.trans ready.scales)).trans out.active1⟩

/-- Without Cumulus and scales a commit touches neither HBM nor what waits. -/
theorem Work.versionsOut_plain (w : Work) {p : Plan} (x : StepSt) (plan : w.plan = some p) (policy : p.policy = none) (scales : p.scales = none) :
    (w.versionsOut p x).mem = w.mem ∧ (w.versionsOut p x).rel = w.rel ∧ (w.versionsOut p x).dev = w.dev ∧
      (w.idleAll (w.cad.time + w.period + w.run.stretch)).cumCommit.2 = 0 := by
  have none : ((w.idleAll (w.cad.time + w.period + w.run.stretch)).plan.bind (fun pl => pl.policy.map (fun c => (pl, c)))) = .none := by
    change w.plan.bind _ = _
    rw [plan, Option.bind_some, policy]
    rfl
  simp only [Work.versionsOut, Work.cumCommit, none, Work.commitScales, scales]
  exact ⟨rfl, rfl, rfl, trivial⟩

/-- Without Cumulus and scales, and with nothing discarded or waiting, the step's record is ready and nothing waits. -/
theorem State.commitOut_plain (s : State) {p : Plan} {x : StepSt} {r : RSlot} (plan : s.w.plan = some p) (policy : p.policy = none)
    (scales : p.scales = none) (nothing : s.w.run.discarded = []) (idle : s.w.changeWaits = false)
    (slot : mget s.w.dev.results none x.req.slot = some r) :
    mget (s.commitOut p x).dev.results none x.req.slot = some { r with
      ready := true
      status := BitVec.ofNat 8 (s.w.commitStatus x)
      body := s.w.commitBody x 0 } ∧
    (s.commitOut p x).mem.hbm = s.w.mem.hbm ∧ (s.commitOut p x).changeWaits = false := by
  have run := (s.w.versionsOut_spec p x).run
  obtain ⟨mem, rel, dev, stalls⟩ := s.w.versionsOut_plain x plan policy scales
  have status : (s.w.versionsOut p x).commitStatus x = s.w.commitStatus x := by rw [Work.commitStatus, Work.commitStatus, run]
  have body : (s.w.versionsOut p x).commitBody x 0 = s.w.commitBody x 0 := by rw [Work.commitBody, Work.commitBody, status, run]
  unfold State.commitOut
  dsimp only
  rw [stalls, status, body]
  generalize s.w.versionsOut p x = v at run mem rel dev
  have record := (v.finish_results x.req.slot (s.w.commitStatus x) (s.w.commitBody x 0) r (by rw [dev]; exact slot)).1
  have ready := v.finish_same x.req.slot (s.w.commitStatus x) (s.w.commitBody x 0)
  generalize Work.finish _ _ _ _ = u at record ready
  have left : u.stepDone.run.discarded = [] := (congrArg Run.discarded (ready.run.trans run)).trans nothing
  rw [Work.settleDiscarded_nil left]
  refine ⟨record, ready.hbm.trans (by rw [mem]), ?_⟩
  have acts : u.rel.acts = s.w.rel.acts := by rw [ready.rel, rel]
  have pending : u.rel.classPending = s.w.rel.classPending := by rw [ready.rel, rel]
  unfold Work.changeWaits at idle ⊢
  rw [← acts, ← pending] at idle
  exact idle

/-- A commit and what follows it: the queued step stands accepted, or LOADED is entered. -/
theorem State.commitStep_spec (s : State) (p : Plan) (x : StepSt) :
    ∃ v : Work, s.CommitOut v p ∧ v = s.commitOut p x ∧ (State.Serviced { s with w := v } (s.commitStep p x)) ∧
      (s.w.run.queued = none → s.commitStep p x = State.enter { s with w := v } .loaded .commit) ∧
      (s.w.run.queued.isSome = true → s.commitStep p x = { s with w := v }) := by
  have out := s.commitOut_spec p x
  have eq := s.commitStep_eq p x
  rw [out.accepted] at eq
  refine ⟨s.commitOut p x, out, rfl, ?_, fun none => ?_, fun some => ?_⟩
  · rw [eq]
    split
    · exact .refl _
    · exact (State.enter_serviced _ _ _).1
  · rw [eq, none]; rfl
  · rw [eq, if_pos some]

end Sys2Proof.Machine

open Sys2Proof Sys2Proof.Machine

/-- Settles O34: what a commit leaves is `State.commitOut_spec`, the entry to LOADED behind it `State.enter_serviced`, and the exchange
`exchange_region`. -/
theorem stepCommits : Obligations.StepCommits := by
  refine ⟨fun p x s plan step may => ?_, fun p e one => ?_⟩
  · have went : exec .commit s = .next (s.commitStep p x) := by
      refine congrArg Host.Outcome.next ?_
      simp only [plan, step, may, if_true]
    have running : s.w.dev.state = .running := by
      simp only [Work.mayCommit, Bool.and_eq_true, decide_eq_true_eq] at may
      obtain ⟨⟨⟨⟨⟨running, -⟩, -⟩, -⟩, -⟩, -⟩ := may
      exact running
    obtain ⟨v, out, same, served, enters, stays⟩ := s.commitStep_spec p x
    have calm : (s.commitStep p x).w.run = v.run := served.work.quiet out.step
    refine ⟨_, went, served.work.plan.trans out.plan, by rw [calm, out.step], by rw [calm, out.commits], by rw [calm, out.accepted],
      by rw [calm, out.queued], served.work.stages.trans out.stages, (congrArg Cum.stepCount served.work.cum).trans out.stepCount,
      by rw [served.work.net]; exact congrArg Net.rx out.net, by rw [served.work.net]; exact congrArg Net.colls out.net,
      fun none => ?_, fun some => ?_, (congrArg Scales.active1 served.work.scales).trans out.active1, by rw [served.fab], served.pwr,
      served.sec, fun r policy scales nothing idle slot => ?_⟩
    · rw [enters none]
      exact (State.enter_serviced _ _ _).2
    · rw [stays some]
      exact out.state.trans running
    · obtain ⟨record, hbm, waits⟩ := s.commitOut_plain plan policy scales nothing idle slot
      rw [← same] at record hbm waits
      cases queued : s.w.run.queued with
      | none =>
        rw [enters queued, State.enter_idle _ waits]
        exact ⟨(congrArg (mget · none x.req.slot) (Work.setState_dev_results _ _ _)).trans record, (Work.setState_hbm _ _ _).trans hbm⟩
      | some q =>
        rw [stays (by rw [queued]; rfl)]
        exact ⟨record, hbm⟩
  · intro f rb ra
    refine ⟨fun pair first second distinct => ?_, fun other => ?_⟩
    · have at_ (k : Nat) := exchange_region one pair first second k
      have left : ra f.1 = Reg.withTbase (rb f.1) (Reg.tbase (rb f.2.1) / 2 ^ 21) := (at_ f.1).trans (by rw [if_neg distinct, if_pos rfl])
      have right : ra f.2.1 = Reg.withTbase (rb f.2.1) (Reg.tbase (rb f.1) / 2 ^ 21) := (at_ f.2.1).trans (if_pos rfl)
      refine ⟨by rw [left, Reg.withTbase_tbase], by rw [right, Reg.withTbase_tbase], fun k here => ?_, fun k a b => ?_⟩
      · have same : (rb k).SameButTbase (ra k) := by
          rcases List.mem_pair.mp here with rfl | rfl
          · rw [left]; exact Reg.withTbase_same _ _
          · rw [right]; exact Reg.withTbase_same _ _
        exact ⟨same.vbase, same.size, same.target, same.read, same.write⟩
      · exact (at_ k).trans (by rw [if_neg b, if_neg a])
    · rw [exchange_one one, if_neg other]

end

section
/-!
Maintenance under way and the patrol (O40).
-/

namespace Sys2Proof.Machine

/-! ### What events, faults and reads leave of memory and of the activities (R330, R923, R943) -/

/-- Two memories that agree in everything but the stacks' status and companion memory. -/
def MemSys.SameButStacks (m n : MemSys) : Prop :=
  n = { m with hbmStacks := n.hbmStacks, companion := n.companion, companions := n.companions }

theorem MemSys.SameButStacks.refl (m : MemSys) : m.SameButStacks m := rfl

theorem MemSys.SameButStacks.trans {a b c : MemSys} (h : a.SameButStacks b) (k : b.SameButStacks c) : a.SameButStacks c := by
  unfold MemSys.SameButStacks at *
  rw [k, h]

/-- What a maintenance access leaves: the patrol's channel, and memory but for the stacks' status. -/
structure Work.Patrolled (w v : Work) : Prop where
  mem : w.mem.SameButStacks v.mem
  patrol : v.rel.patrol = w.rel.patrol

theorem Work.Patrolled.refl (w : Work) : w.Patrolled w := ⟨rfl, rfl⟩

theorem Work.Patrolled.trans {a b c : Work} (h : a.Patrolled b) (k : b.Patrolled c) : a.Patrolled c :=
  ⟨h.mem.trans k.mem, k.patrol.trans h.patrol⟩

theorem Work.event_patrolled (w : Work) (kind sev unit sub idx addr data : Nat) : w.Patrolled (w.event kind sev unit sub idx addr data) := by
  have same := w.event_same kind sev unit sub idx addr data
  refine ⟨?_, by rw [same.rel]⟩
  unfold MemSys.SameButStacks
  rw [same.mem]

theorem Work.lasting_patrolled (w : Work) (part unit sub idx : Nat) : w.Patrolled (w.lasting part unit sub idx) := by
  unfold Work.lasting
  extract_lets part' rel w1 w2 w3
  have logged : w.Patrolled w2 := .trans (b := w1) ⟨rfl, rfl⟩ (w1.event_patrolled _ _ _ _ _ _ _)
  have marked : w2.Patrolled w3 := by
    unfold w3
    split <;> exact ⟨rfl, rfl⟩
  have found := logged.trans marked
  split
  · exact found.trans ⟨rfl, rfl⟩
  · split
    · split
      · exact found.trans ⟨rfl, rfl⟩
      · exact found
    · exact found

theorem Rel.countEvent_patrol (r : Rel) (part crit unit sub idx n : Nat) : (r.countEvent part crit unit sub idx n).1.patrol = r.patrol := by
  unfold Rel.countEvent
  dsimp only
  split <;> rfl

theorem Rel.trackRow_patrol (r : Rel) (stack ch row : Nat) : (r.trackRow stack ch row).patrol = r.patrol := by
  unfold Rel.trackRow
  dsimp only
  split
  · rfl
  · split <;> rfl

theorem Work.partEvent_patrolled (w : Work) (part crit unit sub idx n : Nat) : w.Patrolled (w.partEvent part crit unit sub idx n) := by
  unfold Work.partEvent
  extract_lets r w1
  have counted : w.Patrolled w1 := ⟨rfl, Rel.countEvent_patrol _ _ _ _ _ _ _⟩
  split
  · exact counted.trans (w1.lasting_patrolled _ _ _ _)
  · exact counted

/-- A clean line that is read changes nothing. -/
theorem Work.readLine_clean {w : Work} {l : Nat} (line : w.mem.line l = .clean) (rq : Nat) : w.readLine rq l = w := by
  simp only [Work.readLine, line]

/-- A line that reads as corrected counts as such (R330). -/
theorem Work.readLine_corrected {w : Work} {l : Nat} (line : w.mem.line l = .corrected) (rq : Nat) :
    ({ w with mem.ce := w.mem.ce + 1 } : Work).Patrolled (w.readLine rq l) := by
  have tracked (s c r : Nat) : ({ w with mem.ce := w.mem.ce + 1 } : Work).Patrolled { w with mem.ce := w.mem.ce + 1, rel := w.rel.trackRow s c r } :=
    ⟨rfl, Rel.trackRow_patrol _ _ _ _⟩
  simp only [Work.readLine, line]
  exact .trans (.trans (tracked _ _ _) (Work.partEvent_patrolled _ _ _ _ _ _ _)) (Work.partEvent_patrolled _ _ _ _ _ _ _)

/-- A line that cannot be read counts as uncorrectable (R330). -/
theorem Work.readLine_lost {w : Work} {l : Nat} (line : w.mem.line l = .lost) (rq : Nat) :
    ({ w with mem.ue := w.mem.ue + 1 } : Work).Patrolled (w.readLine rq l) := by
  simp only [Work.readLine, line]
  exact .trans (.trans (Work.event_patrolled _ _ _ _ _ _ _ _) (Work.lasting_patrolled _ _ _ _ _)) (Work.partEvent_patrolled _ _ _ _ _ _ _)

/-- A read changes no byte, no remap and no error. -/
structure Work.Read (w v : Work) : Prop where
  hbm : v.mem.hbm = w.mem.hbm
  remaps : v.mem.remaps = w.mem.remaps
  errs : v.mem.errs = w.mem.errs
  lost : v.mem.lost = w.mem.lost
  splitX : v.mem.splitX = w.mem.splitX
  patrol : v.rel.patrol = w.rel.patrol

theorem Work.Read.refl (w : Work) : w.Read w := ⟨rfl, rfl, rfl, rfl, rfl, rfl⟩

theorem Work.Read.trans {a b c : Work} (h : a.Read b) (k : b.Read c) : a.Read c :=
  ⟨k.hbm.trans h.hbm, k.remaps.trans h.remaps, k.errs.trans h.errs, k.lost.trans h.lost, k.splitX.trans h.splitX, k.patrol.trans h.patrol⟩

theorem Work.Patrolled.read {w v : Work} (h : w.Patrolled v) : w.Read v := by
  refine ⟨?_, ?_, ?_, ?_, ?_, h.patrol⟩ <;> rw [h.mem]

theorem Work.readLine_read (w : Work) (rq l : Nat) : w.Read (w.readLine rq l) := by
  cases line : w.mem.line l with
  | clean => rw [Work.readLine_clean line]; exact .refl w
  | corrected => exact .trans (b := { w with mem.ce := w.mem.ce + 1 }) ⟨rfl, rfl, rfl, rfl, rfl, rfl⟩ (Work.readLine_corrected line rq).read
  | lost => exact .trans (b := { w with mem.ue := w.mem.ue + 1 }) ⟨rfl, rfl, rfl, rfl, rfl, rfl⟩ (Work.readLine_lost line rq).read

theorem Work.readLines_read (w : Work) (rq : Nat) (ls : List Nat) : w.Read (ls.foldl (fun w l => w.readLine rq l) w) :=
  List.foldlRecOn (motive := fun v => w.Read v) ls _ (.refl w) (fun v hv l _ => hv.trans (v.readLine_read rq l))

/-! ### Activities done and carried out (R938, R941, R947, R1011) -/

theorem Work.detect_cad (w : Work) (core : Nat) (kind : DetKind) : (w.detect core kind).cad = w.cad := by
  unfold Work.detect
  split
  · extract_lets run rel u
    cases kind with
    | parity | residue | coreTable => exact (u.partEvent_access _ _ _ _ _ _).cad
    | selfCheck | hbm => rfl
  · rfl

theorem Work.parityFailure_cad (w : Work) (core word : Nat) : (w.parityFailure core word).cad = w.cad :=
  (Work.detect_cad _ _ _).trans ((Work.partEvent_access _ _ _ _ _ _ _).cad.trans (Work.event_same _ _ _ _ _ _ _ _).cad)

theorem Work.mismatch_cad (w : Work) (m : Mismatch) : (w.mismatch m).cad = w.cad := by
  unfold Work.mismatch
  extract_lets w1 w2 w3
  split
  · exact (Work.detect_cad _ _ _).trans ((w2.partEvent_access _ _ _ _ _ _).cad.trans (w1.event_same _ _ _ _ _ _ _).cad)
  · rfl

/-- A core that changes, and no block with it. -/
theorem Work.spareCore_cad_run (w : Work) (core : Nat) : (w.spareCore core).cad = w.cad ∧ (w.spareCore core).run = w.run := by
  unfold Work.spareCore
  extract_lets v q old
  split <;> exact ⟨rfl, rfl⟩

/-- Only a spare port can move the beat port (R735). -/
theorem State.perform_cad (s : State) {code : Nat} (other : code ≠ 0x0A) (m : MaintArgs) : (s.perform code m).w.cad = s.w.cad := by
  unfold State.perform
  split
  · exact (s.w.scrubChannel_accessed _ _).access.cad
  · exact List.foldlRecOn (motive := fun (v : Work) => v.cad = s.w.cad) _ _ rfl (fun v hv x _ => (v.parityFailure_cad _ _).trans hv)
  · exact ((s.w.remapBegins_accessed _ _ _).trans (Work.copyRow_accessed _ _ _ _)).access.cad
  · exact (s.w.retireChannel_accessed _ _).access.cad
  · rfl
  · rfl
  · exact (s.w.spareCore_cad_run _).1
  · split <;> rfl
  · exact absurd rfl other
  · rfl

/-- Only a scrub of a local store with failing parity can change the run. -/
theorem State.perform_run (s : State) (code : Nat) (m : MaintArgs) (clean : code = 0x02 → (s.w.core m.unit).lsBad = []) :
    (s.perform code m).w.run = s.w.run := by
  unfold State.perform
  split
  · exact (s.w.scrubChannel_accessed _ _).access.run
  · rw [Work.scrubLs, clean rfl]; rfl
  · exact ((s.w.remapBegins_accessed _ _ _).trans (Work.copyRow_accessed _ _ _ _)).access.run
  · exact (s.w.retireChannel_accessed _ _).access.run
  · rfl
  · rfl
  · exact (s.w.spareCore_cad_run _).2
  · split <;> rfl
  · unfold State.beatFrom
    split <;> rfl
  · rfl

/-- What begins changes neither the run nor the cores. -/
theorem State.begins_rest (s : State) (code : Nat) (m : MaintArgs) :
    (s.begins code m).w.run = s.w.run ∧ (s.begins code m).w.cores = s.w.cores ∧ (s.begins code m).sec = s.sec := by
  unfold State.begins
  split
  · have begun := (s.w.remapBegins_accessed m.unit m.sub m.index).access
    exact ⟨begun.run, begun.cores, rfl⟩
  · exact ⟨rfl, rfl, rfl⟩
  · split <;> exact ⟨rfl, rfl, rfl⟩
  · exact ⟨rfl, rfl, rfl⟩

end Sys2Proof.Machine

namespace Sys2Proof.Machine

/-! ### An activity that is done (R947, R1011) -/

/-- An activity done from a slot: its record has the body of R947 and names it; the plan work is as it was. -/
theorem State.actDone_record {s : State} {a : Activity} {k : Nat} {r : RSlot} (slot : a.slot = some k)
    (held : mget s.w.dev.results none k = some r) (status outcome : Nat) :
    mget (s.actDone a status outcome).w.dev.results none k = some { r with
      ready := true
      status := BitVec.ofNat 8 status
      body := actBody a outcome s.w.rel.runMs
      maint := some a } ∧
    (s.actDone a status outcome).sec = s.sec.countAuth status ∧ (s.actDone a status outcome).w.plan = s.w.plan ∧
    (s.actDone a status outcome).w.cad = s.w.cad ∧ (s.actDone a status outcome).w.run = s.w.run := by
  simp only [State.actDone, slot]
  generalize logged : Work.event _ _ _ _ _ _ _ _ = v
  have same : ({ s.w with rel.acts := s.w.rel.acts.erase a } : Work).SamePlanWork v := logged ▸ Work.event_same _ _ _ _ _ _ _ _
  have results : v.dev.results = s.w.dev.results := logged ▸ Work.event_dev_results _ _ _ _ _ _ _ _
  have time : v.rel.runMs = s.w.rel.runMs := by rw [same.rel]
  have ready := (v.finish_results k status (actBody a outcome v.rel.runMs) r (by rw [results]; exact held)).1
  have finished := v.finish_same k status (actBody a outcome v.rel.runMs)
  rw [time] at ready finished
  rw [time]
  refine ⟨?_, rfl, finished.plan.trans same.plan, finished.cad.trans same.cad, finished.run.trans same.run⟩
  rw [State.finish, Work.keepAct, mget_mmod_same, ready]
  rfl

/-- The slot that the module did not boot from takes an image, the other keeps its own (R1011). -/
theorem Sec.setOther_spec (x : Sec) (img : Option FwImage) :
    (if x.bootB then (x.setOther img).slotA else (x.setOther img).slotB) = img ∧
      (if x.bootB then (x.setOther img).slotB = x.slotB else (x.setOther img).slotA = x.slotA) := by
  unfold Sec.setOther
  extract_lets raise
  cases x.bootB <;> exact ⟨rfl, rfl⟩

theorem Sec.countAuth_slots (x : Sec) (status : Nat) :
    (x.countAuth status).slotA = x.slotA ∧ (x.countAuth status).slotB = x.slotB ∧ (x.countAuth status).staged = x.staged := by
  unfold Sec.countAuth
  split <;> exact ⟨rfl, rfl, rfl⟩

/-- What an activity that is done leaves, its work done: for an image in the flash slot, for any other in `State.perform`. -/
structure State.ActFinished (s t : State) (a : Activity) (k : Nat) (r : RSlot) : Prop where
  record : mget t.w.dev.results none k = some { r with
    ready := true
    status := BitVec.ofNat 8 (if a.code = 0x0B ∧ a.good = false then stAuthFail else stOk)
    body := actBody a 0 s.w.rel.runMs
    maint := some a }
  image : a.code = 0x0B → (if s.sec.bootB then t.sec.slotA else t.sec.slotB) = (if a.good then s.sec.staged else none) ∧
    (if s.sec.bootB then t.sec.slotB = s.sec.slotB else t.sec.slotA = s.sec.slotA) ∧ t.sec.staged = none
  sec : a.code ≠ 0x0B → t.sec = s.sec
  plan : t.w.plan = s.w.plan
  cad : t.w.cad = { s.w.cad with beatPort := t.w.cad.beatPort }
  same : a.code ≠ 0x0A → t.w.cad = s.w.cad
  run : (a.code = 0x02 → (s.w.core a.args.unit).lsBad = []) → (a.code = 0x03 → a.found = []) → t.w.run = s.w.run

/-- The state in which an activity does its work: a check's mismatches first. -/
def State.checked (s : State) (a : Activity) : State := if a.code = 0x03 then { s with w := a.found.foldl Work.mismatch s.w } else s

theorem State.checked_performed (s : State) (a : Activity) :
    s.Performed (s.checked a) ∧ (s.checked a).w.cad = s.w.cad ∧ (a.code ≠ 0x03 ∨ a.found = [] → s.checked a = s) := by
  unfold State.checked
  split
  next check =>
    refine ⟨Work.Performed.state (.foldl (fun v m => v.mismatch_performed m) s.w _), ?_, fun none => ?_⟩
    · exact List.foldlRecOn (motive := fun (v : Work) => v.cad = s.w.cad) _ _ rfl (fun v hv m _ => (v.mismatch_cad m).trans hv)
    · rw [none.resolve_left (not_not.mpr check)]
      rfl
  next => exact ⟨⟨.refl s.w, rfl, rfl, rfl⟩, rfl, fun _ => rfl⟩

section
variable {s : State} {a : Activity} {k : Nat} {r : RSlot} (running : a.state = .running) (going : s.pwr.paused = false)
  (advances : s.advances a = true) (slot : a.slot = some k) (held : mget s.w.dev.results none k = some r)
include running going advances slot held

/-- An image staged. -/
theorem State.finishAct_image (image : a.code = 0x0B) : s.ActFinished (s.finishAct a) a k r := by
  have now : a.state = .running ∧ (!s.pwr.paused) = true ∧ s.advances a = true := ⟨running, by simp [going], advances⟩
  have status : (if a.code = 0x0B ∧ a.good = false then stAuthFail else stOk) = if a.good then stOk else stAuthFail := by
    cases a.good <;> simp [image]
  obtain ⟨record, sec, plan, cad, run⟩ := State.actDone_record
    (s := { s with sec := { (s.sec.setOther (if a.good then s.sec.staged else none)) with staged := none } }) slot held
    (if a.good then stOk else stAuthFail) 0
  have done : s.finishAct a = State.actDone { s with sec := { (s.sec.setOther (if a.good then s.sec.staged else none)) with staged := none } } a
      (if a.good then stOk else stAuthFail) 0 := by
    rw [State.finishAct, if_pos now, if_pos image]
  rw [done]
  obtain ⟨here, there⟩ := s.sec.setOther_spec (if a.good then s.sec.staged else none)
  obtain ⟨slotA, slotB, staged⟩ := Sec.countAuth_slots { (s.sec.setOther (if a.good then s.sec.staged else none)) with staged := none }
    (if a.good then stOk else stAuthFail)
  refine ⟨status ▸ record, fun _ => ?_, fun other => absurd image other, plan, by rw [cad], fun _ => cad, fun _ _ => run⟩
  rw [sec, slotA, slotB, staged]
  exact ⟨here, there, rfl⟩

/-- Any other activity. -/
theorem State.finishAct_other (other : a.code ≠ 0x0B) : s.ActFinished (s.finishAct a) a k r := by
  have now : a.state = .running ∧ (!s.pwr.paused) = true ∧ s.advances a = true := ⟨running, by simp [going], advances⟩
  have status : (if a.code = 0x0B ∧ a.good = false then stAuthFail else stOk) = stOk := if_neg (by simp [other])
  obtain ⟨checked, ccad, cnone⟩ := s.checked_performed a
  have performed := (s.checked a).perform_spec a.code a.args
  have done : s.finishAct a = ((s.checked a).perform a.code a.args).actDone a stOk 0 := by
    rw [State.finishAct, if_pos now, if_neg other]
    rfl
  have time : ((s.checked a).perform a.code a.args).w.rel.runMs = s.w.rel.runMs := performed.work.time.trans checked.work.time
  have results : ((s.checked a).perform a.code a.args).w.dev.results = s.w.dev.results := performed.work.results.trans checked.work.results
  obtain ⟨record, sec, plan, cad, run⟩ := State.actDone_record (s := (s.checked a).perform a.code a.args) slot (by rw [results]; exact held) stOk 0
  rw [time] at record
  rw [done]
  have whole := checked.work.serviced.trans performed.work.serviced
  refine ⟨status.symm ▸ record, fun image => absurd image other, fun _ => ?_, plan.trans whole.plan, ?_, fun notPort => ?_,
    fun clean nothing => ?_⟩
  · exact (sec.trans (Sec.countAuth_other _ (by decide))).trans (performed.sec.trans checked.sec)
  · rw [cad]
    exact whole.cad
  · exact cad.trans ((State.perform_cad _ notPort _).trans ccad)
  · have same : s.checked a = s := cnone (or_iff_not_imp_left.mpr (fun check => nothing (not_not.mp check)))
    rw [same] at run ⊢
    exact run.trans (State.perform_run _ _ _ clean)

end

/-! ### MAINT_ACTIVITY_START with one activity that waits (R941) -/

theorem exec_maintActivityStart_one {s : State} {a : Activity} (one : s.w.rel.acts = [a]) (waits : a.state = .waiting) :
    exec .maintActivityStart s = .next (State.begins
      { s with w := { s.w with rel := { s.w.rel with acts := [{ a with state := startState a.code }] } } } a.code a.args) := by
  have found : [a].find? (fun x => decide (x.state = .waiting) && [a].all (fun b =>
      decide (b.state = .waiting) || decide (b = x) || !s.w.rel.conflict x.code x.args b)) = some a := by
    simp [waits]
  change execMaintActivityStart s = _
  unfold execMaintActivityStart
  simp only [one, found, List.map_cons, List.map_nil, if_true]

/-! ### Row remaps under way (R333 to R336) -/

/-- A line of HBM that reads as zeros. -/
def Memory.lineZero (h : Memory) (l : Nat) : Prop := h.readN (64 * l) 64 = zeros 64

theorem Memory.lineZero_write_same (h : Memory) (l : Nat) : (h.write (64 * l) (zeros 64)).lineZero l := h.readN_write (64 * l) (zeros 64)

/-- Zeros written to a line leave a line of zeros so. -/
theorem Memory.lineZero_write {h : Memory} {l : Nat} (zero : h.lineZero l) (k : Nat) : (h.write (64 * k) (zeros 64)).lineZero l := by
  by_cases same : k = l
  · rw [same]
    exact h.lineZero_write_same l
  · have apart (x : Nat) (inside : 64 * l ≤ x ∧ x < 64 * l + 64) : (h.write (64 * k) (zeros 64)).read x = h.read x :=
      h.read_write_out _ _ _ (by rw [zeros, List.length_replicate]; omega)
    refine Eq.trans (b := h.readN (64 * l) 64) ?_ zero
    refine List.ext_getElem? (fun i => ?_)
    by_cases inside : i < 64
    · rw [Memory.readN_get _ _ _ _ inside, Memory.readN_get _ _ _ _ inside, apart _ (by omega)]
    · rw [List.getElem?_eq_none (by rw [Memory.readN_length]; omega), List.getElem?_eq_none (by rw [Memory.readN_length]; omega)]

/-- A lost line listed changes no byte, no error and no remap. -/
structure Work.Listed (w v : Work) : Prop where
  hbm : v.mem.hbm = w.mem.hbm
  errs : v.mem.errs = w.mem.errs
  remaps : v.mem.remaps = w.mem.remaps

theorem Work.listLost_listed (w : Work) (l : Nat) : w.Listed (w.listLost l) := by
  have event (v : Work) (kind sev unit sub idx addr data : Nat) : v.Listed (v.event kind sev unit sub idx addr data) := by
    have read := (v.event_patrolled kind sev unit sub idx addr data).read
    exact ⟨read.hbm, read.errs, read.remaps⟩
  unfold Work.listLost
  split
  · exact ⟨rfl, rfl, rfl⟩
  · dsimp only
    split
    · exact ⟨(event _ _ _ _ _ _ _ _).hbm, (event _ _ _ _ _ _ _ _).errs, (event _ _ _ _ _ _ _ _).remaps⟩
    · exact ⟨(event _ _ _ _ _ _ _ _).hbm, (event _ _ _ _ _ _ _ _).errs, (event _ _ _ _ _ _ _ _).remaps⟩

/-- The lines that a row's copy could not read, zeros from now on. -/
theorem Work.zeroLines_spec (w : Work) (ls : List Nat) :
    let v := ls.foldl Work.zeroLine w
    w.SameButAccess v ∧ v.mem.errs = w.mem.errs ∧ v.mem.remaps = w.mem.remaps ∧ (∀ l, w.mem.hbm.lineZero l → v.mem.hbm.lineZero l) ∧
      ∀ l ∈ ls, v.mem.hbm.lineZero l := by
  induction ls generalizing w with
  | nil => exact ⟨.refl w, rfl, rfl, fun _ h => h, by simp⟩
  | cons k ls ih =>
    obtain ⟨access, errs, remaps, old, new⟩ := ih (w.zeroLine k)
    have listed := Work.listLost_listed { w with mem.hbm := w.mem.hbm.write (64 * k) (zeros 64) } k
    have first : w.SameButAccess (w.zeroLine k) :=
      .trans (b := { w with mem.hbm := w.mem.hbm.write (64 * k) (zeros 64) }) (by constructor <;> rfl) (Work.listLost_access _ k)
    have hbm : (w.zeroLine k).mem.hbm = w.mem.hbm.write (64 * k) (zeros 64) := listed.hbm
    refine ⟨first.trans access, errs.trans listed.errs, remaps.trans listed.remaps, fun l zero => old l ?_, fun l here => ?_⟩
    · rw [hbm]
      exact Memory.lineZero_write zero k
    · rcases List.mem_cons.mp here with rfl | later
      · refine old l ?_
        rw [hbm]
        exact Memory.lineZero_write_same _ _
      · exact new l later

section
variable {s : State} {r : Remap} (one : s.w.mem.remaps = [r])
include one

theorem State.remap_found (waits : r.inEffect = false) :
    s.w.mem.remaps.find? (fun x => x.stack = r.stack ∧ x.channel = r.channel ∧ x.row = r.row ∧ !x.inEffect) = some r := by
  rw [one]
  simp [waits]

theorem exec_rowRemapEffect (waits : r.inEffect = false) : exec (.rowRemapEffect r.stack r.channel r.row) s = .next { s with w :=
    (if r.copied then (if r.due ∧ s.w.cad.offset = 0 then s.w.remapEffect r else s.w)
     else if s.w.maintTime s.w.cad.offset.toNat ∧ s.quiet r.stack r.channel s.w.cad.offset.toNat then s.w.copyRow r.stack r.channel r.row
     else s.w) } := by
  refine congrArg Host.Outcome.next ?_
  simp only [State.remap_found one waits]

theorem Work.remapEffect_spec : s.w.SameButAccess (s.w.remapEffect r) ∧ (s.w.remapEffect r).mem.remaps = [{ r with inEffect := true }] ∧
    (∀ l ∈ r.zeroed, (s.w.remapEffect r).mem.hbm.lineZero l) ∧
    ∀ e ∈ (s.w.remapEffect r).mem.errs, e.line ∉ s.w.mem.errsInRow r.stack r.channel r.row := by
  unfold Work.remapEffect
  extract_lets ls m w
  obtain ⟨access, errs, remaps, -, zero⟩ := w.zeroLines_spec r.zeroed
  have first : s.w.SameButAccess w := by constructor <;> rfl
  refine ⟨first.trans access, remaps.trans ?_, zero, fun e here => ?_⟩
  · change s.w.mem.remaps.map _ = _
    rw [one]
    simp
  · rw [errs] at here
    exact of_decide_eq_true (List.mem_filter.mp here).2

/-- A row copied once more: what it could not read is to be zeros. -/
theorem Work.copyRow_spec (waits : r.inEffect = false) : ∃ z, (s.w.copyRow r.stack r.channel r.row).mem.remaps = [{ r with copied := true, due := false, zeroed := z }] ∧
    (∀ l ∈ z, s.w.mem.line l = .lost) ∧ (s.w.copyRow r.stack r.channel r.row).mem.hbm = s.w.mem.hbm := by
  unfold Work.copyRow
  extract_lets ls zeroed w m
  have read : s.w.Read w := s.w.readLines_read 4 ls
  refine ⟨zeroed, ?_, fun l here => ?_, read.hbm⟩
  · change w.mem.remaps.map _ = _
    rw [read.remaps, one]
    simp [waits]
  · exact of_decide_eq_true (List.mem_filter.mp here).2

end

/-! ### PATROL_SCRUB (R322, R347, R943, R944) -/

/-- A scrub of a line changes errors and counts, and, of a remap, what its copy has done. -/
structure Work.Scrubbed (w v : Work) : Prop where
  access : w.SameButAccess v
  hbm : v.mem.hbm = w.mem.hbm
  patrol : v.rel.patrol = w.rel.patrol

theorem Work.Scrubbed.refl (w : Work) : w.Scrubbed w := ⟨.refl w, rfl, rfl⟩

theorem Work.Scrubbed.trans {a b c : Work} (h : a.Scrubbed b) (k : b.Scrubbed c) : a.Scrubbed c :=
  ⟨h.access.trans k.access, k.hbm.trans h.hbm, k.patrol.trans h.patrol⟩

theorem Work.scrubLine_scrubbed (w : Work) (l : Nat) : w.Scrubbed (w.scrubLine l) := by
  have read := w.readLine_read 4 l
  have access := (w.scrubLine_accessed l).access
  refine ⟨access, ?_, ?_⟩
  · unfold Work.scrubLine
    extract_lets st v
    obtain ⟨rs, restart⟩ := v.mem.restartCopy_eq (64 * l) 64
    split
    · exact (congrArg MemSys.hbm restart :).trans read.hbm
    · exact read.hbm
  · unfold Work.scrubLine
    extract_lets st v
    split <;> exact read.patrol

theorem Work.scrubChannel_scrubbed (w : Work) (stack ch : Nat) : w.Scrubbed (w.scrubChannel stack ch) :=
  List.foldlRecOn (motive := fun v => w.Scrubbed v) _ _ (.refl w) (fun v hv l _ => hv.trans (v.scrubLine_scrubbed l))

/-- A channel without an error is scrubbed without effect. -/
theorem Work.scrubChannel_clean {w : Work} {stack ch : Nat} (clean : w.mem.errsIn stack ch = []) : w.scrubChannel stack ch = w := by
  rw [Work.scrubChannel, clean]
  rfl

/-- The scrub of one stack's channel by the patrol. -/
def State.patrolStack (s : State) (ch clk : Nat) (w : Work) (stack : Nat) : Work :=
  if w.rel.acts.any (fun a => Resource.channel stack ch ∈ w.rel.resources a.code a.args) || !({ s with w := w } : State).quiet stack ch clk then w
  else w.scrubChannel stack ch

/-- The work state in which the patrol comes to its channel. -/
def State.patrols (s : State) (ch : Nat) (env : Env) : Work := { s.w with mem := s.w.mem.see env, rel.patrol := ch + 1 }

theorem exec_patrolScrub {s : State} {ch : Nat} {env : Env} (on : s.w.dev.state ∈ started) (here : ch < 32) (going : s.pwr.paused = false)
    (now : s.w.maintTime env.clk = true) :
    exec (.patrolScrub ch env) s = .next { s with w := (List.range 12).foldl (s.patrolStack ch env.clk) (s.patrols ch env) } := by
  refine congrArg (fun w => Host.Outcome.next { s with w := w }) ?_
  exact if_pos ⟨on, here, by simp [going], now⟩

theorem State.patrolStack_scrubbed (s : State) (ch clk : Nat) (w : Work) (stack : Nat) : w.Scrubbed (s.patrolStack ch clk w stack) := by
  unfold State.patrolStack
  split
  · exact .refl w
  · exact w.scrubChannel_scrubbed stack ch

/-- A stack whose channel has no error is passed without effect. -/
theorem State.patrolStack_clean (s : State) {ch : Nat} (clk : Nat) {w : Work} {stack : Nat} (clean : w.mem.errsIn stack ch = []) :
    s.patrolStack ch clk w stack = w := by
  unfold State.patrolStack
  rw [Work.scrubChannel_clean clean, ite_self]

theorem State.patrolStacks_clean (s : State) {ch : Nat} (clk : Nat) {w : Work} (range : List Nat)
    (clean : ∀ k ∈ range, w.mem.errsIn k ch = []) : range.foldl (s.patrolStack ch clk) w = w := by
  induction range with
  | nil => rfl
  | cons k ks ih =>
    rw [List.foldl_cons, s.patrolStack_clean clk (clean k (by simp))]
    exact ih (fun j hj => clean j (by simp [hj]))

/-- A channel whose one error is a correctable line: it is read, counted and written back. -/
theorem Work.scrubChannel_one {w : Work} {e : BadLine} (one : w.mem.errs = [e]) (correctable : e.lost = false) (unlisted : w.mem.lost = []) :
    (w.scrubChannel (w.mem.place (64 * e.line)).stack (w.mem.place (64 * e.line)).channel).mem.errs = [] ∧
      (w.scrubChannel (w.mem.place (64 * e.line)).stack (w.mem.place (64 * e.line)).channel).mem.ce = w.mem.ce + 1 := by
  have line : w.mem.line e.line = .corrected := by simp [MemSys.line, unlisted, one, correctable]
  have lines : w.mem.errsIn (w.mem.place (64 * e.line)).stack (w.mem.place (64 * e.line)).channel = [e.line] := by
    simp [MemSys.errsIn, one]
  have counted := Work.readLine_corrected line 4
  have read := w.readLine_read 4 e.line
  obtain ⟨rs, restart⟩ := (w.readLine 4 e.line).mem.restartCopy_eq (64 * e.line) 64
  rw [Work.scrubChannel, lines, List.foldl_cons, List.foldl_nil, Work.scrubLine, if_pos line, restart]
  refine ⟨?_, ?_⟩
  · change (w.readLine 4 e.line).mem.errs.filter _ = []
    rw [read.errs, one]
    simp
  · change (w.readLine 4 e.line).mem.ce = _
    rw [counted.mem]

theorem State.patrolStacks_scrubbed (s : State) (ch clk : Nat) (w : Work) (range : List Nat) :
    w.Scrubbed (range.foldl (s.patrolStack ch clk) w) :=
  List.foldlRecOn (motive := fun v => w.Scrubbed v) _ _ (.refl w) (fun v hv k _ => hv.trans (s.patrolStack_scrubbed ch clk v k))

/-- With no activity, a stack's channel that grants accesses is scrubbed. -/
theorem State.patrolStack_quiet {s : State} {ch clk : Nat} {w : Work} {stack : Nat} (idle : w.rel.acts = [])
    (quiet : ({ s with w := w } : State).quiet stack ch clk = true) : s.patrolStack ch clk w stack = w.scrubChannel stack ch := by
  unfold State.patrolStack
  rw [idle, quiet]
  rfl

/-- The patrol with one correctable line in error, in a stack's channel that grants accesses: the other stacks are passed. -/
theorem State.patrolStacks_one {s : State} {clk : Nat} {w : Work} {e : BadLine} (one : w.mem.errs = [e]) (correctable : e.lost = false)
    (unlisted : w.mem.lost = []) (idle : w.rel.acts = []) (stack : (w.mem.place (64 * e.line)).stack < 12)
    (quiet : ({ s with w := w } : State).quiet (w.mem.place (64 * e.line)).stack (w.mem.place (64 * e.line)).channel clk = true) :
    ((List.range 12).foldl (s.patrolStack (w.mem.place (64 * e.line)).channel clk) w).mem.errs = [] ∧
      ((List.range 12).foldl (s.patrolStack (w.mem.place (64 * e.line)).channel clk) w).mem.ce = w.mem.ce + 1 := by
  obtain ⟨errs, ce⟩ := Work.scrubChannel_one one correctable unlisted
  obtain ⟨before, after, split⟩ := List.append_of_mem (List.mem_range.mpr stack)
  have distinct : (before ++ (w.mem.place (64 * e.line)).stack :: after).Nodup := split ▸ List.nodup_range
  have passed : ∀ k ∈ before, w.mem.errsIn k (w.mem.place (64 * e.line)).channel = [] := by
    intro k hk
    have other : (w.mem.stackOf (64 * e.line)).1 ≠ k := fun same =>
      (List.nodup_append.mp distinct).2.2 k hk _ (by simp) same.symm
    simp [MemSys.errsIn, one, other]
  rw [split, List.foldl_append, s.patrolStacks_clean clk before passed, List.foldl_cons, State.patrolStack_quiet idle quiet,
    s.patrolStacks_clean clk after (fun k _ => by rw [MemSys.errsIn, errs]; rfl)]
  exact ⟨errs, ce⟩

/-- Without disturbed lines the patrol begins on the memory as it stands. -/
theorem State.patrols_eq {env : Env} (s : State) (ch : Nat) (clean : env.lines = []) : s.patrols ch env =
    { s.w with mem := { s.w.mem with odc := s.w.mem.odc + BitVec.ofNat 64 env.odc }, rel.patrol := ch + 1 } := by
  rw [State.patrols, s.w.mem.see_quiet clean]

end Sys2Proof.Machine

open Sys2Proof Sys2Proof.Machine

/-- Settles O40: an activity that is done is `State.ActFinished`; a remap that takes effect or is copied is `Work.remapEffect_spec` or
`Work.copyRow_spec`; the patrol passes every stack but that of the one line in error without effect (`State.patrolStacks_clean`). -/
theorem maintenanceRuns : Obligations.MaintenanceRuns := by
  refine fun s => ⟨fun a one waits => ?_, fun a k r n here running going advances slot held => ?_, fun a n here idle => ?_, fun n paused => ?_,
    fun r stack ch row one hs hc hr waits => ?_, fun ch env never => ?_, fun ch env on here going clean now => ?_⟩
  · refine ⟨_, exec_maintActivityStart_one one waits, ?_⟩
    obtain ⟨begun, power⟩ := State.begins_spec
      { s with w := { s.w with rel := { s.w.rel with acts := [{ a with state := startState a.code }] } } } a.code a.args
    obtain ⟨run, cores, sec⟩ := State.begins_rest
      { s with w := { s.w with rel := { s.w.rel with acts := [{ a with state := startState a.code }] } } } a.code a.args
    exact ⟨begun.acts, run, cores, begun.plan, power, sec⟩
  · have done : exec (.maintActivityDone n) s = .next (s.finishAct a) := by
      change execMaintActivityDone n s = _
      simp only [execMaintActivityDone, Rel.inProgress, here]
    intro status
    have finished : s.ActFinished (s.finishAct a) a k r := by
      by_cases image : a.code = 0x0B
      · exact State.finishAct_image running going advances slot held image
      · exact State.finishAct_other running going advances slot held image
    exact ⟨_, done, finished.record, finished.image, finished.sec, finished.plan, finished.cad, finished.same, finished.run⟩
  · change execMaintActivityDone n s = _
    simp only [execMaintActivityDone, Rel.inProgress, here]
    rw [State.finishAct, if_neg (by simp [idle])]
  · change execMaintActivityDone n s = _
    cases here : s.w.rel.acts[n]? with
    | none => simp only [execMaintActivityDone, Rel.inProgress, here]
    | some a =>
      simp only [execMaintActivityDone, Rel.inProgress, here]
      rw [State.finishAct, if_neg (by simp [paused])]
  · subst hs hc hr
    have went := exec_rowRemapEffect one waits
    refine ⟨fun copied due start => ?_, fun copied early => ?_, fun uncopied now => ?_, fun uncopied later => ?_⟩
    · rw [if_pos copied, if_pos ⟨due, start⟩] at went
      obtain ⟨access, remaps, zero, errs⟩ := Work.remapEffect_spec one
      exact ⟨_, went, remaps, zero, errs, access.run, access.cores, ⟨rfl, rfl, rfl, rfl⟩⟩
    · rw [if_pos copied, if_neg (by grind)] at went
      exact went
    · rw [if_neg (by simp [uncopied]), if_pos (by simpa using now)] at went
      obtain ⟨z, remaps, lost, hbm⟩ := Work.copyRow_spec one waits
      have access := (s.w.copyRow_accessed r.stack r.channel r.row).access
      exact ⟨_, z, went, remaps, lost, hbm, access.run, access.cores, ⟨rfl, rfl, rfl, rfl⟩⟩
    · rw [if_neg (by simp [uncopied]), if_neg (by rintro ⟨time, quiet⟩; simp [time, quiet] at later)] at went
      exact went
  · refine congrArg (fun w => Host.Outcome.next { s with w := w }) (if_neg ?_)
    rintro ⟨-, -, -, now⟩
    simp [never] at now
  · have start := s.patrols_eq ch clean
    have went := exec_patrolScrub on here going now
    generalize s.patrols ch env = w at went start
    have all := s.patrolStacks_scrubbed ch env.clk w (List.range 12)
    generalize passed : (List.range 12).foldl (s.patrolStack ch env.clk) w = v at went all
    refine ⟨_, went, ?_⟩
    refine ⟨all.patrol.trans (by rw [start]), all.hbm.trans (by rw [start]), all.access.run.trans (by rw [start]),
      all.access.cores.trans (by rw [start]), ⟨rfl, rfl, rfl, rfl⟩, fun e one correctable unlisted idle channel stack quiet => ?_⟩
    have place : w.mem.place (64 * e.line) = s.w.mem.place (64 * e.line) := by
      rw [start]
      rfl
    have counts : w.mem.ce = s.w.mem.ce := by rw [start]
    have alone : w.mem.errs = [e] := by rw [start, ← one]
    have whole : w.mem.lost = [] := by rw [start, ← unlisted]
    have none : w.rel.acts = [] := by rw [start, ← idle]
    have free : ({ s with w := w } : State).quiet (w.mem.place (64 * e.line)).stack (w.mem.place (64 * e.line)).channel env.clk = true := by
      rw [place, channel, start]
      exact quiet
    have both := State.patrolStacks_one alone correctable whole none (by rw [place]; exact stack) free
    rw [place, channel, passed, counts] at both
    exact both

end

section
/-!
The exact-packed form (O51).
-/

namespace Sys2Proof.Machine

open Sys2Proof

/-! ### Packed elements (R514 to R518) -/

theorem trailing_le (k n : Nat) : trailing k n ≤ k := by
  induction k generalizing n with
  | zero => exact Nat.le_refl 0
  | succ k ih =>
    unfold trailing
    split
    · omega
    · have := ih (n / 2)
      omega

theorem two_pow_trailing_dvd (k n : Nat) : 2 ^ trailing k n ∣ n := by
  induction k generalizing n with
  | zero => simp [trailing]
  | succ k ih =>
    unfold trailing
    split
    · simp
    · obtain ⟨c, hc⟩ := ih (n / 2)
      refine ⟨c, ?_⟩
      rw [Nat.pow_add, Nat.mul_assoc, ← hc]
      omega

/-- The power of two that divides a word divides the integer that it stands for. -/
theorem two_pow_trailing_dvd_toInt (t : BitVec 160) : ((2 ^ trailing 160 t.toNat : Nat) : Int) ∣ t.toInt := by
  have word : ((2 ^ trailing 160 t.toNat : Nat) : Int) ∣ (t.toNat : Int) := Int.natCast_dvd_natCast.mpr (two_pow_trailing_dvd 160 t.toNat)
  have range : ((2 ^ trailing 160 t.toNat : Nat) : Int) ∣ ((2 ^ 160 : Nat) : Int) :=
    Int.natCast_dvd_natCast.mpr (Nat.pow_dvd_pow 2 (trailing_le 160 t.toNat))
  rw [BitVec.toInt_eq_toNat_cond]
  split
  · exact word
  · exact Int.dvd_sub word range

/-- A 64-bit two's complement number read from its residue. -/
theorem signed_of_residue {m : Int} (low : -(2 ^ 63) ≤ m) (high : m < 2 ^ 63) :
    (if (m % (2 ^ 64 : Nat)).toNat < 2 ^ 63 then ((m % (2 ^ 64 : Nat)).toNat : Int) else ((m % (2 ^ 64 : Nat)).toNat : Int) - 2 ^ 64) = m := by
  split <;> omega

/-- A short record gives its value back: the mantissa shifted left by the offset (R516). -/
theorem unpackEls_short {m : Int} (low : -(2 ^ 63) ≤ m) (high : m < 2 ^ 63) {off : Nat} (fits : off ≤ 160) (ts : List Nat) (rest : List Byte) :
    unpackEls (0 :: ts) (toLE 8 (m % (2 ^ 64 : Nat)).toNat ++ toLE 2 off ++ zeros 2 ++ rest) =
      .val (BitVec.ofInt 160 (m * (2 ^ off : Nat))) :: unpackEls ts rest := by
  rw [List.append_assoc, List.append_assoc]
  have mantissa : leAt (toLE 8 (m % (2 ^ 64 : Nat)).toNat ++ (toLE 2 off ++ (zeros 2 ++ rest))) 0 8 = (m % (2 ^ 64 : Nat)).toNat :=
    leAt_front _ _ _ (by omega)
  have offset : leAt (toLE 8 (m % (2 ^ 64 : Nat)).toNat ++ (toLE 2 off ++ (zeros 2 ++ rest))) 8 2 = off := by
    rw [leAt_past_toLE _ _ _ _ (Nat.le_refl 8)]
    exact leAt_front _ _ _ (by omega)
  have left : (toLE 8 (m % (2 ^ 64 : Nat)).toNat ++ (toLE 2 off ++ (zeros 2 ++ rest))).drop 12 = rest := by
    rw [← List.append_assoc, ← List.append_assoc]
    exact List.drop_left' (by simp [zeros])
  rw [unpackEls, mantissa, offset, left, signed_of_residue low high]

/-- A long record gives its word back (R517). -/
theorem unpackEls_long (t : BitVec 160) (ts : List Nat) (rest : List Byte) :
    unpackEls (1 :: ts) (toLE 20 t.toNat ++ rest) = .val t :: unpackEls ts rest := by
  have word : leAt (toLE 20 t.toNat ++ rest) 0 20 = t.toNat := leAt_front _ _ _ t.isLt
  have left : (toLE 20 t.toNat ++ rest).drop 20 = rest := List.drop_left' (length_toLE 20 _)
  rw [unpackEls, word, left, BitVec.ofNat_toNat, BitVec.setWidth_eq]

/-- The mantissa of a cell, shifted back, is its value: no bit is lost below the offset. -/
theorem mantissa_exact (t : BitVec 160) :
    let off := if t = 0 then 0 else trailing 160 t.toNat
    off ≤ 160 ∧ t.toInt / (2 ^ off : Nat) * (2 ^ off : Nat) = t.toInt := by
  split
  · simp
  · exact ⟨trailing_le 160 t.toNat, Int.ediv_mul_cancel (two_pow_trailing_dvd_toInt t)⟩

/-- What the packed form of a cell keeps (R518). -/
def Cell.packed (x : Cell) : PackedEl := if x.ovf = true ∨ x.seg ≠ 0 then .ovr else .val x.t

/-- The tag and the record of one cell are read back. -/
theorem unpackEls_packCell (x : Cell) (ts : List Nat) (rest : List Byte) :
    unpackEls ((packCell x).1 :: ts) ((packCell x).2 ++ rest) = x.packed :: unpackEls ts rest := by
  unfold packCell Cell.packed
  by_cases lost : x.ovf = true ∨ x.seg ≠ 0
  · rw [if_pos lost, if_pos lost]
    rfl
  · rw [if_neg lost, if_neg lost]
    obtain ⟨fits, exact⟩ := mantissa_exact x.t
    dsimp only
    generalize (if x.t = 0 then 0 else trailing 160 x.t.toNat) = off at fits exact
    generalize x.t.toInt / (2 ^ off : Nat) = m at exact
    split
    · next short => rw [unpackEls_short short.1 short.2 fits, exact, BitVec.ofInt_toInt]
    · exact unpackEls_long x.t ts rest

end Sys2Proof.Machine

open Sys2Proof Sys2Proof.Machine

/-- Settles O51, by induction on the cells: one tag and one record are read at a time (`unpackEls_packCell`). -/
theorem packedRoundTrip : Obligations.PackedRoundTrip := by
  intro xs rest
  induction xs with
  | nil => rfl
  | cons x xs ih =>
    rw [List.map_cons, List.flatMap_cons, List.append_assoc, unpackEls_packCell, ih]
    rfl

end

section
/-!
What a station reaches; uplinks and the Zwinus Link (O58).
-/

namespace Sys2Proof.Machine

open Sys2Proof

/-! ### What a station's write leaves unchanged (R299, R301, R917) -/

/-- A write or read of a station: beside memory, the messages, the log and the counts of the reliability block, only the run changes. -/
structure Work.Reached (w v : Work) : Prop where
  access : ({ w with run := v.run } : Work).SameButAccess v
  dev : w.dev.SameButLog v.dev

theorem Work.Reached.refl (w : Work) : w.Reached w := ⟨.refl w, .refl _⟩

theorem Work.Reached.trans {a b c : Work} (h : a.Reached b) (k : b.Reached c) : a.Reached c where
  access := {
    cad := k.access.cad.trans h.access.cad
    cores := k.access.cores.trans h.access.cores
    plan := k.access.plan.trans h.access.plan
    run := rfl
    scales := k.access.scales.trans h.access.scales
    cum := k.access.cum.trans h.access.cum
    stages := k.access.stages.trans h.access.stages
    net := k.access.net.trans h.access.net
    trace := k.access.trace.trans h.access.trace }
  dev := h.dev.trans k.dev

theorem Work.Reached.foldl {α : Type} {f : Work → α → Work} (h : ∀ (v : Work) x, v.Reached (f v x)) (w : Work) (xs : List α) :
    w.Reached (xs.foldl f w) :=
  List.foldlRecOn xs f (.refl w) (fun v hv x _ => hv.trans (h v x))

theorem Work.Accessed.reached {w v : Work} (h : w.Accessed v) : w.Reached v := by
  refine ⟨?_, h.dev⟩
  rw [h.access.run]
  exact h.access

theorem Work.Reached.of_run (w : Work) (r : Run) : w.Reached { w with run := r } := ⟨.refl _, .refl _⟩

/-- A change of memory, of what is sent and of the reliability block alone. -/
theorem Work.Reached.of_mem (w : Work) (m : MemSys) (o : List Out) (r : Rel) : w.Reached { w with mem := m, out := o, rel := r } :=
  ⟨by constructor <;> rfl, rfl⟩

theorem Work.detect_reached (w : Work) (core : Nat) (kind : DetKind) : w.Reached (w.detect core kind) := by
  unfold Work.detect
  split
  · have marked := (Work.Reached.of_mem w w.mem w.out { w.rel with replayActive := true }).trans (.of_run _
      { w.run with since := if w.run.detections.isEmpty then w.now w.cad.offset.toNat else w.run.since
                   detections := w.run.detections ++ [{ core := core, kind := kind }]
                   wantStop := true })
    cases kind with
    | parity | residue | coreTable => exact marked.trans (Work.partEvent_accessed _ _ _ _ _ _ _).reached
    | selfCheck | hbm => exact marked
  · exact .refl w

theorem Work.logLost_reached (w : Work) (region : Nat) (g : Reg) (line : Nat) : w.Reached (w.logLost region g line) := by
  unfold Work.logLost
  split
  · exact (w.event_accessed _ _ _ _ _ _ _).reached
  · split <;> exact (w.event_accessed _ _ _ _ _ _ _).reached

theorem Work.judgeLost_reached (w : Work) (acc : Acc) (region line : Nat) : w.Reached (w.judgeLost acc region line) := by
  unfold Work.judgeLost
  split
  · split
    · exact .refl w
    · split
      · exact w.detect_reached _ _
      · exact (w.logLost_reached _ _ _).trans (.of_run _ _)
  · exact .refl w

theorem Work.stationRun_reached (w : Work) (acc : Acc) (region t : Nat) (bs : List Byte) : w.Reached (w.stationRun acc region t bs) :=
  (w.hbmWrite_accessed 0 t bs).reached.trans (.foldl (fun v l => v.judgeLost_reached acc region l) _ _)

theorem Work.request_reached (w : Work) (fab : Fab) (acc : Acc) (region : Nat) (g : Reg) (wr : Bool) (piece : Nat × Nat) (data : List Byte) :
    w.Reached (w.request fab acc region g wr piece data).1 := by
  unfold Work.request
  dsimp only
  split
  · exact .of_mem w _ _ w.rel
  · exact .of_run w _

theorem Work.devWrite_reached (w : Work) (fab : Fab) (acc : Acc) (addr : Nat) (bs : List Byte) : w.Reached (w.devWrite fab acc addr bs).1 := by
  unfold Work.devWrite
  refine List.foldlRecOn (motive := fun (wt : Work × List Nat) => w.Reached wt.1) _ _ (.refl w) (fun wt hw piece _ => hw.trans ?_)
  dsimp only
  split
  · exact .of_run wt.1 _
  · next i g _ =>
    have recorded (space t n : Nat) : wt.1.Reached (wt.1.recordWrite acc space t n) := .of_run wt.1 _
    split
    · exact (recorded _ _ _).trans (.foldl (fun u (r : Nat × List Byte) => u.stationRun_reached acc i r.1 r.2) _ _)
    · exact List.foldlRecOn (motive := fun (ut : Work × List Nat) => wt.1.Reached ut.1) _ _ (recorded _ _ _)
        (fun ut hu x _ => (hu.trans (ut.1.request_reached fab acc i g true _ x.2)).trans (.of_mem _ _ _ _))
    · exact (recorded _ _ _).trans (.foldl (fun u (r : Nat × List Byte) => (u.linkWrite_accessed r.1 r.2).reached) _ _)

/-! ### Frames received on an uplink (R792, R793) -/

/-- A flit on its way, or delivered: of the plan's work only the run changes. -/
structure Work.Routed (w v : Work) : Prop where
  cores : v.cores = w.cores
  upq : v.net.upq = w.net.upq

theorem Work.Routed.trans {a b c : Work} (h : a.Routed b) (k : b.Routed c) : a.Routed c := ⟨k.cores.trans h.cores, k.upq.trans h.upq⟩

theorem Net.arrive_upq (n : Net) (core stream : Nat) (bs : List Byte) (tiles : List (W64 × List Byte)) :
    (n.arrive core stream bs tiles).upq = n.upq := by
  unfold Net.arrive
  split <;> rfl

theorem Work.sendFlit_routed (w : Work) (fab : Fab) (e : StepEvent) (bond idx : Nat) (f : Flit) : w.Routed (w.sendFlit fab e bond idx f) := by
  unfold Work.sendFlit
  split <;> exact ⟨rfl, rfl⟩

theorem Work.collFlit_routed (w : Work) (f : Flit) : w.Routed (w.collFlit f) := by
  unfold Work.collFlit
  dsimp only
  split
  · exact ⟨rfl, rfl⟩
  · split
    · exact ⟨rfl, rfl⟩
    · have reached (acc : Acc) (addr : Nat) := (w.devWrite_reached {} acc addr (flitData f)).access
      refine ⟨(reached _ _).cores, ?_⟩
      dsimp only
      rw [(reached _ _).net]

theorem Work.route_routed (w : Work) (fab : Fab) (input idx : Nat) (f : Flit) : w.Routed (w.route fab input idx f) := by
  unfold Work.route
  dsimp only
  split
  · split
    · split
      · exact w.sendFlit_routed _ _ _ _ _
      · exact ⟨rfl, rfl⟩
    · exact w.sendFlit_routed _ _ _ _ _
  · split
    · exact ⟨rfl, Net.arrive_upq _ _ _ _ _⟩
    · exact w.collFlit_routed f
    · exact ⟨rfl, rfl⟩

theorem Work.routes_routed (w : Work) (fab : Fab) (input idx : Nat) (fs : List Flit) :
    w.Routed (fs.foldl (fun w f => w.route fab input idx f) w) :=
  List.foldlRecOn fs _ ⟨rfl, rfl⟩ (fun _ hv f _ => hv.trans (Work.route_routed _ fab input idx f))

/-- No bond leads from a member to itself. -/
theorem Fab.nextBond_self (f : Fab) (m order neg : Nat) : f.nextBond m m order neg = none := by
  simp [Fab.nextBond]

/-- A data flit for this member is delivered to the stream that its header names. -/
theorem Work.route_here {w : Work} {fab : Fab} (input idx : Nat) {f : Flit} (data : bits f.hdr 3 0 = 1) (here : bits f.hdr 13 4 = fab.member.toNat) :
    w.route fab input idx f = { w with net := w.net.arrive (bits f.hdr 20 14) (bits f.hdr 26 21) (flitData f) [] } := by
  simp only [Work.route, data, here, Fab.nextBond_self, true_or, if_true]

end Sys2Proof.Machine

namespace Sys2Proof.Machine

open Sys2Proof

section
variable (fr : Frame) (e : Nat)

/-- The frames of a peer that wait to be taken once one more has come and none was held (R793). -/
def Frame.pool : List Frame := if fr.seq < e then [] else [fr]

theorem Frame.takeEarly_pool : takeEarly (Frame.pool fr e).length (Frame.pool fr e) e = (if fr.seq = e then [fr] else [], if fr.seq = e then e + 1 else e) := by
  unfold Frame.pool
  by_cases early : fr.seq < e
  · rw [if_pos early, if_neg (by omega), if_neg (by omega)]
    rfl
  · by_cases next : fr.seq = e
    · rw [if_neg early, if_pos next, if_pos next]
      simp [takeEarly, next]
    · rw [if_neg early, if_neg next, if_neg next]
      simp [takeEarly, next]

theorem Frame.pool_left : (Frame.pool fr e).filter (fun f => decide ((if fr.seq = e then e + 1 else e) ≤ f.seq)) = if e < fr.seq then [fr] else [] := by
  unfold Frame.pool
  by_cases early : fr.seq < e
  · rw [if_pos early, if_neg (Nat.lt_asymm early), List.filter_nil]
  · by_cases next : fr.seq = e
    · rw [if_neg early, if_pos next, if_neg (by omega)]
      simp [next]
    · rw [if_neg early, if_neg next, if_pos (by omega)]
      simp only [List.filter_cons, List.filter_nil]
      rw [if_pos (decide_eq_true (by omega))]

end

/-- An uplink after a good frame: acknowledged frames are given up, one out of turn is held, and the next one is expected (R793). -/
def Uplink.after (u : Uplink) (fr : Frame) : Uplink :=
  let key := peerKey fr.srcHerd fr.srcMember
  let e := mget u.expect 0 key
  { u.spend with
    rx := u.rx.map (fun a => if a.sci = fr.sci ∧ a.an = fr.an then { a with nextPn := fr.pn + 1 } else a)
    unacked := u.unacked.filter (fun t => ¬(t.herd = fr.srcHerd ∧ t.member = fr.srcMember ∧ t.seq < fr.ack))
    early := if e < fr.seq then [fr] else []
    expect := mset u.expect 0 key (if fr.seq = e then e + 1 else e) }

theorem Fab.modUplink_congr {f : Fab} {up : Nat} {g h : Uplink → Uplink} (same : g (f.uplink up) = h (f.uplink up)) :
    f.modUplink up g = f.modUplink up h := by
  unfold Fab.modUplink mmod
  unfold Fab.uplink at same
  rw [same]

theorem Fab.uplink_modUplink_ne (f : Fab) (g : Uplink → Uplink) {up j : Nat} (other : j ≠ up) : (f.modUplink up g).uplink j = f.uplink j :=
  mget_mmod_ne _ _ _ other

section
variable {s : State} {up : Nat} {fr : Frame} (low : up < 4) (linkUp : (s.fab.uplink up).linkUp = true) (idle : s.w.net.upq = [])
include low linkUp

theorem exec_uplinkFrameReceive_bad (bad : s.fab.frameOk up fr = false) : exec (.uplinkFrameReceive up fr) s = .next
    { s with fab := s.fab.modUplink up (fun u => { u with discarded := u.discarded + 1 }) } := by
  change execUplinkFrameReceive up fr s = _
  unfold execUplinkFrameReceive
  rw [if_neg (by simp [linkUp]; omega), if_pos (by simp [bad])]

include idle

theorem exec_uplinkFrameReceive_good (good : s.fab.frameOk up fr = true) (empty : (s.fab.uplink up).early = []) :
    let u := s.fab.uplink up
    let key := peerKey fr.srcHerd fr.srcMember
    let e := mget u.expect 0 key
    let ack := if fr.seq = e then e + 1 else e
    let w := ((if fr.seq = e then [fr] else []).flatMap (·.flits)).foldl (fun w f => w.route (s.fab.modUplink up (·.after fr)) (40 + up) 0 f) s.w
    exec (.uplinkFrameReceive up fr) s = .next { s with
      fab := s.fab.modUplink up (·.after fr)
      w := { w with out := w.out ++ [Out.frame up fr.srcHerd fr.srcMember (mget u.nextSeq 0 key) ack []
        (s.fab.frameHead up fr.srcHerd fr.srcMember (mget u.nextSeq 0 key) ack (Config.peerLink up fr.srcHerd fr.srcMember).toNat 0)] } } := by
  intro u key e ack w
  have pool : (if fr.seq < e ∨ ([] : List Frame).any (·.seq = fr.seq) then [] else [] ++ [fr]) = Frame.pool fr e := by
    simp [Frame.pool]
  have held : u.early.filter (fun f => peerKey f.srcHerd f.srcMember = key) = [] := by rw [empty]; rfl
  have changed : s.fab.modUplink up (fun u =>
      { u.spend with
               rx := u.rx.map (fun a => if a.sci = fr.sci ∧ a.an = fr.an then { a with nextPn := fr.pn + 1 } else a)
               unacked := u.unacked.filter (fun t => ¬(t.herd = fr.srcHerd ∧ t.member = fr.srcMember ∧ t.seq < fr.ack))
               early := u.early.filter (fun f => peerKey f.srcHerd f.srcMember ≠ key) ++ if e < fr.seq then [fr] else []
               expect := mset u.expect 0 key ack }) = s.fab.modUplink up (·.after fr) := by
    exact Fab.modUplink_congr (by rw [empty]; rfl)
  change execUplinkFrameReceive up fr s = _
  unfold execUplinkFrameReceive
  rw [if_neg (by simp [linkUp]; omega), if_neg (by simp [good])]
  dsimp only
  rw [held, pool, Frame.takeEarly_pool]
  dsimp only
  rw [Frame.pool_left, changed, State.uplinks_idle]
  exact (Work.routes_routed _ _ _ _ _).upq.trans idle

end

/-! ### Frames sent again (R794) -/

theorem List.find?_map_of_same {α : Type} {p : α → Bool} {g : α → α} (same : ∀ x, p (g x) = p x) (xs : List α) :
    (xs.map g).find? p = (xs.find? p).map g := by
  rw [List.find?_map]
  congr 2
  exact funext same

theorem Run.blame_first {r : Run} (none : r.abandon = none) (status : Nat) (e : StepEvent) :
    (r.blame status e).abandon = some (BitVec.ofNat 8 status, e) := by
  unfold Run.blame
  dsimp only
  rw [none]

/-- The frame of a peer with a number is sent once more. -/
def Uplink.again (u : Uplink) (peer seq : Nat) : Uplink :=
  { u.spend with
    unacked := u.unacked.map (fun t => if decide (peerKey t.herd t.member = peer ∧ t.seq = seq) then { t with sends := t.sends + 1 } else t) }

/-- The frame of a peer with a number is given up. -/
def Uplink.giveUp (u : Uplink) (peer seq : Nat) : Uplink :=
  { u with unacked := u.unacked.filter (fun t => !decide (peerKey t.herd t.member = peer ∧ t.seq = seq)) }

section
variable {s : State} {up peer seq : Nat} {fr : TxFrame}
  (waits : (s.fab.uplink up).unacked.find? (fun t => decide (peerKey t.herd t.member = peer ∧ t.seq = seq)) = some fr)
include waits

/-- A frame that has been sent less than four times is sent again. -/
theorem exec_uplinkResendTimeout_again (few : fr.sends < 4) : ∃ t, exec (.uplinkResendTimeout up peer seq) s = .next t ∧
    (t.fab.uplink up).unacked.find? (fun t => decide (peerKey t.herd t.member = peer ∧ t.seq = seq)) = some { fr with sends := fr.sends + 1 } ∧
    t.fab.uplRetry = s.fab.uplRetry + 1 ∧
    (let ack := mget (s.fab.uplink up).expect 0 peer
     t.w.out = s.w.out ++ [Out.frame up fr.herd fr.member fr.seq ack fr.flits
       (s.fab.frameHead up fr.herd fr.member fr.seq ack fr.link fr.flits.length)]) ∧ t.w.run = s.w.run := by
  have went : exec (.uplinkResendTimeout up peer seq) s = .next { s with
      fab := { s.fab.modUplink up (·.again peer seq) with uplRetry := s.fab.uplRetry + 1 }
      w := { s.w with out := s.w.out ++ [Out.frame up fr.herd fr.member fr.seq (mget (s.fab.uplink up).expect 0 peer) fr.flits
        (s.fab.frameHead up fr.herd fr.member fr.seq (mget (s.fab.uplink up).expect 0 peer) fr.link fr.flits.length)] } } := by
    change execUplinkResendTimeout up peer seq s = _
    simp only [execUplinkResendTimeout, waits, if_pos few]
    rfl
  refine ⟨_, went, ?_, rfl, rfl, rfl⟩
  have mine := List.find?_some waits
  dsimp only [Fab.uplink, Fab.modUplink, Uplink.again]
  rw [mget_mmod_same, List.find?_map_of_same]
  · unfold Fab.uplink at waits
    rw [waits, Option.map_some, if_pos mine]
  · intro t
    split <;> rfl

/-- After four sends the frame is given up and its peer is lost. -/
theorem exec_uplinkResendTimeout_lost (often : 4 ≤ fr.sends) : ∃ t, exec (.uplinkResendTimeout up peer seq) s = .next t ∧
    (t.fab.uplink up).unacked.find? (fun t => decide (peerKey t.herd t.member = peer ∧ t.seq = seq)) = none ∧
    (s.w.stepping = true → s.w.run.abandon = none → ∃ e, t.w.run.abandon = some (BitVec.ofNat 8 stPeerLost, e) ∧ e.which = fr.member) ∧
    t.w.mem = s.w.mem ∧ t.w.cores = s.w.cores := by
  have went : exec (.uplinkResendTimeout up peer seq) s = .next { s with
      fab := s.fab.modUplink up (·.giveUp peer seq)
      w := if s.w.stepping then
          { s.w with run := s.w.run.blame stPeerLost { time := s.w.cad.time, core := 0, firing := 0, which := fr.member } }
        else s.w } := by
    change execUplinkResendTimeout up peer seq s = _
    simp only [execUplinkResendTimeout, waits, if_neg (Nat.not_lt.mpr often)]
    rfl
  refine ⟨_, went, ?_, fun stepping first => ?_, ?_, ?_⟩
  · dsimp only [Fab.uplink, Fab.modUplink, Uplink.giveUp]
    rw [mget_mmod_same, List.find?_eq_none]
    intro t ht
    have other := (List.mem_filter.mp ht).2
    rw [Bool.not_eq_true'] at other
    rw [other]
    exact Bool.false_ne_true
  · dsimp only
    rw [if_pos stepping]
    exact ⟨_, Run.blame_first first _ _, rfl⟩
  · dsimp only
    split <;> rfl
  · dsimp only
    split <;> rfl

end

/-! ### The Zwinus Link (R826, R827) -/

/-- While the link is up nothing waits for it: messages go out at once. -/
structure Work.LinkKept (w v : Work) : Prop where
  parked : v.dev.parked = w.dev.parked
  linkUp : v.dev.linkUp = true
  lanes : v.dev.zLanes = w.dev.zLanes

theorem Work.LinkKept.trans {a b c : Work} (h : a.LinkKept b) (k : b.LinkKept c) : a.LinkKept c :=
  ⟨k.parked.trans h.parked, k.linkUp, k.lanes.trans h.lanes⟩

section
variable {w : Work} (on : w.dev.linkUp = true)
include on

theorem Work.linkWrite_kept (addr : Nat) (bs : List Byte) : w.LinkKept (w.linkWrite addr bs) := by
  rw [Work.linkWrite, if_pos on]
  exact ⟨rfl, on, rfl⟩

theorem Work.raise_kept (b : Nat) : w.LinkKept (w.raise b) := by
  unfold Work.raise
  split
  · exact ⟨rfl, on, rfl⟩
  · dsimp only
    split
    · rw [Work.interrupt, if_pos on]
      exact ⟨rfl, on, rfl⟩
    · exact ⟨rfl, on, rfl⟩

theorem Work.note_kept (kind core data : Nat) : w.LinkKept (w.note kind core data) := by
  have room : w.LinkKept w.noteRoom := by
    unfold Work.noteRoom
    split
    · exact ⟨rfl, on, rfl⟩
    · refine .trans ?_ (Work.raise_kept ?_ 4)
      · exact ⟨rfl, on, rfl⟩
      · exact on
  unfold Work.note
  split
  · have written := room.trans (Work.linkWrite_kept room.linkUp (w.noteRoom.dev.noteBase.toNat + 16 * w.noteRoom.dev.noteTail.toNat)
      (toLE 16 (pack [(kind, 8), (b2n w.noteRoom.dev.notePhase, 8), (core, 16), (data, 32), (w.noteRoom.cad.tickCount.toNat, 64)])))
    refine written.trans (.trans ?_ (Work.raise_kept ?_ 0))
    · exact ⟨rfl, written.linkUp, rfl⟩
    · exact written.linkUp
  · exact ⟨rfl, on, rfl⟩

theorem Work.event_kept (kind sev unit sub idx addr data : Nat) : w.LinkKept (w.event kind sev unit sub idx addr data) := by
  unfold Work.event
  dsimp only
  refine .trans (.trans ?_ (Work.raise_kept ?_ 3)) (Work.note_kept (Work.raise_kept ?_ 3).linkUp _ _ _)
  · exact ⟨rfl, on, rfl⟩
  · exact on
  · exact on

end

/-- One message that waited for the link goes out. -/
def Work.unparkOne (w : Work) (q : Parked) : Work :=
  if q.message then { w with out := w.out ++ [Out.interrupt (BitVec.ofNat 64 q.addr) (BitVec.ofNat 32 (leNat q.data))] }
  else w.linkWrite q.addr q.data

theorem Work.unpark_eq (w : Work) : w.unpark = w.dev.parked.foldl Work.unparkOne { w with dev := { w.dev with parked := [] } } := rfl

theorem Work.unparkOne_same (w : Work) (q : Parked) : w.SamePlanWork (w.unparkOne q) := by
  unfold Work.unparkOne
  split
  · constructor <;> rfl
  · exact w.linkWrite_same _ _

theorem Work.unparkOne_kept {w : Work} (on : w.dev.linkUp = true) (q : Parked) : w.LinkKept (w.unparkOne q) := by
  unfold Work.unparkOne
  split
  · exact ⟨rfl, on, rfl⟩
  · exact Work.linkWrite_kept on _ _

theorem Work.unpark_spec {w : Work} (on : w.dev.linkUp = true) : w.SamePlanWork w.unpark ∧ w.unpark.dev.parked = [] ∧
    w.unpark.dev.linkUp = true ∧ w.unpark.dev.zLanes = w.dev.zLanes := by
  rw [Work.unpark_eq]
  have start : w.SamePlanWork { w with dev := { w.dev with parked := [] } } := by constructor <;> rfl
  have none : ({ w with dev := { w.dev with parked := [] } } : Work).dev.parked = [] := rfl
  have up : ({ w with dev := { w.dev with parked := [] } } : Work).dev.linkUp = true := on
  have lanes : ({ w with dev := { w.dev with parked := [] } } : Work).dev.zLanes = w.dev.zLanes := rfl
  generalize ({ w with dev := { w.dev with parked := [] } } : Work) = v at *
  generalize w.dev.parked = qs
  have run := List.foldlRecOn (motive := fun u => w.SamePlanWork u ∧ v.LinkKept u) qs Work.unparkOne ⟨start, ⟨rfl, up, rfl⟩⟩
    (fun u hu q _ => ⟨hu.1.trans (u.unparkOne_same q), hu.2.trans (Work.unparkOne_kept hu.2.linkUp q)⟩)
  exact ⟨run.1, run.2.parked.trans none, run.2.linkUp, run.2.lanes.trans lanes⟩

/-- A message that waited alone has gone out. -/
theorem Work.unpark_one {w : Work} {q : Parked} (on : w.dev.linkUp = true) (one : w.dev.parked = [q]) :
    (q.message = false → w.unpark.mem.companion.readN q.addr q.data.length = q.data) ∧
    (q.message = true → Out.interrupt (BitVec.ofNat 64 q.addr) (BitVec.ofNat 32 (leNat q.data)) ∈ w.unpark.out) := by
  rw [Work.unpark_eq, one, List.foldl_cons, List.foldl_nil]
  unfold Work.unparkOne
  refine ⟨fun data => ?_, fun message => ?_⟩
  · rw [data, if_neg Bool.false_ne_true, Work.linkWrite, if_pos on]
    exact Memory.readN_write _ _ _
  · rw [if_pos message]
    simp

theorem Work.linkDown_spec (w : Work) (lanes : Nat) :
    w.SamePlanWork (w.linkDown lanes) ∧ (w.linkDown lanes).dev.linkUp = false ∧ (w.linkDown lanes).dev.zLanes = w.dev.zLanes := by
  unfold Work.linkDown
  dsimp only
  refine ⟨.trans ?_ (Work.event_same _ _ _ _ _ _ _ _), ?_, ?_⟩
  · constructor <;> rfl
  · rw [Work.event_dev_linkUp]
  · rw [(Work.event_accessed _ _ _ _ _ _ _ _).dev]

/-- A lane that fails with both spares in use narrows the link (R826). -/
theorem exec_zwinusLaneFailure_narrows {lane : Nat} {s : State} (exists_ : lane < 18) (on : s.w.dev.linkUp = true) (used : 2 ≤ s.w.dev.zSpares) :
    ∃ t, exec (.zwinusLaneFailure lane) s = .next t ∧ t.w.dev.zLanes = s.w.dev.zLanes - 1 ∧
      t.w.dev.linkUp = decide (8 ≤ s.w.dev.zLanes - 1) ∧ s.w.SamePlanWork t.w ∧ s.SameBlocks t := by
  have went : exec (.zwinusLaneFailure lane) s = .next { s with w :=
      if s.w.dev.zLanes - 1 < 8 then ({ s.w with dev := { s.w.dev with zLanes := s.w.dev.zLanes - 1 } } : Work).linkDown (s.w.dev.zLanes - 1)
      else { s.w with dev := { s.w.dev with zLanes := s.w.dev.zLanes - 1 } } } := by
    change execZwinusLaneFailure lane s = _
    unfold execZwinusLaneFailure
    dsimp only
    rw [if_neg (by simp [on]; omega), if_neg (by omega)]
  refine ⟨_, went, ?_⟩
  by_cases few : s.w.dev.zLanes - 1 < 8
  · rw [if_pos few]
    obtain ⟨same, down, lanes⟩ := ({ s.w with dev := { s.w.dev with zLanes := s.w.dev.zLanes - 1 } } : Work).linkDown_spec (s.w.dev.zLanes - 1)
    exact ⟨lanes, by rw [down, decide_eq_false (by omega)], .trans (by constructor <;> rfl) same, ⟨rfl, rfl, rfl, rfl⟩⟩
  · rw [if_neg few]
    exact ⟨rfl, by rw [decide_eq_true (by omega)]; exact on, by constructor <;> rfl, ⟨rfl, rfl, rfl, rfl⟩⟩

/-- The link's return (R827). -/
theorem exec_zwinusLinkUp_spec {lanes : Nat} {s : State} (down : s.w.dev.linkUp = false) (power : s.w.dev.state ≠ .off)
    (low : 8 ≤ lanes) (high : lanes ≤ 16) : ∃ t, exec (.zwinusLinkUp lanes) s = .next t ∧
      t.w.dev.linkUp = true ∧ t.w.dev.zLanes = lanes ∧ t.w.dev.parked = [] ∧
      (∀ q, s.w.dev.parked = [q] → q.message = false → t.w.mem.companion.readN q.addr q.data.length = q.data) ∧
      (∀ q, s.w.dev.parked = [q] → q.message = true →
        Out.interrupt (BitVec.ofNat 64 q.addr) (BitVec.ofNat 32 (leNat q.data)) ∈ t.w.out) ∧
      s.w.SamePlanWork t.w ∧ s.SameBlocks t := by
  have went : exec (.zwinusLinkUp lanes) s = .next { s with w := (Work.event { s.w with
      dev := { s.w.dev with linkUp := true, zLanes := lanes }, out := s.w.out ++ [Out.pldmEvent 21 1] } 0x000D 0 0xFFFF 0 0 0 lanes).unpark } := by
    change execZwinusLinkUp lanes s = _
    unfold execZwinusLinkUp
    dsimp only
    rw [if_neg (by simp [down, power]; omega)]
  have returned : s.w.SamePlanWork { s.w with
      dev := { s.w.dev with linkUp := true, zLanes := lanes }, out := s.w.out ++ [Out.pldmEvent 21 1] } := by constructor <;> rfl
  have logged := returned.trans (Work.event_same _ 0x000D 0 0xFFFF 0 0 0 lanes)
  have kept := Work.event_kept (w := { s.w with
      dev := { s.w.dev with linkUp := true, zLanes := lanes }, out := s.w.out ++ [Out.pldmEvent 21 1] }) rfl 0x000D 0 0xFFFF 0 0 0 lanes
  obtain ⟨same, parked, up, wide⟩ := Work.unpark_spec kept.linkUp
  exact ⟨_, went, up, wide.trans kept.lanes, parked, fun q one => (Work.unpark_one kept.linkUp (kept.parked.trans one)).1,
    fun q one => (Work.unpark_one kept.linkUp (kept.parked.trans one)).2, logged.trans same, ⟨rfl, rfl, rfl, rfl⟩⟩

end Sys2Proof.Machine

open Sys2Proof Sys2Proof.Machine

/-- Settles O58: a good frame leaves the uplink as `Uplink.after` says and its flits are delivered or sent on (`Work.routes_routed`); what
waited for the link goes out on its return (`Work.unpark_spec`, `Work.unpark_one`). -/
theorem linksChange : Obligations.LinksChange := by
  refine ⟨fun up fr s low linkUp idle => ?_, fun up peer seq fr s waits =>
    ⟨exec_uplinkResendTimeout_again waits, exec_uplinkResendTimeout_lost waits⟩, fun up on s low idle => ?_, fun lane lanes s =>
    ⟨fun exists_ on => ⟨fun spare => ?_, exec_zwinusLaneFailure_narrows exists_ on⟩, fun down power lo hi => exec_zwinusLinkUp_spec down power lo hi⟩⟩
  · intro u key e
    refine ⟨exec_uplinkFrameReceive_bad low linkUp, fun good empty => ⟨_, exec_uplinkFrameReceive_good low linkUp idle good empty, ?_⟩⟩
    have routed := s.w.routes_routed (s.fab.modUplink up (·.after fr)) (40 + up) 0 ((if fr.seq = e then [fr] else []).flatMap (·.flits))
    refine ⟨?_, fun j other => s.fab.uplink_modUplink_ne _ other, List.mem_append_right _ (List.mem_singleton_self _), fun out => ?_, fun f next one data here => ?_, routed.cores, rfl, rfl⟩
    · dsimp only [Fab.uplink, Fab.modUplink]
      rw [mget_mmod_same]
      exact ⟨mget_mset_same _ _ _ _, rfl, rfl, rfl⟩
    · rw [if_neg out]
      rfl
    · rw [if_pos next]
      simp only [List.flatMap_cons, List.flatMap_nil, one, List.append_nil, List.foldl_cons, List.foldl_nil]
      rw [Work.route_here (fab := s.fab.modUplink up (·.after fr)) _ _ data here]
  · refine ⟨?_, fun honoured => ?_, fun ignored => ?_⟩
    · change execUplinkLinkChange up on s = _
      unfold execUplinkLinkChange
      rw [if_neg (by omega), State.uplinks_idle]
      exact idle
    · change execPriorityPauseFrame up on s = _
      unfold execPriorityPauseFrame
      rw [if_neg (by simp [honoured]; omega), State.uplinks_idle]
      exact idle
    · change execPriorityPauseFrame up on s = _
      unfold execPriorityPauseFrame
      rw [if_pos (by simp [ignored])]
  · change execZwinusLaneFailure lane s = _
    unfold execZwinusLaneFailure
    dsimp only
    rw [if_neg (by simp [on]; omega), if_pos spare]

end

section
/-!
Moves of pages (O38).
-/

namespace Sys2Proof.Machine

open Sys2Proof

/-! ### A log entry over a page table entry (R665, R685, R882) -/

/-- A policy of one layer with its slot records from 0x4000000 and its layer roots from 0x4400000 (R656, R662, R663). -/
def rootPolicy : Policy :=
  { hdr := BitVec.ofNat 2048 (4 * 2 ^ 64 + 1 * 2 ^ 104 + 1 * 2 ^ 112 + 0x4000000 * 2 ^ 128 + 0x2000000 * 2 ^ 192 + 2 * 2 ^ 256)
    appends := [] }

/-- A plan with that policy: the slot records lie in local HBM, the layer roots in companion memory. -/
def splitPlan : Plan :=
  { header := [], cls := 128, clockSel := 0, tickClk := 7200, herdSize := 1, moduleIndex := 0, stepTicks := 4, planId := 1, digest := []
    cores := [], sections := [], lists := [], descs := []
    regions := [BitVec.ofNat 128 (1 + 2 ^ 1 + 2 ^ 2 + 34 * 2 ^ 67),
                BitVec.ofNat 128 (1 + 2 ^ 1 + 2 ^ 2 + 2 * 2 ^ 4 + 34 * 2 ^ 32 + 1 * 2 ^ 67)]
    routes := [], scales := none, drains := [], policy := some rootPolicy, commits := [], switches := [], caps := [], vec := [] }

/-- The rows under way to page 0 of layer 0 of slot 0. -/
def pageZero : PageMove := { slot := 0, layer := 0, page := 0, pool := 1, tier := 1 }

/-- A module with those rows under way: the line of the slot's record is uncorrectable, and the notification ring lies over the page's
entry in companion memory. -/
def noticedPage : State :=
  { State.reset with w := {
      dev := { state := .loaded, linkUp := true, noteEnable := true }
      mem := { companion := Memory.write {} 8 (toLE 8 (2 * 2 ^ 24)), errs := [{ line := 0x100000, lost := true }] }
      cum := { openSlots := [0], filling := [pageZero] }
      plan := some splitPlan } }

/-- The rows under way in the state after a command. -/
def fillingAfter (i : Instr) (s : State) : List PageMove :=
  match exec i s with
  | .next t => t.w.cum.filling
  | _ => []

end Sys2Proof.Machine

open Sys2Proof Sys2Proof.Machine

/-- Refutes O38: APPEND_COPY_DONE reads the slot's record first; where that lies in an uncorrectable line, the notification of the log
entry can overwrite the page's entry, which is FILLING no longer, and the rows stay under way. -/
theorem not_pageMoves : ¬ Obligations.PageMoves := by
  intro h
  obtain ⟨-, landed, -⟩ := h 0 0 0 rootPolicy noticedPage (by decide +kernel)
  obtain ⟨t, went, filling, -⟩ := landed pageZero (by decide +kernel) (by decide +kernel) (by decide +kernel) (by decide +kernel)
    (by decide +kernel)
  have stays : fillingAfter (.appendCopyDone 0 0 0) noticedPage = [pageZero] := by decide +kernel
  rw [fillingAfter, went] at stays
  have gone : t.w.cum.filling = [] := filling.trans (by decide +kernel)
  exact absurd (gone.symm.trans stays) (by decide +kernel)

end

section
/-!
Appends (O37).
-/

namespace Sys2Proof.Machine

open Sys2Proof

/-! ### Appends (R680, R681, R710) -/

theorem Work.stagingReads_accessed (w : Work) (t : Tensor) (heads n b : Nat) : w.Accessed (w.stagingReads t heads n b) := by
  refine .foldl (fun v j => .foldl (fun u h => ?_) v _) w _
  dsimp only
  split
  · exact u.cumReads_accessed _ _
  · exact (u.cumReads_accessed _ _).trans (Work.cumReads_accessed _ _ _)

theorem Work.takeBlock_moved (w : Work) (p : Policy) (s l addr : Nat) : w.Moved (w.takeBlock p s l addr) := by
  unfold Work.takeBlock
  exact .trans (.of_cum w (by rfl)) ((Work.cumWrite_accessed _ _ _).trans (Work.cumWrite_accessed _ _ _)).moved

theorem Work.growTable_moved (w : Work) (p : Policy) (s l k : Nat) : w.Moved (w.growTable p s l k) := by
  unfold Work.growTable
  dsimp only
  split
  · exact .refl w
  · split
    · split
      · exact w.takeBlock_moved p s l _
      · exact .refl w
    · have grown : w.Moved (if w.cumNum (p.root s l + 0x90) 8 / 2 ^ 63 = 0 then w.takeBlock p s l (p.root s l + 0x90) else w) := by
        split
        · exact w.takeBlock_moved p s l _
        · exact .refl w
      generalize (if w.cumNum (p.root s l + 0x90) 8 / 2 ^ 63 = 0 then w.takeBlock p s l (p.root s l + 0x90) else w) = v at grown
      split
      · split
        · exact grown.trans (v.takeBlock_moved p s l _)
        · exact grown
      · exact grown

theorem Work.extend_moved (w : Work) (p : Policy) (m : PageMove) : w.Moved (w.extend p m) := by
  unfold Work.extend
  dsimp only
  split
  · exact w.fill_moved p m
  · exact (w.fill_moved p m).trans (.foldl (fun v r => (v.queueRun_accessed _ _ _).moved) _ _)

/-- An append that is taken, directly or deferred: what it counts, and then moves of pages. -/
structure Work.Appended (w v : Work) (direct : Bool) : Prop where
  served : w.CumServed v
  appends : v.cum.appends = w.cum.appends + 1
  deferredCount : v.cum.deferredCount = if direct then w.cum.deferredCount else w.cum.deferredCount + 1
  stalls : v.cum.stalls = w.cum.stalls
  treated : v.cum.treated = w.cum.treated

theorem Work.Appended.moves {w u v : Work} {direct : Bool} (h : w.Appended u direct) (k : u.Moved v) : w.Appended v direct where
  served := h.served.trans k.served
  appends := by
    rw [k.cum]
    exact h.appends
  deferredCount := by
    rw [k.cum]
    exact h.deferredCount
  stalls := by
    rw [k.cum]
    exact h.stalls
  treated := by
    rw [k.cum]
    exact h.treated

theorem Work.Accessed.appended {w u v : Work} {direct : Bool} (h : w.Accessed u) (k : u.Appended v direct) : w.Appended v direct := by
  obtain ⟨served, appends, deferredCount, stalls, treated⟩ := k
  rw [h.access.cum] at appends deferredCount stalls treated
  exact ⟨h.cumServed.trans served, appends, deferredCount, stalls, treated⟩

section
variable (w : Work) (pl : Plan) (p : Policy) (e : AppendEnt) (pos s n : Nat)

/-- The new pages of an append (R680). -/
def Work.freshPages : List Nat :=
  (List.range (pagesOf (w.tokens p s e.layer + n))).filter (pagesOf (w.tokens p s e.layer) ≤ ·)

/-- An append of a slot without eviction that nothing may cover: the sequence is stalled, or its tokens or pages would be too many. -/
def Work.appendBarred : Prop := w.stalled s = true ∨ 16777216 < w.tokens p s e.layer + n ∨
  w.budget p s < (w.heldPages p s e.layer).length + (w.freshPages p e s n).length

/-- The pages that will be free for an append: the free ones, those of spills under way and of spills that may begin (R681). -/
def Work.appendRoom : Nat := w.freePages p + (w.spillsComing - w.cum.deferred.length) + min (w.candidates p).length (w.freeTier p)

variable {w pl p e pos s n} (clean : w.noErrors) (keeps : w.evictEn p s = false)
include clean keeps

/-- An append of a sequence that may not be taken stalls it. -/
theorem Work.appendOne_barred (barred : w.appendBarred p e s n) : w.appendOne pl p e pos s n = w.stallSeq pos s e.layer stNoPage := by
  unfold Work.appendOne
  extract_lets l v c fresh held ev budget
  have read : v = w := w.tableReads_of_noErrors clean p s l
  clear_value v
  subst read
  have quiet : ev = false := keeps
  rw [if_pos]
  rcases barred with stalled | long | over_
  · exact .inl stalled
  · exact .inr (.inl long)
  · exact .inr (.inr ⟨by simp [quiet], over_⟩)

/-- Otherwise it stalls with too few blocks or too little room, and is taken else. -/
theorem Work.appendOne_allowed (allowed : ¬ w.appendBarred p e s n) :
    (w.freeBlocks p < w.lackBlocks p s e.layer (w.freshPages p e s n) ∨ w.appendRoom p < (w.freshPages p e s n).length →
      ∃ status, w.appendOne pl p e pos s n = w.stallSeq pos s e.layer status ∧
        (w.freeBlocks p < w.lackBlocks p s e.layer (w.freshPages p e s n) → status = stNoPage)) ∧
    (w.lackBlocks p s e.layer (w.freshPages p e s n) ≤ w.freeBlocks p → (w.freshPages p e s n).length ≤ w.appendRoom p →
      w.Appended (w.appendOne pl p e pos s n) (decide ((w.freshPages p e s n).length ≤ w.freePages p))) := by
  unfold Work.appendOne
  extract_lets +onlyGivenNames l v c fresh held ev budget vs need blocks free cands coming covered direct later
  have same : v = w := w.tableReads_of_noErrors clean p s l
  clear_value v
  subst same
  have quiet : ev = false := keeps
  have inside : ¬(v.stalled s = true ∨ 16777216 < c + n ∨ ((!ev) = true ∧ budget < held + fresh.length)) := by
    rintro (stalled | long | ⟨-, over_⟩)
    · exact allowed (.inl stalled)
    · exact allowed (.inr (.inl long))
    · exact allowed (.inr (.inr over_))
  have none : vs = [] := by
    unfold vs
    rw [quiet, if_neg Bool.false_ne_true]
  have all : need = v.freshPages p e s n := by
    unfold need
    rw [none]
    exact List.filter_eq_self.mpr (fun _ _ => by simp)
  rw [if_neg inside]
  refine ⟨fun lacks => ?_, fun enough room => ?_⟩
  · have neither : (!direct && !later) = true := by
      rcases lacks with few | small
      · have bare : ¬covered := by
          unfold covered blocks
          rw [all]
          exact Nat.not_le.mpr few
        simp [direct, later, bare]
      · have short : ¬need.length ≤ free + coming + min cands (v.freeTier p) := by
          rw [all]
          exact Nat.not_le.mpr small
        have shorter : ¬need.length ≤ free := by omega
        simp [direct, later, short, shorter]
    rw [if_pos neither]
    refine ⟨_, rfl, fun few => if_neg ?_⟩
    rintro ⟨enough, -⟩
    unfold covered blocks at enough
    rw [all] at enough
    exact absurd enough (Nat.not_le.mpr few)
  · have covers : direct = decide ((v.freshPages p e s n).length ≤ v.freePages p) := by
      unfold direct covered blocks
      rw [all, decide_eq_true enough, Bool.true_and]
    have some : ¬(!direct && !later) = true := by
      have bare : covered := by
        unfold covered blocks
        rw [all]
        exact enough
      have long : need.length ≤ free + coming + min cands (v.freeTier p) := by
        rw [all]
        exact room
      simp [direct, later, bare, long]
    rw [if_neg some]
    rw [← covers]
    extract_lets +onlyGivenNames kt vt read
    have staged : v.Accessed read := (v.stagingReads_accessed _ _ _ _).trans (Work.stagingReads_accessed _ _ _ _ _)
    clear_value read
    extract_lets +onlyGivenNames rows last c1 counted
    have counts : read.Appended counted direct := ⟨.of_cum read rfl, rfl, rfl, rfl, rfl⟩
    clear_value counted
    extract_lets +onlyGivenNames old c2 noted
    have first : counted.Moved noted := .of_cum counted (by rfl)
    clear_value noted
    extract_lets +onlyGivenNames busy evicted
    have kept : noted.Moved evicted := by
      unfold evicted old
      rw [none]
      exact .refl noted
    clear_value evicted
    extract_lets +onlyGivenNames written extended
    have second : evicted.Moved written := (evicted.setTokens_accessed _ _ _ _).moved
    have third : written.Moved extended := .foldl (fun u k => u.extend_moved p (rows k)) written _
    clear_value extended
    extract_lets +onlyGivenNames grown
    have fourth : extended.Moved grown := .foldl (fun u k => (u.growTable_moved p s l k).trans
      ((Work.setEnt_accessed _ _ _ _ _ _).trans (Work.bump_accessed _ _ _ _ _ _)).moved) extended need
    clear_value grown
    extract_lets +onlyGivenNames c3 queued
    have fifth : grown.Moved queued := .of_cum grown (by rfl)
    clear_value queued
    have last_ := (Work.serveDeferred_moved p queued.cum.deferred.length queued).trans (Work.cumRun_moved _ p)
    exact staged.appended (counts.moves ((((((first.trans kept).trans second).trans third).trans fourth).trans fifth).trans last_))

end

/-- A stall of a sequence in the present step, and its count (R710). -/
def Work.withStall (w : Work) (s pos l status : Nat) : Work :=
  { w with
    cum.stalls := w.cum.stalls ++ [{ slot := s, pos := pos, layer := l, status := BitVec.ofNat 8 status }]
    cum.stallCount := w.cum.stallCount + 1 }

theorem Work.stallSeq_stalled {w : Work} {s : Nat} (stalled : w.stalled s = true) (pos l status : Nat) : w.stallSeq pos s l status = w := by
  rw [Work.stallSeq, if_pos stalled]

theorem Work.stallSeq_first {w : Work} {s : Nat} (first : ¬w.stalled s = true) (pos l status : Nat) :
    w.stallSeq pos s l status = w.withStall s pos l status := by
  rw [Work.stallSeq, if_neg first]
  rfl

/-- A work state with another list of treated entries. -/
def Work.treat (w : Work) (ts : List Nat) : Work := { w with cum.treated := ts }

section
variable (w : Work) (ts : List Nat) (p : Policy)

theorem Work.treat_devByte (a : Nat) : (w.treat ts).devByte a = w.devByte a := rfl

theorem Work.treat_cumNum (a n : Nat) : (w.treat ts).cumNum a n = w.cumNum a n := rfl

theorem Work.treat_tokens (s l : Nat) : (w.treat ts).tokens p s l = w.tokens p s l := rfl

theorem Work.treat_budget (s : Nat) : (w.treat ts).budget p s = w.budget p s := rfl

theorem Work.treat_evictEn (s : Nat) : (w.treat ts).evictEn p s = w.evictEn p s := by
  unfold Work.evictEn
  rw [w.treat_cumNum]

theorem Work.treat_entAt (s l k : Nat) : (w.treat ts).entAt p s l k = w.entAt p s l k := by
  unfold Work.entAt
  simp only [w.treat_cumNum]

theorem Work.treat_ent (s l k : Nat) : (w.treat ts).ent p s l k = w.ent p s l k := by
  unfold Work.ent
  simp only [w.treat_entAt, w.treat_cumNum]

theorem Work.treat_heldPages (s l : Nat) : (w.treat ts).heldPages p s l = w.heldPages p s l := by
  unfold Work.heldPages
  simp only [w.treat_tokens, w.treat_ent]

theorem Work.treat_lackBlocks (s l : Nat) (ks : List Nat) : (w.treat ts).lackBlocks p s l ks = w.lackBlocks p s l ks := by
  unfold Work.lackBlocks
  simp only [w.treat_cumNum]

theorem Work.treat_slotSpillable (s : Nat) : (w.treat ts).slotSpillable s = w.slotSpillable s := rfl

theorem Work.treat_candidates : (w.treat ts).candidates p = w.candidates p := by
  unfold Work.candidates
  simp only [w.treat_cumNum, w.treat_heldPages, w.treat_ent]
  rfl

theorem Work.treat_appendRoom : (w.treat ts).appendRoom p = w.appendRoom p := by
  unfold Work.appendRoom
  rw [w.treat_candidates]
  rfl

theorem Work.treat_freshPages (e : AppendEnt) (s n : Nat) : (w.treat ts).freshPages p e s n = w.freshPages p e s n := by
  unfold Work.freshPages
  rw [w.treat_tokens]

theorem Work.treat_appendBarred (e : AppendEnt) (s n : Nat) : (w.treat ts).appendBarred p e s n ↔ w.appendBarred p e s n := by
  unfold Work.appendBarred
  rw [w.treat_freshPages, w.treat_tokens, w.treat_budget, w.treat_heldPages]
  rfl

end

/-- The append point of an entry with a table of one valid position of an open slot. -/
theorem Work.appendPoint_one {w : Work} {b : W64} (pl : Plan) (p : Policy) (e : AppendEnt) (batch : w.cum.batch = [b])
    (valid : bit b 16 = true) (some : 0 < batchAppend b) (opened : batchSlot b ∈ w.cum.openSlots) :
    w.appendPoint pl p e = w.appendOne pl p e 0 (batchSlot b) (batchAppend b) := by
  unfold Work.appendPoint
  rw [batch, List.zipIdx_singleton, List.foldl_cons, List.foldl_nil, if_pos ⟨valid, some, opened⟩]

theorem exec_appendPoint {entry : Nat} {p : Plan} {c : Policy} {x : BitVec 256} {b : W64} {s : State} (plan : s.w.plan = some p)
    (policy : p.policy = some c) (listed : c.appends[entry]? = some x) (running : s.w.dev.state = .running)
    (step : s.w.run.step.isSome = true) (due : (appendEnt x).tick ≤ s.w.run.tick.toNat) (untreated : entry ∉ s.w.cum.treated)
    (batch : s.w.cum.batch = [b]) (valid : bit b 16 = true) (some : 0 < batchAppend b) (opened : batchSlot b ∈ s.w.cum.openSlots) :
    exec (.appendPoint entry) s = .next { s with w :=
      (s.w.treat (s.w.cum.treated ++ [entry])).appendOne p c (appendEnt x) 0 (batchSlot b) (batchAppend b) } := by
  have found : s.w.plan.bind (fun pl => pl.policy.map (fun q => (pl, q))) = Option.some (p, c) := by
    rw [plan, Option.bind_some, policy, Option.map_some]
  change execAppendPoint entry s = _
  simp only [execAppendPoint, found, listed]
  rw [if_pos ⟨running, step, due, untreated⟩]
  exact congrArg (fun w => Host.Outcome.next { s with w := w })
    (Work.appendPoint_one (w := s.w.treat (s.w.cum.treated ++ [entry])) p c _ batch valid some opened)

end Sys2Proof.Machine

open Sys2Proof Sys2Proof.Machine

/-- Settles O37: an append stalls its sequence (`Work.appendOne_barred`, `Work.stallSeq_first`) or is taken, and then only pages move
(`Work.appendOne_allowed`). -/
theorem appendOutcomes : Obligations.AppendOutcomes := by
  intro entry p c x b s plan policy listed running step due untreated batch valid some opened keeps clean l k n fresh over_ blocks room
  have went := exec_appendPoint plan policy listed running step due untreated batch valid some opened
  have evicts := (s.w.treat_evictEn (s.w.cum.treated ++ [entry]) c k).trans keeps
  have barred_iff : (s.w.treat (s.w.cum.treated ++ [entry])).appendBarred c (appendEnt x) k (batchAppend b) ↔
      s.w.stalled k = true ∨ 16777216 < n ∨ over_ = true := by
    rw [Work.treat_appendBarred, decide_eq_true_iff]
    exact Iff.rfl
  have blocks_iff : blocks = true ↔ s.w.lackBlocks c k l fresh ≤ s.w.freeBlocks c := decide_eq_true_iff
  have allowed := Work.appendOne_allowed (w := s.w.treat (s.w.cum.treated ++ [entry])) (pl := p) (pos := 0) (e := appendEnt x)
    (n := batchAppend b) clean evicts
  have barred := Work.appendOne_barred (w := s.w.treat (s.w.cum.treated ++ [entry])) (pl := p) (pos := 0) (e := appendEnt x)
    (n := batchAppend b) clean evicts
  rw [Work.treat_freshPages, Work.treat_lackBlocks, Work.treat_appendRoom] at allowed
  rw [barred_iff] at allowed barred
  by_cases stalled : s.w.stalled k = true
  · rw [barred (.inl stalled), Work.stallSeq_stalled (w := s.w.treat (s.w.cum.treated ++ [entry])) stalled] at went
    exact ⟨_, went, rfl, rfl, rfl, rfl, ⟨rfl, rfl, rfl, rfl⟩, fun _ => ⟨rfl, rfl, rfl⟩, fun first => absurd stalled (by simp [first]),
      fun first => absurd stalled (by simp [first]), fun first => absurd stalled (by simp [first])⟩
  · by_cases tooMany : 16777216 < n ∨ over_ = true
    · rw [barred (.inr tooMany), Work.stallSeq_first (w := s.w.treat (s.w.cum.treated ++ [entry])) stalled] at went
      have only (short : n ≤ 16777216) (within : over_ = false) : False := by
        rcases tooMany with long | over'
        · omega
        · simp [within] at over'
      exact ⟨_, went, rfl, rfl, rfl, rfl, ⟨rfl, rfl, rfl, rfl⟩, fun again => absurd again stalled, fun _ _ => ⟨rfl, rfl, rfl, rfl⟩,
        fun _ short within => (only short within).elim, fun _ short within => (only short within).elim⟩
    · obtain ⟨lacking, taking⟩ := allowed (not_or.mpr ⟨stalled, tooMany⟩)
      have least : s.w.freePages c ≤ room := Nat.le_trans (Nat.le_add_right _ _) (Nat.le_add_right _ _)
      by_cases enough : s.w.lackBlocks c k l fresh ≤ s.w.freeBlocks c
      · have all : blocks = true := blocks_iff.mpr enough
        by_cases fits : fresh.length ≤ room
        · have took := taking enough fits
          refine ⟨_, went, took.treated, took.served.run, took.served.cores, took.served.plan, ⟨rfl, rfl, rfl, rfl⟩,
            fun again => absurd again stalled, fun _ many => absurd many tooMany,
            fun _ _ _ _ => ⟨fun direct => ⟨took.appends, ?_, took.stalls⟩, fun few _ => ⟨took.appends, ?_, took.stalls⟩, fun none => absurd fits ?_⟩,
            fun _ _ _ none => ?_⟩
          · exact took.deferredCount.trans (if_pos (decide_eq_true direct))
          · exact took.deferredCount.trans (if_neg fun direct => absurd (of_decide_eq_true direct) (Nat.not_le.mpr few))
          · omega
          · simp [all] at none
        · obtain ⟨status, stall, -⟩ := lacking (.inr (Nat.not_le.mp fits))
          rw [stall, Work.stallSeq_first (w := s.w.treat (s.w.cum.treated ++ [entry])) stalled] at went
          refine ⟨_, went, rfl, rfl, rfl, rfl, ⟨rfl, rfl, rfl, rfl⟩, fun again => absurd again stalled, fun _ many => absurd many tooMany,
            fun _ _ _ _ => ⟨fun direct => absurd (Nat.le_trans direct least) fits, fun _ later => absurd later fits, fun _ => ⟨rfl, rfl, rfl⟩⟩,
            fun _ _ _ none => ?_⟩
          simp [all] at none
      · obtain ⟨status, stall, why⟩ := lacking (.inl (Nat.not_le.mp enough))
        rw [stall, why (Nat.not_le.mp enough), Work.stallSeq_first (w := s.w.treat (s.w.cum.treated ++ [entry])) stalled] at went
        exact ⟨_, went, rfl, rfl, rfl, rfl, ⟨rfl, rfl, rfl, rfl⟩, fun again => absurd again stalled, fun _ many => absurd many tooMany,
          fun _ _ _ covered => absurd (blocks_iff.mp covered) enough, fun _ _ _ _ => ⟨rfl, rfl⟩⟩

end

section
/-!
Elastic work (O53).
-/

namespace Sys2Proof.Machine

open Sys2Proof

/-! ### A firing in progress (R70) -/

/-- A change of a firing that keeps its index is found where it was. -/
theorem Core.progOf_modProg (c : Core) {idx : Nat} {f : Prog → Prog} (same : ∀ x, (f x).idx = x.idx) :
    (c.modProg idx f).progOf idx = (c.progOf idx).map f := by
  unfold Core.progOf Core.modProg
  dsimp only
  induction c.prog with
  | nil => rfl
  | cons x xs ih =>
    rw [List.map_cons, List.find?_cons, List.find?_cons]
    by_cases here : x.idx = idx
    · simp [here, same]
    · simp [here, ih]

theorem Work.progAt_some {w : Work} {a : At} {x : Prog} (here : (w.core a.core).progOf a.firing = some x) : w.progAt a = x := by
  rw [Work.progAt, here, Option.getD_some]

/-! ### Sections closed (R71, R74) -/

@[simp] theorem Core.afterAttend_counts (draw : Nat) (c : Core) : (c.afterAttend draw).counts = c.counts := by
  unfold Core.afterAttend
  split <;> rfl

/-- The close of a section on one core. -/
def Work.closeOn (beyond : Nat) (w : Work) (c : Nat) : Work :=
  let att := (w.core c).attHold
  let w := w.modCore c (fun x => (x.count .elasticOverrun beyond).afterAttend w.mem.draws)
  if att then { w with mem.draws := w.mem.draws + 1 } else w

/-- What the close of a section leaves unchanged. -/
structure Work.Closed (w v : Work) : Prop where
  run : v.run = w.run
  hbm : v.mem.hbm = w.mem.hbm
  dev : v.dev = w.dev

theorem Work.closeOn_closed (beyond : Nat) (w : Work) (c : Nat) : w.Closed (w.closeOn beyond c) := by
  unfold Work.closeOn
  dsimp only
  split <;> exact ⟨rfl, rfl, rfl⟩

theorem Work.closeOn_cores (beyond : Nat) (w : Work) (c : Nat) :
    (w.closeOn beyond c).cores = (w.modCore c (fun x => (x.count .elasticOverrun beyond).afterAttend w.mem.draws)).cores := by
  unfold Work.closeOn
  dsimp only
  split <;> rfl

theorem Work.closeOn_other (beyond : Nat) (w : Work) {c j : Nat} (other : j ≠ c) : (w.closeOn beyond c).core j = w.core j := by
  rw [Work.core_congr (w.closeOn_cores beyond c)]
  exact w.modCore_other _ other

theorem Work.closeOn_overrun (beyond : Nat) (w : Work) (c : Nat) : mget ((w.closeOn beyond c).core c).counts 0 (Ctr.off .elasticOverrun) =
    mget (w.core c).counts 0 (Ctr.off .elasticOverrun) + BitVec.ofNat 64 beyond := by
  rw [Work.core_congr (w.closeOn_cores beyond c), Work.modCore_core, Core.afterAttend_counts, Core.count_counts]

theorem Work.closeAll_spec (beyond : Nat) (w : Work) (cs : List Nat) :
    let v := cs.foldl (Work.closeOn beyond) w
    w.Closed v ∧ (∀ j ∉ cs, v.core j = w.core j) ∧ (cs.Nodup → ∀ j ∈ cs, mget (v.core j).counts 0 (Ctr.off .elasticOverrun) =
      mget (w.core j).counts 0 (Ctr.off .elasticOverrun) + BitVec.ofNat 64 beyond) := by
  induction cs generalizing w with
  | nil => exact ⟨⟨rfl, rfl, rfl⟩, fun _ _ => rfl, by simp⟩
  | cons c cs ih =>
    obtain ⟨closed, others, counted⟩ := ih (w.closeOn beyond c)
    have first := w.closeOn_closed beyond c
    refine ⟨⟨closed.run.trans first.run, closed.hbm.trans first.hbm, closed.dev.trans first.dev⟩, fun j out => ?_, fun distinct j here => ?_⟩
    · rw [List.mem_cons, not_or] at out
      exact (others j out.2).trans (w.closeOn_other beyond out.1)
    · obtain ⟨once, rest⟩ := List.nodup_cons.mp distinct
      rcases List.mem_cons.mp here with rfl | later
      · rw [List.foldl_cons, others j once]
        exact w.closeOn_overrun beyond j
      · rw [List.foldl_cons, counted rest j later, w.closeOn_other beyond (fun (same : j = c) => once (by rw [← same]; exact later))]

theorem ESection.cores_nodup (e : ESection) : e.cores.Nodup := List.Nodup.filter _ List.nodup_range

/-- A section closed at a herd time. -/
def SecRun.close (x : SecRun) (time : Nat) : SecRun := { x with closed := true, closedAt := time }

/-- A section marked as closed at the present clk. -/
def Work.marksClosed (w : Work) (n clk : Nat) : Work :=
  let v : Work := { w with run := w.run.modSec n (·.close (w.now clk)) }
  { v with cad.offset := v.clkOf clk }

/-- A section that may close. -/
theorem exec_sectionClose {p : Plan} {s : State} {n clk : Nat} (plan : s.w.plan = some p) (may : s.w.mayClose p n = true) :
    ∃ e x, p.section? n = some e ∧ s.w.run.sec? n = some x ∧ exec (.sectionClose n clk) s = .next { s with w :=
      (e.cores.foldl (Work.closeOn ((s.w.lateBy (x.due / s.w.period) (x.due % s.w.period) clk).getD 0)) (s.w.marksClosed n clk)) } := by
  unfold Work.mayClose at may
  split at may
  · next e x he hx =>
    refine ⟨e, x, he, hx, ?_⟩
    refine congrArg (fun w => Host.Outcome.next { s with w := w }) ?_
    unfold Work.closeSection
    split
    · next none => exact absurd (none.symm.trans plan) (by simp)
    · next q hq =>
      obtain rfl : q = p := Option.some.inj (hq.symm.trans plan)
      rw [if_pos (by rw [Work.mayClose, he, hx]; exact may), he, hx]
      rfl
  · exact absurd may Bool.false_ne_true

/-! ### The herd time of a clk (R94, R139) -/

theorem Work.detect_stretch (w : Work) (core : Nat) (kind : DetKind) : (w.detect core kind).run.stretch = w.run.stretch := by
  unfold Work.detect
  split
  · cases kind with
    | parity | residue | coreTable =>
      dsimp only
      rw [(Work.partEvent_accessed _ _ _ _ _ _ _).access.run]
      rfl
    | selfCheck | hbm => rfl
  · rfl

theorem Work.now_congr {v w : Work} (cad : v.cad.time = w.cad.time ∧ v.cad.tickClk = w.cad.tickClk) (run : v.run.stretch = w.run.stretch)
    (clk : Nat) : v.now clk = w.now clk := by
  rw [Work.now, Work.now, Work.period, Work.period, cad.1, cad.2, run]

theorem Work.tableErrors_now (w : Work) (core : Nat) (env : Env) (clk : Nat) : (w.tableErrors core env).now clk = w.now clk := by
  unfold Work.tableErrors
  dsimp only
  split
  · refine Work.now_congr ?_ ?_ clk
    · rw [Work.detect_cad, Work.event_cad]
      exact ⟨rfl, rfl⟩
    · rw [Work.detect_stretch, Work.event_run]
  · rfl

/-- What an environment shows changes no herd time. -/
theorem Work.observe_now (w : Work) (core : Nat) (env : Env) (clk : Nat) : (w.observe core env).now clk = w.now clk := by
  unfold Work.observe
  dsimp only
  rw [Work.tableErrors_now]
  split <;> rfl

/-! ### Items taken (R70) -/

section
variable {w : Work} {p : Plan} {core idx : Nat} {r : Rec} {x : Prog} (here : (w.core core).progOf idx = some x)
include here

theorem Work.takeItem_none (last : w.nextItem p core idx r = none) :
    let v := w.takeItem p core idx r
    (v.core core).progOf idx = some { x with done := true, doneAt := w.now w.cad.offset.toNat } ∧ v.run = w.run ∧ v.mem = w.mem ∧
      ∀ c, c ≠ core → v.core c = w.core c := by
  unfold Work.takeItem
  rw [last]
  refine ⟨?_, rfl, rfl, fun c other => w.modCore_other _ other⟩
  rw [Work.modCore_core, Core.progOf_modProg]
  · rw [here, Option.map_some]
  · exact fun _ => rfl

theorem Work.takeItem_some {n k : Nat} (next : w.nextItem p core idx r = some (n, k)) :
    let v := w.takeItem p core idx r
    (v.core core).progOf idx = some { x with item := some (r.param, k), pos := 0 } ∧
      v.run = w.run.modSec n (fun s => s.modList r.param (fun x => (x.1 + 1, x.2))) := by
  unfold Work.takeItem
  rw [next]
  refine ⟨?_, rfl⟩
  dsimp only
  rw [Work.modCore_core, Core.progOf_modProg]
  · exact congrArg (Option.map _) here
  · exact fun _ => rfl

end

theorem SecRun.list?_modList {y : SecRun} {l : Nat} {e : Nat × Nat} (here : y.list? l = some (l, e)) (f : Nat × Nat → Nat × Nat) :
    (y.modList l f).list? l = some (l, f e) := by
  unfold SecRun.list? SecRun.modList at *
  dsimp only
  generalize y.lists = ls at here
  induction ls with
  | nil => simp at here
  | cons z zs ih =>
    rw [List.find?_cons] at here
    rw [List.map_cons, List.find?_cons]
    by_cases first : z.1 = l
    · simp only [first, decide_true, Option.some.injEq] at here
      simp [here]
    · simp only [first, decide_false] at here
      simp [first, ih here]

/-! ### Lanes (R583 to R587) -/

/-- Two cores that agree in everything but the pieces of the lanes. -/
def Core.SameButLanes (c d : Core) : Prop := d = { c with lanes := d.lanes, queues := d.queues, dispatch := d.dispatch }

theorem Core.SameButLanes.trans {a b c : Core} (h : a.SameButLanes b) (k : b.SameButLanes c) : a.SameButLanes c := by
  unfold Core.SameButLanes at *
  rw [k, h]

/-- A piece is at a lane: worked on, or in the lane's queue. -/
def Core.atLane (c : Core) (l : Nat) (x : Piece) : Prop := c.lane l = some x ∨ x ∈ c.queue l

/-- A move of pieces towards their lanes: what is at a lane stays there. -/
structure Core.Pumped (c d : Core) : Prop where
  same : c.SameButLanes d
  stay : ∀ l x, c.atLane l x → d.atLane l x

theorem Core.Pumped.refl (c : Core) : c.Pumped c := ⟨rfl, fun _ _ h => h⟩

theorem Core.Pumped.trans {a b c : Core} (h : a.Pumped b) (k : b.Pumped c) : a.Pumped c :=
  ⟨h.same.trans k.same, fun l x at_ => k.stay l x (h.stay l x at_)⟩

theorem Core.startLane_pumped (c : Core) (l : Nat) : c.Pumped (c.startLane l) := by
  unfold Core.startLane
  split
  · next x rest idle queue =>
    split
    · refine ⟨rfl, fun j y at_ => ?_⟩
      unfold Core.atLane Core.lane Core.queue at *
      by_cases here : j = l
      · subst here
        rw [mget_mset_same, mget_mset_same]
        rw [show mget c.lanes none j = none from idle, show mget c.queues [] j = x :: rest from queue] at at_
        rcases at_ with none | waits
        · cases none
        · rcases List.mem_cons.mp waits with rfl | later
          · exact .inl rfl
          · exact .inr later
      · rw [mget_mset_ne _ _ _ here, mget_mset_ne _ _ _ here]
        exact at_
    · exact .refl c
  · exact .refl c

theorem Core.placeNext_pumped (c : Core) : c.Pumped c.placeNext := by
  unfold Core.placeNext
  split
  · exact .refl c
  · next x rest _ =>
    dsimp only
    split
    · refine ⟨rfl, fun j y at_ => at_.imp id fun waits => ?_⟩
      unfold Core.queue at *
      by_cases here : j = x.num % 64
      · rw [here, mget_mset_same]
        exact List.mem_append_left _ (here ▸ waits)
      · rw [mget_mset_ne _ _ _ here]
        exact waits
    · exact .refl c

theorem Core.startLanes_pumped (c : Core) (range : List Nat) : c.Pumped (range.foldl Core.startLane c) :=
  List.foldlRecOn range _ (.refl c) (fun d h l _ => h.trans (d.startLane_pumped l))

theorem Core.pump_pumped (n : Nat) (c : Core) : c.Pumped (Core.pump n c) := by
  induction n generalizing c with
  | zero => exact c.startLanes_pumped _
  | succ n ih => exact ((c.startLanes_pumped _).trans (Core.placeNext_pumped _)).trans (ih _)

/-- A steal of the newest piece that may be stolen from the first neighbour with one (R586). -/
theorem Core.steal_spec {c : Core} {l n : Nat} {x : Piece} (idle : c.lane l = none) (empty : c.queue l = [])
    (found : (neighbours l).findSome? (fun n => (stealable (c.queue n)).map (fun x => (n, x))) = some (n, x)) :
    ∃ d, c.steal l = some d ∧ c.SameButLanes d ∧ d.atLane l x := by
  have took (f : Nat → Piece → Core) : (neighbours l).findSome? (fun n => (stealable (c.queue n)).map (f n)) = some (f n x) := by
    have mapped : (fun n => (stealable (c.queue n)).map (f n)) =
        fun n => ((stealable (c.queue n)).map (fun x => (n, x))).map (fun y => f y.1 y.2) := by
      funext n
      rw [Option.map_map]
      rfl
    rw [mapped]
    exact List.map_findSome?.symm.trans (congrArg (Option.map fun y => f y.1 y.2) found)
  unfold Core.steal
  rw [idle, empty, if_neg (by simp)]
  refine ⟨_, took _, ?_, ?_⟩
  · exact Core.SameButLanes.trans (b := { c with queues := mset (mset c.queues [] n ((c.queue n).erase x)) [] l [x] }) rfl
      (Core.pump_pumped _ _).same
  · refine (Core.pump_pumped _ _).stay l x (.inr ?_)
    unfold Core.queue
    rw [mget_mset_same]
    exact List.mem_singleton_self x

/-- A change of a core is known by what it makes of the core as it stands. -/
theorem Work.modCore_congr (w : Work) {core : Nat} {f g : Core → Core} (same : f (w.core core) = g (w.core core)) :
    w.modCore core f = w.modCore core g := by
  unfold Work.modCore mmod
  unfold Work.core at same
  rw [same]

theorem Core.addLane_prog (p : Plan) (c : Core) (l : LanePart) : (c.addLane p l).prog = c.prog := by
  unfold Core.addLane
  dsimp only
  split <;> rfl

theorem Core.addLane_count (p : Plan) (c : Core) (l : LanePart) {k : Ctr} (other : k ≠ .tallyFold) :
    mget (c.addLane p l).counts 0 k.off = mget c.counts 0 k.off := by
  unfold Core.addLane
  dsimp only
  split
  · rfl
  · rw [Core.count_other _ _ other]

theorem Core.addLanes_kept (p : Plan) (c : Core) (ls : List LanePart) : (ls.foldl (Core.addLane p) c).prog = c.prog ∧
    ∀ k : Ctr, k ≠ .tallyFold → mget (ls.foldl (Core.addLane p) c).counts 0 k.off = mget c.counts 0 k.off :=
  List.foldlRecOn (motive := fun (d : Core) => d.prog = c.prog ∧ ∀ k : Ctr, k ≠ .tallyFold → mget d.counts 0 k.off = mget c.counts 0 k.off) ls _
    ⟨rfl, fun _ _ => rfl⟩
    (fun d h l _ => ⟨(d.addLane_prog p l).trans h.1, fun k other => (d.addLane_count p l other).trans (h.2 k other)⟩)

/-- A piece that retires adds its partials to the tallies and its products to their count (R583). -/
theorem Core.retirePiece_spec (p : Plan) (c : Core) (l : Nat) (x : Piece) :
    let d := Core.retirePiece p c l x
    d.cells = (x.parts.foldl (Core.addLane p) c).cells ∧ d.prog = c.prog ∧
      mget d.counts 0 (Ctr.off .mergeProducts) = mget c.counts 0 (Ctr.off .mergeProducts) + BitVec.ofNat 64 x.products ∧
      ∀ k : Ctr, k ≠ .tallyFold → k ≠ .mergeProducts → mget d.counts 0 k.off = mget c.counts 0 k.off := by
  obtain ⟨prog, counts⟩ := c.addLanes_kept p x.parts
  unfold Core.retirePiece
  generalize x.parts.foldl (Core.addLane p) c = d at *
  dsimp only
  rw [(Core.pump_pumped d.dispatch.length (({ d with lanes := mset d.lanes none l none } : Core).count .mergeProducts x.products)).same]
  refine ⟨rfl, prog, ?_, fun k fold other => ?_⟩
  · exact (Core.count_counts _ _ _).trans (congrArg (· + BitVec.ofNat 64 x.products) (counts _ (by simp)))
  · exact (Core.count_other _ _ other).trans (counts k fold)

end Sys2Proof.Machine

open Sys2Proof Sys2Proof.Machine

/-- Settles O53: a section that closes changes its cores one by one (`Work.closeAll_spec`); a steal leaves the piece at the lane
(`Core.steal_spec`); a piece that retires changes tallies and counts (`Core.retirePiece_spec`). -/
theorem elasticWork : Obligations.ElasticWork := by
  intro p s plan
  refine ⟨fun n clk may => ?_, fun n clk never => ?_, fun core idx r x ij firing here job free going => ⟨?_, ?_⟩,
    fun core lane n x idle empty found => ?_, fun core lane wait full x on waits => ?_, fun core lane wait full x on goes calm => ?_,
    fun core idx wait env r x firing attends here came => ?_⟩
  · obtain ⟨e, x, section_, state, went⟩ := exec_sectionClose (clk := clk) plan may
    obtain ⟨closed, others, counted⟩ := Work.closeAll_spec ((s.w.lateBy (x.due / s.w.period) (x.due % s.w.period) clk).getD 0)
      (s.w.marksClosed n clk) e.cores
    refine ⟨_, x, e, went, section_, state, ?_, fun b late c member => ?_, others, closed.hbm, closed.dev, ⟨rfl, rfl, rfl, rfl⟩⟩
    · rw [closed.run]
      refine (s.w.run.sec?_modSec n n (f := (·.close (s.w.now clk))) (fun _ => rfl)).trans ?_
      rw [if_pos rfl, state]
      rfl
    · refine (counted e.cores_nodup c member).trans ?_
      rw [late]
      rfl
  · refine congrArg (fun w => Host.Outcome.next { s with w := w }) ?_
    unfold Work.closeSection
    split
    · rfl
    · next q hq =>
      obtain rfl : q = p := Option.some.inj (hq.symm.trans plan)
      rw [if_neg (by simp [never])]
  · intro n k y e next inside state list a w
    obtain ⟨taken, run⟩ := Work.takeItem_some here next
    have item : (w.progAt a).item = some (Rec.param r, k) := by rw [Work.progAt_some taken]
    refine ⟨?_, item, y.modList (Rec.param r) (fun x => (x.1 + 1, x.2)), ?_, SecRun.list?_modList list _⟩
    · refine congrArg (fun w => Host.Outcome.next { s with w := w }) ?_
      unfold Work.takeNext Work.withProg
      simp only [plan, firing, here, job, free, going]
      rw [if_neg (by simp)]
      change (match (w.progAt a).item with
          | some (l, k) => onTakeOf r p r a ((p.items l).getD k 0) w
          | none => w).workItem p r a ij = _
      rw [item]
    · rw [run]
      refine (s.w.run.sec?_modSec n n (f := (·.modList (Rec.param r) (fun x => (x.1 + 1, x.2)))) (fun _ => rfl)).trans ?_
      rw [if_pos rfl, state]
      rfl
  · intro last
    obtain ⟨taken, run, mem, others⟩ := Work.takeItem_none here last
    refine ⟨{ s with w := s.w.takeItem p core idx r }, _, ?_, taken, rfl, free, run, mem, others, ⟨rfl, rfl, rfl, rfl⟩⟩
    refine congrArg (fun w => Host.Outcome.next { s with w := w }) ?_
    unfold Work.takeNext Work.withProg
    simp only [plan, firing, here, job, free, going]
    rw [if_neg (by simp)]
    have none : ((s.w.takeItem p core idx r).progAt { core := core, firing := idx, time := s.w.now s.w.cad.offset.toNat }).item = none := by
      rw [Work.progAt_some taken]
      exact free
    rw [none]
    unfold Work.workItem
    simp only [taken, free]
  · obtain ⟨d, stole, same, at_⟩ := Core.steal_spec idle empty found
    have went : exec (.mergePieceSteal core lane) s = .next { s with w := s.w.modCore core (fun _ => d.count .mergeSteal 1) } := by
      refine congrArg (fun w => Host.Outcome.next { s with w := w }) ?_
      refine s.w.modCore_congr ?_
      rw [stole]
    refine ⟨_, went, ?_, ?_, ?_, fun c other => s.w.modCore_other _ other, rfl, rfl, ⟨rfl, rfl, rfl, rfl⟩⟩
    · rw [Work.modCore_core]
      exact at_
    · rw [Work.modCore_core, Core.count_counts, same]
      rfl
    · rw [Work.modCore_core, Core.count_cells, same]
  · refine congrArg (fun w => Host.Outcome.next { s with w := w }) ?_
    unfold Work.pieceDone
    simp only [plan, on]
    rw [if_pos waits]
  · obtain ⟨cells, prog, products, counts⟩ := Core.retirePiece_spec p (s.w.core core) lane x
    have went : exec (.mergePieceRetire core lane wait full) s = .next { s with w := s.w.modCore core (fun c =>
        ((Core.retirePiece p c lane x).count .mergeTallyWait wait).count .mergeQueueFull full) } := by
      refine congrArg (fun w => Host.Outcome.next { s with w := w }) ?_
      unfold Work.pieceDone
      simp only [plan, on]
      rw [if_neg (by simp [goes])]
      have kept : ((s.w.modCore core (fun c => ((Core.retirePiece p c lane x).count .mergeTallyWait wait).count .mergeQueueFull full)).core
          core).progOf x.firing = (s.w.core core).progOf x.firing := by
        rw [Work.modCore_core, Core.progOf, Core.count_prog, Core.count_prog, prog, Core.progOf]
      rw [kept]
      split
      · next y _ hy => rw [if_neg (calm y hy)]
      · rfl
    refine ⟨_, went, ?_, ?_, ?_, ?_, fun c other => s.w.modCore_other _ other, rfl, rfl, ⟨rfl, rfl, rfl, rfl⟩⟩
    · rw [Work.modCore_core, Core.count_cells, Core.count_cells, cells]
    · rw [Work.modCore_core, Core.count_other _ _ (by simp), Core.count_other _ _ (by simp), products]
    · rw [Work.modCore_core, Core.count_other _ _ (by simp), Core.count_counts, counts _ (by simp) (by simp)]
    · rw [Work.modCore_core, Core.count_counts, Core.count_other _ _ (by simp), counts _ (by simp) (by simp)]
  · intro a
    refine congrArg (fun w => Host.Outcome.next { s with w := w }) ?_
    simp only [plan, firing, here]
    rw [if_pos ⟨attends, came⟩]
    have now : ((s.w.observe core env).count core .attWait wait).now env.clk = s.w.now env.clk := s.w.observe_now core env env.clk
    rw [now]

end

section
/-!
Stalls and retirement (O54).
-/

namespace Sys2Proof.Machine

open Sys2Proof

/-! ### The notification entry (R881 to R883) -/

/-- A field read back from a number's bytes. -/
theorem leAt_toLE_field {m o n : Nat} (inside : o + n ≤ m) (v : Nat) (rest : List Byte) :
    leAt (toLE m v ++ rest) o n = v / 256 ^ o % 256 ^ n := by
  induction o generalizing m v with
  | zero => rw [leAt_toLE_mod _ _ (by omega), Nat.pow_zero, Nat.div_one]
  | succ o ih =>
    obtain ⟨m, rfl⟩ : ∃ k, m = k + 1 := ⟨m - 1, by omega⟩
    have next : leAt (toLE (m + 1) v ++ rest) (o + 1) n = leAt (toLE m (v / 256) ++ rest) o n := rfl
    rw [next, ih (by omega), Nat.div_div_eq_div_mul, Nat.pow_succ']

/-- An entry of the notification ring that has room stands at the ring's tail. -/
theorem Work.note_entry {w : Work} (on : w.dev.noteEnable = true) (linkUp : w.dev.linkUp = true)
    (room : w.dev.noteCount < w.dev.noteEntries) (kind core data : Nat) :
    (w.note kind core data).mem.companion.readN (w.dev.noteBase.toNat + 16 * w.dev.noteTail.toNat) 16 =
      toLE 16 (pack [(kind, 8), (b2n w.dev.notePhase, 8), (core, 16), (data, 32), (w.cad.tickCount.toNat, 64)]) := by
  have same : w.noteRoom = w := if_pos room
  unfold Work.note
  rw [if_pos on, same]
  dsimp only
  rw [Work.raise_mem]
  dsimp only
  rw [Work.linkWrite, if_pos linkUp]
  have read := w.mem.companion.readN_write (w.dev.noteBase.toNat + 16 * w.dev.noteTail.toNat)
    (toLE 16 (pack [(kind, 8), (b2n w.dev.notePhase, 8), (core, 16), (data, 32), (w.cad.tickCount.toNat, 64)]))
  rwa [length_toLE] at read

/-- The fields of a notification entry. -/
theorem noteEntry_fields (kind core data : Nat) (phase : Bool) (tick : BitVec 64) (kinds : kind < 256) :
    let bs := toLE 16 (pack [(kind, 8), (b2n phase, 8), (core, 16), (data, 32), (tick.toNat, 64)])
    leAt bs 0 1 = kind ∧ leAt bs 1 1 = b2n phase ∧ leAt bs 2 2 = core % 65536 ∧ leAt bs 4 4 = data % 2 ^ 32 ∧ leAt bs 8 8 = tick.toNat := by
  intro bs
  have field {o n : Nat} (inside : o + n ≤ 16) : leAt bs o n =
      pack [(kind, 8), (b2n phase, 8), (core, 16), (data, 32), (tick.toNat, 64)] / 256 ^ o % 256 ^ n := by
    rw [← leAt_toLE_field inside _ [], List.append_nil]
  have phase_lt : b2n phase < 2 := by cases phase <;> decide
  have tick_lt := tick.isLt
  rw [field (by decide), field (by decide), field (by decide), field (by decide), field (by decide)]
  simp only [pack]
  omega

/-! ### Retirement (R24, R46, R451) -/

/-- Tiles released: of a core only its slots, the count of tiles used and how its firings stand change. -/
structure Work.Released (core : Nat) (w v : Work) : Prop where
  same : v.core core = { w.core core with slots := (v.core core).slots, used := (v.core core).used, prog := (v.core core).prog }
  others : ∀ c, c ≠ core → v.core c = w.core c
  rest : { v with cores := w.cores } = w

theorem Work.vacate_released (w : Work) (p : Plan) (a : At) (s n : Nat) : w.Released a.core (w.vacate p a s n) := by
  unfold Work.vacate
  refine ⟨?_, fun c other => w.modCore_other _ other, rfl⟩
  rw [Work.modCore_core]
  rfl

theorem Work.vacate_used (w : Work) (p : Plan) (a : At) (s n : Nat) :
    mget ((w.vacate p a s n).core a.core).used 0 s = mget (w.core a.core).used 0 s + n := by
  unfold Work.vacate
  dsimp only
  rw [Work.modCore_core, Core.modProg_used, mget_mset_same]

theorem Work.releaseTiles_released (w : Work) (p : Plan) (r : Rec) (a : At) : w.Released a.core (w.releaseTiles p r a) := by
  unfold Work.releaseTiles
  split
  · exact w.vacate_released _ _ _ _
  · split
    · exact ⟨rfl, fun _ _ => rfl, rfl⟩
    · exact w.vacate_released _ _ _ _
  · exact ⟨rfl, fun _ _ => rfl, rfl⟩

/-- Only a SWEEP and a MERGE keep tiles until they retire. -/
theorem Work.releaseTiles_none (w : Work) (p : Plan) {r : Rec} (a : At) (sweep : r.station ≠ 4) (merge : r.station ≠ 2) :
    w.releaseTiles p r a = w := by
  unfold Work.releaseTiles
  split
  · next here => exact absurd here sweep
  · next here => exact absurd here merge
  · rfl

/-- A core from which a firing is taken, idle clk counted up to its last effect. -/
def Core.without (c : Core) (idx t : Nat) : Core :=
  { c with prog := c.prog.filter (·.idx ≠ idx), retired := c.retired ++ [idx]
           retiredAt := mset c.retiredAt 0 idx t, board := c.board.filter (·.firing ≠ idx) }

theorem Core.without_progOf (c : Core) (idx t : Nat) : (c.without idx t).progOf idx = none := by
  unfold Core.progOf Core.without
  rw [List.find?_eq_none]
  intro x hx
  simpa using (List.mem_filter.mp hx).2

/-- The work state without a firing of a core. -/
def Work.without (w : Work) (core idx t : Nat) : Work :=
  let v := w.modCore core (fun c => (w.idleUp core t c).without idx t)
  { v with run.sets := v.run.sets.filter (fun x => ¬(x.1 = core ∧ x.2.1 = idx)) }

theorem Work.without_core (w : Work) (core idx t : Nat) : (w.without core idx t).core core = (w.idleUp core t (w.core core)).without idx t :=
  w.modCore_core core (fun c => (w.idleUp core t c).without idx t)

theorem Work.without_other (w : Work) {core c : Nat} (idx t : Nat) (other : c ≠ core) : (w.without core idx t).core c = w.core c :=
  w.modCore_other (fun c => (w.idleUp core t c).without idx t) other

section
variable (w : Work) (core idx : Nat) {r : Rec} (t : Nat) (untraced : r.trace = false)
include untraced

theorem Work.retire_eq : w.retire core idx r t = if r.notify then (w.without core idx t).note 2 core idx else w.without core idx t := by
  unfold Work.retire
  rw [untraced, if_neg Bool.false_ne_true]
  rfl

theorem Work.retire_cores : (w.retire core idx r t).cores = (w.without core idx t).cores := by
  rw [w.retire_eq core idx t untraced]
  split
  · exact Work.note_cores _ _ _ _
  · rfl

/-- Without NOTIFY no message goes out. -/
theorem Work.retire_mute (mute : r.notify = false) : (w.retire core idx r t).dev = w.dev ∧ (w.retire core idx r t).mem = w.mem := by
  rw [w.retire_eq core idx t untraced, mute, if_neg Bool.false_ne_true]
  exact ⟨rfl, rfl⟩

theorem Work.retire_hbm : (w.retire core idx r t).mem.hbm = w.mem.hbm := by
  rw [w.retire_eq core idx t untraced]
  split
  · exact Work.note_hbm _ _ _ _
  · rfl

/-- With NOTIFY the entry of KIND 2 stands in the notification ring (R881). -/
theorem Work.retire_entry (notes : r.notify = true) (on : w.dev.noteEnable = true) (linkUp : w.dev.linkUp = true)
    (room : w.dev.noteCount < w.dev.noteEntries) :
    (w.retire core idx r t).mem.companion.readN (w.dev.noteBase.toNat + 16 * w.dev.noteTail.toNat) 16 =
      toLE 16 (pack [(2, 8), (b2n w.dev.notePhase, 8), (core, 16), (idx, 32), (w.cad.tickCount.toNat, 64)]) := by
  rw [w.retire_eq core idx t untraced, if_pos notes]
  exact Work.note_entry (w := w.without core idx t) on linkUp room 2 core idx

end

theorem Work.releaseTiles_sweep (w : Work) (p : Plan) {r : Rec} (a : At) (sweep : r.station = 4) :
    mget ((w.releaseTiles p r a).core a.core).used 0 r.srcA =
      mget (w.core a.core).used 0 r.srcA + sweepTiles (p.tensor r.desc) (p.tensor (r.desc + 1)) := by
  unfold Work.releaseTiles
  rw [sweep]
  exact w.vacate_used p a r.srcA _

/-- What a firing's retirement, with its tiles released, makes of its core. -/
structure Core.Left (c d : Core) (idx t : Nat) : Prop where
  retired : d.retired = c.retired ++ [idx]
  gone : d.progOf idx = none
  board : d.board = c.board.filter (fun e => e.firing ≠ idx)
  retiredAt : mget d.retiredAt 0 idx = t
  ls : d.ls = c.ls
  cells : d.cells = c.cells

theorem Work.without_left {core idx t : Nat} {w v : Work} (released : w.Released core v) :
    (w.core core).Left ((v.without core idx t).core core) idx t ∧
      ((v.without core idx t).core core).used = (v.core core).used ∧ ((v.without core idx t).core core).slots = (v.core core).slots := by
  have idle := (v.idleUp_sameButIdle core t (v.core core)).eq
  rw [Work.without_core]
  refine ⟨⟨?_, Core.without_progOf _ _ _, ?_, mget_mset_same _ _ _ _, ?_, ?_⟩, (congrArg Core.used idle :), (congrArg Core.slots idle :)⟩
  · exact congrArg (· ++ [idx]) ((congrArg Core.retired idle :).trans (congrArg Core.retired released.same :))
  · exact congrArg (List.filter (fun e => e.firing ≠ idx)) ((congrArg Core.board idle :).trans (congrArg Core.board released.same :))
  · exact (congrArg Core.ls idle :).trans (congrArg Core.ls released.same :)
  · exact (congrArg Core.cells idle :).trans (congrArg Core.cells released.same :)

/-! ### Stalls (R64, R79, R80, R158) -/

/-- What the uplinks send on changes nothing but the fabric, what waits for them and what is sent. -/
theorem State.flush_work (n : Nat) (s : State) : ∃ q out, (State.flush n s).w = { s.w with
    net := { s.w.net with upq := q }
    out := out } := by
  induction n generalizing s with
  | zero => exact ⟨_, _, rfl⟩
  | succ n ih =>
    unfold State.flush
    split
    · exact ⟨_, _, rfl⟩
    · obtain ⟨q, out, eq⟩ := ih _
      exact ⟨q, out, eq.trans rfl⟩

theorem State.uplinks_work (s : State) : ∃ q out, (State.uplinks s).w = { s.w with
    net := { s.w.net with upq := q }
    out := out } := State.flush_work _ s

/-- The idle clk of a core whose only firing waits for another module's data, in a tick without a check slot and without a detection, from
the clk in which the firing was held up. -/
theorem Work.idleUp_peer {w : Work} {core hi : Nat} {c : Core} {x : Prog} (alone : c.prog = [x]) (awaits : w.awaitsPeer core x = true)
    (stepping : w.stepping = true) (first : w.run.rerun = false) (free : w.heldSince = none) (unchecked : w.run.tick.toNat % 64 ≠ 32)
    (within : hi ≤ w.cad.time + w.period) (after : w.cad.time ≤ max c.idleFrom x.stallFrom) :
    mget (w.idleUp core hi c).counts 0 (Ctr.off .idlePeer) =
      mget c.counts 0 (Ctr.off .idlePeer) + BitVec.ofNat 64 (hi - max c.idleFrom x.stallFrom) := by
  have slot : (if w.dev.state = .running ∧ w.run.tick.toNat % 64 = 32 then w.period / 2 else 0) = 0 := if_neg (fun h => unchecked h.2)
  unfold Work.idleUp
  simp only [alone, List.foldl_cons, List.foldl_nil, List.isEmpty_cons, Bool.not_false, if_true, List.any_cons, List.any_nil, awaits,
    Bool.not_true, Bool.or_false, Bool.false_eq_true, false_or, first, if_false, free, List.flatMap_cons, List.flatMap_nil, List.append_nil]
  generalize max c.idleFrom x.stallFrom = lo at after
  by_cases past : hi ≤ lo
  · rw [if_pos past, Nat.sub_eq_zero_of_le past]
    simp
  · rw [if_neg past]
    unfold Work.idleParts
    rw [if_pos stepping]
    simp only [slot, if_true, Core.idle, List.foldl_cons, List.foldl_nil]
    have maint : overlap (max lo lo) (min hi hi) w.cad.time (w.cad.time + 0) = 0 := by
      unfold overlap
      omega
    have rest : overlap (max lo lo) (min hi hi) (w.cad.time + 0) (w.cad.time + w.period) = hi - lo := by
      unfold overlap
      omega
    rw [maint, rest, if_pos rfl, if_neg (by omega)]
    split
    · exact Core.count_counts _ _ _
    · exact (Core.count_counts _ _ _).trans (congrArg (· + _) (Core.count_other _ _ (by simp)))

theorem stallCtr_ne_slip {why : Stall} {k : Ctr} (under : stallCtr why = some k) : k ≠ .slip := by
  rintro rfl
  cases why <;> cases under

theorem Work.resume_counts (w : Work) (core idx station n t : Nat) (f : Prog → Prog) :
    ((w.modCore core (fun c => ((w.idleUp core t c).postpone idx station n).modProg idx f)).core core).counts =
      (w.idleUp core t (w.core core)).counts := by
  rw [Work.modCore_core, Core.modProg_counts, Core.postpone_counts]

section
variable (w : Work) (core idx : Nat) (why : Stall) (n : Nat)

theorem Work.countStall_spec :
    let v := w.countStall core idx why n
    mget (v.core core).counts 0 (Ctr.off .slip) = mget (w.core core).counts 0 (Ctr.off .slip) + BitVec.ofNat 64 n ∧
      (∀ k, stallCtr why = some k → mget (v.core core).counts 0 k.off = mget (w.core core).counts 0 k.off + BitVec.ofNat 64 n) ∧
      (v.core core).ls = (w.core core).ls ∧ (v.core core).slots = (w.core core).slots ∧ (∀ c, c ≠ core → v.core c = w.core c) ∧
      v.mem = w.mem ∧ v.run = w.run := by
  unfold Work.countStall
  refine ⟨?_, fun k counted => ?_, ?_, ?_, fun c other => w.modCore_other _ other, rfl, rfl⟩
  · rw [Work.modCore_core]
    dsimp only
    cases under : stallCtr why with
    | none => exact Core.count_counts _ _ _
    | some k => exact (Core.count_other _ _ (stallCtr_ne_slip under).symm).trans (Core.count_counts _ _ _)
  · rw [Work.modCore_core]
    dsimp only
    rw [counted]
    exact (Core.count_counts _ _ _).trans (congrArg (· + _) (Core.count_other _ _ (stallCtr_ne_slip counted)))
  · rw [Work.modCore_core]
    dsimp only
    split <;> rfl
  · rw [Work.modCore_core]
    dsimp only
    split <;> rfl

end

/-! ### What an environment shows (R99, R369) -/

/-- What an environment shows leaves the plan, the moment of the herd and the firings of the cores. -/
structure Work.Observed (core : Nat) (w v : Work) : Prop where
  plan : v.plan = w.plan
  tick : v.run.tick = w.run.tick
  time : v.cad.time = w.cad.time
  tickClk : v.cad.tickClk = w.cad.tickClk
  prog : (v.core core).prog = (w.core core).prog
  idleFrom : (v.core core).idleFrom = (w.core core).idleFrom

theorem Work.Observed.trans {core : Nat} {a b c : Work} (h : a.Observed core b) (k : b.Observed core c) : a.Observed core c :=
  ⟨k.plan.trans h.plan, k.tick.trans h.tick, k.time.trans h.time, k.tickClk.trans h.tickClk, k.prog.trans h.prog, k.idleFrom.trans h.idleFrom⟩

theorem Work.detect_tick (w : Work) (core : Nat) (kind : DetKind) : (w.detect core kind).run.tick = w.run.tick := by
  unfold Work.detect
  split
  · cases kind with
    | parity | residue | coreTable =>
      dsimp only
      rw [(Work.partEvent_accessed _ _ _ _ _ _ _).access.run]
    | selfCheck | hbm => rfl
  · rfl

theorem Work.tableErrors_observed (w : Work) (core : Nat) (env : Env) : w.Observed core (w.tableErrors core env) := by
  unfold Work.tableErrors
  dsimp only
  split
  · have found := (Work.detect_reached (Work.event { w with rel.tableCe := w.rel.tableCe + BitVec.ofNat 64 env.tableCe } 0x0005 2 core 0 0 0 0)
      core .coreTable).access
    have cores := Work.core_congr (found.cores.trans (Work.event_cores _ _ _ _ _ _ _ _)) core
    have cad := found.cad.trans (Work.event_cad _ _ _ _ _ _ _ _)
    refine ⟨found.plan.trans (Work.event_plan _ _ _ _ _ _ _ _), ?_, (congrArg Cad.time cad :), (congrArg Cad.tickClk cad :),
      (congrArg Core.prog cores :), (congrArg Core.idleFrom cores :)⟩
    rw [Work.detect_tick, Work.event_run]
  · exact ⟨rfl, rfl, rfl, rfl, rfl, rfl⟩

theorem Core.flips_kept (c : Core) (words : List WordErr) : (words.foldl Core.flip c).prog = c.prog ∧ (words.foldl Core.flip c).idleFrom = c.idleFrom :=
  List.foldlRecOn (motive := fun (d : Core) => d.prog = c.prog ∧ d.idleFrom = c.idleFrom) words _ ⟨rfl, rfl⟩ (fun _ h _ _ => h)

theorem Core.spoilRow_kept (c : Core) (row : Nat) : (c.spoilRow row).prog = c.prog ∧ (c.spoilRow row).idleFrom = c.idleFrom := by
  unfold Core.spoilRow
  exact ⟨rfl, rfl⟩

theorem Core.spoils_kept (c : Core) (rows : List Nat) :
    (rows.foldl Core.spoilRow c).prog = c.prog ∧ (rows.foldl Core.spoilRow c).idleFrom = c.idleFrom :=
  List.foldlRecOn (motive := fun (d : Core) => d.prog = c.prog ∧ d.idleFrom = c.idleFrom) rows _ ⟨rfl, rfl⟩
    (fun d h row _ => ⟨(d.spoilRow_kept row).1.trans h.1, (d.spoilRow_kept row).2.trans h.2⟩)

theorem Work.observe_observed (w : Work) (core : Nat) (env : Env) : w.Observed core (w.observe core env) := by
  unfold Work.observe
  dsimp only
  refine Work.Observed.trans ?_ (Work.tableErrors_observed _ core env)
  split
  · exact ⟨rfl, rfl, rfl, rfl, rfl, rfl⟩
  · have flips := (w.core core).flips_kept env.words
    have spoils := (env.words.foldl Core.flip (w.core core)).spoils_kept env.residues
    refine ⟨rfl, rfl, rfl, rfl, ?_, ?_⟩
    · rw [Work.modCore_core]
      exact spoils.1.trans flips.1
    · rw [Work.modCore_core]
      exact spoils.2.trans flips.2

theorem Work.withProg_some {w : Work} {core idx : Nat} {p : Plan} {r : Rec} {x : Prog} (f : Plan → Rec → Prog → Work) (plan : w.plan = some p)
    (firing : p.firing? core idx = some r) (here : (w.core core).progOf idx = some x) : w.withProg core idx f = f p r x := by
  unfold Work.withProg
  split
  case h_1 none => exact absurd (none.symm.trans plan) nofun
  case h_2 q some =>
    obtain rfl : q = p := Option.some.inj (some.symm.trans plan)
    rw [firing, here]

theorem Work.retireFiring_due {w : Work} {core idx : Nat} {env : Env} {p : Plan} {r : Rec} {x : Prog} (plan : w.plan = some p)
    (firing : p.firing? core idx = some r) (here : (w.core core).progOf idx = some x) (done : x.done = true)
    (due : max x.ends x.doneAt ≤ w.now env.clk) (quiet : quietEnv env = true) :
    w.retireFiring core idx env = (({ w with cad.offset := w.clkOf env.clk } : Work).releaseTiles p r
      { core := core, firing := idx, time := max x.ends x.doneAt }).retire core idx r (max x.ends x.doneAt) := by
  unfold Work.retireFiring
  rw [Work.withProg_some _ plan firing here, if_pos (by rw [done, Bool.true_and]; exact decide_eq_true due), w.observe_quiet core quiet]

end Sys2Proof.Machine

open Sys2Proof Sys2Proof.Machine

/-- Settles O54: a release counts the clk of the stall (`Work.countStall_spec`), and a core that only waited for a peer is idle meanwhile
(`Work.idleUp_peer`); a firing retires from its core (`Work.without_core`), with its tiles released (`Work.releaseTiles_released`). -/
theorem stallsAndRetires : Obligations.StallsAndRetires := by
  intro core idx env p r x s plan firing here
  have numbered : x.idx = idx := by simpa using List.find?_some here
  refine ⟨?_, fun n going idle => ?_, ?_, fun waits => ?_⟩
  · intro n why stall released first w1 w2 w
    refine ⟨fun moved => ?_, fun peer takes foreign alone stepping fresh free unchecked early after => ?_, fun still idle => ?_⟩
    · have went : s.w.releaseStall s.fab core idx n env = w.countStall core idx first n := by
        unfold Work.releaseStall Work.withProg
        simp only [plan, firing, here, stall, released, if_true]
        exact if_pos moved
      obtain ⟨net, out, sent⟩ := State.uplinks_work { s with w := w.countStall core idx first n }
      obtain ⟨slip, under, ls, slots, others, mem, run⟩ := w.countStall_spec core idx first n
      have cores := congrArg Work.cores sent
      have whole (c : Nat) := Work.core_congr cores c
      refine ⟨_, congrArg (fun v => Host.Outcome.next (State.uplinks { s with w := v })) went, ?_, fun tile => ?_, fun entry => ?_, ?_, ?_,
        fun c other => (whole c).trans (others c other), (congrArg Work.mem sent).trans mem, (congrArg Work.run sent).trans run⟩
      · rw [whole]
        exact slip
      · rw [whole]
        refine under .sbStall ?_
        rcases tile with h | h | h <;> rw [h] <;> rfl
      · rw [whole]
        refine under .sbFull ?_
        rw [entry]
        rfl
      · rw [whole]
        exact ls
      · rw [whole]
        exact slots
    · have seen := s.w.observe_observed core env
      have idle := (seen.prog.trans alone : (w1.core core).prog = [x])
      have awaits : w1.awaitsPeer core x = true := by
        unfold Work.awaitsPeer
        simp only [seen.plan.trans plan, numbered, firing, stall, peer, takes, foreign, w1]
        rfl
      have now := s.w.observe_now core env env.clk
      have within : w1.now env.clk ≤ w1.cad.time + w1.period := by
        have period : w1.period = s.w.period := congrArg BitVec.toNat seen.tickClk
        unfold Work.now
        omega
      have counted := Work.idleUp_peer idle awaits stepping fresh free (by rw [seen.tick]; exact unchecked) within
        (by rw [seen.time, seen.idleFrom]; exact after)
      rw [seen.idleFrom] at counted
      rw [← counted]
      exact congrArg (fun m => mget m 0 (Ctr.off .idlePeer)) (w1.resume_counts core idx r.station n (w1.now env.clk) _)
    · have went : s.w.releaseStall s.fab core idx n env = s.w := by
        unfold Work.releaseStall Work.withProg
        simp only [plan, firing, here, stall, released, if_true]
        exact if_neg (by rw [Bool.not_eq_true]; exact still)
      refine congrArg Host.Outcome.next ?_
      rw [went]
      exact State.uplinks_idle s idle
  · have went : s.w.releaseStall s.fab core idx n env = s.w := by
      unfold Work.releaseStall Work.withProg
      simp only [plan, firing, here, going]
    refine congrArg Host.Outcome.next ?_
    rw [went]
    exact State.uplinks_idle s idle
  · intro at_ done due quiet untraced
    have went := Work.retireFiring_due plan firing here done due quiet
    have ran : exec (.firingRetire core idx env) s = .next { s with w := ((({ s.w with cad.offset := s.w.clkOf env.clk } : Work).releaseTiles p r
        { core := core, firing := idx, time := at_ }).retire core idx r at_) } := by
      change execFiringRetire core idx env s = _
      unfold execFiringRetire
      rw [went]
    have released := ({ s.w with cad.offset := s.w.clkOf env.clk } : Work).releaseTiles_released p r { core := core, firing := idx, time := at_ }
    have unkept := ({ s.w with cad.offset := s.w.clkOf env.clk } : Work).releaseTiles_none p (r := r) { core := core, firing := idx, time := at_ }
    have swept := ({ s.w with cad.offset := s.w.clkOf env.clk } : Work).releaseTiles_sweep p (r := r) { core := core, firing := idx, time := at_ }
    generalize ({ s.w with cad.offset := s.w.clkOf env.clk } : Work).releaseTiles p r { core := core, firing := idx, time := at_ } = v at *
    obtain ⟨left, used, slots⟩ := Work.without_left (idx := idx) (t := at_) released
    have cores := v.retire_cores core idx at_ untraced
    have whole (c : Nat) := Work.core_congr cores c
    have dev : v.dev = s.w.dev := (congrArg Work.dev released.rest :)
    have mem : v.mem = s.w.mem := (congrArg Work.mem released.rest :)
    have tick : v.cad.tickCount = s.w.cad.tickCount := (congrArg (fun w => w.cad.tickCount) released.rest :)
    refine ⟨_, ran, ?_, ?_, ?_, fun _ _ => ?_, ?_, fun sweep => ?_, fun sweep merge => ?_,
      fun notes on linkUp room => ?_, fun mute => ?_, ?_, ?_, fun c other => ?_, ?_, ⟨rfl, rfl, rfl, rfl⟩⟩
    · rw [whole]
      exact left.retired
    · rw [whole]
      exact left.gone
    · rw [whole, left.board]
      intro e he
      simpa using (List.mem_filter.mp he).2
    · rw [whole]
      exact left.board
    · rw [whole]
      exact left.retiredAt
    · rw [whole, used]
      exact swept sweep
    · rw [whole, slots, unkept sweep merge]
      rfl
    · rw [← dev] at on linkUp room ⊢
      rw [v.retire_entry core idx at_ untraced notes on linkUp room, tick]
      exact noteEntry_fields 2 core idx _ _ (by decide)
    · obtain ⟨dev', mem'⟩ := v.retire_mute core idx at_ untraced mute
      exact ⟨dev'.trans dev, mem'.trans mem⟩
    · rw [whole]
      exact left.ls
    · rw [whole]
      exact left.cells
    · rw [whole]
      exact (v.without_other idx at_ other).trans (released.others c other)
    · exact (v.retire_hbm core idx at_ untraced).trans (congrArg MemSys.hbm mem)
  · refine congrArg (fun w => Host.Outcome.next { s with w := w }) ?_
    unfold Work.retireFiring
    rw [Work.withProg_some _ plan firing here, if_neg]
    rcases waits with going | early
    · simp [going]
    · simp [Nat.not_le.mpr early]

end

section
/-!
What stores of stations leave in local HBM.
-/

namespace Sys2Proof.Machine

/-! ### What a station's write leaves in a region of local HBM -/

/-- The byte that cells of a region's device addresses, stored one after the other, leave at an HBM address. -/
def cellsAt (g : Reg) (cs : List (Nat × Byte)) (old : Byte) (x : Nat) : Byte :=
  cs.foldl (fun b c => if Reg.target! g c.1 = x then c.2 else b) old

theorem cellsAt_append (g : Reg) (as bs : List (Nat × Byte)) (old : Byte) (x : Nat) :
    cellsAt g (as ++ bs) old x = cellsAt g bs (cellsAt g as old x) x := List.foldl_append

theorem cellsAt_cons (g : Reg) (c : Nat × Byte) (cs : List (Nat × Byte)) (old : Byte) (x : Nat) :
    cellsAt g (c :: cs) old x = cellsAt g cs (if Reg.target! g c.1 = x then c.2 else old) x := by
  unfold cellsAt
  exact List.foldl_cons ..

theorem cellsAt_other {g : Reg} {cs : List (Nat × Byte)} {x : Nat} (h : ∀ c ∈ cs, Reg.target! g c.1 ≠ x) (old : Byte) :
    cellsAt g cs old x = old := by
  induction cs generalizing old with
  | nil => rfl
  | cons c cs ih =>
    rw [cellsAt_cons, if_neg (h c List.mem_cons_self)]
    exact ih (fun d hd => h d (List.mem_cons_of_mem _ hd)) old

/-- Of cells at different HBM addresses each is left. -/
theorem cellsAt_of_mem {g : Reg} {cs : List (Nat × Byte)} (apart : cs.Pairwise (fun c d => Reg.target! g c.1 ≠ Reg.target! g d.1))
    {c : Nat × Byte} (hc : c ∈ cs) (old : Byte) : cellsAt g cs old (Reg.target! g c.1) = c.2 := by
  induction cs generalizing old with
  | nil => exact absurd hc (List.not_mem_nil)
  | cons d cs ih =>
    obtain ⟨first, rest⟩ := List.pairwise_cons.mp apart
    rcases List.mem_cons.mp hc with rfl | later
    · rw [cellsAt_cons, if_pos rfl]
      exact cellsAt_other (fun e he => (first e he).symm) c.2
    · rw [cellsAt_cons]
      exact ih rest later _

theorem Reg.target!_add {g : Reg} {a : Nat} (base : Reg.vbase g ≤ a) (i : Nat) : Reg.target! g (a + i) = Reg.target! g a + i := by
  unfold Reg.target!
  rw [Nat.sub_add_comm base, Nat.add_assoc]

theorem Reg.target!_inj {g : Reg} {a b : Nat} (ha : Reg.vbase g ≤ a) (hb : Reg.vbase g ≤ b) (same : Reg.target! g a = Reg.target! g b) :
    a = b := by
  exact (tsub_left_inj ha hb).mp (Nat.add_left_cancel same)

theorem Work.permit_base {w : Work} {a i : Nat} {g : Reg} {wr : Bool} (h : w.permit a wr = some (i, g)) : Reg.vbase g ≤ a := by
  unfold Work.permit at h
  split at h
  case h_1 => exact absurd h nofun
  case h_2 p _ =>
    split at h
    case h_1 => exact absurd h nofun
    case h_2 j r found =>
      unfold Plan.region? at found
      obtain ⟨y, hy, pair⟩ := Option.map_eq_some_iff.mp found
      have held := List.find?_some hy
      obtain ⟨-, base, -⟩ := of_decide_eq_true held
      split at h
      all_goals
        split at h
        · obtain ⟨-, rfl⟩ : j = i ∧ r = g := by simpa using h
          obtain ⟨-, rfl⟩ : y.2 = j ∧ y.1 = r := by simpa using pair
          exact base
        · exact absurd h nofun

theorem number_targets_apart {g : Reg} {a : Nat} (base : Reg.vbase g ≤ a) (bs : List Byte) :
    (number a bs).Pairwise (fun c d => Reg.target! g c.1 ≠ Reg.target! g d.1) := by
  induction bs generalizing a with
  | nil => exact .nil
  | cons b bs ih =>
    refine List.pairwise_cons.mpr ⟨fun d hd same => ?_, ih (Nat.le_succ_of_le base)⟩
    have keys := number_keys (a + 1) bs d hd
    have equal := Reg.target!_inj base (base.trans (by omega)) same
    omega

/-- A write's bytes are the cells of a region that they number. -/
theorem Memory.read_write_cells (m : Memory) {g : Reg} {a : Nat} (base : Reg.vbase g ≤ a) (bs : List Byte) (x : Nat) :
    (m.write (Reg.target! g a) bs).read x = cellsAt g (number a bs) (m.read x) x := by
  by_cases inside : Reg.target! g a ≤ x ∧ x < Reg.target! g a + bs.length
  · rw [Memory.read_write, if_pos inside]
    have hx : x = Reg.target! g (a + (x - Reg.target! g a)) := by
      rw [Reg.target!_add base]
      omega
    have got : bs[x - Reg.target! g a]? = some (bs[x - Reg.target! g a]'(by omega)) := List.getElem?_eq_getElem _
    have apart := number_targets_apart base bs
    have left := cellsAt_of_mem apart (mem_number.mpr ⟨_, got, rfl⟩) (m.read x)
    rw [got, Option.getD_some]
    rw [← hx] at left
    exact left.symm
  · rw [Memory.read_write, if_neg inside, cellsAt_other]
    intro c hc
    have keys := number_keys a bs c hc
    have shift := Reg.target!_add base (c.1 - a)
    rw [Nat.add_sub_cancel' keys.1] at shift
    omega

theorem number_append (a : Nat) (bs cs : List Byte) : number a (bs ++ cs) = number a bs ++ number (a + bs.length) cs := by
  induction bs generalizing a with
  | nil => rfl
  | cons b bs ih =>
    have later : a + 1 + bs.length = a + (b :: bs).length := by
      rw [List.length_cons]
      omega
    simp only [List.cons_append, number]
    rw [ih, later]

/-- What writes of an access's firing to a region of local HBM change: the bytes named by the cells, the copies of rows that start again, and the
writes remembered. -/
structure Work.StoredAt (acc : Acc) (g : Reg) (cs : List (Nat × Byte)) (w v : Work) : Prop where
  rest : v = { w with
    run := { w.run with landed := v.run.landed }
    mem := { w.mem with
      remaps := v.mem.remaps
      hbm := v.mem.hbm } }
  landed : ∀ l ∈ v.run.landed, l ∈ w.run.landed ∨ (l.core = acc.core ∧ l.firing = acc.firing ∧ acc.seen ≤ l.seen)
  bytes : ∀ x, v.mem.hbm.read x = cellsAt g cs (w.mem.hbm.read x) x

/-- Whether every write remembered is one of an access's firing. -/
def Work.onlyOwn (w : Work) (acc : Acc) : Prop := ∀ l ∈ w.run.landed, l.core = acc.core ∧ l.firing = acc.firing

theorem Work.StoredAt.refl (acc : Acc) (g : Reg) (w : Work) : Work.StoredAt acc g [] w w := ⟨rfl, fun _ h => .inl h, fun _ => rfl⟩

theorem Work.StoredAt.trans {acc : Acc} {g : Reg} {as bs : List (Nat × Byte)} {u v w : Work} (h : Work.StoredAt acc g as u v)
    (k : Work.StoredAt acc g bs v w) : Work.StoredAt acc g (as ++ bs) u w where
  rest := by
    have := k.rest
    rw [h.rest] at this
    exact this
  landed l hl := (k.landed l hl).elim (h.landed l) .inr
  bytes x := by rw [k.bytes, h.bytes, cellsAt_append]

section
variable {acc : Acc} {g : Reg} {cs : List (Nat × Byte)} {w v : Work} (h : Work.StoredAt acc g cs w v)
include h

theorem Work.StoredAt.permit (a : Nat) (wr : Bool) : v.permit a wr = w.permit a wr := by
  have plan : v.plan = w.plan := (congrArg Work.plan h.rest :)
  unfold Work.permit
  rw [plan]

theorem Work.StoredAt.noErrors (clean : w.noErrors) : v.noErrors :=
  ⟨(congrArg (fun w => w.mem.errs) h.rest).trans clean.1, (congrArg (fun w => w.mem.lost) h.rest).trans clean.2⟩

theorem Work.StoredAt.onlyOwn (own : w.onlyOwn acc) : v.onlyOwn acc :=
  fun l hl => (h.landed l hl).elim (own l) (fun mine => ⟨mine.1, mine.2.1⟩)

end

/-- Memory with bytes stored at an address of local HBM, where nothing shows an error. -/
def MemSys.stored (m : MemSys) (t : Nat) (bs : List Byte) : MemSys := { (m.restartCopy t bs.length) with hbm := m.hbm.write t bs }

theorem Work.hbmWrite_stored {w : Work} (clean : w.noErrors) (rq t : Nat) (bs : List Byte) :
    w.hbmWrite rq t bs = { w with mem := w.mem.stored t bs } := by
  obtain ⟨errs, lost⟩ := clean
  unfold Work.hbmWrite
  dsimp only
  rw [errs, lost]
  rfl

/-- A run of bytes remembered and stored, where nothing shows an error. -/
theorem Work.stationRun_clean {w : Work} {acc : Acc} {t : Nat} {bs : List Byte} (clean : w.noErrors) (i : Nat) :
    (w.recordWrite acc 0 t bs.length).stationRun acc i t bs = { (w.recordWrite acc 0 t bs.length) with mem := w.mem.stored t bs } := by
  have noted : (w.recordWrite acc 0 t bs.length).noErrors := clean
  have none : (w.recordWrite acc 0 t bs.length).mem.badLines t bs.length = [] := by
    unfold MemSys.badLines
    rw [noted.1, noted.2]
    rfl
  unfold Work.stationRun
  rw [none, Work.hbmWrite_stored noted]
  rfl

theorem Work.stationRun_storedAt {w : Work} {acc : Acc} {i : Nat} {g : Reg} {a : Nat} (clean : w.noErrors) (base : Reg.vbase g ≤ a) (bs : List Byte) :
    Work.StoredAt acc g (number a bs) w ((w.recordWrite acc 0 (Reg.target! g a) bs.length).stationRun acc i (Reg.target! g a) bs) := by
  obtain ⟨rs, restarted⟩ := w.mem.restartCopy_eq (Reg.target! g a) bs.length
  rw [Work.stationRun_clean clean, MemSys.stored, restarted]
  refine ⟨rfl, fun l hl => ?_, fun x => w.mem.hbm.read_write_cells base bs x⟩
  have listed : l ∈ (w.recordWrite acc 0 (Reg.target! g a) bs.length).run.landed := hl
  unfold Work.recordWrite at listed
  dsimp only at listed
  split at listed
  case h_1 =>
    obtain rfl := List.mem_singleton.mp listed
    exact .inr ⟨rfl, rfl, Nat.le_refl _⟩
  case h_2 x ls held =>
    rw [held]
    split at listed
    all_goals rcases List.mem_cons.mp listed with rfl | old
    · exact .inr ⟨rfl, rfl, Nat.le_refl _⟩
    · exact .inl (List.mem_cons_of_mem _ old)
    · exact .inr ⟨rfl, rfl, Nat.le_refl _⟩
    · exact .inl old

/-- Memory after a write's pieces, each the bytes that it cuts out of the write's. -/
def Reg.storedPieces (g : Reg) (addr : Nat) (bs : List Byte) (m : MemSys) (pieces : List (Nat × Nat)) : MemSys :=
  pieces.foldl (fun m piece => m.stored (Reg.target! g piece.1) ((bs.drop (piece.1 - addr)).take piece.2)) m

/-- Memory after a write of a region's bytes. -/
def Reg.storedWrite (g : Reg) (m : MemSys) (r : Nat × List Byte) : MemSys :=
  Reg.storedPieces g r.1 r.2 m (cut2M (r.2.length / 2 ^ 21 + 2) (r.1, r.2.length))

/-- A write's pieces, cut at the units of the region table, cover it: where each is stored as a station's run, all its bytes are. -/
theorem pieces_storedAt {acc : Acc} {i : Nat} {g : Reg} {addr : Nat} {bs : List Byte} {f : Work × List Nat → Nat × Nat → Work × List Nat}
    (step : ∀ (wt : Work × List Nat) (piece : Nat × Nat), wt.1.onlyOwn acc → wt.1.permit piece.1 true = some (i, g) →
      let data := (bs.drop (piece.1 - addr)).take piece.2
      f wt piece = ((wt.1.recordWrite acc 0 (Reg.target! g piece.1) data.length).stationRun acc i (Reg.target! g piece.1) data, wt.2)) :
    ∀ (k a n : Nat) (w : Work) (ts : List Nat), addr ≤ a → a + n = addr + bs.length → n = 0 ∨ n + a % 2 ^ 21 ≤ k * 2 ^ 21 → w.noErrors → w.onlyOwn acc →
      (∀ x, a ≤ x → x < a + n → w.permit x true = some (i, g)) →
      ∃ v, (cut2M k (a, n)).foldl f (w, ts) = (v, ts) ∧ Work.StoredAt acc g (number a (bs.drop (a - addr))) w v ∧
        v.mem = Reg.storedPieces g addr bs w.mem (cut2M k (a, n)) := by
  intro k
  induction k with
  | zero =>
    intro a n w ts from_ upTo short _ _ _
    have none : n = 0 := by omega
    have past : bs.drop (a - addr) = [] := List.drop_eq_nil_of_le (by omega)
    rw [past]
    exact ⟨w, rfl, .refl acc g w, rfl⟩
  | succ k ih =>
    intro a n w ts from_ upTo short clean own inside
    rw [cut2M]
    by_cases none : n = 0
    · have past : bs.drop (a - addr) = [] := List.drop_eq_nil_of_le (by omega)
      rw [past, if_pos none]
      exact ⟨w, rfl, .refl acc g w, rfl⟩
    · rw [if_neg none]
      have here := inside a (Nat.le_refl a) (by omega)
      have first := step (w, ts) (a, min n (2 ^ 21 - a % 2 ^ 21)) own here
      dsimp only at first
      have size : ((bs.drop (a - addr)).take (min n (2 ^ 21 - a % 2 ^ 21))).length = min n (2 ^ 21 - a % 2 ^ 21) := by
        rw [List.length_take, List.length_drop]
        omega
      have stored := Work.stationRun_storedAt (acc := acc) (i := i) clean (Work.permit_base here) ((bs.drop (a - addr)).take (min n (2 ^ 21 - a % 2 ^ 21)))
      have split_ : bs.drop (a - addr) = (bs.drop (a - addr)).take (min n (2 ^ 21 - a % 2 ^ 21)) ++
          bs.drop (a + min n (2 ^ 21 - a % 2 ^ 21) - addr) := by
        have ahead : a + min n (2 ^ 21 - a % 2 ^ 21) - addr = a - addr + min n (2 ^ 21 - a % 2 ^ 21) := Nat.sub_add_comm from_
        rw [ahead, ← List.drop_drop]
        exact (List.take_append_drop _ _).symm
      have mem := congrArg Work.mem (Work.stationRun_clean (acc := acc) (t := Reg.target! g a)
        (bs := (bs.drop (a - addr)).take (min n (2 ^ 21 - a % 2 ^ 21))) clean i)
      obtain ⟨v, ran, later, after⟩ := ih (a + min n (2 ^ 21 - a % 2 ^ 21)) (n - min n (2 ^ 21 - a % 2 ^ 21)) _ ts (by omega) (by omega) (by omega)
        (stored.noErrors clean) (stored.onlyOwn own) (fun x lo hi => (stored.permit x true).trans (inside x (by omega) (by omega)))
      refine ⟨v, ?_, ?_, ?_⟩
      · rw [List.foldl_cons, first]
        exact ran
      · rw [split_, number_append, size]
        exact stored.trans later
      · rw [after, mem]
        rfl

/-- A station's write whose bytes lie in one region of local HBM stores them, where no other firing wrote before. -/
theorem Work.devWrite_storedAt {w : Work} {acc : Acc} {i : Nat} {g : Reg} {addr : Nat} {bs : List Byte} (fab : Fab) (local_ : Reg.target g = 0)
    (clean : w.noErrors) (own : w.onlyOwn acc) (inside : ∀ j < bs.length, w.permit (addr + j) true = some (i, g)) :
    ∃ v, w.devWrite fab acc addr bs = (v, []) ∧ Work.StoredAt acc g (number addr bs) w v ∧ v.mem = Reg.storedWrite g w.mem (addr, bs) := by
  unfold Work.devWrite
  have whole : number addr bs = number addr (bs.drop (addr - addr)) := by rw [Nat.sub_self, List.drop_zero]
  rw [whole]
  refine pieces_storedAt (i := i) (fun wt piece mine permitted => ?_) _ addr bs.length w [] (Nat.le_refl _) rfl (by omega) clean own (fun x lo hi => ?_)
  · have alone := wt.1.settle_alone acc 0 (Reg.target! g piece.1) ((bs.drop (piece.1 - addr)).take piece.2)
      (fun l _ => wt.1.rival_own acc 0 _ _ l mine)
    simp only [permitted, local_, alone]
    rfl
  · have at_ := inside (x - addr) (by omega)
    rwa [Nat.add_sub_cancel' lo] at at_

end Sys2Proof.Machine

end

section
/-!
Collectives and permutes (O56).
-/

namespace Sys2Proof.Machine

/-! ### Shards (R774) -/

theorem cutShard_first (r : Nat × Nat) (n : Nat) : (cutShard r n 0).1 = r.1 := by simp [cutShard]

theorem cutShard_last (r : Nat × Nat) {n : Nat} (some_ : 0 < n) (le : r.1 ≤ r.2) : (cutShard r n (n - 1)).2 = r.2 := by
  unfold cutShard
  rw [Nat.sub_add_cancel some_]
  dsimp only
  rw [Nat.mul_div_cancel_left _ some_]
  omega

theorem cutShard_le (r : Nat × Nat) (n j : Nat) : (cutShard r n j).1 ≤ (cutShard r n j).2 :=
  Nat.add_le_add_left (Nat.div_le_div_right (Nat.mul_le_mul_right _ (Nat.le_succ j))) _

/-! ### Units of a collective, replaced in a range -/

theorem putUnits_length (us : List (W64 × List Byte)) (lo : Nat) (new : List (W64 × List Byte)) : (putUnits us lo new).length = us.length := by
  simp [putUnits]

theorem putUnits_outside {us new : List (W64 × List Byte)} {lo k : Nat} (out : k < lo ∨ lo + new.length ≤ k) :
    (putUnits us lo new)[k]? = us[k]? := by
  unfold putUnits
  rw [List.getElem?_map, List.getElem?_zipIdx, Nat.zero_add]
  cases us[k]? with
  | none => rfl
  | some u => exact congrArg some (if_neg (by dsimp only; omega))

theorem putUnits_inside {us new : List (W64 × List Byte)} {lo k : Nat} (from_ : lo ≤ k) (upTo : k < lo + new.length) (held : k < us.length) :
    (putUnits us lo new)[k]? = new[k - lo]? := by
  unfold putUnits
  rw [List.getElem?_map, List.getElem?_zipIdx, Nat.zero_add, List.getElem?_eq_getElem held]
  have within : k - lo < new.length := by omega
  rw [List.getElem?_eq_getElem within]
  refine congrArg some ((if_pos ⟨from_, upTo⟩).trans ?_)
  exact (List.getElem_eq_getD _).symm

/-- Units replaced by themselves. -/
theorem putUnits_self (us : List (W64 × List Byte)) (lo n : Nat) : putUnits us lo ((us.drop lo).take n) = us := by
  refine List.ext_getElem? fun k => ?_
  by_cases inside : lo ≤ k ∧ k < lo + ((us.drop lo).take n).length ∧ k < us.length
  · obtain ⟨from_, upTo, held⟩ := inside
    have short : k - lo < n := by
      rw [List.length_take] at upTo
      omega
    rw [putUnits_inside from_ upTo held, List.getElem?_take, if_pos short, List.getElem?_drop, Nat.add_sub_cancel' from_]
  · refine putUnits_outside ?_
    rw [List.length_take, List.length_drop] at *
    omega

/-! ### What a flit sent, and a format event, leave -/

/-- A module that sees the same bytes at every device address. -/
structure Work.SeesSame (w v : Work) : Prop where
  mem : v.mem = w.mem
  plan : v.plan = w.plan
  cad : v.cad = w.cad
  landed : v.run.landed = w.run.landed
  stretch : v.run.stretch = w.run.stretch

theorem Work.SeesSame.refl (w : Work) : w.SeesSame w := ⟨rfl, rfl, rfl, rfl, rfl⟩

theorem Work.SeesSame.trans {a b c : Work} (h : a.SeesSame b) (k : b.SeesSame c) : a.SeesSame c :=
  ⟨k.mem.trans h.mem, k.plan.trans h.plan, k.cad.trans h.cad, k.landed.trans h.landed, k.stretch.trans h.stretch⟩

theorem Work.SeesSame.devByte {w v : Work} (h : w.SeesSame v) (a : Nat) : v.devByte a = w.devByte a := by
  unfold Work.devByte Work.permit Work.seenByte Work.regionByte Work.hbmSeen Work.now Work.period
  rw [h.mem, h.plan, h.cad, h.landed, h.stretch]

theorem Work.SeesSame.stagesDone {w v : Work} (h : w.SeesSame v) (fab : Fab) (x : CollEnt) (c : Coll) (n : Nat) :
    v.stagesDone fab x c n = w.stagesDone fab x c n := by
  have herds : v.herdList x = w.herdList x := by
    unfold Work.herdList
    simp only [h.devByte]
  unfold Work.stagesDone Work.stageParts Work.partRange Work.ringOf
  rw [herds]

/-- What a part passed on, or a wrong format met, leaves: only the run's faults, the queue towards the uplinks and what is sent change. -/
structure Work.PassedOn (w v : Work) : Prop where
  seen : w.SeesSame v
  colls : v.net.colls = w.net.colls
  rx : v.net.rx = w.net.rx

theorem Work.PassedOn.refl (w : Work) : w.PassedOn w := ⟨.refl w, rfl, rfl⟩

theorem Work.PassedOn.trans {a b c : Work} (h : a.PassedOn b) (k : b.PassedOn c) : a.PassedOn c :=
  ⟨h.seen.trans k.seen, k.colls.trans h.colls, k.rx.trans h.rx⟩

theorem Run.blame_landed (r : Run) (status : Nat) (e : StepEvent) : (r.blame status e).landed = r.landed ∧ (r.blame status e).stretch = r.stretch := by
  unfold Run.blame
  dsimp only
  split
  · exact ⟨rfl, rfl⟩
  · split <;> exact ⟨rfl, rfl⟩

theorem Work.sendFlit_passedOn (w : Work) (fab : Fab) (e : StepEvent) (bond idx : Nat) (f : Flit) : w.PassedOn (w.sendFlit fab e bond idx f) := by
  unfold Work.sendFlit
  split
  · exact ⟨⟨rfl, rfl, rfl, rfl, rfl⟩, rfl, rfl⟩
  · exact ⟨⟨rfl, rfl, rfl, (w.run.blame_landed _ _).1, (w.run.blame_landed _ _).2⟩, rfl, rfl⟩

theorem Work.formatEvent_passedOn (w : Work) (e : StepEvent) : w.PassedOn (w.formatEvent e) := by
  unfold Work.formatEvent
  split <;> exact ⟨⟨rfl, rfl, rfl, rfl, rfl⟩, rfl, rfl⟩

theorem Work.sendPart_passedOn (w : Work) (fab : Fab) (p : Plan) (c : Coll) (s : CollStage) (ring step : Nat) (us : List (W64 × List Byte)) :
    w.PassedOn (w.sendPart fab p c s ring step us) := by
  unfold Work.sendPart
  dsimp only
  split
  · exact List.foldlRecOn _ _ (.refl w) (fun v hv y _ => hv.trans (v.sendFlit_passedOn _ _ _ _ _))
  · exact ⟨⟨rfl, rfl, rfl, rfl, rfl⟩, rfl, rfl⟩

/-- The units that land when a collective is over. -/
def Plan.landing (p : Plan) (fab : Fab) (c : Coll) : List (W64 × List Byte) :=
  let x := p.coll c
  if x.op = 1 then
    let r := x.region fab fab.member.toNat x.dims.length c.units.length
    (c.units.drop r.1).take (r.2 - r.1)
  else c.units

theorem Work.land_eq (w : Work) (fab : Fab) (p : Plan) (c : Coll) : w.land fab p c = { w with
    net := { (w.net.arrive (p.coll c).core (p.coll c).stream [] (p.landing fab c)) with colls := w.net.colls.filter (· ≠ c) } } := rfl

theorem Net.arrive_any (n : Net) (core stream : Nat) (bs : List Byte) (tiles : List (W64 × List Byte)) :
    (n.arrive core stream bs tiles).rx.any (fun y => decide (y.core = core ∧ y.stream = stream)) = true := by
  unfold Net.arrive
  split
  case isTrue held =>
    obtain ⟨y, hy, named⟩ := List.any_eq_true.mp held
    refine List.any_eq_true.mpr ⟨_, List.mem_map_of_mem hy, ?_⟩
    rw [if_pos (of_decide_eq_true named)]
    exact named
  case isFalse => simp

/-! ### A ring step that treats its part -/

/-- The units of a ring step's part: those that this member holds, those that came, or their sum. -/
def ringUnits (x : CollEnt) (reduce : Bool) (here origin : Nat) (up old : List (W64 × List Byte)) : List (W64 × List Byte) :=
  if here = origin then old else if reduce then List.zipWith x.add up old else up

/-- A collective after a ring step of a part. -/
def Work.ringColl (w : Work) (fab : Fab) (x : CollEnt) (s : CollStage) (c : Coll) (stage ring shard : Nat) (up : List (W64 × List Byte)) : Coll :=
  let here := w.ringOf fab x s
  let r := w.partRange fab x s c.units.length ring shard
  let origin := w.partOrigin fab x s ring shard
  let last := if ring = 0 then (origin + here.1 - 1) % here.1 else (origin + 1) % here.1
  { c with
    units := if s.reduce ∧ here.2 ≠ last then c.units
      else putUnits c.units r.1 (ringUnits x s.reduce here.2 origin up ((c.units.drop r.1).take (r.2 - r.1)))
    parts := c.parts ++ [(stage, ring, shard)] }

/-- A ring step whose part is there treats it: the collective has it, it is passed on, and after the last part the result lands. -/
theorem Work.ringStep_treats {w : Work} {fab : Fab} {p : Plan} {c : Coll} {s : CollStage} {stage ring shard : Nat} {up : List (W64 × List Byte)}
    (found : (p.coll c).stages[stage]? = some s) (mine : (ring, shard) ∈ w.stageParts fab (p.coll c) s c.units.length)
    (new : (stage, ring, shard) ∉ c.parts) (ready : w.stagesDone fab (p.coll c) c stage = true)
    (own : (w.ringOf fab (p.coll c) s).2 = w.partOrigin fab (p.coll c) s ring shard → up = [])
    (came : (w.ringOf fab (p.coll c) s).2 ≠ w.partOrigin fab (p.coll c) s ring shard →
      up.length = (w.partRange fab (p.coll c) s c.units.length ring shard).2 - (w.partRange fab (p.coll c) s c.units.length ring shard).1) :
    let c' := w.ringColl fab (p.coll c) s c stage ring shard up
    ∃ v, w.SeesSame v ∧ v.net.colls = w.net.colls.map (fun y => if y = c then c' else y) ∧ v.net.rx = w.net.rx ∧
      w.ringStep fab p c stage ring shard up 0 = if w.stagesDone fab (p.coll c) c' (p.coll c).stages.length then v.land fab p c' else v := by
  intro c'
  unfold Work.ringStep
  extract_lets x total w1 net1
  have found' : x.stages[stage]? = some s := found
  rw [found']
  dsimp -zeta only
  extract_lets here r len origin start old new_ bad last hop c'' w2 net2 w3 w4
  rw [if_neg]
  · have first : w1 = w := if_pos rfl
    have second : w1.PassedOn w2 := by
      unfold w2
      split
      · exact .refl w1
      · refine .trans ?_ (Work.formatEvent_passedOn _ _)
        exact ⟨⟨rfl, rfl, rfl, rfl, rfl⟩, rfl, rfl⟩
    rw [first] at second
    have third : w.SeesSame w3 := second.seen.trans ⟨rfl, rfl, rfl, rfl, rfl⟩
    have fourth : w3.PassedOn w4 := by
      unfold w4
      split
      · exact .refl w3
      · exact Work.sendPart_passedOn _ _ _ _ _ _ _ _
    refine ⟨w4, third.trans fourth.seen, ?_, fourth.rx.trans second.rx, ?_⟩
    · rw [fourth.colls]
      show w2.net.colls.map _ = _
      rw [second.colls]
      rfl
    · rw [(third.trans fourth.seen).stagesDone]
      rfl
  · rintro (other | again | early | ⟨late, short⟩ | ⟨first, more⟩)
    · exact other mine
    · exact new again
    · rw [Bool.not_eq_true'] at early
      exact Bool.false_ne_true (early.symm.trans ready)
    · exact short (came (of_decide_eq_false (by simpa using late)))
    · rw [own first] at more
      exact absurd more (by decide)

/-! ### What a collective holds after a ring step -/

section
variable (w : Work) (fab : Fab) (x : CollEnt) (s : CollStage) (c : Coll) (stage ring shard : Nat) (up : List (W64 × List Byte))

/-- The ring position of the last member that treats a part. -/
def Work.partLast (w : Work) (fab : Fab) (x : CollEnt) (s : CollStage) (ring shard : Nat) : Nat :=
  let n := (w.ringOf fab x s).1
  let origin := w.partOrigin fab x s ring shard
  if ring = 0 then (origin + n - 1) % n else (origin + 1) % n

theorem Work.ringColl_units : (w.ringColl fab x s c stage ring shard up).units =
    if s.reduce ∧ (w.ringOf fab x s).2 ≠ w.partLast fab x s ring shard then c.units
    else putUnits c.units (w.partRange fab x s c.units.length ring shard).1 (ringUnits x s.reduce (w.ringOf fab x s).2 (w.partOrigin fab x s ring shard) up
      ((c.units.drop (w.partRange fab x s c.units.length ring shard).1).take
        ((w.partRange fab x s c.units.length ring shard).2 - (w.partRange fab x s c.units.length ring shard).1))) := rfl

theorem Work.ringColl_parts : (w.ringColl fab x s c stage ring shard up).parts = c.parts ++ [(stage, ring, shard)] := rfl

theorem Work.ringColl_length : (w.ringColl fab x s c stage ring shard up).units.length = c.units.length := by
  rw [Work.ringColl_units]
  split
  · rfl
  · exact putUnits_length _ _ _

theorem ringUnits_length {x : CollEnt} {reduce : Bool} {here origin n : Nat} {up old : List (W64 × List Byte)} (short : old.length ≤ n)
    (came : here ≠ origin → up.length = n) : (ringUnits x reduce here origin up old).length ≤ n := by
  unfold ringUnits
  split
  · exact short
  · next other =>
      split
      · rw [List.length_zipWith]
        omega
      · exact (came other).le

theorem Work.ringColl_own (own : (w.ringOf fab x s).2 = w.partOrigin fab x s ring shard) :
    (w.ringColl fab x s c stage ring shard up).units = c.units := by
  rw [Work.ringColl_units]
  split
  · rfl
  · unfold ringUnits
    rw [if_pos own]
    exact putUnits_self _ _ _

theorem Work.ringColl_passed (sum : s.reduce = true) (passed : (w.ringOf fab x s).2 ≠ w.partLast fab x s ring shard) :
    (w.ringColl fab x s c stage ring shard up).units = c.units := by
  rw [Work.ringColl_units, if_pos ⟨sum, passed⟩]

section
variable (came : (w.ringOf fab x s).2 ≠ w.partOrigin fab x s ring shard →
  up.length = (w.partRange fab x s c.units.length ring shard).2 - (w.partRange fab x s c.units.length ring shard).1)
include came

theorem Work.ringColl_outside {k : Nat} (range : (w.partRange fab x s c.units.length ring shard).1 ≤ (w.partRange fab x s c.units.length ring shard).2)
    (out : k < (w.partRange fab x s c.units.length ring shard).1 ∨ (w.partRange fab x s c.units.length ring shard).2 ≤ k) :
    (w.ringColl fab x s c stage ring shard up).units[k]? = c.units[k]? := by
  rw [Work.ringColl_units]
  split
  · rfl
  · have short := ringUnits_length (x := x) (reduce := s.reduce) (old := (c.units.drop (w.partRange fab x s c.units.length ring shard).1).take
      ((w.partRange fab x s c.units.length ring shard).2 - (w.partRange fab x s c.units.length ring shard).1)) (by
        rw [List.length_take]
        omega) came
    exact putUnits_outside (by omega)

theorem Work.ringColl_taken {k : Nat} (other : (w.ringOf fab x s).2 ≠ w.partOrigin fab x s ring shard) (move : s.reduce = false)
    (from_ : (w.partRange fab x s c.units.length ring shard).1 ≤ k) (upTo : k < (w.partRange fab x s c.units.length ring shard).2)
    (held : k < c.units.length) :
    (w.ringColl fab x s c stage ring shard up).units[k]? = up[k - (w.partRange fab x s c.units.length ring shard).1]? := by
  have length := came other
  rw [Work.ringColl_units, if_neg (fun h => Bool.false_ne_true (move.symm.trans h.1))]
  unfold ringUnits
  rw [if_neg other, move, if_neg Bool.false_ne_true]
  exact putUnits_inside from_ (by omega) held

theorem Work.ringColl_summed {k : Nat} {u v : W64 × List Byte} (other : (w.ringOf fab x s).2 ≠ w.partOrigin fab x s ring shard) (sum : s.reduce = true)
    (last : (w.ringOf fab x s).2 = w.partLast fab x s ring shard)
    (from_ : (w.partRange fab x s c.units.length ring shard).1 ≤ k) (upTo : k < (w.partRange fab x s c.units.length ring shard).2)
    (held : c.units[k]? = some u) (got : up[k - (w.partRange fab x s c.units.length ring shard).1]? = some v) :
    (w.ringColl fab x s c stage ring shard up).units[k]? = some (x.add v u) := by
  have length := came other
  obtain ⟨inside, -⟩ := List.getElem?_eq_some_iff.mp held
  rw [Work.ringColl_units, if_neg (fun h => h.2 last)]
  unfold ringUnits
  rw [if_neg other, if_pos sum, putUnits_inside from_ ?_ inside]
  · rw [List.getElem?_zipWith_eq_some]
    refine ⟨v, u, got, ?_, rfl⟩
    rw [List.getElem?_take, if_pos (by omega), List.getElem?_drop, Nat.add_sub_cancel' from_]
    exact held
  · rw [List.length_zipWith, List.length_take, List.length_drop]
    omega

end

end

end Sys2Proof.Machine

namespace Sys2Proof.Machine

/-! ### Payloads, and what a flit carries of them (R746, R748) -/

theorem chunksOf_flatten {α : Type} {n : Nat} : ∀ {k : Nat} {l : List α}, l.length ≤ n * k → (chunksOf n k l).flatten = l := by
  intro k
  induction k with
  | zero =>
    intro l short
    rw [List.length_eq_zero_iff.mp (by omega : l.length = 0)]
    rfl
  | succ k ih =>
    intro l short
    unfold chunksOf
    split
    case isTrue none => exact (List.isEmpty_iff.mp none).symm
    case isFalse =>
      rw [List.flatten_cons, ih, List.take_append_drop]
      rw [List.length_drop]
      rw [Nat.mul_succ] at short
      omega

theorem chunksOf_length {α : Type} {n : Nat} (pos : 0 < n) : ∀ {k : Nat} {l y : List α}, y ∈ chunksOf n k l → 0 < y.length ∧ y.length ≤ n := by
  intro k
  induction k with
  | zero =>
    intro l y held
    exact absurd held List.not_mem_nil
  | succ k ih =>
    intro l y held
    unfold chunksOf at held
    split at held
    case isTrue => exact absurd held List.not_mem_nil
    case isFalse some_ =>
      rcases List.mem_cons.mp held with rfl | later
      · have longer : 0 < l.length := List.length_pos_iff.mpr (by simpa using some_)
        rw [List.length_take]
        exact ⟨Nat.lt_min.mpr ⟨pos, longer⟩, Nat.min_le_left _ _⟩
      · exact ih later

theorem payloads_flatten (bs : List Byte) : (payloads bs).flatten = bs :=
  chunksOf_flatten (by omega)

theorem payloads_length {bs y : List Byte} (held : y ∈ payloads bs) : 0 < y.length ∧ y.length ≤ 248 := chunksOf_length (by decide) held

/-- A flit's payload comes out of it as it went in. -/
theorem flitData_mkFlit (type dest core stream order neg : Nat) (first last : Bool) {pl : List Byte} (some_ : 0 < pl.length) (short : pl.length ≤ 248) :
    flitData (mkFlit (flitHdr type dest core stream order neg first last pl.length) pl) = pl := by
  have length : bits (mkFlit (flitHdr type dest core stream order neg first last pl.length) pl).hdr 42 35 = pl.length - 1 := by
    have field := bits_pack [(type, 4), (dest, 10), (core, 7), (stream, 6), (0, 0), (order, 3), (neg, 3), (b2n first, 1), (b2n last, 1)] []
      (pl.length - 1) 8 (m := 64) (hi := 42) (lo := 35) rfl (by decide) (by decide)
    rw [bits_ofNat _ (by decide)] at field
    unfold mkFlit
    dsimp only
    rw [bits_ofNat _ (by decide)]
    unfold flitHdr
    simp only [List.cons_append, List.nil_append] at field
    omega
  unfold flitData
  rw [length, Nat.sub_add_cancel some_]
  exact (congrArg (List.take _) (fit_of_short short)).trans (by simp)

/-! ### A permute that goes on (R786 to R789) -/

theorem Job.run_fin {j : Job} {k pos : Nat} {fresh : Bool} {w v : Work} (more : pos < j.n) (last : j.unit w pos fresh = .fin v) :
    j.run (k + 1) pos fresh w = (v, j.n, none) := by
  unfold Job.run
  rw [if_neg (by omega), last]

theorem Job.run_wait {j : Job} {k pos : Nat} {fresh : Bool} {w v : Work} {why : Stall} {tags : List Nat} (more : pos < j.n)
    (held : j.unit w pos fresh = .wait v why tags) : j.run (k + 1) pos fresh w = (v, pos, some (why, tags)) := by
  unfold Job.run
  rw [if_neg (by omega), held]

/-- A firing that goes on is changed as its job leaves it, and how it stands is noted. -/
theorem Work.advance_of_run {w v : Work} {core idx m : Nat} {x : Prog} {j : Job} {y : Option (Stall × List Nat)} (here : (w.core core).progOf idx = some x)
    (going : ¬(x.stall = some .peer ∧ !x.tags.isEmpty)) (ran : j.run (j.n - x.pos) x.pos (x.stall = some .peer) w = (v, m, y)) :
    ∃ f, w.advance core idx j = v.modCore core (fun c => c.modProg idx f) := by
  unfold Work.advance
  simp only [here]
  rw [if_neg going, ran]
  exact ⟨_, rfl⟩

section
variable {w : Work} {fab : Fab} {p : Plan} {c : Coll} {r : Rec} {sl : W128} (colls : w.net.colls = [c])
  (slot : (p.route c.set).slots[r.param]? = some sl) (entry : slotColl sl = c.entry) (permute : (p.coll c).op = 4)
  (sets : w.run.sets = [(c.core, c.firing, c.set)])
include colls slot entry permute sets

/-- The one tile step of a permute: it ends the firing when all chunks are sent and copied, and waits until then. -/
theorem collJob_permute (t : Nat) : (collJob fab p r { core := c.core, firing := c.firing, time := t }).unit w 0 false =
    if (p.tensor r.desc).chunks ≤ c.sent ∧ (p.tensor r.desc).chunks ≤ c.copied then .fin { w with net.colls := [] } else .wait w .engine [] := by
  have set : w.setOf { core := c.core, firing := c.firing, time := t } = c.set := by
    unfold Work.setOf
    rw [sets]
    simp
  have pinned : w.pin { core := c.core, firing := c.firing, time := t } = w := by
    unfold Work.pin
    rw [sets]
    simp
  have op : CollEnt.op ((p.route c.set).colls.getD (slotColl sl) 0) = 4 := by
    rw [entry]
    exact permute
  have unit : permuteUnit fab p r { core := c.core, firing := c.firing, time := t } w =
      if (p.tensor r.desc).chunks ≤ c.sent ∧ (p.tensor r.desc).chunks ≤ c.copied then .ok { w with net.colls := [] } else .wait w .engine [] := by
    unfold permuteUnit
    simp only [pinned, set, slot, colls]
    simp
  unfold collJob
  by_cases all : (p.tensor r.desc).chunks ≤ c.sent ∧ (p.tensor r.desc).chunks ≤ c.copied
  · rw [if_pos all] at unit ⊢
    simp only [set, slot, op, unit, if_true]
  · rw [if_neg all] at unit ⊢
    simp only [set, slot, op, unit, if_true]

/-- A permute goes on after a chunk: the collective stays as it is, or, with all its chunks sent and copied, ends. -/
theorem Work.permuteOn_eq {x : Prog} (firing : p.firing? c.core c.firing = some r) (here : (w.core c.core).progOf c.firing = some x)
    (pos : x.pos = 0) (stalled : x.stall = some .engine) :
    ∃ cores, w.permuteOn fab p c = { w with
      net := { w.net with
        colls := if (p.tensor r.desc).chunks ≤ c.sent ∧ (p.tensor r.desc).chunks ≤ c.copied then [] else [c] }
      cores := cores } := by
  unfold Work.permuteOn
  rw [firing]
  dsimp only
  generalize w.now w.cad.offset.toNat = t
  have unit := collJob_permute (fab := fab) colls slot entry permute sets t
  have size : (collJob fab p r { core := c.core, firing := c.firing, time := t }).n = r.count - 1 + 1 := by
    change max 1 r.count = _
    omega
  generalize collJob fab p r { core := c.core, firing := c.firing, time := t } = job at unit size
  have going : ¬(x.stall = some .peer ∧ !x.tags.isEmpty) := fun h => absurd (stalled.symm.trans h.1) nofun
  have fresh : decide (x.stall = some .peer) = false := by rw [stalled]; rfl
  have steps : job.run (job.n - x.pos) x.pos (x.stall = some .peer) w = job.run (r.count - 1 + 1) 0 false w := by
    rw [fresh, pos, Nat.sub_zero, size]
  by_cases all : (p.tensor r.desc).chunks ≤ c.sent ∧ (p.tensor r.desc).chunks ≤ c.copied
  · rw [if_pos all] at unit ⊢
    obtain ⟨f, eq⟩ := Work.advance_of_run here going (steps.trans (Job.run_fin (by omega) unit))
    exact ⟨_, eq⟩
  · rw [if_neg all] at unit ⊢
    obtain ⟨f, eq⟩ := Work.advance_of_run here going (steps.trans (Job.run_wait (by omega) unit))
    rw [eq, ← colls]
    exact ⟨_, rfl⟩

end

/-! ### A chunk sent, and a chunk copied -/

/-- Where no write waits to be seen, the moment does not change what a device address reads as. -/
theorem Work.devByte_offset {w : Work} (seen : w.run.landed = []) (o : BitVec 17) (a : Nat) : ({ w with cad.offset := o } : Work).devByte a = w.devByte a := by
  unfold Work.devByte
  have same : ({ w with cad.offset := o } : Work).permit a false = w.permit a false := rfl
  rw [same]
  split
  · rfl
  · next i g _ => exact (Work.seenByte_landed { w with cad.offset := o } g a seen).trans (Work.seenByte_landed w g a seen).symm

theorem Work.readEffects_clean {w : Work} (clean : w.noErrors) (rq pa n : Nat) : w.readEffects rq pa n = w := by
  obtain ⟨errs, lost⟩ := clean
  unfold Work.readEffects MemSys.badLines
  rw [errs, lost]
  rfl

/-- Flits towards a bond whose ports serve every index leave on them, one after the other. -/
theorem Work.sendFlits_eq (w : Work) (fab : Fab) (e : StepEvent) (b : Nat) (served : ∀ i, (fab.portFor b i).isSome = true)
    (idx : List Byte × Nat → Nat) (mk : List Byte × Nat → Flit) (ys : List (List Byte × Nat)) :
    ys.foldl (fun w y => w.sendFlit fab e b (idx y) (mk y)) w =
      { w with out := w.out ++ ys.map (fun y => Out.flit ((fab.portFor b (idx y)).getD 0) (mk y)) } := by
  induction ys generalizing w with
  | nil => simp
  | cons y ys ih =>
    obtain ⟨port, on⟩ := Option.isSome_iff_exists.mp (served (idx y))
    have first : w.sendFlit fab e b (idx y) (mk y) = { w with out := w.out ++ [Out.flit port (mk y)] } := by
      unfold Work.sendFlit
      rw [on]
    rw [List.foldl_cons, first, ih, List.map_cons, on]
    simp

/-- The data of an output that is a flit. -/
def outData (o : Out) : List Byte :=
  match o with
  | .flit _ f => flitData f
  | _ => []

/-- The flit that carries a payload of a permute's chunk, with its number among the chunk's `n`. -/
def Coll.chunkFlit (c : Coll) (dest ring chunk n : Nat) (y : List Byte × Nat) : Flit :=
  mkFlit (flitHdr 2 dest (c.entry % 128) (c.entry / 128 % 2 + 2 * (chunk % 32)) ring 0 (y.2 == 0) (decide (y.2 + 1 = n)) y.1.length) y.1

theorem Work.sendChunk_eq {w : Work} {fab : Fab} {p : Plan} {c : Coll} {r : Rec} {chunk b : Nat} {env : Env} (quiet : quietEnv env = true)
    (clean : w.noErrors) (seen : w.run.landed = []) (colls : w.net.colls = [c])
    (bond : fab.nextBond fab.member.toNat (w.target fab (p.coll c)) (p.coll c).ring 0 = some b) (served : ∀ i, (fab.portFor b i).isSome = true) :
    ∃ os, w.sendChunk fab p c r chunk env = { w with
        cad.offset := w.clkOf env.clk
        out := w.out ++ os
        net.colls := [{ c with sent := chunk + 1 }] } ∧
      os.flatMap outData = (List.range ((p.tensor r.desc).chunk chunk).2).map (fun i => w.devByte (((p.tensor r.desc).chunk chunk).1 + i)) := by
  obtain ⟨v, at_⟩ : ∃ v : Work, v = { w with cad.offset := w.clkOf env.clk } := ⟨_, rfl⟩
  have same (a : Nat) : v.devByte a = w.devByte a := by
    rw [at_]
    exact Work.devByte_offset seen (w.clkOf env.clk) a
  have unlisted : v.noErrors := by rw [at_]; exact clean
  have target : v.target fab (p.coll c) = w.target fab (p.coll c) := by
    unfold Work.target
    simp only [same]
  unfold Work.sendChunk
  extract_lets +onlyGivenNames t k w1 w2 x dest me ps e w3
  have first : w1 = v := (w.observe_quiet c.core quiet).trans at_.symm
  have second : w2 = v := by
    refine (List.foldlRecOn (motive := fun (u : Work) => u = v) _ _ first (fun u hu q _ => ?_))
    rw [hu]
    split
    · split
      · exact Work.readEffects_clean unlisted _ _ _
      · rfl
    · rfl
  have bytes : ps = payloads ((List.range k.2).map (fun i => w.devByte (k.1 + i))) := by
    unfold ps
    simp only [second, same]
  have aim : dest = w.target fab x := by
    unfold dest
    rw [second]
    exact target
  have third : w3 = { w2 with
      out := w2.out ++ ps.zipIdx.map (fun y => Out.flit ((fab.portFor b (y.2 % p.collPorts c)).getD 0) (c.chunkFlit dest x.ring chunk ps.length y)) } := by
    unfold w3
    rw [aim]
    simp only [show fab.nextBond me (w.target fab x) x.ring 0 = some b from bond]
    exact Work.sendFlits_eq _ fab e b served (fun y => y.2 % p.collPorts c) _ _
  refine ⟨ps.zipIdx.map (fun y => Out.flit ((fab.portFor b (y.2 % p.collPorts c)).getD 0) (c.chunkFlit dest x.ring chunk ps.length y)), ?_, ?_⟩
  · have held : v.net.colls = [c] := by rw [at_]; exact colls
    rw [third, second]
    dsimp only
    rw [held]
    simp only [List.map_cons, List.map_nil, if_true]
    rw [at_]
  · rw [List.flatMap_map]
    have data : ∀ y ∈ ps.zipIdx, outData (Out.flit ((fab.portFor b (y.2 % p.collPorts c)).getD 0) (c.chunkFlit dest x.ring chunk ps.length y)) = y.1 := by
      intro y hy
      have held : y.1 ∈ payloads ((List.range k.2).map (fun i => w.devByte (k.1 + i))) := bytes ▸ List.fst_mem_of_mem_zipIdx hy
      exact flitData_mkFlit 2 dest _ _ _ 0 _ _ (payloads_length held).1 (payloads_length held).2
    rw [List.flatMap_congr data, List.flatMap_def, List.zipIdx_map_fst, bytes, payloads_flatten]

theorem Work.copyChunk_eq {w : Work} {p : Plan} {c : Coll} {r : Rec} {chunk i : Nat} {g : Reg} {env : Env} (fab : Fab) (quiet : quietEnv env = true)
    (clean : w.noErrors) (seen : w.run.landed = []) (colls : w.net.colls = [c]) (local_ : Reg.target g = 0)
    (inside : ∀ j < ((p.tensor r.desc).chunk chunk).2, w.permit (((p.tensor r.desc).chunk chunk).1 + j) true = some (i, g)) :
    ∃ v, w.copyChunk fab p c r chunk env = { v with net.colls := [{ c with
        swap := none
        copied := chunk + 1 }] } ∧
      Work.StoredAt { core := c.core, firing := c.firing, desc := r.desc, time := w.now env.clk } g
        (number ((p.tensor r.desc).chunk chunk).1 ((List.range ((p.tensor r.desc).chunk chunk).2).map (fun i => w.devByte ((p.coll c).swapBase + i))))
        { w with cad.offset := w.clkOf env.clk } v := by
  obtain ⟨u, at_⟩ : ∃ u : Work, u = { w with cad.offset := w.clkOf env.clk } := ⟨_, rfl⟩
  have same (a : Nat) : u.devByte a = w.devByte a := by
    rw [at_]
    exact Work.devByte_offset seen (w.clkOf env.clk) a
  have none : u.run.landed = [] := by rw [at_]; exact seen
  unfold Work.copyChunk
  extract_lets +onlyGivenNames k w1 base bs w2
  rw [← at_]
  have first : w1 = u := (w.observe_quiet c.core quiet).trans at_.symm
  have bytes : bs = (List.range k.2).map (fun i => w.devByte ((p.coll c).swapBase + i)) := by
    unfold bs
    simp only [first, same]
    rfl
  have moment : u.now env.clk = w.now env.clk := by rw [at_]; rfl
  obtain ⟨v, written, stored, -⟩ := Work.devWrite_storedAt (w := u) (acc := { core := c.core, firing := c.firing, desc := r.desc, time := w.now env.clk })
    (bs := bs) (addr := k.1) (i := i) (g := g) fab local_ (by rw [at_]; exact clean) (fun l hl => absurd (none ▸ hl) List.not_mem_nil) (by
      rw [bytes, List.length_map, List.length_range, at_]
      exact inside)
  have second : w2 = v := by
    unfold w2
    rw [first, moment]
    exact congrArg Prod.fst written
  have held : v.net.colls = [c] := by
    have kept : v.net.colls = u.net.colls := (congrArg (fun w => w.net.colls) stored.rest :)
    rw [kept, at_]
    exact colls
  refine ⟨v, ?_, bytes ▸ stored⟩
  rw [second]
  dsimp only
  rw [held]
  simp only [List.map_cons, List.map_nil, if_true]

end Sys2Proof.Machine

namespace Sys2Proof.Machine

theorem Work.permute?_some {w : Work} {entry : Nat} {p : Plan} {c : Coll} {r : Rec} (h : w.permute? entry = some (p, c, r)) :
    w.plan = some p ∧ w.net.colls.find? (fun c => decide (c.entry = entry ∧ (p.coll c).op = 4)) = some c ∧ p.firing? c.core c.firing = some r := by
  unfold Work.permute? at h
  split at h
  case h_1 => exact absurd h nofun
  case h_2 q plan =>
    split at h
    case h_1 => exact absurd h nofun
    case h_2 d found =>
      obtain ⟨r', firing, same⟩ := Option.map_eq_some_iff.mp h
      obtain ⟨rfl, rfl, rfl⟩ : q = p ∧ d = c ∧ r' = r := by simpa using same
      exact ⟨plan, found, firing⟩

end Sys2Proof.Machine

open Sys2Proof Sys2Proof.Machine

/-- Settles O56: a ring step treats its part (`Work.ringStep_treats`) and changes the units that `Work.ringColl` says; a permute's chunk is sent
(`Work.sendChunk_eq`) or copied (`Work.copyChunk_eq`), and the permute goes on (`Work.permuteOn_eq`). -/
theorem collectiveMoves : Obligations.CollectiveMoves := by
  refine ⟨fun r n j some_ le => ?_, ?_, ?_⟩
  · refine ⟨cutShard_first r n, cutShard_last r some_ le, rfl, cutShard_le r n j, rfl, rfl, rfl⟩
  · intro entry stage ring shard up p c st s plan found staged x total here r origin last mine new ready own came
    have own' : here.2 = origin → up.map unitOf = [] := fun h => by rw [own h]; rfl
    have came' : here.2 ≠ origin → (up.map unitOf).length = r.2 - r.1 := fun h => by rw [List.length_map, came h]
    obtain ⟨v, seen, colls, rx, ran⟩ := Work.ringStep_treats (up := up.map unitOf) staged mine new ready own' came'
    have range : r.1 < r.2 := by
      have carries := (List.mem_filter.mp mine).2
      exact of_decide_eq_true carries
    generalize hc : s.w.ringColl s.fab (p.coll c) st c stage ring shard (up.map unitOf) = c' at colls ran
    have stepped : exec (.collectiveRingStep entry stage ring shard up 0) s = .next (State.uplinks { s with
        w := if s.w.stagesDone s.fab x c' x.stages.length then v.land s.fab p c' else v }) := by
      rw [← ran]
      change execCollectiveRingStep entry stage ring shard up 0 s = _
      unfold execCollectiveRingStep
      simp only [plan, found]
    refine ⟨_, c', stepped, ?_, ?_, fun k out => ?_, fun start => ?_, fun other move k from_ upTo held => ?_, fun sum passed => ?_,
      fun sum other final k u a from_ upTo held got => ?_, fun more => ?_, fun done => ⟨?_, ?_⟩, ?_, ?_⟩
    · rw [← hc]
      rfl
    · rw [← hc]
      exact Work.ringColl_length ..
    · rw [← hc]
      exact Work.ringColl_outside _ _ _ _ _ _ _ _ _ came' range.le out
    · rw [← hc]
      exact Work.ringColl_own _ _ _ _ _ _ _ _ _ start
    · rw [← hc, ← List.getElem?_map]
      exact Work.ringColl_taken _ _ _ _ _ _ _ _ _ came' other move from_ upTo held
    · rw [← hc]
      exact Work.ringColl_passed _ _ _ _ _ _ _ _ _ sum passed
    · rw [← hc]
      refine Work.ringColl_summed _ _ _ _ _ _ _ _ _ came' other sum final from_ upTo held ?_
      rw [List.getElem?_map, got]
      rfl
    · rw [if_neg (by rw [more]; exact Bool.false_ne_true)]
      obtain ⟨q, out, sent⟩ := State.uplinks_work { s with w := v }
      exact (congrArg (fun w => w.net.colls) sent).trans colls
    · rw [if_pos done]
      obtain ⟨q, out, sent⟩ := State.uplinks_work { s with w := v.land s.fab p c' }
      have left : (State.uplinks { s with w := v.land s.fab p c' }).w.net.colls = v.net.colls.filter (· ≠ c') := (congrArg (fun w => w.net.colls) sent)
      rw [left]
      intro held
      simpa using (List.mem_filter.mp held).2
    · rw [if_pos done]
      obtain ⟨q, out, sent⟩ := State.uplinks_work { s with w := v.land s.fab p c' }
      rw [sent]
      have same : p.coll c' = x := by
        rw [← hc]
        rfl
      have landed : (v.land s.fab p c').net.rx = (v.net.arrive x.core x.stream [] (p.landing s.fab c')).rx := by rw [Work.land_eq, same]
      change (v.land s.fab p c').net.rx.any _ = true
      rw [landed]
      exact v.net.arrive_any _ _ _ _
    · obtain ⟨q, out, sent⟩ := State.uplinks_work { s with w := if s.w.stagesDone s.fab x c' x.stages.length then v.land s.fab p c' else v }
      rw [sent]
      have kept : (if s.w.stagesDone s.fab x c' x.stages.length then v.land s.fab p c' else v).mem = v.mem := by split <;> rfl
      exact congrArg MemSys.hbm (kept.trans seen.mem)
    · obtain ⟨q, out, sent⟩ := State.uplinks_work { s with w := if s.w.stagesDone s.fab x c' x.stages.length then v.land s.fab p c' else v }
      rw [sent]
      have kept : (if s.w.stagesDone s.fab x c' x.stages.length then v.land s.fab p c' else v).plan = v.plan := by split <;> rfl
      exact kept.trans seen.plan
  · intro entry chunk env p c r x sl s permute colls slot named sets here pos stalled quiet clean seen T k ends
    obtain ⟨plan, found, firing⟩ := Work.permute?_some permute
    have op : (p.coll c).op = 4 := by
      have held := List.find?_some found
      exact (of_decide_eq_true held).2
    refine ⟨fun b next more bond served => ?_, fun i g swap sent local_ inside => ?_⟩
    · obtain ⟨os, went, data⟩ := Work.sendChunk_eq (r := r) (chunk := chunk) quiet clean seen colls bond served
      obtain ⟨v, sentOff⟩ : ∃ v, s.w.sendChunk s.fab p c r chunk env = v := ⟨_, rfl⟩
      have at_ := went.symm.trans sentOff
      obtain ⟨cores, on⟩ := Work.permuteOn_eq (w := v) (fab := s.fab) (p := p) (c := { c with sent := chunk + 1 }) (r := r) (sl := sl) (x := x)
        (by rw [← at_]) slot named op (by rw [← at_]; exact sets) firing (by rw [← at_]; exact here) pos stalled
      have ran : exec (.permuteChunkSend entry chunk env) s = .next { s with w := v.permuteOn s.fab p { c with sent := chunk + 1 } } := by
        rw [← sentOff]
        change execPermuteChunkSend entry chunk env s = _
        unfold execPermuteChunkSend
        rw [permute]
        dsimp only
        rw [if_neg (fun h => h.elim (fun other => other next) (fun late => absurd late (Nat.not_le.mpr more)))]
      refine ⟨_, ran, ⟨?_, ?_, rfl, rfl, rfl, rfl⟩, ?_, ?_⟩
      · dsimp only
        rw [on]
        split
        · rfl
        · rfl
      · dsimp only
        rw [on, ← at_]
      · dsimp only
        rw [on, ← at_]
        dsimp only
        rw [List.drop_left]
        exact (List.flatMap_congr (fun o _ => by cases o <;> rfl)).trans data
      · dsimp only
        rw [on, ← at_]
    · obtain ⟨u, went, stored⟩ := Work.copyChunk_eq (r := r) (chunk := chunk) s.fab quiet clean seen colls local_ inside
      obtain ⟨v, copied⟩ : ∃ v, s.w.copyChunk s.fab p c r chunk env = v := ⟨_, rfl⟩
      have at_ := went.symm.trans copied
      have run : v.run.sets = s.w.run.sets := by
        rw [← at_]
        exact (congrArg (fun w => w.run.sets) stored.rest :)
      have core : v.cores = s.w.cores := by
        rw [← at_]
        exact (congrArg Work.cores stored.rest :)
      have dev : v.dev = s.w.dev := by
        rw [← at_]
        exact (congrArg Work.dev stored.rest :)
      obtain ⟨cores, on⟩ := Work.permuteOn_eq (w := v) (fab := s.fab) (p := p) (c := { c with swap := none, copied := chunk + 1 }) (r := r) (sl := sl)
        (x := x) (by rw [← at_]) slot named op (run.trans sets) firing (by rw [Work.core, core]; exact here) pos stalled
      have ran : exec (.permuteChunkCopy entry chunk env) s = .next { s with w := v.permuteOn s.fab p { c with swap := none, copied := chunk + 1 } } := by
        rw [← copied]
        change execPermuteChunkCopy entry chunk env s = _
        unfold execPermuteChunkCopy
        rw [permute]
        dsimp only
        rw [if_neg (fun h => h.elim (fun other => other swap) (fun early => absurd early (Nat.not_le.mpr sent)))]
      have hbm (pa : Nat) : (v.permuteOn s.fab p { c with swap := none, copied := chunk + 1 }).mem.hbm.read pa =
          cellsAt g (number k.1 ((List.range k.2).map (fun i => s.w.devByte ((p.coll c).swapBase + i)))) (s.w.mem.hbm.read pa) pa := by
        rw [on, ← at_]
        exact stored.bytes pa
      refine ⟨_, ran, ⟨?_, ?_, rfl, rfl, rfl, rfl⟩, fun j hj => ?_, fun pa out => ?_⟩
      · dsimp only
        rw [on]
        split
        · rfl
        · rfl
      · dsimp only
        rw [on]
        exact dev
      · have base := Work.permit_base (inside j hj)
        have byte : (k.1 + j, s.w.devByte ((p.coll c).swapBase + j)) ∈ number k.1 ((List.range k.2).map (fun i => s.w.devByte ((p.coll c).swapBase + i))) :=
          mem_number.mpr ⟨j, by rw [List.getElem?_map, List.getElem?_range hj]; rfl, rfl⟩
        have first := Work.permit_base (inside 0 (Nat.zero_lt_of_lt hj))
        exact (hbm _).trans (cellsAt_of_mem (number_targets_apart first _) byte _)
      · refine (hbm pa).trans (cellsAt_other (fun cell held => ?_) _)
        obtain ⟨lo, hi⟩ := number_keys _ _ _ held
        rw [List.length_map, List.length_range] at hi
        have apart := out (cell.1 - k.1) (by omega)
        rwa [Nat.add_sub_cancel' lo] at apart

end

section
/-!
A firing of one tile, and tiles loaded (O48).
-/

namespace Sys2Proof.Machine

/-! ### What taking and filling a slot leaves of a core (R46, R47, R361) -/

/-- A firing in progress without the times that lost clk move. -/
def Prog.still (x : Prog) : Prog := { x with uses := [], ends := 0 }

/-- Two cores with the same local store, tallies, streams and firings in progress: counters, the scoreboard, the slots' times and the times of
the firings may differ. -/
structure Core.Shifted (c d : Core) : Prop where
  ls : d.ls = c.ls
  lsBad : d.lsBad = c.lsBad
  cells : d.cells = c.cells
  made : d.made = c.made
  used : d.used = c.used
  base : d.taskBase = c.taskBase
  bound : d.taskBound = c.taskBound
  prog : d.prog.map Prog.still = c.prog.map Prog.still

theorem Core.Shifted.refl (c : Core) : c.Shifted c := ⟨rfl, rfl, rfl, rfl, rfl, rfl, rfl, rfl⟩

theorem Core.Shifted.trans {a b c : Core} (h : a.Shifted b) (k : b.Shifted c) : a.Shifted c :=
  ⟨k.ls.trans h.ls, k.lsBad.trans h.lsBad, k.cells.trans h.cells, k.made.trans h.made, k.used.trans h.used, k.base.trans h.base,
    k.bound.trans h.bound, k.prog.trans h.prog⟩

theorem Core.Shifted.window {c d : Core} (h : c.Shifted d) (task : Nat) : d.window task = c.window task := by
  unfold Core.window
  rw [h.base, h.bound]

/-- A change of a firing's times leaves it as it stands. -/
theorem Core.modProg_still (c : Core) (idx : Nat) {f : Prog → Prog} (times : ∀ x, (f x).still = x.still) :
    (c.modProg idx f).prog.map Prog.still = c.prog.map Prog.still := by
  unfold Core.modProg
  rw [List.map_map]
  refine List.map_congr_left fun x _ => ?_
  change (if x.idx = idx then f x else x).still = x.still
  split
  · exact times x
  · rfl

theorem Core.modProg_shifted (c : Core) (idx : Nat) {f : Prog → Prog} (times : ∀ x, (f x).still = x.still) : c.Shifted (c.modProg idx f) :=
  ⟨rfl, rfl, rfl, rfl, rfl, rfl, rfl, c.modProg_still idx times⟩

theorem Core.Shifted.progOf {c d : Core} (h : c.Shifted d) (idx : Nat) : (d.progOf idx).map Prog.still = (c.progOf idx).map Prog.still := by
  have found (c : Core) : (c.progOf idx).map Prog.still = (c.prog.map Prog.still).find? (fun x => decide (x.idx = idx)) := by
    unfold Core.progOf
    rw [List.find?_map]
    rfl
  rw [found d, found c, h.prog]

theorem Core.lose_shifted (c : Core) (station idx n : Nat) : c.Shifted (c.lose station idx n) := by
  unfold Core.lose
  split
  · exact .refl c
  · exact ⟨rfl, rfl, rfl, rfl, rfl, rfl, rfl, Core.modProg_still _ idx (fun _ => rfl)⟩

theorem Core.delayEntry_shifted (c : Core) (e : SbEntry) (n : Nat) : c.Shifted (c.delayEntry e n) := ⟨rfl, rfl, rfl, rfl, rfl, rfl, rfl, rfl⟩

/-- An access that enters the scoreboard changes times only. -/
theorem Work.enter_shifted (w : Work) (p : Plan) (a : At) (e : SbEntry) :
    ∃ f, (w.enter p a e).1 = w.modCore a.core f ∧ (w.core a.core).Shifted (f (w.core a.core)) := by
  unfold Work.enter
  extract_lets fs yields n e'
  refine ⟨_, rfl, ?_⟩
  extract_lets c
  have moved : (w.core a.core).Shifted c := by
    refine List.foldlRecOn (motive := fun (d : Core) => (w.core a.core).Shifted d) _ _ (.refl _) (fun d hd f _ => ?_)
    dsimp only
    split
    · exact hd
    · exact hd.trans ((d.delayEntry_shifted f _).trans (Core.lose_shifted _ _ _ _))
  exact moved.trans ⟨rfl, rfl, rfl, rfl, rfl, rfl, rfl, rfl⟩

/-! ### A slot emptied, and a slot filled -/

/-- The plan work changes on one core only. -/
structure Work.OnCore (core : Nat) (w v : Work) : Prop where
  rest : v = { w with cores := v.cores }
  other : ∀ j, j ≠ core → v.core j = w.core j

theorem Work.OnCore.refl (core : Nat) (w : Work) : Work.OnCore core w w := ⟨rfl, fun _ _ => rfl⟩

theorem Work.OnCore.trans {core : Nat} {u v w : Work} (h : Work.OnCore core u v) (k : Work.OnCore core v w) : Work.OnCore core u w := by
  refine ⟨?_, fun j hj => (k.other j hj).trans (h.other j hj)⟩
  have last := k.rest
  rw [h.rest] at last
  exact last

theorem Work.modCore_onCore (w : Work) (core : Nat) (f : Core → Core) : Work.OnCore core w (w.modCore core f) :=
  ⟨rfl, fun _ hj => w.modCore_other f hj⟩

/-- A core whose stream `s` has slot `k` emptied: one more of its tiles is consumed. -/
def Core.emptied (c : Core) (station idx s k since n : Nat) : Core :=
  ({ c with
    slots := mset c.slots {} (slotKey s k) { since := since }
    used := mset c.used 0 s (mget c.used 0 s + 1) }.modProg idx (fun y => { y with uses := dropUses false s 1 y.uses })).lose station idx n

/-- A core whose stream `s` has slot `k` filled with bytes at an offset of local store: one more of its tiles is written. -/
def Core.filled (c : Core) (station idx s k n : Nat) (st : SlotSt) : Core :=
  ({ c with
    slots := mset c.slots {} (slotKey s k) st
    made := mset c.made 0 s (mget c.made 0 s + 1) }.modProg idx (fun y => { y with uses := dropUses true s 1 y.uses })).lose station idx n

theorem Core.lose_slots (c : Core) (station idx n : Nat) : (c.lose station idx n).slots = c.slots := by
  unfold Core.lose
  split <;> rfl

section
variable (c : Core) (station idx s k since n : Nat) (st : SlotSt)

theorem Core.emptied_slot : ((c.emptied station idx s k since n).slot s k) = { since := since } := by
  unfold Core.emptied Core.slot
  rw [Core.lose_slots]
  exact mget_mset_same _ _ _ _

theorem Core.filled_slot : ((c.filled station idx s k n st).slot s k) = st := by
  unfold Core.filled Core.slot
  rw [Core.lose_slots]
  exact mget_mset_same _ _ _ _

theorem Core.emptied_shifted : Core.Shifted { c with used := mset c.used 0 s (mget c.used 0 s + 1) } (c.emptied station idx s k since n) := by
  refine .trans (.trans ?_ (Core.modProg_shifted _ idx (f := fun y => { y with uses := dropUses false s 1 y.uses }) (fun _ => rfl)))
    (Core.lose_shifted _ station idx n)
  exact ⟨rfl, rfl, rfl, rfl, rfl, rfl, rfl, rfl⟩

theorem Core.filled_shifted : Core.Shifted { c with made := mset c.made 0 s (mget c.made 0 s + 1) } (c.filled station idx s k n st) := by
  refine .trans (.trans ?_ (Core.modProg_shifted _ idx (f := fun y => { y with uses := dropUses true s 1 y.uses }) (fun _ => rfl)))
    (Core.lose_shifted _ station idx n)
  exact ⟨rfl, rfl, rfl, rfl, rfl, rfl, rfl, rfl⟩

end

/-- What a firing finds when it has taken a tile: the slot is empty, the stream has one fewer, and of the core's data nothing else changes. -/
structure Work.Emptied (core s k : Nat) (w v : Work) : Prop where
  on : Work.OnCore core w v
  slot : ((v.core core).slot s k).phase = .empty
  data : Core.Shifted { (w.core core) with used := mset (w.core core).used 0 s (mget (w.core core).used 0 s + 1) } (v.core core)

/-- What a firing finds when it has filled a slot with a tile's bytes, its first clk as given at the earliest: the bytes stand in local store, and
of the core's data nothing else changes. -/
structure Work.Filled (core s k : Nat) (st : SlotSt) (from_ lo : Nat) (bs : List Byte) (w v : Work) : Prop where
  on : Work.OnCore core w v
  slot : ∃ n, (v.core core).slot s k = { st with
    phase := .full
    since := from_ + n }
  data : Core.Shifted { (w.core core) with
    ls := (w.core core).ls.write lo bs
    lsBad := (v.core core).lsBad
    made := mset (w.core core).made 0 s (mget (w.core core).made 0 s + 1) } (v.core core)

theorem Work.consume1_emptied (w : Work) (p : Plan) (a : At) (s : Nat) :
    Work.Emptied a.core s (mget (w.core a.core).used 0 s % (p.stream a.core s).slots) w (w.consume1 p a s) := by
  obtain ⟨f, entered, shifted⟩ := w.enter_shifted p a (w.entry p a s (mget (w.core a.core).used 0 s % (p.stream a.core s).slots) (w.useOf a false s 0))
  generalize hc : f (w.core a.core) = d at shifted
  have here : (w.enter p a (w.entry p a s (mget (w.core a.core).used 0 s % (p.stream a.core s).slots) (w.useOf a false s 0))).1.core a.core = d := by
    rw [entered, Work.modCore_core, hc]
  have same : (w.consume1 p a s).core a.core = d.emptied (p.stationOf a.core a.firing) a.firing s
      (mget (w.core a.core).used 0 s % (p.stream a.core s).slots)
      ((w.useOf a false s 0).fin + (w.enter p a (w.entry p a s (mget (w.core a.core).used 0 s % (p.stream a.core s).slots) (w.useOf a false s 0))).2)
      (w.enter p a (w.entry p a s (mget (w.core a.core).used 0 s % (p.stream a.core s).slots) (w.useOf a false s 0))).2 := by
    unfold Work.consume1
    dsimp only
    rw [Work.modCore_core, here, ← shifted.used]
    rfl
  refine ⟨?_, ?_, ?_⟩
  · refine .trans ?_ (Work.modCore_onCore _ _ _)
    rw [entered]
    exact w.modCore_onCore _ _
  · rw [same, Core.emptied_slot]
  · rw [same]
    have moved : Core.Shifted { w.core a.core with used := mset (w.core a.core).used 0 s (mget (w.core a.core).used 0 s + 1) }
        { d with used := mset d.used 0 s (mget d.used 0 s + 1) } :=
      ⟨shifted.ls, shifted.lsBad, shifted.cells, shifted.made, by rw [shifted.used], shifted.base, shifted.bound, shifted.prog⟩
    exact moved.trans (d.emptied_shifted _ _ _ _ _ _)

/-- Bytes stored within a task's window. -/
theorem Work.lsWrite_eq {w : Work} {core task off : Nat} {bs : List Byte} (fits : off + bs.length ≤ ((w.core core).window task).2) (firing time : Nat) :
    ∃ bad : Core → SMap (BitVec 2), w.lsWrite core firing task off bs time = w.modCore core (fun c => { c with
      ls := c.ls.write (((w.core core).window task).1 + off) bs
      lsBad := bad c }) :=
  ⟨_, if_pos fits⟩

theorem Work.push_filled {w : Work} {p : Plan} {a : At} {s : Nat} {bs : List Byte} (st : SlotSt)
    (fits : (p.stream a.core s).slotOff (mget (w.core a.core).made 0 s % (p.stream a.core s).slots) + bs.length ≤
      ((w.core a.core).window (p.stream a.core s).task).2) :
    Work.Filled a.core s (mget (w.core a.core).made 0 s % (p.stream a.core s).slots) st (w.useOf a true s 0).fin
      (((w.core a.core).window (p.stream a.core s).task).1 + (p.stream a.core s).slotOff (mget (w.core a.core).made 0 s % (p.stream a.core s).slots)) bs
      w (w.push p a s st bs) := by
  generalize hk : mget (w.core a.core).made 0 s % (p.stream a.core s).slots = k at fits ⊢
  obtain ⟨f, entered, shifted⟩ := w.enter_shifted p a (w.entry p a s k (w.useOf a true s 0))
  generalize hc : f (w.core a.core) = d at shifted
  have here : (w.enter p a (w.entry p a s k (w.useOf a true s 0))).1.core a.core = d := by rw [entered, Work.modCore_core, hc]
  have window := shifted.window (p.stream a.core s).task
  obtain ⟨bad, written⟩ := Work.lsWrite_eq (w := (w.enter p a (w.entry p a s k (w.useOf a true s 0))).1) (core := a.core) (task := (p.stream a.core s).task)
    (off := (p.stream a.core s).slotOff k) (bs := bs) (by rw [here, window]; exact fits) a.firing a.time
  have same : (w.push p a s st bs).core a.core = Core.filled { d with
        ls := d.ls.write (((w.core a.core).window (p.stream a.core s).task).1 + (p.stream a.core s).slotOff k) bs
        lsBad := bad d } (p.stationOf a.core a.firing) a.firing s k (w.enter p a (w.entry p a s k (w.useOf a true s 0))).2 { st with
        phase := .full
        since := (w.useOf a true s 0).fin + (w.enter p a (w.entry p a s k (w.useOf a true s 0))).2 } := by
    unfold Work.push
    dsimp only
    rw [hk, written, Work.modCore_core, Work.modCore_core, here, window, ← shifted.made]
    rfl
  refine ⟨?_, ?_, ?_⟩
  · unfold Work.push
    dsimp only
    rw [hk, written]
    refine .trans (.trans ?_ (Work.modCore_onCore _ _ _)) (Work.modCore_onCore _ _ _)
    rw [entered]
    exact w.modCore_onCore _ _
  · rw [same, Core.filled_slot]
    exact ⟨_, rfl⟩
  · rw [same]
    refine .trans ?_ (Core.filled_shifted _ _ _ _ _ _ _)
    exact ⟨by rw [shifted.ls], (Core.filled_shifted _ _ _ _ _ _ _).lsBad.symm, shifted.cells, by rw [shifted.made], shifted.used, shifted.base, shifted.bound,
      shifted.prog⟩

end Sys2Proof.Machine

namespace Sys2Proof.Machine

/-! ### A firing of one tile, begun -/

/-- What a firing that issues, without a trace record and where nothing but the moment shows, finds. -/
structure Work.Started (core idx : Nat) (clk : BitVec 17) (w v : Work) : Prop where
  rest : v = { w with
    cad := { w.cad with offset := clk }
    run := { w.run with landed := v.run.landed }
    cores := v.cores }
  landed : ∀ l ∈ v.run.landed, l ∈ w.run.landed
  other : ∀ j, j ≠ core → v.core j = w.core j
  data : v.core core = { w.core core with
    counts := (v.core core).counts
    free := (v.core core).free
    prog := (v.core core).prog
    issued := (v.core core).issued
    aside := (v.core core).aside
    idleFrom := (v.core core).idleFrom
    idled := (v.core core).idled }
  prog : ∃ issued late resent uses ends, (v.core core).prog = (w.core core).prog ++ [{
    idx := idx
    issued := issued
    late := late
    resent := resent
    uses := uses
    ends := ends }]

/-- Setting a firing's times changes its core's counters, the clk from which its station is free, and the firing. -/
theorem Work.schedule_data (w : Work) (core idx station issued extra : Nat) (t : Times) :
    ∃ counts free prog, (w.schedule core idx station issued extra t).core core = { w.core core with
      counts := counts
      free := free
      prog := prog } := by
  unfold Work.schedule
  dsimp only
  rw [Work.modCore_core]
  by_cases none : t.waits + extra = 0
  · rw [if_pos none]
    exact ⟨_, _, _, rfl⟩
  · rw [if_neg none]
    exact ⟨_, _, _, rfl⟩

section
variable {w : Work} {core idx : Nat} {r : Rec} {env : Env} (untraced : r.trace = false) (quiet : quietEnv env = true)
include untraced quiet

theorem Work.begin_landed : ∀ l ∈ (w.begin core idx r env).run.landed, l ∈ w.run.landed := by
  unfold Work.begin
  rw [w.observe_quiet core quiet, untraced, if_neg Bool.false_ne_true]
  exact fun l hl => (List.mem_filter.mp hl).1

theorem Work.start_started (new : (w.core core).progOf idx = none) (t : Times) : Work.Started core idx (w.clkOf env.clk) w (w.start core idx r env t) := by
  obtain ⟨e, landed, begun, eq⟩ := w.begin_quiet core idx r untraced quiet
  obtain ⟨late, resent, prog⟩ := w.begin_prog core idx r untraced quiet
  obtain ⟨uses, n, timed⟩ := (w.begin core idx r env).schedule_prog core idx r.station (w.now env.clk) (if r.station = 8 then env.held else env.wait) t
  have cores : (w.begin core idx r env).cores = (w.modCore core (fun _ => e)).cores := by rw [eq]
  have here : (w.begin core idx r env).core core = e := (Work.core_congr cores core).trans (Work.modCore_core w core _)
  have elsewhere (j : Nat) (hj : j ≠ core) : (w.begin core idx r env).core j = w.core j := (Work.core_congr cores j).trans (Work.modCore_other w _ hj)
  have others (f : Prog → Prog) : (w.core core).prog.map (fun y => if y.idx = idx then f y else y) = (w.core core).prog :=
    List.map_congr_left (fun y hy => if_neg (by simpa using List.find?_eq_none.1 new y hy)) |>.trans (List.map_id _)
  have started := Work.begin_landed (w := w) (core := core) (idx := idx) untraced quiet
  unfold Work.start
  refine ⟨?_, ?_, fun j hj => ?_, ?_, ?_⟩
  · unfold Work.schedule
    rw [eq]
    rfl
  · exact started
  · unfold Work.schedule
    rw [Work.modCore_other _ _ hj, elsewhere j hj]
  · obtain ⟨d, x, idle, -, rfl⟩ := begun
    obtain ⟨counts, free, prog, set⟩ := (w.begin core idx r env).schedule_data core idx r.station (w.now env.clk) (if r.station = 8 then env.held else env.wait) t
    rw [set, here, idle.eq]
    rfl
  · rw [Core.modProg, prog, List.map_append, others, List.map_cons, if_pos rfl, List.map_nil] at timed
    exact ⟨_, _, _, _, _, timed⟩

end

/-! ### A firing of one tile, run -/

/-- A firing whose one tile step does not wait is done, unless it waits for acknowledgements. -/
theorem Work.advance_done {w v : Work} {core idx : Nat} {x : Prog} {j : Job} (here : (w.core core).progOf idx = some x)
    (pos : x.pos = 0) (going : x.stall = none) (one : j.n = 1) (ran : j.unit w 0 false = .ok v) :
    ∃ f, w.advance core idx j = v.modCore core (fun c => c.modProg idx f) ∧ ∀ y, (f y).idx = y.idx ∧ (f y).done = y.tags.isEmpty := by
  have run : j.run 1 0 false w = (v, 1, none) := by simp [Job.run, one, ran]
  unfold Work.advance
  simp only [here, pos, going, one, run, Nat.sub_zero, reduceCtorEq, false_and, if_false, decide_false]
  exact ⟨_, rfl, fun y => ⟨rfl, rfl⟩⟩

/-- A firing whose first tile step waits stands still for that reason. -/
theorem Work.advance_waits {w v : Work} {core idx : Nat} {x : Prog} {j : Job} {why : Stall} (here : (w.core core).progOf idx = some x)
    (pos : x.pos = 0) (going : x.stall = none) (one : j.n = 1) (ran : j.unit w 0 false = .wait v why []) :
    ∃ f, w.advance core idx j = v.modCore core (fun c => c.modProg idx f) ∧
      ∀ y, (f y).idx = y.idx ∧ (f y).stall = some why ∧ (f y).done = y.done := by
  have run : j.run 1 0 false w = (v, 0, some (why, [])) := by simp [Job.run, one, ran]
  unfold Work.advance
  simp only [here, pos, going, one, run, Nat.sub_zero, reduceCtorEq, false_and, if_false, decide_false]
  exact ⟨_, rfl, fun y => ⟨rfl, rfl, rfl⟩⟩

/-- The firing that has begun, as it stands. -/
theorem Work.Started.here {core idx : Nat} {clk : BitVec 17} {w v : Work} (h : Work.Started core idx clk w v) (new : (w.core core).progOf idx = none) :
    ∃ x, (v.core core).progOf idx = some x ∧ x.pos = 0 ∧ x.stall = none ∧ x.tags = [] ∧ x.held = [] ∧ x.done = false := by
  obtain ⟨issued, late, resent, uses, ends, prog⟩ := h.prog
  have found : (v.core core).progOf idx = some { idx := idx, issued := issued, late := late, resent := resent, uses := uses, ends := ends } := by
    unfold Core.progOf at new ⊢
    rw [prog, List.find?_append, new]
    simp
  exact ⟨_, found, rfl, rfl, rfl, rfl, rfl⟩

theorem Work.Started.permit {core idx : Nat} {clk : BitVec 17} {w v : Work} (h : Work.Started core idx clk w v) (addr : Nat) (wr : Bool) :
    v.permit addr wr = w.permit addr wr := by
  have plan : v.plan = w.plan := (congrArg Work.plan h.rest :)
  unfold Work.permit
  rw [plan]

theorem Work.Started.mem {core idx : Nat} {clk : BitVec 17} {w v : Work} (h : Work.Started core idx clk w v) : v.mem = w.mem :=
  (congrArg Work.mem h.rest :)

/-- Where a change of times leaves a firing, it still has its tags and its held tiles. -/
theorem Core.Shifted.here {c d : Core} (h : c.Shifted d) {idx : Nat} {x : Prog} (held : c.progOf idx = some x) :
    ∃ y, d.progOf idx = some y ∧ y.still = x.still := by
  have same := h.progOf idx
  rw [held, Option.map_some] at same
  exact Option.map_eq_some_iff.mp same

theorem Prog.still_tags {x y : Prog} (h : y.still = x.still) : y.tags = x.tags := (congrArg Prog.tags h :)

/-- A station's read of runs that lie in local HBM, where nothing shows an error, has no effect. -/
theorem Work.reach_local {w : Work} {rs : List (Nat × Nat)} (fab : Fab) (acc : Acc) (link : w.dev.linkUp = true) (clean : w.noErrors)
    (inside : ∀ q ∈ cutRuns rs, ∃ i g, w.permit q.1 false = some (i, g) ∧ Reg.target g = 0) : w.reach fab acc rs false = (w, none) := by
  have peers : w.inTarget (cutRuns rs) false 1 = [] := by
    unfold Work.inTarget
    refine List.filterMap_eq_nil_iff.mpr fun q hq => ?_
    obtain ⟨i, g, permitted, here⟩ := inside q hq
    rw [permitted]
    simp [here]
  have unread : (cutRuns rs).foldl (fun w r => w.readRun acc r) w = w := by
    refine List.foldlRecOn (motive := fun (v : Work) => v = w) _ _ rfl (fun v hv q hq => ?_)
    subst hv
    obtain ⟨i, g, permitted, here⟩ := inside q hq
    obtain ⟨errs, lost⟩ := clean
    unfold Work.readRun MemSys.badLines
    rw [permitted, errs, lost]
    simp [here]
  unfold Work.reach
  simp only [link, peers, unread]
  rfl

end Sys2Proof.Machine

open Sys2Proof Sys2Proof.Machine

/-- Settles O48: the one tile step of the firing reads its tile (`Work.reach_local`) and fills the slot with it (`Work.push_filled`). -/
theorem tilesLoaded : Obligations.TilesLoaded := by
  intro turn core idx env p r s plan firing station op one untraced quiet ready new clean link a T weight w x m c k at_ inside clear room fits
  have ran : exec (if turn then .copyInT core idx env else .copyIn core idx env) s =
      .next { s with w := s.w.issue core idx env 0 (if turn then 2 else 1) (loadJob s.fab turn) } := by cases turn <;> rfl
  rw [ran, Work.issue_runs plan firing (loadJob s.fab turn) station op ready]
  have started : Work.Started core idx (s.w.clkOf env.clk) s.w w := Work.start_started untraced quiet new _
  obtain ⟨x0, here, pos, going, tags, -, -⟩ := started.here new
  have dev : w.dev = s.w.dev := (congrArg Work.dev started.rest :)
  have unlisted : w.noErrors := by
    unfold Work.noErrors
    rw [started.mem]
    exact clean
  have window : (w.core core).window m.task = c.window m.task := by rw [started.data]; rfl
  have made : (w.core core).made = c.made := by rw [started.data]
  have reached : w.reach s.fab (a.acc r.desc) (p.loadAddrs T (turn || T.innerT) r.param weight) false = (w, none) :=
    Work.reach_local s.fab _ (by rw [dev]; exact link) unlisted (fun q hq => by
      obtain ⟨i, g, permitted, here⟩ := inside q hq
      exact ⟨i, g, (started.permit _ _).trans permitted, here⟩)
  have step : (loadJob s.fab turn p r a).unit w 0 false = .ok (w.push p a r.dst
      { mask := x.2.1, part := T.firstPos (turn || T.innerT) r.param % 128 } x.2.2) := by
    change loadUnit s.fab p r a turn w 0 false = _
    unfold loadUnit
    simp only [Bool.false_eq_true, if_false, Nat.add_zero]
    rw [room]
    dsimp only
    rw [reached]
    dsimp only
    rw [show (p.loadTile T (turn || T.innerT) r.param weight w.devByte).1 = [] from clear]
    rfl
  have filled := Work.push_filled (w := w) (p := p) (a := a) (s := r.dst) (bs := x.2.2) { mask := x.2.1, part := T.firstPos (turn || T.innerT) r.param % 128 }
    (by rw [made, window]; exact fits)
  rw [made, window] at filled
  generalize w.push p a r.dst { mask := x.2.1, part := T.firstPos (turn || T.innerT) r.param % 128 } x.2.2 = v at step filled
  obtain ⟨f, finished, done⟩ := Work.advance_done here pos going one step
  rw [finished]
  obtain ⟨y, stands, still⟩ := filled.data.here (x := x0) here
  have bytes : (v.core core).ls = c.ls.write at_ x.2.2 := by
    rw [filled.data.ls, started.data]
  obtain ⟨n, full⟩ := filled.slot
  have whole : ((v.modCore core (fun c => c.modProg idx f)).core core) = (v.core core).modProg idx f := Work.modCore_core _ _ _
  refine ⟨_, rfl, ?_, fun b out => ?_, ?_, ?_, ?_, ?_, ⟨f y, ?_, ?_⟩, ?_, fun j hj => ?_, ?_, ?_, ?_, ⟨rfl, rfl, rfl, rfl⟩⟩
  · rw [whole]
    change (v.core core).ls.readN at_ _ = _
    rw [bytes]
    exact Memory.readN_write ..
  · rw [whole]
    change (v.core core).ls.read b = _
    rw [bytes]
    exact Memory.read_write_out _ _ _ _ out
  · rw [whole]
    change ((v.core core).slot r.dst k).phase = _
    rw [full]
  · rw [whole]
    change ((v.core core).slot r.dst k).mask = _
    rw [full]
  · rw [whole]
    change mget (v.core core).made 0 r.dst = _
    rw [filled.data.made]
    dsimp only
    rw [made]
    exact mget_mset_same _ _ _ _
  · rw [whole]
    change _ ≤ ((v.core core).slot r.dst k).since
    rw [full]
    exact Nat.le_add_right _ _
  · rw [whole, Core.progOf_modProg _ (fun y => (done y).1), stands]
    rfl
  · rw [(done y).2, Prog.still_tags still, tags]
    rfl
  · rw [whole]
    change (v.core core).cells = _
    rw [filled.data.cells, started.data]
  · exact (Work.modCore_other _ _ hj).trans ((filled.on.other j hj).trans (started.other j hj))
  · exact ((congrArg Work.mem filled.on.rest).trans started.mem :)
  · have run : v.run = w.run := (congrArg Work.run filled.on.rest :)
    change v.run = { s.w.run with landed := v.run.landed }
    rw [run]
    exact (congrArg Work.run started.rest :)
  · exact ((congrArg Work.dev filled.on.rest).trans dev :)

end

section
/-!
Tiles put and taken (O52).
-/

namespace Sys2Proof.Machine

/-! ### Tiles that arrive for a stream (R748) -/

/-- The bytes that have arrived for a stream of a core. -/
def Net.got (n : Net) (core stream : Nat) : List Byte :=
  ((n.rx.find? (fun x => decide (x.core = core ∧ x.stream = stream))).map (·.bytes)).getD []

/-- An entry of a list changed in place is found where it was. -/
theorem find?_map_named {core stream : Nat} {f : RxStream → RxStream} (same : ∀ x, (f x).core = x.core ∧ (f x).stream = x.stream) (xs : List RxStream) :
    (xs.map f).find? (fun x => decide (x.core = core ∧ x.stream = stream)) = (xs.find? (fun x => decide (x.core = core ∧ x.stream = stream))).map f := by
  rw [List.find?_map]
  congr 2
  funext x
  simp [same]

theorem Net.arrive_got_same (n : Net) (core stream : Nat) (bs : List Byte) :
    (n.arrive core stream bs []).got core stream = n.got core stream ++ bs := by
  unfold Net.arrive Net.got
  split
  case isTrue held =>
    obtain ⟨y, hy, named⟩ := List.any_eq_true.mp held
    have some_ : (n.rx.find? (fun x => decide (x.core = core ∧ x.stream = stream))).isSome = true := List.find?_isSome.mpr ⟨y, hy, named⟩
    obtain ⟨z, found⟩ := Option.isSome_iff_exists.mp some_
    have mine := of_decide_eq_true (List.find?_some (p := fun x : RxStream => decide (x.core = core ∧ x.stream = stream)) found)
    dsimp only
    rw [find?_map_named (fun x => by split <;> exact ⟨rfl, rfl⟩), found]
    simp [mine]
  case isFalse absent =>
    have unfound : n.rx.find? (fun x => decide (x.core = core ∧ x.stream = stream)) = none := by
      refine List.find?_eq_none.mpr fun x hx named => absent (List.any_eq_true.mpr ⟨x, hx, named⟩)
    dsimp only
    rw [List.find?_append, unfound]
    simp

theorem Net.arrive_got_other (n : Net) {core stream i j : Nat} (other : i ≠ core ∨ j ≠ stream) (bs : List Byte) :
    (n.arrive core stream bs []).got i j = n.got i j := by
  unfold Net.arrive Net.got
  split
  case isTrue =>
    dsimp only
    rw [find?_map_named (fun x => by split <;> exact ⟨rfl, rfl⟩)]
    cases found : n.rx.find? (fun x => decide (x.core = i ∧ x.stream = j)) with
    | none => rfl
    | some z =>
      have named := of_decide_eq_true (List.find?_some (p := fun x : RxStream => decide (x.core = i ∧ x.stream = j)) found)
      have apart : ¬(z.core = core ∧ z.stream = stream) := by
        rw [named.1, named.2]
        omega
      simp [apart]
  case isFalse =>
    have apart : ¬(core = i ∧ stream = j) := by omega
    dsimp only
    rw [List.find?_append]
    simp [apart]

/-- Payloads that arrive one after the other. -/
def Net.arrivals (n : Net) (core stream : Nat) (ps : List (List Byte × Nat)) : Net := ps.foldl (fun n x => n.arrive core stream x.1 []) n

theorem Net.arrivals_got_same (n : Net) (core stream : Nat) (ps : List (List Byte × Nat)) :
    (n.arrivals core stream ps).got core stream = n.got core stream ++ (ps.map (·.1)).flatten := by
  induction ps generalizing n with
  | nil => simp [Net.arrivals]
  | cons x ps ih =>
    refine (ih (n.arrive core stream x.1 [])).trans ?_
    rw [Net.arrive_got_same]
    simp

theorem Net.arrivals_got_other (n : Net) {core stream i j : Nat} (other : i ≠ core ∨ j ≠ stream) (ps : List (List Byte × Nat)) :
    (n.arrivals core stream ps).got i j = n.got i j := by
  induction ps generalizing n with
  | nil => rfl
  | cons x ps ih => exact (ih (n.arrive core stream x.1 [])).trans (n.arrive_got_other other x.1)

theorem Net.arrivals_upq (n : Net) (core stream : Nat) (ps : List (List Byte × Nat)) : (n.arrivals core stream ps).upq = n.upq :=
  List.foldlRecOn (motive := fun (m : Net) => m.upq = n.upq) ps _ rfl (fun m hm _ _ => (m.arrive_upq _ _ _ _).trans hm)

/-- The flits of a transfer to this module itself arrive here. -/
theorem Work.putFlits_here (w : Work) {fab : Fab} {sl : W128} (e : StepEvent) (kind : slotKind sl = 0) (here : slotDest sl = fab.member.toNat)
    (number : List Byte × Nat → Nat) (last : List Byte × Nat → Bool) (ps : List (List Byte × Nat)) :
    ps.foldl (fun w x => w.putFlit fab e sl (number x) (last x) x.1) w = { w with net := w.net.arrivals (bits sl 27 21) (bits sl 33 28) ps } := by
  induction ps generalizing w with
  | nil => rfl
  | cons x ps ih =>
    have first : w.putFlit fab e sl (number x) (last x) x.1 = { w with net := w.net.arrive (bits sl 27 21) (bits sl 33 28) x.1 [] } := by
      unfold Work.putFlit
      simp [kind, here, Fab.nextBond_self]
    rw [List.foldl_cons, first, ih]
    rfl

/-! ### The tile at the front of a stream -/

/-- A tile at the front of a stream whose slot is full, with its range free, is found. -/
theorem Work.peek_front {w : Work} {p : Plan} {a : At} {s n : Nat} (full : ((w.core a.core).slot s (mget (w.core a.core).used 0 s % (p.stream a.core s).slots)).phase = .full)
    (due : ((w.core a.core).slot s (mget (w.core a.core).used 0 s % (p.stream a.core s).slots)).since ≤ (w.useOf a false s 0).start)
    (free : (w.core a.core).blocked a.firing
      (((w.core a.core).window (p.stream a.core s).task).1 + (p.stream a.core s).slotOff (mget (w.core a.core).used 0 s % (p.stream a.core s).slots))
      (((w.core a.core).window (p.stream a.core s).task).1 + (p.stream a.core s).slotOff (mget (w.core a.core).used 0 s % (p.stream a.core s).slots) + n)
      false (w.useOf a false s 0).start = none)
    (fits : (p.stream a.core s).slotOff (mget (w.core a.core).used 0 s % (p.stream a.core s).slots) + n ≤ ((w.core a.core).window (p.stream a.core s).task).2)
    (sound : (w.core a.core).lsBad = []) :
    w.pull p a s n = .ok (w.consume1 p a s, {
      st := (w.core a.core).slot s (mget (w.core a.core).used 0 s % (p.stream a.core s).slots)
      bytes := (w.core a.core).ls.readN (((w.core a.core).window (p.stream a.core s).task).1 +
        (p.stream a.core s).slotOff (mget (w.core a.core).used 0 s % (p.stream a.core s).slots)) n }) := by
  have slots : ¬((p.stream a.core s).slots ≤ 0) := by
    unfold Stm.slots
    omega
  have read : w.lsRead a.core a.firing (p.stream a.core s).task ((p.stream a.core s).slotOff (mget (w.core a.core).used 0 s % (p.stream a.core s).slots)) n
      a.time = (w, (w.core a.core).ls.readN (((w.core a.core).window (p.stream a.core s).task).1 +
        (p.stream a.core s).slotOff (mget (w.core a.core).used 0 s % (p.stream a.core s).slots)) n) := by
    unfold Work.lsRead Core.badWords
    dsimp only
    rw [if_pos fits, sound]
    rfl
  unfold Work.pull Work.peek
  dsimp only
  rw [Nat.add_zero, if_neg (by simp [slots, full, due]), free, read]
  rfl

end Sys2Proof.Machine

namespace Sys2Proof.Machine

/-- A firing whose active set is noted. -/
theorem Work.pin_first {w : Work} (unpinned : w.run.sets = []) (a : At) :
    w.pin a = { w with run.sets := [(a.core, a.firing, w.run.activeSet.toNat)] } := by
  unfold Work.pin
  rw [unpinned]
  rfl

theorem Work.setOf_pinned {w : Work} {a : At} {set : Nat} (pinned : w.run.sets = [(a.core, a.firing, set)]) : w.setOf a = set := by
  unfold Work.setOf
  rw [pinned]
  simp

/-- A tile put into this module's own streams: all its flits arrive. -/
theorem putUnit_here {w : Work} {fab : Fab} {p : Plan} {r : Rec} {a : At} {sl : W128} {t : Taken} {v : Work} (one : r.count = 1)
    (unpinned : w.run.sets = []) (slot : (p.route w.run.activeSet.toNat).slots[r.param]? = some sl) (kind : slotKind sl = 0)
    (here : slotDest sl = fab.member.toNat)
    (credit : (w.pin a).noCredit fab p sl (8 + (p.tensor r.desc).slotUse) ((w.pin a).useOf a false r.srcA 0).start = false)
    (pulled : (w.pin a).pull p a r.srcA (p.tensor r.desc).slotUse = .ok (v, t)) (none : (v.progAt a).held = []) :
    ∃ f, putUnit fab p r a w 0 = .ok (({ v with
      net := (v.net.arrivals (bits sl 27 21) (bits sl 33 28) (payloads (toLE 8 t.st.mask.toNat ++ t.bytes)).zipIdx) } : Work).modCore a.core
        (fun c => c.modProg a.firing f)) ∧ ∀ y, (f y).idx = y.idx ∧ (f y).tags = y.tags := by
  have set : (w.pin a).setOf a = w.run.activeSet.toNat := by
    rw [Work.pin_first unpinned]
    exact Work.setOf_pinned rfl
  unfold putUnit
  dsimp only
  rw [set, slot]
  dsimp only
  rw [if_neg (by rw [credit]; exact Bool.false_ne_true), pulled]
  dsimp only
  rw [none, one]
  simp only [List.headD_nil, List.nil_append, Nat.zero_add, if_true, List.take_length]
  rw [Work.putFlits_here v _ kind here (fun x => x.2) (fun x => decide True && decide (x.2 + 1 = _))]
  exact ⟨_, rfl, fun y => ⟨rfl, rfl⟩⟩

end Sys2Proof.Machine

namespace Sys2Proof.Machine

/-- The moment of a use depends on the cores and the plan only. -/
theorem Work.useOf_congr {w v : Work} (cores : v.cores = w.cores) (plan : v.plan = w.plan) (a : At) (wr : Bool) (s j : Nat) :
    v.useOf a wr s j = w.useOf a wr s j := by
  have core := Work.core_congr cores a.core
  unfold Work.useOf Work.progAt Work.useNow
  rw [core, plan]

/-- So do the credits of a ring, on what has arrived too. -/
theorem Work.noCredit_congr {w v : Work} (slots : ∀ c, (v.core c).slots = (w.core c).slots) (net : v.net.rx = w.net.rx) (fab : Fab) (p : Plan) (sl : W128)
    (n t : Nat) : v.noCredit fab p sl n t = w.noCredit fab p sl n t := by
  have here := slots (bits sl 27 21)
  unfold Work.noCredit Work.credits Core.slot
  dsimp only
  generalize v.core (bits sl 27 21) = c at here ⊢
  generalize w.core (bits sl 27 21) = d at here ⊢
  simp only [net, here]

/-- Where nothing is queued for the uplinks and no dead clk show, a SEND leaves the rest of the module as it is. -/
theorem exec_put {core idx : Nat} {env : Env} {s : State} (quiet : quietEnv env = true) {w : Work} (sent : s.w.issue core idx env 8 1 (putJob s.fab) = w)
    (idle : w.net.upq = []) : exec (.put core idx env) s = .next { s with w := w } := by
  have dead : env.dead = 0 := by
    simp [quietEnv] at quiet
    exact quiet.2
  change execPut core idx env s = _
  unfold execPut State.injected
  rw [sent, dead]
  simp only [ne_eq, not_true_eq_false, and_false, if_false]
  exact congrArg Host.Outcome.next (State.uplinks_idle _ idle)

end Sys2Proof.Machine

namespace Sys2Proof.Machine

/-- What a stream's arrivals are after a TAKE of one whole tile. -/
def Net.taken (n : Net) (core stream : Nat) (z : RxStream) : Net :=
  { n with rx := n.rx.map (fun x => if x.core = core ∧ x.stream = stream then z else x) }

theorem Net.taken_got {n : Net} {core stream : Nat} {y z : RxStream} (found : n.rx.find? (fun x => decide (x.core = core ∧ x.stream = stream)) = some y)
    (same : z.core = core ∧ z.stream = stream) : (n.taken core stream z).got core stream = z.bytes := by
  have named := of_decide_eq_true (List.find?_some (p := fun x : RxStream => decide (x.core = core ∧ x.stream = stream)) found)
  have kept (x : RxStream) : (if x.core = core ∧ x.stream = stream then z else x).core = x.core ∧
      (if x.core = core ∧ x.stream = stream then z else x).stream = x.stream := by
    split
    · next h => exact ⟨same.1.trans h.1.symm, same.2.trans h.2.symm⟩
    · exact ⟨rfl, rfl⟩
  unfold Net.taken Net.got
  dsimp only
  rw [find?_map_named kept, found]
  simp [named]

/-- TAKE of a tile that has arrived whole as bytes, with room for it. -/
theorem takeUnit_whole {w : Work} {p : Plan} {r : Rec} {a : At} {y : RxStream}
    (found : w.net.rx.find? (fun x => decide (x.core = a.core ∧ x.stream = r.dst)) = some y) (bytes : y.tiles = [])
    (whole : 8 + (p.tensor r.desc).slotUse ≤ y.bytes.length) (room : w.room p a r.dst 0 (p.tensor r.desc).slotUse = none) :
    takeUnit p r a w 0 = .ok (({ w.pin a with net := w.net.taken a.core r.dst { y with bytes := y.bytes.drop (8 + (p.tensor r.desc).slotUse) } } : Work).push
      p a r.dst { mask := BitVec.ofNat 64 (leAt y.bytes 0 8), part := (p.tensor r.desc).firstPos (p.tensor r.desc).innerT 0 % 128 }
      ((y.bytes.drop 8).take (p.tensor r.desc).slotUse)) := by
  have rx : (w.pin a).net = w.net := by
    unfold Work.pin
    split <;> rfl
  have space : (w.pin a).room p a r.dst 0 (p.tensor r.desc).slotUse = none := by
    rw [← room]
    unfold Work.pin
    split <;> rfl
  have length : ((y.bytes.drop 8).take (p.tensor r.desc).slotUse).length = (p.tensor r.desc).slotUse := by
    rw [List.length_take, List.length_drop]
    omega
  have cut : cutUnit (p.tensor r.desc).slotUse y.bytes = some ((BitVec.ofNat 64 (leAt y.bytes 0 8), (y.bytes.drop 8).take (p.tensor r.desc).slotUse),
      y.bytes.drop (8 + (p.tensor r.desc).slotUse)) := if_pos whole
  unfold takeUnit
  dsimp only
  rw [rx, found]
  dsimp only [Option.getD_some]
  rw [bytes, cut]
  dsimp only
  rw [length, space]
  rfl

/-- TAKE with less than a tile arrived waits for its peer. -/
theorem takeUnit_short {w : Work} {p : Plan} {r : Rec} {a : At}
    (short : ∀ y, w.net.rx.find? (fun x => decide (x.core = a.core ∧ x.stream = r.dst)) = some y →
      y.tiles = [] ∧ y.bytes.length < 8 + (p.tensor r.desc).slotUse) : takeUnit p r a w 0 = .wait (w.pin a) .peer [] := by
  have rx : (w.pin a).net = w.net := by
    unfold Work.pin
    split <;> rfl
  unfold takeUnit
  dsimp only
  rw [rx]
  cases found : w.net.rx.find? (fun x => decide (x.core = a.core ∧ x.stream = r.dst)) with
  | none =>
    have cut : cutUnit (p.tensor r.desc).slotUse [] = none := if_neg (by simp)
    dsimp only [Option.getD_none]
    rw [cut]
  | some y =>
    obtain ⟨bytes, less⟩ := short y found
    have cut : cutUnit (p.tensor r.desc).slotUse y.bytes = none := if_neg (by omega)
    dsimp only [Option.getD_some]
    rw [bytes, cut]

end Sys2Proof.Machine

open Sys2Proof Sys2Proof.Machine

/-- Settles O52: the one tile step of PUT takes its tile (`Work.peek_front`, `Work.consume1_emptied`), whose flits arrive (`putUnit_here`); that of
TAKE fills its slot with what has arrived (`Work.push_filled`), or waits. -/
theorem tilesTravel : Obligations.TilesTravel := by
  intro core idx env p r s plan firing one untraced quiet ready new idle unpinned a n c got
  refine ⟨fun sl station op slot kind home => ?_, ?_⟩
  · intro m k at_ at1 full due free credit fits sound
    have start := Work.start_started (r := r) (t := (putJob s.fab p r a).times s.w) untraced quiet new
    have at1' : ((s.w.start core idx r env ((putJob s.fab p r a).times s.w)).useOf a false r.srcA 0).start = at1 := rfl
    have issued := Work.issue_runs plan firing (putJob s.fab) station op ready
    change _ = (s.w.start core idx r env ((putJob s.fab p r a).times s.w)).advance core idx (putJob s.fab p r a) at issued
    generalize s.w.start core idx r env ((putJob s.fab p r a).times s.w) = w at start at1' issued
    clear_value at1
    subst at1'
    obtain ⟨x0, here, pos, going, tags, held, -⟩ := start.here new
    have sets : w.run.sets = [] := (congrArg (fun w => w.run.sets) start.rest : _ = _).trans unpinned
    have active : w.run.activeSet = s.w.run.activeSet := (congrArg (fun w => w.run.activeSet) start.rest :)
    have pinned := w.pin_first sets a
    have cores : (w.pin a).cores = w.cores := by rw [pinned]
    have plan' : (w.pin a).plan = w.plan := by rw [pinned]
    have own : (w.pin a).core core = w.core core := Work.core_congr cores core
    have use : (w.pin a).useOf a false r.srcA 0 = w.useOf a false r.srcA 0 := Work.useOf_congr cores plan' a _ _ _
    have used : (w.core core).used = c.used := by rw [start.data]
    have slot' (st j : Nat) : (w.core core).slot st j = c.slot st j := by rw [start.data]; rfl
    have blocked (lo hi t : Nat) : (w.core core).blocked idx lo hi false t = c.blocked idx lo hi false t := by rw [start.data]; rfl
    have window (task : Nat) : (w.core core).window task = c.window task := by rw [start.data]; rfl
    have ls : (w.core core).ls = c.ls := by rw [start.data]
    have bad : (w.core core).lsBad = c.lsBad := by rw [start.data]
    have pulled := Work.peek_front (w := w.pin a) (p := p) (a := a) (s := r.srcA) (n := n) (by rw [own, used, slot']; exact full)
      (by rw [own, used, slot', use]; exact due) (by rw [own, used, window, use, blocked]; exact free) (by rw [own, used, window]; exact fits)
      (by rw [own, bad]; exact sound)
    rw [own, used, slot', window, ls] at pulled
    have emptied := (w.pin a).consume1_emptied p a r.srcA
    rw [show (w.pin a).core a.core = w.core core from own, used] at emptied
    generalize (w.pin a).consume1 p a r.srcA = v at pulled emptied
    obtain ⟨x1, stands, still⟩ := emptied.data.here (idx := idx) (x := x0) (by rw [own]; exact here)
    have usedNow := emptied.data.used
    have lsNow := emptied.data.ls
    dsimp only at usedNow lsNow
    rw [show (w.pin a).core a.core = w.core core from own, used] at usedNow
    rw [show (w.pin a).core a.core = w.core core from own, ls] at lsNow
    have none : (v.progAt a).held = [] := by
      unfold Work.progAt
      rw [show (v.core a.core).progOf a.firing = some x1 from stands]
      exact (congrArg Prog.held still).trans held
    have funds : (w.pin a).noCredit s.fab p sl (8 + n) ((w.pin a).useOf a false r.srcA 0).start = false := by
      have slots (j : Nat) : ((w.pin a).core j).slots = (s.w.core j).slots := by
        rw [Work.core_congr cores j]
        by_cases mine : j = core
        · rw [mine, start.data]
        · rw [start.other j mine]
      have rx : (w.pin a).net.rx = s.w.net.rx := by
        rw [pinned]
        exact (congrArg (fun w => w.net.rx) start.rest :)
      rw [use, Work.noCredit_congr slots rx]
      exact credit
    obtain ⟨f, step, stays⟩ := putUnit_here (fab := s.fab) one sets (by rw [active]; exact slot) kind home funds pulled none
    have goes : (putJob s.fab p r a).unit w 0 false = _ := step
    obtain ⟨g, finished, done⟩ := Work.advance_done here pos going one goes
    have rest : v = { w.pin a with cores := v.cores } := emptied.on.rest
    have net : v.net = s.w.net := by
      rw [rest, pinned]
      exact (congrArg Work.net start.rest :)
    have sent := issued.trans finished
    have queue : (v.net.arrivals (bits sl 27 21) (bits sl 33 28)
        (payloads (toLE 8 (c.slot r.srcA k).mask.toNat ++ c.ls.readN at_ n)).zipIdx).upq = [] := by
      rw [Net.arrivals_upq, net]
      exact idle
    have data : ((({ v with net := (v.net.arrivals (bits sl 27 21) (bits sl 33 28)
        (payloads (toLE 8 (c.slot r.srcA k).mask.toNat ++ c.ls.readN at_ n)).zipIdx) } : Work).modCore core (fun c => c.modProg idx f)).modCore core
          (fun c => c.modProg idx g)).core core = ((v.core core).modProg idx f).modProg idx g := by
      rw [Work.modCore_core, Work.modCore_core]
      rfl
    refine ⟨_, exec_put quiet sent queue, ?_, fun i j other => ?_, ?_, ?_, ?_, fun j hj => ?_, ?_, ?_, ⟨rfl, rfl, rfl, rfl⟩⟩
    · refine (v.net.arrivals_got_same _ _ _).trans ?_
      rw [net, List.zipIdx_map_fst, payloads_flatten, ← List.append_assoc]
      rfl
    · refine (v.net.arrivals_got_other other _).trans ?_
      rw [net]
      rfl
    · rw [data]
      exact emptied.slot
    · rw [data]
      change mget (v.core core).used 0 r.srcA = _
      rw [show (v.core core).used = _ from usedNow]
      exact mget_mset_same _ _ _ _
    · rw [data]
      exact lsNow
    · rw [Work.modCore_other _ _ hj, Work.modCore_other _ _ hj]
      exact (emptied.on.other j hj).trans ((Work.core_congr cores j).trans (start.other j hj))
    · have mem : v.mem = (w.pin a).mem := (congrArg Work.mem rest :)
      exact mem.trans (by rw [pinned]; exact start.mem)
    · have dev : v.dev = (w.pin a).dev := (congrArg Work.dev rest :)
      exact dev.trans (by rw [pinned]; exact (congrArg Work.dev start.rest :))
  · intro station op m k at_
    have start := Work.start_started (r := r) (t := {}) untraced quiet new
    have issued := Work.issue_runs plan firing takeJob station op ready
    change _ = (s.w.start core idx r env {}).advance core idx (takeJob p r a) at issued
    have ran : exec (.take core idx env) s = .next { s with w := (s.w.start core idx r env {}).advance core idx (takeJob p r a) } := by
      change execTake core idx env s = _
      unfold execTake
      rw [issued]
    generalize s.w.start core idx r env {} = w at start ran ⊢
    obtain ⟨x0, here, pos, going, tags, held, undone⟩ := start.here new
    have rx : w.net.rx = s.w.net.rx := (congrArg (fun w => w.net.rx) start.rest :)
    have pinned : (w.pin a).cores = w.cores ∧ (w.pin a).mem = w.mem ∧ (w.pin a).dev = w.dev ∧ (w.pin a).net = w.net := by
      unfold Work.pin
      split <;> exact ⟨rfl, rfl, rfl, rfl⟩
    obtain ⟨cores, mem, dev, net⟩ := pinned
    refine ⟨fun y found bytes enough room fits => ?_, fun short => ?_⟩
    · have step := takeUnit_whole (by rw [rx]; exact found) bytes enough room
      have cores' : (({ w.pin a with net := w.net.taken a.core r.dst { y with bytes := y.bytes.drop (8 + (p.tensor r.desc).slotUse) } } : Work).cores) =
        w.cores := cores
      have mem' : (({ w.pin a with net := w.net.taken a.core r.dst { y with bytes := y.bytes.drop (8 + (p.tensor r.desc).slotUse) } } : Work).mem) =
        w.mem := mem
      have dev' : (({ w.pin a with net := w.net.taken a.core r.dst { y with bytes := y.bytes.drop (8 + (p.tensor r.desc).slotUse) } } : Work).dev) =
        w.dev := dev
      have net' : (({ w.pin a with net := w.net.taken a.core r.dst { y with bytes := y.bytes.drop (8 + (p.tensor r.desc).slotUse) } } : Work).net) =
        w.net.taken a.core r.dst { y with bytes := y.bytes.drop (8 + (p.tensor r.desc).slotUse) } := rfl
      generalize ({ w.pin a with net := w.net.taken a.core r.dst { y with bytes := y.bytes.drop (8 + (p.tensor r.desc).slotUse) } } : Work) = u
        at step cores' mem' dev' net'
      have own : u.core core = w.core core := Work.core_congr cores' core
      have made : (u.core core).made = c.made := by rw [own, start.data]
      have window (task : Nat) : (u.core core).window task = c.window task := by rw [own, start.data]; rfl
      have length : ((y.bytes.drop 8).take n).length = n := by
        rw [List.length_take, List.length_drop]
        omega
      have filled := Work.push_filled (w := u) (p := p) (a := a) (s := r.dst) (bs := (y.bytes.drop 8).take n)
        { mask := BitVec.ofNat 64 (leAt y.bytes 0 8), part := (p.tensor r.desc).firstPos (p.tensor r.desc).innerT 0 % 128 }
        (by rw [made, window, length]; exact fits)
      rw [made, window] at filled
      have lsNow := filled.data.ls
      have madeNow := filled.data.made
      obtain ⟨late, full⟩ := filled.slot
      dsimp only at lsNow madeNow
      rw [show u.core a.core = _ from own, start.data] at lsNow
      rw [show (u.core a.core).made = c.made from made] at madeNow
      obtain ⟨f, finished, done⟩ := Work.advance_done here pos going (j := takeJob p r a) one step
      generalize u.push p a r.dst { mask := BitVec.ofNat 64 (leAt y.bytes 0 8), part := (p.tensor r.desc).firstPos (p.tensor r.desc).innerT 0 % 128 }
        ((y.bytes.drop 8).take (p.tensor r.desc).slotUse) = v at finished filled lsNow madeNow full
      have whole : ((v.modCore core (fun c => c.modProg idx f)).core core) = (v.core core).modProg idx f := Work.modCore_core _ _ _
      refine ⟨_, ran, ?_, fun b out => ?_, ?_, ?_, ?_, ?_, fun j hj => ?_, ?_, ?_, ⟨rfl, rfl, rfl, rfl⟩⟩
      · rw [finished, whole]
        change (v.core core).ls.readN at_ n = _
        rw [show (v.core core).ls = _ from lsNow]
        have back := Memory.readN_write c.ls at_ ((y.bytes.drop 8).take n)
        rw [length] at back
        exact back
      · rw [finished, whole]
        change (v.core core).ls.read b = _
        rw [show (v.core core).ls = _ from lsNow]
        exact Memory.read_write_out _ _ _ _ (by rw [length]; exact out)
      · rw [finished, whole]
        change ((v.core core).slot r.dst k).phase = _
        rw [full]
      · rw [finished, whole]
        change ((v.core core).slot r.dst k).mask.toNat = _
        rw [full]
        exact (BitVec.toNat_ofNat _ _).trans (Nat.mod_eq_of_lt (leAt_lt _ _ _))
      · rw [finished, whole]
        change mget (v.core core).made 0 r.dst = _
        rw [show (v.core core).made = _ from madeNow]
        exact mget_mset_same _ _ _ _
      · rw [finished]
        have net : v.net = u.net := (congrArg Work.net filled.on.rest :)
        refine (congrArg (fun n : Net => n.got core r.dst) (net.trans net')).trans ?_
        have named := of_decide_eq_true (List.find?_some (p := fun x : RxStream => decide (x.core = core ∧ x.stream = r.dst)) found)
        exact Net.taken_got (by rw [rx]; exact found) named
      · rw [finished]
        exact (Work.modCore_other _ _ hj).trans ((filled.on.other j hj).trans ((Work.core_congr cores' j).trans (start.other j hj)))
      · rw [finished]
        exact ((congrArg Work.mem filled.on.rest).trans (mem'.trans start.mem) :)
      · rw [finished]
        exact ((congrArg Work.dev filled.on.rest).trans (dev'.trans (congrArg Work.dev start.rest)) :)
    · have step := takeUnit_short (a := a) (p := p) (r := r) (w := w) (by rw [rx]; exact short)
      obtain ⟨f, finished, stands⟩ := Work.advance_waits here pos going (j := takeJob p r a) one step
      have data : ((w.pin a).modCore core (fun c => c.modProg idx f)).core core = (w.core core).modProg idx f := by
        rw [Work.modCore_core, Work.core_congr cores]
      refine ⟨_, f x0, ran, ?_, (stands x0).2.1, (stands x0).2.2.trans undone, ?_, ?_, ?_, ?_, ⟨rfl, rfl, rfl, rfl⟩⟩
      · rw [finished, data, Core.progOf_modProg _ (fun y => (stands y).1), here]
        rfl
      · rw [finished, data, start.data]
        rfl
      · rw [finished, data, start.data]
        rfl
      · rw [finished]
        exact net.trans (congrArg Work.net start.rest :)
      · rw [finished]
        exact mem.trans start.mem

end

section
/-!
Stores of tiles (O49).
-/

namespace Sys2Proof.Machine

/-! ### A station's stores in one region of local HBM -/

theorem Work.StoredAt.weaken {acc acc' : Acc} {g : Reg} {cs : List (Nat × Byte)} {w v : Work} (h : Work.StoredAt acc' g cs w v) (core : acc'.core = acc.core)
    (firing : acc'.firing = acc.firing) (seen : acc.seen ≤ acc'.seen) : Work.StoredAt acc g cs w v :=
  ⟨h.rest, fun l hl => (h.landed l hl).imp_right (fun mine => ⟨mine.1.trans core, mine.2.1.trans firing, seen.trans mine.2.2⟩), h.bytes⟩

section
variable {acc : Acc} {i : Nat} {g : Reg} (fab : Fab) (local_ : Reg.target g = 0)
include local_

/-- Runs of bytes written one after the other. -/
theorem Work.devWrites_storedAt {rs : List (Nat × List Byte)} : ∀ {w : Work} (ts : List Nat), w.noErrors → w.onlyOwn acc →
    (∀ r ∈ rs, ∀ j < r.2.length, w.permit (r.1 + j) true = some (i, g)) →
    ∃ v, rs.foldl (fun (wt : Work × List Nat) r =>
        let x := wt.1.devWrite fab acc r.1 r.2
        (x.1, wt.2 ++ x.2)) (w, ts) = (v, ts) ∧
      Work.StoredAt acc g (rs.flatMap (fun r => number r.1 r.2)) w v ∧ v.mem = rs.foldl (Reg.storedWrite g) w.mem := by
  induction rs with
  | nil => exact fun ts _ _ _ => ⟨_, rfl, .refl acc g _, rfl⟩
  | cons r rs ih =>
    intro w ts clean own inside
    obtain ⟨u, first, stored, mem⟩ := Work.devWrite_storedAt fab local_ clean own (inside r List.mem_cons_self)
    obtain ⟨v, rest, later, after⟩ := ih (w := u) ts (stored.noErrors clean) (stored.onlyOwn own)
      (fun q hq j hj => (stored.permit _ true).trans (inside q (List.mem_cons_of_mem _ hq) j hj))
    refine ⟨v, ?_, stored.trans later, ?_⟩
    · rw [List.foldl_cons, first]
      dsimp only
      rw [List.append_nil]
      exact rest
    · rw [after, mem, List.foldl_cons]

end

theorem joinPuts_addr {ps : List Put} {q : Put} (h : q ∈ joinPuts ps) : ∃ q' ∈ ps, q'.addr = q.addr := by
  induction ps generalizing q with
  | nil => exact absurd h List.not_mem_nil
  | cons a ps ih =>
    have later {x : Put} (hx : x ∈ joinPuts ps) : ∃ q' ∈ a :: ps, q'.addr = x.addr := by
      obtain ⟨q', mem, same⟩ := ih hx
      exact ⟨q', List.mem_cons_of_mem _ mem, same⟩
    unfold joinPuts at h
    split at h
    case h_1 =>
      obtain rfl := List.mem_singleton.mp h
      exact ⟨_, List.mem_cons_self, rfl⟩
    case h_2 b bs joined =>
      split at h
      · rcases List.mem_cons.mp h with rfl | rest
        · exact ⟨a, List.mem_cons_self, rfl⟩
        · exact later (by rw [joined]; exact List.mem_cons_of_mem _ rest)
      · rcases List.mem_cons.mp h with rfl | rest
        · exact ⟨_, List.mem_cons_self, rfl⟩
        · exact later (by rw [joined]; exact rest)

theorem putBytes_addr {rd : Nat → Byte} {ps : List Put} {c : Nat × Byte} (h : c ∈ putBytes rd ps) : ∃ q ∈ ps, q.addr = c.1 := by
  induction ps generalizing rd with
  | nil => exact absurd h List.not_mem_nil
  | cons a ps ih =>
    rcases List.mem_cons.mp h with rfl | later
    · exact ⟨a, List.mem_cons_self, rfl⟩
    · obtain ⟨q, mem, same⟩ := ih later
      exact ⟨q, List.mem_cons_of_mem _ mem, same⟩

/-- The bytes that stores leave stand at their addresses. -/
theorem stores_addr {rd : Nat → Byte} {ps : List Put} {c : Nat × Byte} (h : c ∈ putBytes rd (joinPuts ps)) : ∃ q ∈ ps, q.addr = c.1 := by
  obtain ⟨q, mem, same⟩ := putBytes_addr h
  obtain ⟨q', mem', same'⟩ := joinPuts_addr mem
  exact ⟨q', mem', same'.trans same⟩

section
variable {acc : Acc} {i : Nat} {g : Reg} (fab : Fab) (local_ : Reg.target g = 0)
include local_

theorem Work.devPuts_storedAt {w : Work} {ps : List Put} (clean : w.noErrors) (own : w.onlyOwn acc) (inside : ∀ q ∈ ps, w.permit q.addr true = some (i, g)) :
    ∃ v, w.devPuts fab acc ps = (v, []) ∧ Work.StoredAt acc g (putBytes w.heldByte (joinPuts ps)) w v ∧
      v.mem = (putRuns w.heldByte ps).foldl (Reg.storedWrite g) w.mem := by
  have cells := byteRuns_flatMap_number (putBytes w.heldByte (joinPuts ps))
  obtain ⟨v, ran, stored, mem⟩ := Work.devWrites_storedAt (acc := acc) (i := i) (rs := putRuns w.heldByte ps) fab local_ [] clean own (fun r hr j hj => by
    obtain ⟨b, listed⟩ := exists_mem_number (a := r.1) (x := r.1 + j) (bs := r.2) (Nat.le_add_right _ _) (by omega)
    have held : (r.1 + j, b) ∈ putBytes w.heldByte (joinPuts ps) := cells ▸ List.mem_flatMap.mpr ⟨r, hr, listed⟩
    obtain ⟨q, mem, same⟩ := stores_addr held
    rw [← show q.addr = r.1 + j from same]
    exact inside q mem)
  exact ⟨v, ran, cells ▸ stored, mem⟩

end

/-! ### Stores to different addresses -/

theorem joinPuts_apart {ps : List Put} (apart : ps.Pairwise (fun q q' => q.addr ≠ q'.addr)) : joinPuts ps = ps := by
  induction ps with
  | nil => rfl
  | cons a ps ih =>
    obtain ⟨first, rest⟩ := List.pairwise_cons.mp apart
    unfold joinPuts
    rw [ih rest]
    cases ps with
    | nil => rfl
    | cons b ps => exact if_neg (first b List.mem_cons_self)

/-- The byte that a store leaves of what was read at its address. -/
def Put.byte (rd : Nat → Byte) (q : Put) : Nat × Byte := (q.addr, BitVec.ofNat 8 (q.val ||| ((rd q.addr).toNat &&& (255 - q.mask))))

theorem putBytes_apart {ps : List Put} (apart : ps.Pairwise (fun q q' => q.addr ≠ q'.addr)) {rd rd' : Nat → Byte}
    (same : ∀ q ∈ ps, rd' q.addr = rd q.addr) : putBytes rd' ps = ps.map (Put.byte rd) := by
  induction ps generalizing rd' with
  | nil => rfl
  | cons a ps ih =>
    obtain ⟨first, rest⟩ := List.pairwise_cons.mp apart
    have head : (BitVec.ofNat 8 (a.val ||| ((rd' a.addr).toNat &&& (255 - a.mask)))) = (Put.byte rd a).2 := by
      rw [same a List.mem_cons_self]
      rfl
    unfold putBytes
    dsimp only
    rw [List.map_cons, head]
    refine congrArg ((a.addr, (Put.byte rd a).2) :: ·) (ih rest fun q hq => ?_)
    have old := same q (List.mem_cons_of_mem _ hq)
    split
    · exact old
    · dsimp only
      rw [if_neg (first q hq).symm]
      exact old

/-- Each store's byte stands at its address afterwards. -/
theorem Work.devPuts_read {w : Work} {acc : Acc} {ps : List Put} {i : Nat} {g : Reg} (fab : Fab) (clean : w.noErrors) (own : w.onlyOwn acc)
    (local_ : Reg.target g = 0) (inside : ∀ q ∈ ps, w.permit q.addr true = some (i, g)) (apart : ps.Pairwise (fun q q' => q.addr ≠ q'.addr))
    {q : Put} (hq : q ∈ ps) : (w.devPuts fab acc ps).1.mem.hbm.read (Reg.target! g q.addr) = (Put.byte w.heldByte q).2 := by
  obtain ⟨v, ran, stored, -⟩ := Work.devPuts_storedAt (i := i) fab local_ clean own inside
  rw [joinPuts_apart apart, putBytes_apart apart (fun _ _ => rfl)] at stored
  have targets : (ps.map (Put.byte w.heldByte)).Pairwise (fun c d => Reg.target! g c.1 ≠ Reg.target! g d.1) := by
    refine List.pairwise_map.mpr (List.Pairwise.imp_of_mem (fun ha hb differ same => ?_) apart)
    exact differ (Reg.target!_inj (Work.permit_base (inside _ ha)) (Work.permit_base (inside _ hb)) same)
  rw [ran]
  exact (stored.bytes _).trans (cellsAt_of_mem targets (List.mem_map_of_mem hq) _)

/-! ### The rows of a tile stored -/

theorem Work.heldByte_congr {u v : Work} (mem : v.mem = u.mem) (plan : v.plan = u.plan) : v.heldByte = u.heldByte := by
  funext a
  unfold Work.heldByte Work.permit Work.regionByte
  rw [mem, plan]

section
variable {acc : Acc} {i : Nat} {g : Reg} (fab : Fab) (local_ : Reg.target g = 0) {of_ : Nat → Acc} (core : ∀ m, (of_ m).core = acc.core)
  (firing : ∀ m, (of_ m).firing = acc.firing) (seen : ∀ m, acc.seen ≤ (of_ m).seen)
include local_ core firing seen

theorem Work.devRows_storedAt {rows : List (List Put)} : ∀ (k : Nat) {w : Work} (ts : List Nat), w.noErrors → w.onlyOwn acc →
    (∀ ps ∈ rows, ∀ q ∈ ps, w.permit q.addr true = some (i, g)) →
    ∃ v cs, (rows.zipIdx k).foldl (fun (wt : Work × List Nat) ps =>
        let x := wt.1.devPuts fab (of_ ps.2) ps.1
        (x.1, wt.2 ++ x.2)) (w, ts) = (v, ts) ∧
      Work.StoredAt acc g cs w v ∧ ∀ c ∈ cs, ∃ ps ∈ rows, ∃ q ∈ ps, q.addr = c.1 := by
  induction rows with
  | nil => exact fun k w ts _ _ _ => ⟨w, [], rfl, .refl acc g w, fun _ h => absurd h List.not_mem_nil⟩
  | cons ps rows ih =>
    intro k w ts clean own inside
    have own' : w.onlyOwn (of_ k) := fun l hl => ⟨(own l hl).1.trans (core k).symm, (own l hl).2.trans (firing k).symm⟩
    obtain ⟨u, first, stored, -⟩ := Work.devPuts_storedAt (i := i) fab local_ clean own' (inside ps List.mem_cons_self)
    have mine := stored.weaken (core k) (firing k) (seen k)
    obtain ⟨v, cs, rest, later, named⟩ := ih (k + 1) (w := u) ts (mine.noErrors clean) (mine.onlyOwn own)
      (fun qs hq q hm => (mine.permit _ true).trans (inside qs (List.mem_cons_of_mem _ hq) q hm))
    refine ⟨v, _, ?_, mine.trans later, fun c hc => ?_⟩
    · rw [List.zipIdx_cons, List.foldl_cons]
      dsimp only
      rw [first]
      dsimp only
      rw [List.append_nil]
      exact rest
    · rcases List.mem_append.mp hc with here | there
      · obtain ⟨q, held, same⟩ := stores_addr here
        exact ⟨ps, List.mem_cons_self, q, held, same⟩
      · obtain ⟨qs, listed, q, held, same⟩ := named c there
        exact ⟨qs, List.mem_cons_of_mem _ listed, q, held, same⟩

/-- What rows leave in memory depends on memory and the plan only. -/
theorem Work.devRows_mem_congr {rows : List (List Put)} : ∀ (k : Nat) {u v : Work} (ts ts' : List Nat), v.mem = u.mem → v.plan = u.plan → u.noErrors →
    u.onlyOwn acc → v.onlyOwn acc → (∀ ps ∈ rows, ∀ q ∈ ps, u.permit q.addr true = some (i, g)) →
    ((rows.zipIdx k).foldl (fun (wt : Work × List Nat) ps =>
        let x := wt.1.devPuts fab (of_ ps.2) ps.1
        (x.1, wt.2 ++ x.2)) (v, ts')).1.mem =
      ((rows.zipIdx k).foldl (fun (wt : Work × List Nat) ps =>
        let x := wt.1.devPuts fab (of_ ps.2) ps.1
        (x.1, wt.2 ++ x.2)) (u, ts)).1.mem := by
  induction rows with
  | nil => exact fun k u v ts ts' mem _ _ _ _ _ => mem
  | cons ps rows ih =>
    intro k u v ts ts' mem plan clean ownU ownV inside
    have own' {w : Work} (own : w.onlyOwn acc) : w.onlyOwn (of_ k) :=
      fun l hl => ⟨(own l hl).1.trans (core k).symm, (own l hl).2.trans (firing k).symm⟩
    have cleanV : v.noErrors := by
      unfold Work.noErrors
      rw [mem]
      exact clean
    have same (a : Nat) : v.permit a true = u.permit a true := by
      unfold Work.permit
      rw [plan]
    have inside' := inside ps List.mem_cons_self
    obtain ⟨u', firstU, storedU, memU⟩ := Work.devPuts_storedAt (i := i) fab local_ clean (own' ownU) inside'
    obtain ⟨v', firstV, storedV, memV⟩ := Work.devPuts_storedAt (i := i) fab local_ cleanV (own' ownV) (fun q hq => (same _).trans (inside' q hq))
    have mineU := storedU.weaken (core k) (firing k) (seen k)
    have mineV := storedV.weaken (core k) (firing k) (seen k)
    have planU : u'.plan = u.plan := (congrArg Work.plan storedU.rest :)
    have planV : v'.plan = v.plan := (congrArg Work.plan storedV.rest :)
    rw [List.zipIdx_cons, List.foldl_cons, List.foldl_cons]
    dsimp only
    rw [firstU, firstV]
    dsimp only
    refine ih (k + 1) _ _ ?_ (planV.trans (plan.trans planU.symm)) (mineU.noErrors clean) (mineU.onlyOwn ownU) (mineV.onlyOwn ownV)
      (fun qs hq q hm => (mineU.permit _ true).trans (inside qs (List.mem_cons_of_mem _ hq) q hm))
    rw [memU, memV, Work.heldByte_congr mem plan, mem]

end

end Sys2Proof.Machine

namespace Sys2Proof.Machine

/-- STORE COPY_OUT of a tile at the front of its stream, without a packing or an outlier descriptor. -/
theorem storeUnit_front {w v : Work} {fab : Fab} {p : Plan} {r : Rec} {a : At} {t : Taken} (plain : (p.tensor r.desc).outlier = false)
    (pulled : w.pull p a r.srcA ((p.tensor r.desc).tf.bytes + (p.tensor r.desc).sideBytes) = .ok (v, t)) :
    storeUnit fab p r a w 0 = .ok ((v.devRows fab (w.storeAcc p r a 0) ((p.tensor r.desc).tilePuts (p.tensor r.desc).innerT r.param
        (unpackTile (p.tensor r.desc).tf t.bytes) ++ [[]])).1.awaits a
      (v.devRows fab (w.storeAcc p r a 0) ((p.tensor r.desc).tilePuts (p.tensor r.desc).innerT r.param
        (unpackTile (p.tensor r.desc).tf t.bytes) ++ [[]])).2) := by
  unfold storeUnit
  dsimp only
  rw [pulled, plain]
  rfl

theorem Work.storeAcc_seen (w : Work) (p : Plan) (r : Rec) (a : At) (j m : Nat) : (w.useOf a false r.srcA j).start + 511 ≤ (w.storeAcc p r a j m).seen := by
  unfold Work.storeAcc
  dsimp only
  omega

/-- A row without stores stores nothing. -/
theorem Work.devRows_snoc_nil (w : Work) (fab : Fab) (of_ : Nat → Acc) (rows : List (List Put)) :
    w.devRows fab of_ (rows ++ [[]]) = w.devRows fab of_ rows := by
  unfold Work.devRows
  rw [List.zipIdx_append, List.foldl_append]
  simp [Work.devPuts, putRuns, joinPuts, putBytes, byteRuns]

end Sys2Proof.Machine

open Sys2Proof Sys2Proof.Machine

/-- Settles O49: the one tile step of the firing takes its tile (`Work.peek_front`, `Work.consume1_emptied`) and stores its rows
(`Work.devRows_storedAt`). -/
theorem tilesStored : Obligations.TilesStored := by
  refine ⟨?_, fun w fab acc ps i g clean seen local_ inside apart q hq =>
    Work.devPuts_read fab clean (fun l hl => absurd (seen ▸ hl) List.not_mem_nil) local_ inside apart hq⟩
  intro core idx env p r s plan firing station op one untraced quiet ready new clean unremapped seen a T m c k n at_ bytes rows w at1 dense plain full due free
    fits sound i g local_ inside
  have start : Work.Started core idx (s.w.clkOf env.clk) s.w w := Work.start_started untraced quiet new _
  have issued := Work.issue_runs plan firing (storeJob s.fab) station op ready
  change _ = w.advance core idx (storeJob s.fab p r a) at issued
  have ran : exec (.copyOut core idx env) s = .next { s with w := w.advance core idx (storeJob s.fab p r a) } := by
    change execCopyOut core idx env s = _
    unfold execCopyOut
    rw [issued]
  have at1' : (w.useOf a false r.srcA 0).start = at1 := rfl
  clear_value w at1
  subst at1'
  obtain ⟨x0, here, pos, going, tags, -, -⟩ := start.here new
  have used : (w.core core).used = c.used := by rw [start.data]
  have slot' (st j : Nat) : (w.core core).slot st j = c.slot st j := by rw [start.data]; rfl
  have blocked (lo hi t : Nat) : (w.core core).blocked idx lo hi false t = c.blocked idx lo hi false t := by rw [start.data]; rfl
  have window (task : Nat) : (w.core core).window task = c.window task := by rw [start.data]; rfl
  have ls : (w.core core).ls = c.ls := by rw [start.data]
  have cells : (w.core core).cells = c.cells := by rw [start.data]
  have bad : (w.core core).lsBad = c.lsBad := by rw [start.data]
  have pulled := Work.peek_front (w := w) (p := p) (a := a) (s := r.srcA) (n := n) (by rw [used, slot']; exact full)
    (by rw [used, slot']; exact due) (by rw [used, window, blocked]; exact free) (by rw [used, window]; exact fits) (by rw [bad]; exact sound)
  rw [used, slot', window, ls] at pulled
  have emptied := w.consume1_emptied p a r.srcA
  rw [used] at emptied
  generalize w.consume1 p a r.srcA = v at pulled emptied
  have unlanded : w.run.landed = [] := List.eq_nil_iff_forall_not_mem.mpr fun l hl => absurd (seen ▸ start.landed l hl) List.not_mem_nil
  have lsNow := emptied.data.ls
  have usedNow := emptied.data.used
  have cellsNow := emptied.data.cells
  dsimp only at lsNow usedNow cellsNow
  rw [show (w.core a.core).ls = c.ls from ls] at lsNow
  rw [show (w.core a.core).used = c.used from used] at usedNow
  rw [show (w.core a.core).cells = c.cells from cells] at cellsNow
  have mem : v.mem = w.mem := (congrArg Work.mem emptied.on.rest :)
  have plan' : v.plan = w.plan := (congrArg Work.plan emptied.on.rest :)
  have run : v.run = w.run := (congrArg Work.run emptied.on.rest :)
  have begun : w.noErrors := by
    unfold Work.noErrors
    rw [start.mem]
    exact clean
  have unlisted : v.noErrors := by
    unfold Work.noErrors
    rw [mem]
    exact begun
  have permit (addr : Nat) : v.permit addr true = s.w.permit addr true := by
    rw [← start.permit]
    unfold Work.permit
    rw [plan']
  obtain ⟨acc, hacc⟩ : ∃ acc : Acc, acc = { core := core, firing := idx, desc := r.desc, time := a.time, seen := (w.useOf a false r.srcA 0).start + 511 } := ⟨_, rfl⟩
  have core' (m : Nat) : (w.storeAcc p r a 0 m).core = acc.core := by rw [hacc]; rfl
  have firing' (m : Nat) : (w.storeAcc p r a 0 m).firing = acc.firing := by rw [hacc]; rfl
  have seen' (m : Nat) : acc.seen ≤ (w.storeAcc p r a 0 m).seen := by rw [hacc]; exact w.storeAcc_seen p r a 0 m
  have ownW : w.onlyOwn acc := fun l hl => absurd (unlanded ▸ hl) List.not_mem_nil
  have ownV : v.onlyOwn acc := fun l hl => absurd (unlanded ▸ run ▸ hl) List.not_mem_nil
  have alike : (v.devRows s.fab (w.storeAcc p r a 0) rows).1.mem = (w.devRows s.fab (w.storeAcc p r a 0) rows).1.mem :=
    Work.devRows_mem_congr (i := i) s.fab local_ core' firing' seen' 0 [] [] mem plan' begun ownW ownV
      (fun ps hps q hq => (start.permit _ _).trans (inside ps hps q hq))
  obtain ⟨u, cs, stores, stored, named⟩ := Work.devRows_storedAt (acc := acc) (i := i) (rows := rows) s.fab local_ core' firing' seen' 0 [] unlisted ownV
    (fun ps hps q hq => (permit _).trans (inside ps hps q hq))
  have rowsStored : v.devRows s.fab (w.storeAcc p r a 0) rows = (u, []) := stores
  have step : (storeJob s.fab p r a).unit w 0 false = .ok u := by
    change (if (p.tensor r.desc).twoFour then _ else _) = _
    rw [if_neg (by rw [show (p.tensor r.desc).twoFour = false from dense]; exact Bool.false_ne_true), storeUnit_front plain pulled, Work.devRows_snoc_nil,
      show v.devRows s.fab (w.storeAcc p r a 0) (_ : List (List Put)) = _ from rowsStored]
    rfl
  obtain ⟨f, finished, done⟩ := Work.advance_done here pos going one step
  have data : (u.modCore core (fun c => c.modProg idx f)).core core = (v.core core).modProg idx f := by
    rw [Work.modCore_core, Work.core_congr (show u.cores = v.cores from (congrArg Work.cores stored.rest :))]
  refine ⟨_, ran, ?_, fun l hl => ?_, fun pa out => ?_, ?_, ?_, ?_, ?_, fun j hj => ?_, ?_, ?_, ⟨rfl, rfl, rfl, rfl⟩⟩
  · rw [finished, ← alike, rowsStored]
    rfl
  · rw [finished] at hl
    rcases stored.landed l hl with old | ⟨mine, its, late⟩
    · exact absurd (unlanded ▸ run ▸ old) List.not_mem_nil
    · rw [hacc] at mine its late
      exact ⟨mine, its, late⟩
  · rw [finished]
    refine (stored.bytes pa).trans ((cellsAt_other (fun cell hc => ?_) _).trans ?_)
    · obtain ⟨ps, hps, q, hq, same⟩ := named cell hc
      rw [← same]
      exact out ps hps q hq
    · rw [mem, start.mem]
  · rw [finished, data]
    exact emptied.slot
  · rw [finished, data]
    change mget (v.core core).used 0 r.srcA = _
    rw [show (v.core core).used = _ from usedNow]
    exact mget_mset_same _ _ _ _
  · rw [finished, data]
    exact lsNow
  · rw [finished, data]
    exact cellsNow
  · rw [finished, Work.modCore_other _ _ hj]
    exact (Work.core_congr (show u.cores = v.cores from (congrArg Work.cores stored.rest :)) j).trans ((emptied.on.other j hj).trans (start.other j hj))
  · rw [finished]
    have runU : u.run = { v.run with landed := u.run.landed } := (congrArg Work.run stored.rest :)
    have runW : w.run = { s.w.run with landed := w.run.landed } := (congrArg Work.run start.rest :)
    change u.run = { s.w.run with landed := u.run.landed }
    rw [run, runW] at runU
    exact runU
  · rw [finished]
    have dev : u.dev = v.dev := (congrArg Work.dev stored.rest :)
    have devV : v.dev = w.dev := (congrArg Work.dev emptied.on.rest :)
    have devW : w.dev = s.w.dev := (congrArg Work.dev start.rest :)
    exact dev.trans (devV.trans devW)

end

section
/-!
Memory commands (O20).
-/

namespace Sys2Proof.Machine

/-! ### What the memory commands leave (R278 to R286, R551 to R553) -/

theorem Work.cmdReads_accessed (w : Work) (rs : List (Nat × Nat)) : w.Accessed (w.cmdReads rs) := by
  unfold Work.cmdReads
  refine .foldl (fun v r => ?_) w _
  split
  · exact v.readEffects_accessed _ _ _
  · exact .refl v

theorem Work.cmdPuts_accessed (w : Work) (ps : List Put) : w.Accessed (w.cmdPuts ps) := by
  unfold Work.cmdPuts
  exact .foldl (fun v (r : Nat × List Byte) => v.cmdWrite_accessed r.1 r.2) w _

theorem Work.spoil_accessed (w : Work) (addr n : Nat) : w.Accessed (w.spoil addr n) := by
  unfold Work.spoil
  split
  · exact .refl w
  · split
    · exact .refl w
    · split
      · exact .of_blocks w _ w.rel
      · exact .refl w

theorem Work.see_accessed (w : Work) (env : Env) : w.Accessed { w with mem := w.mem.see env } :=
  .of_blocks w _ w.rel

theorem Work.copy_accessed (w : Work) (a b : Tensor) : w.Accessed (w.copy a b).1 := by
  have read := w.cmdReads_accessed [(a.base, a.extent)]
  exact (read.trans (.foldl (fun v (t : List Put × Nat) => v.cmdPuts_accessed t.1) _ _)).trans (Work.spoil_accessed _ _ _)

/-- Two work states that differ in logical cores below `n` alone. -/
structure Work.CoresBelow (n : Nat) (w v : Work) : Prop where
  rest : v = { w with cores := v.cores }
  beyond : ∀ c, n ≤ c → v.core c = w.core c

theorem Work.CoresBelow.refl (n : Nat) (w : Work) : w.CoresBelow n w := ⟨rfl, fun _ _ => rfl⟩

theorem Work.CoresBelow.trans {n : Nat} {a b c : Work} (h : a.CoresBelow n b) (k : b.CoresBelow n c) : a.CoresBelow n c := by
  refine ⟨?_, fun i hi => (k.beyond i hi).trans (h.beyond i hi)⟩
  rw [k.rest, h.rest]

theorem Work.modCore_below (w : Work) {n k : Nat} (f : Core → Core) (hk : k < n) : w.CoresBelow n (w.modCore k f) :=
  ⟨rfl, fun c hc => w.modCore_other f (by omega)⟩

/-- A copy is staged through logical cores 0 to 63; nothing else changes but how many values were drawn (R284). -/
theorem Work.bounce_below (w : Work) : ∃ v, w.CoresBelow 64 v ∧ w.bounce = { v with mem.draws := w.mem.draws + 64 } := by
  refine ⟨_, ?_, rfl⟩
  refine List.foldlRecOn _ _ (.refl 64 w) (fun v hv k hk => hv.trans ?_)
  exact v.modCore_below _ (List.mem_range.mp hk)

/-- A memory command's work, from the state in which it has its slot: memory, what is sent, the log and cores may change. -/
structure Work.Worked (w v : Work) : Prop where
  plan : v.plan = w.plan
  scales : v.scales = w.scales
  cad : v.cad = w.cad
  run : v.run = w.run
  cum : v.cum = w.cum
  stages : v.stages = w.stages
  net : v.net = w.net
  trace : v.trace = w.trace
  dev : w.dev.SameButLog v.dev

theorem Work.Accessed.worked {w v : Work} (h : w.Accessed v) : w.Worked v := by
  obtain ⟨⟨cad, -, plan, run, scales, cum, stages, net, trace⟩, dev, -⟩ := h
  exact ⟨plan, scales, cad, run, cum, stages, net, trace, dev⟩

/-- Cores changed after the work, and the count of drawn values. -/
theorem Work.Worked.cores {w v : Work} (h : w.Worked v) (cores : SMap Core) (mem : MemSys) : w.Worked { v with cores := cores, mem := mem } :=
  ⟨h.plan, h.scales, h.cad, h.run, h.cum, h.stages, h.net, h.trace, h.dev⟩

/-- A memory command's answer once its work is done: its record waits in its slot, whose number the reply gives. -/
def State.jobAnswer (s : State) (v : Work) (k status : Nat) (body : List Byte) : Answer :=
  { s := { s with w := v.job k status body }, status := stOk, result := toLE 2 k }

/-- The state after that answer's reply. -/
def State.jobTaken (s : State) (v : Work) (k status ring : Nat) (body : List Byte) : State :=
  (s.jobAnswer v k status body).s.reply ring stOk (toLE 2 k)

/-- What a memory command leaves behind but memory and cores. -/
structure State.JobTaken (s t : State) (k op : Nat) (j : MemJob) : Prop where
  jobs : t.w.dev.jobs = s.w.dev.jobs ++ [j]
  waits : ∃ r, mget t.w.dev.results none k = some r ∧ r.ready = false ∧ r.opcode = BitVec.ofNat 16 op
  kept : t.w.plan = s.w.plan ∧ t.w.scales = s.w.scales ∧ t.w.cad = s.w.cad ∧ t.w.run = s.w.run ∧
    t.w.cum = s.w.cum ∧ t.w.stages = s.w.stages ∧ t.w.net = s.w.net ∧ t.w.trace = s.w.trace ∧ s.SameBlocks t

theorem State.jobTaken_spec (s : State) {v : Work} {k ring op : Nat} (h : (s.w.takeSlot k ring op).Worked v) (status : Nat)
    (body : List Byte) :
    s.JobTaken (s.jobTaken v k status ring body) k op { slot := k, status := BitVec.ofNat 8 status, body := body } := by
  have reply := Work.reply_same (v.job k status body) ring stOk (toLE 2 k)
  refine ⟨?_, ?_, reply.plan.trans h.plan, reply.scales.trans h.scales, reply.cad.trans h.cad, reply.run.trans h.run,
    reply.cum.trans h.cum, reply.stages.trans h.stages, reply.net.trans h.net, reply.trace.trans h.trace, rfl, rfl, rfl, rfl⟩
  · rw [State.jobTaken, State.reply_w, Work.reply_dev_jobs]
    change v.dev.jobs ++ _ = _
    rw [h.dev]
    rfl
  · refine ⟨{ ring := ring, opcode := BitVec.ofNat 16 op, tag := BitVec.ofNat 32 (leAt (s.w.dev.taken ring) 4 4) }, ?_, rfl, rfl⟩
    rw [State.jobTaken, State.reply_w, Work.reply_dev_results]
    change mget v.dev.results none k = _
    rw [h.dev.results]
    exact mget_mset_same _ _ _ _

theorem State.jobTaken_hbm (s : State) (v : Work) (k status ring : Nat) (body : List Byte) :
    (s.jobTaken v k status ring body).w.mem.hbm = v.mem.hbm := Work.reply_hbm _ _ _ _

theorem State.jobTaken_peers (s : State) (v : Work) (k status ring : Nat) (body : List Byte) :
    (s.jobTaken v k status ring body).w.mem.peers = v.mem.peers := Work.reply_peers _ _ _ _

theorem State.jobTaken_cores (s : State) (v : Work) (k status ring : Nat) (body : List Byte) :
    (s.jobTaken v k status ring body).w.cores = v.cores := Work.reply_cores _ _ _ _

/-- After a copy that is staged or not. -/
theorem State.copyTaken_spec (s : State) {u : Work} {k ring op : Nat} (copied : (s.w.takeSlot k ring op).Accessed u) (staged : Bool)
    (status : Nat) (body : List Byte) :
    let t := s.jobTaken (if staged then u.bounce else u) k status ring body
    t.w.mem.hbm = u.mem.hbm ∧ t.w.mem.peers = u.mem.peers ∧ (staged = false → t.w.cores = s.w.cores) ∧
      (∀ c, 64 ≤ c → t.w.core c = s.w.core c) ∧
      s.JobTaken t k op { slot := k, status := BitVec.ofNat 8 status, body := body } := by
  intro t
  have before : u.cores = s.w.cores := copied.access.cores
  obtain ⟨x, below, bounced⟩ := u.bounce_below
  cases staged with
  | false =>
    have cores : t.w.cores = u.cores := s.jobTaken_cores _ _ _ _ _
    exact ⟨s.jobTaken_hbm _ _ _ _ _, s.jobTaken_peers _ _ _ _ _, fun _ => cores.trans before,
      fun c _ => Work.core_congr (cores.trans before) c, s.jobTaken_spec copied.worked _ _⟩
  | true =>
    have staging : u.bounce = { u with cores := x.cores, mem := { u.mem with draws := u.mem.draws + 64 } } := by rw [bounced, below.rest]
    have cores : t.w.cores = u.bounce.cores := s.jobTaken_cores _ _ _ _ _
    refine ⟨(s.jobTaken_hbm _ _ _ _ _).trans ?_, (s.jobTaken_peers _ _ _ _ _).trans ?_, nofun, fun c hc => ?_, s.jobTaken_spec ?_ _ _⟩
    · rw [if_pos rfl, staging]
    · rw [if_pos rfl, staging]
    · have after : t.w.core c = x.core c := Work.core_congr (cores.trans (by rw [staging])) c
      exact after.trans ((below.beyond c hc).trans (Work.core_congr before c))
    · rw [if_pos rfl, staging]
      exact copied.worked.cores _ _

section
variable {s : State} {ring src dst : Nat} {env : Env} (on : s.w.dev.state ∈ [DevState.standby, .joined, .loaded])
include on

/-- MEM_COPY of a bad pair of descriptors. -/
theorem State.memCopy_bad (bad : s.w.copyBad (s.w.cmdDesc ring src) (s.w.cmdDesc ring dst) = true) :
    exec (.memCopy ring src dst env) s = .next (s.reply ring stBadDescriptor []) := by
  change execMemCopy ring src dst env s = _
  unfold execMemCopy
  refine congrArg Host.Outcome.next (State.command_answers on (by decide) (a := s.refuse stBadDescriptor) (if_pos bad))

/-- MEM_COPY with a free slot. -/
theorem State.memCopy_taken {k : Nat} (good : s.w.copyBad (s.w.cmdDesc ring src) (s.w.cmdDesc ring dst) = false)
    (free : s.w.dev.freeSlot = some k) :
    let a := tensor (s.w.cmdDesc ring src)
    let b := tensor (s.w.cmdDesc ring dst)
    let w0 : Work := { s.w.takeSlot k ring 0x0300 with mem := s.w.mem.see env }
    let ok := w0.reaches [(a.base, a.extent)] false && w0.reaches [(b.base, b.extent)] true
    let staged := overlaps a b && !swapsInPlace (s.w.cmdDesc ring src) (s.w.cmdDesc ring dst)
    exec (.memCopy ring src dst env) s = .next (s.jobTaken (if staged then (w0.copy a b).1.bounce else (w0.copy a b).1) k
      (if ok then stOk else stXlateFault) ring (toLE 8 (w0.copy a b).2)) := by
  intro a b w0 ok staged
  change execMemCopy ring src dst env s = _
  unfold execMemCopy
  refine congrArg Host.Outcome.next ((State.command_answers on (by decide)
    ((if_neg (by rw [good]; decide)).trans (s.withSlot_free ring 0x0300 k _ free))).trans ?_)
  rfl

end

/-- Whether a command's operands lie in regions that permit the access rests on the plan alone. -/
theorem Work.reaches_congr {w v : Work} (h : v.plan = w.plan) : v.reaches = w.reaches := by
  have permit : v.permit = w.permit := by
    funext a wr
    unfold Work.permit
    rw [h]
  have region : v.cmdRegion = w.cmdRegion := by
    funext a wr
    unfold Work.cmdRegion
    rw [h, permit]
  funext rs wr
  unfold Work.reaches Work.cmdExtentOk
  rw [region]

/-- The stores of the values of a gap-coded tensor. -/
def Tensor.gapPuts (d : Tensor) (vals : List Nat) : List Put :=
  vals.zipIdx.flatMap (fun v =>
    let at_ := d.addr v.2
    if d.fmt.bits = 4 then (if v.2 % 2 = 0 then [⟨at_, 0x0F, v.1 % 16⟩] else [⟨at_, 0xF0, v.1 % 16 * 16⟩])
    else (toLE (d.fmt.bits / 8) v.1).zipIdx.map (fun b => ⟨at_ + b.2, 0xFF, b.1.toNat⟩))

/-- The gap-coded form written (R537 to R539, R551). -/
def Work.packGap (w : Work) (a d : Tensor) (mt : Meta) (g : GapOut) : Work :=
  let u := ((w.cmdReads [(a.base, a.extent)]).cmdWrite mt.base g.codes).cmdWrite mt.rowidx g.index
  (((u.cmdPuts (d.gapPuts g.vals)).spoil d.base (d.fmt.dataOff g.vals.length)).spoil mt.base g.codes.length).spoil mt.rowidx g.index.length

theorem Work.packGap_accessed (w : Work) (a d : Tensor) (mt : Meta) (g : GapOut) : w.Accessed (w.packGap a d mt g) := by
  have coded := ((w.cmdReads_accessed [(a.base, a.extent)]).trans (Work.cmdWrite_accessed _ mt.base g.codes)).trans
    (Work.cmdWrite_accessed _ mt.rowidx g.index)
  have stored := coded.trans (Work.cmdPuts_accessed _ (d.gapPuts g.vals))
  exact ((stored.trans (Work.spoil_accessed _ _ _)).trans (Work.spoil_accessed _ _ _)).trans (Work.spoil_accessed _ _ _)

/-- The tiles of a 2:4 destination written (R540 to R547). -/
def Work.pack24 (w : Work) (a d : Tensor) (mt need : Nat) (tiles : List (List Put × Nat × Nat)) : Work :=
  ((tiles.foldl (fun w t => w.cmdPuts t.1) (w.cmdReads [(a.base, a.extent)])).spoil d.base d.stored.extent).spoil mt need

theorem Work.pack24_accessed (w : Work) (a d : Tensor) (mt need : Nat) (tiles : List (List Put × Nat × Nat)) :
    w.Accessed (w.pack24 a d mt need tiles) := by
  have stored := (w.cmdReads_accessed [(a.base, a.extent)]).trans
    (.foldl (fun v (t : List Put × Nat × Nat) => v.cmdPuts_accessed t.1) _ tiles)
  exact (stored.trans (Work.spoil_accessed _ _ _)).trans (Work.spoil_accessed _ _ _)

/-- SPARSE_PACK into gap-coded form, once its descriptors are found good. -/
def State.packGap (s : State) (ring : Nat) (env : Env) (a d : Tensor) (mt : Meta) : Answer :=
  let seen : Work := { s.w with mem := s.w.mem.see env }
  let g := seen.gapOut a
  if mt.bytes < g.codes.length ∨ seen.reaches [(mt.base, g.codes.length), (mt.rowidx, g.index.length),
      (d.base, d.fmt.dataOff g.vals.length)] true = false then s.refuse stBadDescriptor
  else s.withSlot ring 0x0301 (fun s k =>
    let w : Work := { s.w with mem := s.w.mem.see env }
    { s with w := ((w.packGap a d mt g).job k (if w.reaches [(a.base, a.extent)] false then stOk else stXlateFault)
        (toLE 8 0 ++ toLE 8 g.vals.length ++ toLE 8 g.codes.length)) })

/-- SPARSE_PACK into 2:4 form, once its descriptors are found good. -/
def State.pack24 (s : State) (ring : Nat) (env : Env) (a d : Tensor) (mt : Meta) : Answer :=
  let seen : Work := { s.w with mem := s.w.mem.see env }
  let need := d.stored.maxElem / 4 + 1
  if mt.bytes < need ∨ seen.reaches [(mt.base, need), (d.base, d.stored.extent)] true = false then s.refuse stBadDescriptor
  else s.withSlot ring 0x0301 (fun s k =>
    let w : Work := { s.w with mem := s.w.mem.see env }
    let tiles := (List.range (d.stored.tiles false)).map (w.packTile24 a d mt.base)
    let pruned := (tiles.map (·.2.1)).sum
    { s with w := (((w.pack24 a d mt.base need tiles).count 0 .spPruned pruned).job k
        (if !w.reaches [(a.base, a.extent)] false then stXlateFault else if pruned = 0 then stOk else stOkPruned)
        (toLE 8 pruned ++ toLE 8 (tiles.map (·.2.2)).sum ++ toLE 8 need)) })

/-- SPARSE_PACK by the form of its destination. -/
theorem State.sparsePack_eq (s : State) (ring src dst ext : Nat) (env : Env) :
    exec (.sparsePack ring src dst ext env) s = .next (s.command ring [.standby, .joined, .loaded] (fun s =>
      if packBad (s.w.cmdDesc ring src) (s.w.cmdDesc ring dst) (s.w.cmdDesc ring ext) then s.refuse stBadDescriptor
      else if (tensor (s.w.cmdDesc ring dst)).sparse = 3 then
        s.packGap ring env (tensor (s.w.cmdDesc ring src)) (tensor (s.w.cmdDesc ring dst)) (metaOf (s.w.cmdDesc ring ext))
      else s.pack24 ring env (tensor (s.w.cmdDesc ring src)) (tensor (s.w.cmdDesc ring dst)) (metaOf (s.w.cmdDesc ring ext)))) := rfl

section
variable {s : State} {k : Nat} {env : Env} {a d : Tensor} {mt : Meta} (ring : Nat)

/-- Gap-coded form whose output fits. -/
theorem State.packGap_taken {g : GapOut} (form : g = ({ s.w with mem := s.w.mem.see env } : Work).gapOut a) (free : s.w.dev.freeSlot = some k)
    (fits : g.codes.length ≤ mt.bytes)
    (reach : s.w.reaches [(mt.base, g.codes.length), (mt.rowidx, g.index.length), (d.base, d.fmt.dataOff g.vals.length)] true = true) :
    ∃ v st, (s.w.takeSlot k ring 0x0301).Accessed v ∧ (st = stXlateFault ∨ st = stOk) ∧
      s.packGap ring env a d mt = s.jobAnswer v k st (toLE 8 0 ++ toLE 8 g.vals.length ++ toLE 8 g.codes.length) := by
  unfold State.packGap
  extract_lets held seen g'
  have plan : seen.reaches = s.w.reaches := Work.reaches_congr rfl
  have same : g' = g := form.symm
  rw [plan, same, if_neg (not_or.mpr ⟨Nat.not_lt.mpr fits, ne_false_of_eq_true reach⟩), s.withSlot_free ring 0x0301 k _ free]
  refine ⟨_, _, (Work.see_accessed _ env).trans (Work.packGap_accessed _ a d mt g), ?_, rfl⟩
  split
  · exact .inr rfl
  · exact .inl rfl

/-- Gap-coded form whose output does not fit, or does not lie in regions that permit it. -/
theorem State.packGap_large {g : GapOut} (form : g = ({ s.w with mem := s.w.mem.see env } : Work).gapOut a)
    (large : mt.bytes < g.codes.length ∨
      s.w.reaches [(mt.base, g.codes.length), (mt.rowidx, g.index.length), (d.base, d.fmt.dataOff g.vals.length)] true = false) :
    s.packGap ring env a d mt = s.refuse stBadDescriptor := by
  unfold State.packGap
  extract_lets held seen g'
  have plan : seen.reaches = s.w.reaches := Work.reaches_congr rfl
  have same : g' = g := form.symm
  rw [plan, same, if_pos large]

/-- 2:4 form whose output does not fit, or does not lie in regions that permit it. -/
theorem State.pack24_large {need : Nat} (form : need = d.stored.maxElem / 4 + 1)
    (large : mt.bytes < need ∨ s.w.reaches [(mt.base, need), (d.base, d.stored.extent)] true = false) :
    s.pack24 ring env a d mt = s.refuse stBadDescriptor := by
  unfold State.pack24
  extract_lets held seen need'
  have plan : seen.reaches = s.w.reaches := Work.reaches_congr rfl
  have same : need' = need := form.symm
  rw [plan, same, if_pos large]

/-- 2:4 form whose output fits. -/
theorem State.pack24_taken {need : Nat} (form : need = d.stored.maxElem / 4 + 1) (free : s.w.dev.freeSlot = some k) (fits : need ≤ mt.bytes)
    (reach : s.w.reaches [(mt.base, need), (d.base, d.stored.extent)] true = true) :
    ∃ v st pruned written, (s.w.takeSlot k ring 0x0301).Accessed v ∧
      (st = stXlateFault ∨ (st = stOk ∧ pruned = 0) ∨ (st = stOkPruned ∧ 0 < pruned)) ∧
      s.pack24 ring env a d mt = s.jobAnswer (v.count 0 .spPruned pruned) k st (toLE 8 pruned ++ toLE 8 written ++ toLE 8 need) := by
  unfold State.pack24
  extract_lets held seen need'
  have plan : seen.reaches = s.w.reaches := Work.reaches_congr rfl
  have same : need' = need := form.symm
  rw [plan, same, if_neg (not_or.mpr ⟨Nat.not_lt.mpr fits, ne_false_of_eq_true reach⟩), s.withSlot_free ring 0x0301 k _ free]
  refine ⟨_, _, _, _, (Work.see_accessed _ env).trans (Work.pack24_accessed _ a d mt.base need _), ?_, rfl⟩
  split
  · exact .inl rfl
  · split
    next none => exact .inr (.inl ⟨rfl, none⟩)
    next some => exact .inr (.inr ⟨rfl, Nat.pos_of_ne_zero some⟩)

end

section
variable {s : State} {ring src dst ext : Nat} {env : Env} (on : s.w.dev.state ∈ [DevState.standby, .joined, .loaded])
include on

/-- SPARSE_PACK of bad descriptors. -/
theorem State.sparsePack_bad (bad : packBad (s.w.cmdDesc ring src) (s.w.cmdDesc ring dst) (s.w.cmdDesc ring ext) = true) :
    exec (.sparsePack ring src dst ext env) s = .next (s.reply ring stBadDescriptor []) := by
  rw [State.sparsePack_eq]
  exact congrArg Host.Outcome.next (State.command_answers on (by decide) (a := s.refuse stBadDescriptor) (if_pos bad))

variable (good : packBad (s.w.cmdDesc ring src) (s.w.cmdDesc ring dst) (s.w.cmdDesc ring ext) = false)
include good

/-- SPARSE_PACK of good descriptors into gap-coded form. -/
theorem State.sparsePack_gap (form : (tensor (s.w.cmdDesc ring dst)).sparse = 3) {r : Answer}
    (answer : s.packGap ring env (tensor (s.w.cmdDesc ring src)) (tensor (s.w.cmdDesc ring dst)) (metaOf (s.w.cmdDesc ring ext)) = r) :
    exec (.sparsePack ring src dst ext env) s = .next (r.s.reply ring r.status r.result) := by
  rw [State.sparsePack_eq]
  exact congrArg Host.Outcome.next (State.command_answers on (by decide)
    ((if_neg (Bool.eq_false_iff.mp good)).trans ((if_pos form).trans answer)))

/-- SPARSE_PACK of good descriptors into 2:4 form. -/
theorem State.sparsePack_24 (form : (tensor (s.w.cmdDesc ring dst)).sparse ≠ 3) {r : Answer}
    (answer : s.pack24 ring env (tensor (s.w.cmdDesc ring src)) (tensor (s.w.cmdDesc ring dst)) (metaOf (s.w.cmdDesc ring ext)) = r) :
    exec (.sparsePack ring src dst ext env) s = .next (r.s.reply ring r.status r.result) := by
  rw [State.sparsePack_eq]
  exact congrArg Host.Outcome.next (State.command_answers on (by decide)
    ((if_neg (Bool.eq_false_iff.mp good)).trans ((if_neg form).trans answer)))

end

/-! ### MEMORY_COMMAND_DONE (R280, R553, R987, R994) -/

theorem State.memoryCommandDone_job {s : State} {k : Nat} {j : MemJob} (found : s.w.dev.jobs.find? (fun j => j.slot = k) = some j)
    (on : s.pwr.paused = false) :
    exec (.memoryCommandDone k) s = .next (State.finish { s with w := { s.w with dev := { s.w.dev with jobs := s.w.dev.jobs.erase j } } }
      k j.status.toNat j.body) := by
  change execMemoryCommandDone k s = _
  unfold execMemoryCommandDone
  rw [on, found]
  rfl

theorem State.memoryCommandDone_paused {s : State} (k : Nat) (h : s.pwr.paused = true) : exec (.memoryCommandDone k) s = .next s := by
  change execMemoryCommandDone k s = _
  unfold execMemoryCommandDone
  rw [h]
  rfl

end Sys2Proof.Machine

open Sys2Proof Sys2Proof.Machine

/-- Settles O20: each command ends in `State.jobTaken` (`State.memCopy_taken`, `State.packGap_taken`, `State.pack24_taken`) or in its
refusal; `State.jobTaken_spec` says what stays, and `State.copyTaken_spec` what a staged copy changes. -/
theorem memoryCommands : Obligations.MemoryCommands := by
  unfold Obligations.MemoryCommands
  refine ⟨fun ring src dst ext k env s on => ⟨fun good free => ?_, State.memCopy_bad on, State.sparsePack_bad on⟩,
    fun k s => ⟨fun j found running => ⟨State.memoryCommandDone_job found running, fun r held => ?_⟩, State.memoryCommandDone_paused k⟩,
    fun ring src dst ext k env s on good free => ⟨fun form fits reach => ?_, fun form fits reach => ?_, ?_⟩⟩
  · intro a b w0 r ok staged
    refine ⟨_, State.memCopy_taken on good free, ?_⟩
    have copied : (s.w.takeSlot k ring 0x0300).Accessed r.1 := (Work.see_accessed _ env).trans (w0.copy_accessed a b)
    obtain ⟨hbm, peers, plain, beyond, jobs, waits, kept⟩ := s.copyTaken_spec copied staged (if ok then stOk else stXlateFault) (toLE 8 r.2)
    exact ⟨hbm, peers, jobs, waits, plain, beyond, kept⟩
  · obtain ⟨v, hv⟩ : ∃ v : State, v = { s with w := { s.w with dev := { s.w.dev with jobs := s.w.dev.jobs.erase j } } } := ⟨_, rfl⟩
    have byte : BitVec.ofNat 8 j.status.toNat = j.status := by simp
    obtain ⟨mine, others⟩ := v.w.finish_results k j.status.toNat j.body r (by rw [hv]; exact held)
    refine ⟨_, State.memoryCommandDone_job found running, ?_⟩
    rw [← hv]
    refine ⟨mine.trans (by rw [byte]), fun i hi => (others i hi).trans (by rw [hv]), (Work.finish_dev_jobs _ _ _ _).trans (by rw [hv]),
      (Work.finish_hbm _ _ _ _).trans (by rw [hv]), (Work.finish_cores _ _ _ _).trans (by rw [hv]), ?_, ?_, ?_, ?_⟩
    all_goals rw [hv]; rfl
  · obtain ⟨v, st, pruned, written, worked, status, answer⟩ := State.pack24_taken (env := env) ring rfl free fits reach
    have counted := worked.worked.cores (v.count 0 .spPruned pruned).cores v.mem
    obtain ⟨jobs, waits, kept⟩ := s.jobTaken_spec counted st _
    have cores := s.jobTaken_cores (v.count 0 .spPruned pruned) k st ring
    have before (c : Nat) : v.core c = s.w.core c := Work.core_congr worked.access.cores c
    refine ⟨_, pruned, written, st, State.sparsePack_24 on good form answer, jobs, status, waits, ?_, fun c hc => ?_, kept⟩
    · exact (Work.core_congr (cores _) 0).trans ((v.modCore_core 0 _).trans (congrArg (Core.count · .spPruned pruned) (before 0)))
    · exact (Work.core_congr (cores _) c).trans ((v.modCore_other _ hc).trans (before c))
  · obtain ⟨v, st, worked, status, answer⟩ := State.packGap_taken ring rfl free fits reach
    obtain ⟨jobs, waits, kept⟩ := s.jobTaken_spec worked.worked st _
    exact ⟨_, st, State.sparsePack_gap on good form answer, jobs, status, waits, (s.jobTaken_cores _ _ _ _ _).trans worked.access.cores, kept⟩
  · rintro (⟨form, large⟩ | ⟨form, large⟩)
    · exact State.sparsePack_24 on good form (r := s.refuse stBadDescriptor) (State.pack24_large ring rfl large)
    · exact State.sparsePack_gap on good form (r := s.refuse stBadDescriptor) (State.packGap_large ring rfl large)

end
